-- ==== Sys2Proof/Word.lean ====
section
/-!
DEFINITION. The byte of the model and the plainest arithmetic on bit patterns.
A register field, an address and an encoded number are held as a natural number below 2 to the power of its width;
the functions here are the only places where a width is cut (R1: little-endian everywhere but in published protocols).
-/
namespace Sys2Proof

/-- One byte. -/
abbrev Byte := BitVec 8

/-- The low `w` bits of `n`. -/
def lowBits (w n : Nat) : Nat := n % 2 ^ w

/-- Bits `[hi:lo]` of `n`, both ends included, as the spec writes a bit range. -/
def bitsOf (n hi lo : Nat) : Nat := n / 2 ^ lo % 2 ^ (hi + 1 - lo)

/-- Bit `i` of `n`. -/
def bitOf (n i : Nat) : Bool := n.testBit i

/-- A Boolean as one bit. -/
def bit (b : Bool) : Nat := if b then 1 else 0

/-- `n` read as a two's-complement number of `w` bits. -/
def signedOf (w n : Nat) : Int :=
  if n % 2 ^ w < 2 ^ (w - 1) then (n % 2 ^ w : Nat) else ((n % 2 ^ w : Nat) : Int) - (2 ^ w : Nat)

/-- The two's-complement pattern of `i` in `w` bits. -/
def patternOf (w : Nat) (i : Int) : Nat := (i % (2 ^ w : Nat)).toNat

end Sys2Proof
end

