-- ==== Sys2Proof/Machine/Bits.lean ====
section
/-!
DEFINITION. Little-endian bytes and numbers (R1), and small helpers over byte strings and lists.
-/
namespace Sys2Proof.Machine

/-- The `n` bytes of `v`, least significant first (R1). -/
def leBytes : Nat → Nat → List Byte
  | 0, _ => []
  | n + 1, v => BitVec.ofNat 8 v :: leBytes n (v / 256)

/-- The number that bytes spell, least significant first (R1). -/
def leNat : List Byte → Nat
  | [] => 0
  | b :: r => b.toNat + 256 * leNat r

/-- `len` bytes of `l` from byte `off`; bytes past its end read as 0. -/
def sliceBytes (l : List Byte) (off len : Nat) : List Byte :=
  let r := (l.drop off).take len
  r ++ List.replicate (len - r.length) 0

/-- The little-endian number in `len` bytes of `l` at `off`. -/
def leAt (l : List Byte) (off len : Nat) : Nat := leNat (sliceBytes l off len)

/-- A byte string of numbers. -/
def bytesOf (l : List Nat) : List Byte := l.map (BitVec.ofNat 8)

/-- Whether every byte is 0. -/
def allZero (l : List Byte) : Bool := l.all (· == 0)

/-- `l` cut into pieces of `n`, with fuel for the number of pieces. -/
def chunksOf {α : Type} (n : Nat) : Nat → List α → List (List α)
  | 0, _ => []
  | _ + 1, [] => []
  | k + 1, l => l.take n :: chunksOf n k (l.drop n)

/-- The binary32 words of a byte string, and the bytes of words. -/
def wordsOf (l : List Byte) : List Nat := (chunksOf 4 (l.length / 4) l).map leNat
def wordBytes (l : List Nat) : List Byte := l.flatMap (leBytes 4)

/-- `l` with element `i` replaced by `f` of it. -/
def modifyAt {α : Type} (f : α → α) : Nat → List α → List α
  | _, [] => []
  | 0, x :: r => f x :: r
  | n + 1, x :: r => x :: modifyAt f n r

/-- The first element that satisfies `p`, and the list without it. -/
def takeFirst {α : Type} (p : α → Bool) : List α → Option (α × List α)
  | [] => none
  | x :: r => if p x then some (x, r) else (takeFirst p r).map fun q => (q.1, x :: q.2)

/-- A number put into an ascending list. -/
def insertAsc (x : Nat) : List Nat → List Nat
  | [] => [x]
  | y :: r => if x ≤ y then x :: y :: r else y :: insertAsc x r

/-- Whether two spans `[a, a + m)` and `[b, b + n)` share an element. -/
def spansMeet (a m b n : Nat) : Bool := decide (a < b + n) && decide (b < a + m)

/-- `n` rounded up to a multiple of `k`. -/
def roundUp (n k : Nat) : Nat := (n + k - 1) / k * k

end Sys2Proof.Machine
end

