-- ==== Sys2Proof/Machine/Crypto.lean ====
section
/-!
DEFINITION. SHA3-256 of FIPS 202 (R203), the CRCs of R266 and R355 and the keyed generator of R345, each computed.
-/
namespace Sys2Proof.Machine

/-! SHA3-256: the state is a list of 25 lanes of 64 bits, lane (x, y) at x + 5y. -/

def mask64 : Nat := 2 ^ 64 - 1
def rotl64 (v n : Nat) : Nat := ((v <<< n) ||| (v >>> (64 - n))) &&& mask64

/-- The register that makes the round constants: `n` steps from `r` of the 8-bit shift register with feedback 0x71 (FIPS 202, 3.2.5). -/
def iotaRegister (r : Nat) : Nat → Nat
  | 0 => r
  | n + 1 => iotaRegister (if r < 128 then 2 * r else (2 * r) % 256 ^^^ 0x71) n

/-- The constant of round `i`: bit 2^j - 1 is the register's low bit after 7i + j steps. -/
def iotaWord (i : Nat) : Nat := ((List.range 7).map fun j => iotaRegister 1 (7 * i + j) % 2 * 2 ^ (2 ^ j - 1)).sum

def iotaWords : List Nat := (List.range 24).map iotaWord

/-- The rotation of the lane at place `p`, found on the walk from place `x + 5 y` to place `y + 5 (2 x + 3 y)`: the `t`-th stop turns by
t (t + 1) / 2, and the lane at place 0 does not turn (FIPS 202, 3.2.2). -/
def rhoOn (p x y t : Nat) : Nat → Nat
  | 0 => 0
  | n + 1 => if p = x + 5 * y then t * (t + 1) / 2 % 64 else rhoOn p y ((2 * x + 3 * y) % 5) (t + 1) n

def rhoTurns : List Nat := (List.range 25).map fun p => rhoOn p 1 0 1 24

def lane (a : List Nat) (x y : Nat) : Nat := a.getD (x % 5 + 5 * (y % 5)) 0

/-- One round: theta, rho and pi, chi, iota. -/
def keccakRound (a : List Nat) (rc : Nat) : List Nat :=
  let c := (List.range 5).map fun x =>
    (List.range 5).foldl (fun s y => s ^^^ lane a x y) 0
  let d := (List.range 5).map fun x => c.getD ((x + 4) % 5) 0 ^^^ rotl64 (c.getD ((x + 1) % 5) 0) 1
  let t := (List.range 25).map fun i => a.getD i 0 ^^^ d.getD (i % 5) 0
  -- the lane that lands at (x, y) comes from (x + 3y, x)
  let b := (List.range 25).map fun i =>
    let x := i % 5
    let y := i / 5
    let j := (x + 3 * y) % 5 + 5 * x
    rotl64 (t.getD j 0) (rhoTurns.getD j 0)
  let e := (List.range 25).map fun i =>
    let x := i % 5
    let y := i / 5
    lane b x y ^^^ ((mask64 ^^^ lane b (x + 1) y) &&& lane b (x + 2) y)
  match e with
  | h :: r => (h ^^^ rc) :: r
  | [] => []

def keccakF (a : List Nat) : List Nat := iotaWords.foldl keccakRound a

/-- One block of 136 bytes taken into the state. -/
def sha3Absorb (a : List Nat) (block : List Byte) : List Nat :=
  keccakF (a.zipIdx.map fun e => if e.2 < 17 then e.1 ^^^ leAt block (8 * e.2) 8 else e.1)

/-- The message with its padding: 0x06, zeros, and the top bit of the last byte, to a multiple of 136 bytes. -/
def sha3Pad (m : List Byte) : List Byte :=
  let k := 136 - m.length % 136
  m ++ (if k = 1 then [0x86#8] else 0x06#8 :: (List.replicate (k - 2) 0#8 ++ [0x80#8]))

/-- The SHA3-256 hash, 32 bytes. -/
def sha3 (m : List Byte) : List Byte :=
  let p := sha3Pad m
  let a := (chunksOf 136 (p.length / 136) p).foldl sha3Absorb (List.replicate 25 0)
  (a.take 4).flatMap (leBytes 8)

/-- A fold over bytes that evaluates its number at each of them. -/
def foldBytes (f : Nat → Byte → Nat) : Nat → List Byte → Nat
  | c, [] => c
  | 0, b :: l => foldBytes f (f 0 b) l
  | c + 1, b :: l => foldBytes f (f (c + 1) b) l

/-! CRC-64/ECMA-182: not reflected, initial value 0, no final XOR (R355). -/

def crc64Step (c : Nat) : Nat → Nat
  | 0 => c
  | n + 1 =>
    let c' := if c.testBit 63 then ((c <<< 1) &&& mask64) ^^^ 0x42F0E1EBA9EA3693 else c <<< 1
    crc64Step c' n

def crc64Byte (c : Nat) (b : Byte) : Nat := crc64Step (c ^^^ (b.toNat <<< 56)) 8

def crc64From (c : Nat) (l : List Byte) : Nat := foldBytes crc64Byte c l

def crc64 (l : List Byte) : Nat := crc64From 0 l

/-! CRC-32C (Castagnoli), reflected, initial value and final XOR of all ones (R266). -/

def crc32cStep (c : Nat) : Nat → Nat
  | 0 => c
  | n + 1 => crc32cStep (if c % 2 = 1 then (c >>> 1) ^^^ 0x82F63B78 else c >>> 1) n

def crc32c (l : List Byte) : Nat :=
  0xFFFFFFFF ^^^ foldBytes (fun c b => crc32cStep (c ^^^ b.toNat) 8) 0xFFFFFFFF l

/-! The keyed generator of R345: ten rounds over two keys and four words. -/

def keyedRounds : Nat → Nat → Nat → Nat → Nat → Nat → Nat → Nat
  | 0, x0, _, _, _, _, _ => x0
  | n + 1, x0, x1, x2, x3, k0, k1 =>
    let p := 0xD2511F53 * x0
    let q := 0xCD9E8D57 * x2
    keyedRounds n (q / 2 ^ 32 ^^^ x1 ^^^ k0) (q % 2 ^ 32) (p / 2 ^ 32 ^^^ x3 ^^^ k1) (p % 2 ^ 32)
      ((k0 + 0x9E3779B9) % 2 ^ 32) ((k1 + 0xBB67AE85) % 2 ^ 32)

/-- The 32-bit word for a seed, a step and an index (R345). -/
def keyedWord (seed step index : Nat) : Nat :=
  keyedRounds 10 (index % 2 ^ 32) (index / 2 ^ 32 % 2 ^ 32) (step % 2 ^ 32) (step / 2 ^ 32 % 2 ^ 32)
    (seed % 2 ^ 32) (seed / 2 ^ 32 % 2 ^ 32)

end Sys2Proof.Machine
end

