-- ==== Sys2Proof/Machine/Frames.lean ====
section
/-!
DEFINITION. Flits, what they carry, and their words on a port's lanes (spec 09_ring_ports.md R265 to R267, R272, R285, R296;
08_step_commit.md R245).
-/
namespace Sys2Proof.Machine

/-- A flit header's fields (R266) but for the CRC, which `flitBytes` computes from the rest. -/
structure Header where
  seq : Nat := 0
  gkind : Nat := 0
  srcPos : Nat := 0
  added : Nat := 0
  ring : Nat := 0
  phase : Nat := 0
  nan : Bool := false
  last : Bool := false
  attempt : Nat := 0
  offset : Nat := 0
  step : Nat := 0
  digest : Nat := 0
  epoch : Nat := 0
  channel : Nat := 0
  job : Nat := 0
  type : Nat := 0
  deriving DecidableEq, Repr

/-- A data flit: header and 120 words of payload. -/
structure Flit where
  hdr : Header
  payload : List Nat
  deriving DecidableEq, Repr

/-- A step frame (R245): header and payload fields. -/
structure StepFrame where
  type : Nat
  attempt : Nat := 0
  originPos : Nat := 0
  originRing : Nat := 0
  step : Nat := 0
  cause : Nat := 0
  detail : Nat := 0
  committed : Nat := 0
  isOpen : Bool := false
  causePos : Nat := 0
  causeRing : Nat := 0
  epoch : Nat := 0
  digest : Nat := 0
  deriving DecidableEq, Repr

/-- Codes of R245's TYPE. -/
def frameREADY : Nat := 1
def frameFAIL : Nat := 2
def frameCOMMIT : Nat := 3
def frameABORT : Nat := 4
def frameADONE : Nat := 5
def framePOLL : Nat := 6
def framePOLLREPLY : Nat := 7

/-- The header of a flit as a number of 256 bits, the CRC field 0 (R266). -/
def Header.word (h : Header) : Nat :=
  h.seq % 2 ^ 16 * 2 ^ 208 + h.gkind % 4 * 2 ^ 206 + h.srcPos % 64 * 2 ^ 200 + h.added % 128 * 2 ^ 192 + h.ring % 2 * 2 ^ 183
    + h.phase % 2 * 2 ^ 182 + bit h.nan * 2 ^ 181 + bit h.last * 2 ^ 180 + h.attempt % 16 * 2 ^ 176
    + h.offset % 2 ^ 40 * 2 ^ 136 + h.step % 2 ^ 32 * 2 ^ 104 + h.digest % 2 ^ 64 * 2 ^ 40 + h.epoch % 2 ^ 16 * 2 ^ 24
    + h.channel % 64 * 2 ^ 16 + h.job % 4096 * 16 + h.type % 16

/-- A header read from 256 bits (R266). -/
def Header.ofWord (w : Nat) : Header :=
  { seq := bitsOf w 223 208, gkind := bitsOf w 207 206, srcPos := bitsOf w 205 200, added := bitsOf w 198 192,
    ring := bitsOf w 183 183, phase := bitsOf w 182 182, nan := bitOf w 181, last := bitOf w 180,
    attempt := bitsOf w 179 176, offset := bitsOf w 175 136, step := bitsOf w 135 104, digest := bitsOf w 103 40,
    epoch := bitsOf w 39 24, channel := bitsOf w 21 16, job := bitsOf w 15 4, type := bitsOf w 3 0 }

/-- A flit's 512 bytes: header and payload, with the CRC-32C of all of them in the header's CRC field (R266). -/
def flitBytes (h : Header) (payload : List Byte) : List Byte :=
  leBytes 32 (h.word + crc32c (leBytes 32 h.word ++ payload) * 2 ^ 224) ++ payload

/-- Whether a flit's CRC matches its bytes (R267). -/
def crcOk (b : List Byte) : Bool := leAt b 28 4 == crc32c (b.take 28 ++ List.replicate 4 0 ++ b.drop 32)

/-- The header of a flit's bytes. -/
def headerOf (b : List Byte) : Header := Header.ofWord (leAt b 0 32)

/-- A data flit's bytes, and the data flit that bytes are. -/
def Flit.bytes (f : Flit) : List Byte := flitBytes f.hdr (wordBytes f.payload)
def Flit.ofBytes (b : List Byte) : Flit := ⟨headerOf b, wordsOf (b.drop 32)⟩

/-- The 480 payload bytes of a step frame (R245). -/
def StepFrame.payload (f : StepFrame) : List Byte :=
  leBytes 1 f.type ++ leBytes 1 f.attempt ++ leBytes 1 f.originPos ++ leBytes 1 f.originRing ++ leBytes 8 f.step
    ++ leBytes 2 f.cause ++ leBytes 2 f.detail ++ leBytes 8 f.committed ++ leBytes 1 (bit f.isOpen) ++ leBytes 1 f.causePos
    ++ leBytes 1 f.causeRing ++ List.replicate 453 0

/-- A step frame's bytes as a ring carries it under a SEQ (R245, R266). -/
def StepFrame.bytes (ring seq : Nat) (f : StepFrame) : List Byte :=
  flitBytes { seq := seq, srcPos := f.originPos, ring := ring, attempt := f.attempt, step := f.step, digest := f.digest,
              epoch := f.epoch, type := 1 } f.payload

/-- A step frame read from a flit's bytes (R245). -/
def StepFrame.ofBytes (b : List Byte) : StepFrame :=
  let l := b.drop 32
  { type := leAt l 0 1, attempt := leAt l 1 1, originPos := leAt l 2 1, originRing := leAt l 3 1, step := leAt l 4 8,
    cause := leAt l 12 2, detail := leAt l 14 2, committed := leAt l 16 8, isOpen := leAt l 24 1 == 1,
    causePos := leAt l 25 1, causeRing := leAt l 26 1, epoch := (headerOf b).epoch, digest := (headerOf b).digest }

/-- A membership frame (R285): subtype 1 HOLD or 2 DISCOVER. -/
structure Member where
  subtype : Nat
  hops : Nat
  new : Bool
  wrapEnd : Bool
  round : Nat
  serial : Nat
  lastEpoch : Nat
  deriving DecidableEq, Repr

/-- A membership flit's bytes as a device of an epoch sends it on a ring (R266, R285). -/
def Member.bytes (ring epoch seq : Nat) (m : Member) : List Byte :=
  flitBytes { seq := seq, ring := ring, epoch := epoch, type := 3 }
    (leBytes 1 m.subtype ++ leBytes 1 m.hops ++ leBytes 1 (bit m.new + 2 * bit m.wrapEnd) ++ leBytes 1 m.round ++ leBytes 8 m.serial
      ++ leBytes 2 m.lastEpoch ++ List.replicate 466 0)
def Member.ofBytes (b : List Byte) : Member :=
  let l := b.drop 32
  ⟨leAt l 0 1, leAt l 1 1, leAt l 2 1 % 2 == 1, leAt l 2 1 / 2 % 2 == 1, leAt l 3 1, leAt l 4 8, leAt l 12 2⟩

/-- The fields of a time-synchronisation flit (R296): `t` is T_NS and T_FRAC in units of 2^-16 ns. -/
structure TimeFlit where
  kind : Nat
  depth : Nat
  master : Nat
  t : Nat
  deriving DecidableEq, Repr

def TimeFlit.bytes (ring : Nat) (f : TimeFlit) : List Byte :=
  flitBytes { ring := ring, type := 2 }
    (leBytes 1 f.kind ++ leBytes 1 f.depth ++ List.replicate 6 0 ++ leBytes 8 f.master ++ leBytes 8 (f.t / 65536) ++ leBytes 2 f.t
      ++ List.replicate 454 0)
def TimeFlit.ofBytes (b : List Byte) : TimeFlit :=
  let l := b.drop 32
  ⟨leAt l 0 1, leAt l 1 1, leAt l 8 8, leAt l 16 8 * 65536 + leAt l 24 2⟩

/-- The fields of a link-control flit (R272). -/
structure LinkControl where
  ackSeq : Nat
  nak : Bool
  laneOp : Nat
  laneMap : Nat
  mapAt : Nat
  credits : List Nat
  pool : Nat
  ctrlCredits : Nat
  deriving DecidableEq, Repr

def LinkControl.bytes (ring : Nat) (c : LinkControl) : List Byte :=
  flitBytes { ring := ring, type := 4 }
    (leBytes 2 c.ackSeq ++ leBytes 1 (bit c.nak) ++ leBytes 1 c.laneOp ++ leBytes 4 c.laneMap ++ leBytes 4 c.mapAt ++ List.replicate 2 0
      ++ ((List.range 64).flatMap fun k => leBytes 4 (c.credits.getD k 0)) ++ leBytes 4 c.pool ++ leBytes 4 c.ctrlCredits
      ++ List.replicate 202 0)
def LinkControl.ofBytes (b : List Byte) : LinkControl :=
  let l := b.drop 32
  ⟨leAt l 0 2, leAt l 2 1 % 2 == 1, leAt l 3 1, leAt l 4 4, leAt l 8 4, (List.range 64).map fun k => leAt l (14 + 4 * k) 4, leAt l 270 4,
    leAt l 274 4⟩

/-! Words on lanes (R264, R265). -/

/-- The lanes of a map in ascending lane number, which is their rank. -/
def mapLanes (m : Nat) : List Nat := (List.range 32).filter m.testBit

/-- A flit's 16 words of 32 bytes, each with the lane that takes it; the first is word `w` of the port's stream. -/
def stripe (lanes : List Nat) (w : Nat) (b : List Byte) : List (Nat × Nat) :=
  (List.range 16).map fun j => (lanes.getD ((w + j) % lanes.length) 0, leAt b (32 * j) 32)

/-- `n` words of the stream from word `w` on, put together again from what the lanes brought, a lane's words in their order: none where a
lane did not bring enough. -/
def unstripe (lanes : List Nat) : Nat → Nat → List (Nat × Nat) → Option (List Byte)
  | 0, _, _ => some []
  | n + 1, w, l =>
    match takeFirst (fun e => e.1 == lanes.getD (w % lanes.length) 0) l with
    | none => none
    | some (e, rest) => (unstripe lanes n (w + 1) rest).map (leBytes 32 e.2 ++ ·)

/-- What the lanes of a port bring for one flit: the codewords corrected, those that could not be, and the words, each with its lane (log
entry 74). -/
structure LineRx where
  corr : Nat
  uncorr : Nat
  words : List (Nat × Nat)
  deriving DecidableEq, Repr

end Sys2Proof.Machine
end

