-- ==== Sys2Proof/Machine/Numerics.lean ====
section
/-!
DEFINITION. Number formats, exact values and rounding (spec 02_number_formats.md, 03_tile_arrays.md R74,
04_fused_kernels.md R91 to R98). A floating number is decoded to an exact value, the operation is computed exactly, and the
result is rounded once; no operation here knows an approximation that it does not round correctly.
-/
namespace Sys2Proof.Machine

/-- A floating format: exponent bits and fraction bits (R29 table of binary32, M24, K16B, K16H). -/
structure FloatFmt where
  eb : Nat
  fb : Nat
  deriving DecidableEq, Repr

/-- The bias of the format's exponent. -/
def FloatFmt.bias (f : FloatFmt) : Int := ((2 ^ (f.eb - 1) - 1 : Nat) : Int)
/-- The pattern of +infinity, which is also one more than the largest finite magnitude. -/
def FloatFmt.infPat (f : FloatFmt) : Nat := (2 ^ f.eb - 1) * 2 ^ f.fb
/-- The canonical NaN of the format (R51). -/
def FloatFmt.nanPat (f : FloatFmt) : Nat := f.infPat + 2 ^ (f.fb - 1)
/-- The sign bit's weight. -/
def FloatFmt.signPat (f : FloatFmt) : Nat := 2 ^ (f.eb + f.fb)

def binary32 : FloatFmt := ⟨8, 23⟩
def fmtM24 : FloatFmt := ⟨8, 15⟩
def fmtK16B : FloatFmt := ⟨8, 7⟩
def fmtK16H : FloatFmt := ⟨5, 10⟩

/-- An exact value of a floating pattern: a NaN, an infinity, or `± m × 2^e` (zero keeps its sign). -/
inductive Val where
  | nan
  | inf (neg : Bool)
  | fin (neg : Bool) (m : Nat) (e : Int)
  deriving DecidableEq, Repr

/-- The exact value of a pattern (all-ones exponent: infinity or NaN; all-zero exponent: zero or subnormal; R30). -/
def FloatFmt.decode (f : FloatFmt) (p : Nat) : Val :=
  let neg := f.signPat ≤ p % (2 * f.signPat)
  let mag := p % f.signPat
  let ex := mag / 2 ^ f.fb
  let fr := mag % 2 ^ f.fb
  if ex = 2 ^ f.eb - 1 then (if fr = 0 then .inf neg else .nan)
  else if ex = 0 then .fin neg fr (1 - f.bias - f.fb)
  else .fin neg (fr + 2 ^ f.fb) ((ex : Int) - f.bias - f.fb)

/-- `m ÷ 2^k` rounded to the nearest integer, ties to even. -/
def shiftRne (m k : Nat) : Nat :=
  let q := m / 2 ^ k
  let r := m % 2 ^ k
  if 2 * r > 2 ^ k ∨ (2 * r = 2 ^ k ∧ q % 2 = 1) then q + 1 else q

/-- The magnitude pattern of `m × 2^e` rounded to nearest, ties to even, with an unbounded exponent (R32, R48): a result
of `infPat` or more is an overflow. Subnormals are kept (R30). -/
def FloatFmt.roundMag (f : FloatFmt) (m : Nat) (e : Int) : Nat :=
  if m = 0 then 0
  else
    let qmin : Int := 1 - f.bias - f.fb
    let q : Int := max ((Nat.log2 m : Int) + e - f.fb) qmin
    let n := if q ≤ e then m * 2 ^ (e - q).toNat else shiftRne m (q - e).toNat
    (q - qmin).toNat * 2 ^ f.fb + n

/-- A pattern with its sign. -/
def FloatFmt.signed (f : FloatFmt) (neg : Bool) (mag : Nat) : Nat := if neg then f.signPat + mag else mag

/-- The pattern of an exact value, an overflow giving infinity (R32). -/
def FloatFmt.encode (f : FloatFmt) : Val → Nat
  | .nan => f.nanPat
  | .inf n => f.signed n f.infPat
  | .fin n m e => f.signed n (min (f.roundMag m e) f.infPat)

/-- Decoding and rounding of binary32. -/
def val32 (p : Nat) : Val := binary32.decode p
def round32 (v : Val) : Nat := binary32.encode v

/-- The canonical binary32 NaN. -/
def nan32 : Nat := 0x7FC00000
def one32 : Nat := 0x3F800000
def negInf32 : Nat := 0xFF800000

def Val.isNaN : Val → Bool
  | .nan => true
  | _ => false
def Val.isFinite : Val → Bool
  | .fin .. => true
  | _ => false
def Val.isZero : Val → Bool
  | .fin _ m _ => m == 0
  | _ => false
def Val.isNeg : Val → Bool
  | .nan => false
  | .inf n => n
  | .fin n _ _ => n
def Val.negate : Val → Val
  | .nan => .nan
  | .inf n => .inf (!n)
  | .fin n m e => .fin (!n) m e
def Val.magnitude : Val → Val
  | .nan => .nan
  | .inf _ => .inf false
  | .fin _ m e => .fin false m e

def finite32 (p : Nat) : Bool := (val32 p).isFinite
/-- A pattern with −0 replaced by +0, as every store writes it (R52). -/
def noNegZero (p : Nat) : Nat := if p = 0x80000000 then 0 else p

/-- The signed integer of `± m`. -/
def signedMant (n : Bool) (m : Nat) : Int := if n then -(m : Int) else (m : Int)

/-- The exact sum. A zero sum of opposite signs is +0; a sum of two zeros of one sign keeps it (IEEE 754, R32). -/
def Val.add : Val → Val → Val
  | .nan, _ => .nan
  | _, .nan => .nan
  | .inf a, .inf b => if a = b then .inf a else .nan
  | .inf a, .fin .. => .inf a
  | .fin .., .inf b => .inf b
  | .fin na ma ea, .fin nb mb eb =>
    let e := min ea eb
    let s : Int := signedMant na (ma * 2 ^ (ea - e).toNat) + signedMant nb (mb * 2 ^ (eb - e).toNat)
    if s = 0 then .fin (na && nb) 0 e else .fin (decide (s < 0)) s.natAbs e

/-- The exact product. -/
def Val.mul : Val → Val → Val
  | .nan, _ => .nan
  | _, .nan => .nan
  | .inf a, .inf b => .inf (a != b)
  | .inf a, .fin b m _ => if m = 0 then .nan else .inf (a != b)
  | .fin a m _, .inf b => if m = 0 then .nan else .inf (a != b)
  | .fin na ma ea, .fin nb mb eb => .fin (na != nb) (ma * mb) (ea + eb)

/-- Order of two values that are not NaN: `some (decide (a < b), decide (a = b))`; none when unordered (R53). -/
def Val.compare : Val → Val → Option (Bool × Bool)
  | .nan, _ => none
  | _, .nan => none
  | .inf a, .inf b => some (a && !b, a == b)
  | .inf a, .fin .. => some (a, false)
  | .fin .., .inf b => some (!b, false)
  | .fin na ma ea, .fin nb mb eb =>
    let e := min ea eb
    let x : Int := signedMant na (ma * 2 ^ (ea - e).toNat)
    let y : Int := signedMant nb (mb * 2 ^ (eb - e).toNat)
    some (decide (x < y), decide (x = y))

def add32 (a b : Nat) : Nat := round32 ((val32 a).add (val32 b))
def sub32 (a b : Nat) : Nat := round32 ((val32 a).add (val32 b).negate)
def mul32 (a b : Nat) : Nat := round32 ((val32 a).mul (val32 b))
/-- `a × b + c`, rounded once (R91). -/
def fma32 (a b c : Nat) : Nat := round32 (((val32 a).mul (val32 b)).add (val32 c))
def neg32 (a : Nat) : Nat := round32 (val32 a).negate
def abs32 (a : Nat) : Nat := round32 (val32 a).magnitude
def lt32 (a b : Nat) : Bool := ((val32 a).compare (val32 b)).elim false fun r => r.1
def eq32 (a b : Nat) : Bool := ((val32 a).compare (val32 b)).elim false fun r => r.2
def le32 (a b : Nat) : Bool := lt32 a b || eq32 a b
def isNaN32 (a : Nat) : Bool := (val32 a).isNaN
/-- Maximum and minimum: canonical NaN with a NaN operand (R53); of two equal operands the first. -/
def max32 (a b : Nat) : Nat := if isNaN32 a || isNaN32 b then nan32 else if lt32 a b then b else a
def min32 (a b : Nat) : Nat := if isNaN32 a || isNaN32 b then nan32 else if lt32 b a then b else a
/-- The result of a comparison as binary32: 1.0 or +0. -/
def flag32 (b : Bool) : Nat := if b then one32 else 0

/-- The largest `r` below `2^k` with `r × r ≤ n`, found bit by bit from the top. -/
def isqrtFrom (n : Nat) : Nat → Nat → Nat
  | 0, r => r
  | k + 1, r => if (r + 2 ^ k) * (r + 2 ^ k) ≤ n then isqrtFrom n k (r + 2 ^ k) else isqrtFrom n k r

/-- The integer square root. -/
def isqrt (n : Nat) : Nat := isqrtFrom n (Nat.log2 n / 2 + 1) 0

/-- `m × 2^e` with a sticky half-unit below when the true value lies strictly above `m × 2^e` and below the next unit. -/
def stickyVal (neg : Bool) (m : Nat) (e : Int) (inexact : Bool) : Val := .fin neg (2 * m + bit inexact) (e - 1)

/-- The reciprocal, rounded once (R96, R97). -/
def rcp32 (a : Nat) : Nat :=
  match val32 a with
  | .nan => nan32
  | .inf n => binary32.signed n 0
  | .fin n m e =>
    if m = 0 then binary32.signed n binary32.infPat
    else
      let k := Nat.log2 m + 64
      round32 (stickyVal n (2 ^ k / m) (-(k : Int) - e) (decide (2 ^ k % m ≠ 0)))

/-- A mantissa and an even exponent of the same value. -/
def evenExp (m : Nat) (e : Int) : Nat × Int := if e % 2 = 0 then (m, e) else (2 * m, e - 1)

/-- The reciprocal square root, rounded once (R96, R97). -/
def rsqrt32 (a : Nat) : Nat :=
  match val32 a with
  | .nan => nan32
  | .inf n => if n then nan32 else 0
  | .fin n m e =>
    if m = 0 then binary32.signed n binary32.infPat
    else if n then nan32
    else
      let (m, e) := evenExp m e
      let k := Nat.log2 m + 64
      let r := isqrt (2 ^ (2 * k) / m)
      round32 (stickyVal false r (-(k : Int) - e / 2) (decide (r * r * m ≠ 2 ^ (2 * k))))

/-- The IEEE 754 square root (R342 SQRT). -/
def sqrt32 (a : Nat) : Nat :=
  match val32 a with
  | .nan => nan32
  | .inf n => if n then nan32 else binary32.infPat
  | .fin n m e =>
    if m = 0 then binary32.signed n 0
    else if n then nan32
    else
      let (m, e) := evenExp m e
      let r := isqrt (m * 2 ^ 96)
      round32 (stickyVal false r (e / 2 - 48) (decide (r * r ≠ m * 2 ^ 96)))

/-! The four transcendental functions are computed in fixed point with `prec` fraction bits and then rounded once. Their
values at the arguments that reach the series are irrational, so no result is a tie; log entry 12 says what is assumed. -/

/-- Fraction bits of the fixed-point work. -/
def prec : Nat := 320
/-- ⌊ln 2 × 2^320⌋. -/
def ln2Fixed : Nat := 0xB17217F7D1CF79ABC9E3B39803F2F6AF40F343267298B62D8A0D175B8BAAFA2BE7B876206DEBAC98
/-- ⌊2/√π × 2^320⌋. -/
def twoOverSqrtPiFixed : Nat := 0x120DD750429B6D11AE3A914FED7FD8688281341D7587CEA2E7342B06199CC416180EB39F0B24E1E22

/-- Terms `k, k+1, …` of the exponential series: `term` is `x^(k-1)/(k-1)!` in fixed point. -/
def expTerms (x : Nat) : Nat → Nat → Nat → Nat
  | 0, _, _ => 0
  | n + 1, k, term =>
    let t := term * x / 2 ^ prec / k
    t + expTerms x n (k + 1) t

/-- `2^f` in fixed point, for a fraction `f` given in fixed point below 1. -/
def exp2Fixed (f : Nat) : Nat := 2 ^ prec + expTerms (f * ln2Fixed / 2 ^ prec) 100 1 (2 ^ prec)

/-- The terms `z^(2k+1)/(2k+1)` of the inverse hyperbolic tangent: `p` is `z^(2k+1)`. -/
def atanhTerms (z2 : Nat) : Nat → Nat → Nat → Nat
  | 0, _, _ => 0
  | n + 1, k, p => p / (2 * k + 1) + atanhTerms z2 n (k + 1) (p * z2 / 2 ^ prec)

/-- `log2 y` in fixed point for `y = m / 2^(log2 m)` in [1, 2). -/
def log2Fixed (m : Nat) : Nat :=
  let one := 2 ^ Nat.log2 m
  let z := (m - one) * 2 ^ prec / (m + one)
  2 * atanhTerms (z * z / 2 ^ prec) 110 0 z * 2 ^ prec / ln2Fixed

/-- `⌊v × 2^prec⌋` of a magnitude `m × 2^e`. -/
def fixedOf (m : Nat) (e : Int) : Nat :=
  let s : Int := e + prec
  if 0 ≤ s then m * 2 ^ s.toNat else m / 2 ^ (-s).toNat

/-- EXP2 (R96, R97). -/
def exp2_32 (a : Nat) : Nat :=
  match val32 a with
  | .nan => nan32
  | .inf n => if n then 0 else binary32.infPat
  | .fin n m e =>
    if m = 0 then one32
    else if lt32 a 0xC3200000 then 0          -- below −160 every result rounds to +0
    else if !(lt32 a 0x43000000) then binary32.infPat  -- x ≥ 128
    else
      let x := fixedOf m e
      let exact := decide (0 ≤ e + (prec : Int))
      let i := x / 2 ^ prec
      let f := x % 2 ^ prec
      if !n then
        if f = 0 && exact then round32 (.fin false 1 (i : Int))
        else round32 (stickyVal false (exp2Fixed f) ((i : Int) - prec) true)
      else if f = 0 && exact then round32 (.fin false 1 (-(i : Int)))
      else round32 (stickyVal false (exp2Fixed (2 ^ prec - f)) (-(i : Int) - 1 - prec) true)

/-- LOG2 (R96, R97). -/
def log2_32 (a : Nat) : Nat :=
  match val32 a with
  | .nan => nan32
  | .inf n => if n then nan32 else binary32.infPat
  | .fin n m e =>
    if m = 0 then negInf32
    else if n then nan32
    else
      let k : Int := (Nat.log2 m : Int) + e
      if m = 2 ^ Nat.log2 m then
        (if k = 0 then 0 else round32 (.fin (decide (k < 0)) k.natAbs 0))
      else
        let v : Int := k * ((2 ^ prec : Nat) : Int) + (log2Fixed m : Int)
        if v < 0 then round32 (stickyVal true (v.natAbs - 1) (-(prec : Int)) true)
        else round32 (stickyVal false v.natAbs (-(prec : Int)) true)

/-- TANH (R96, R97). -/
def tanh32 (a : Nat) : Nat :=
  match val32 a with
  | .nan => nan32
  | .inf n => binary32.signed n one32
  | .fin n m e =>
    let mag := abs32 a
    if m = 0 then a
    else if lt32 mag 0x30800000 then a            -- below 2^−30 the nearest value is the argument itself
    else if !(lt32 mag 0x41800000) then binary32.signed n one32  -- from 16 on the result rounds to 1
    else
      let y := fixedOf m (e + 1) * 2 ^ prec / ln2Fixed
      let x := exp2Fixed (y % 2 ^ prec) * 2 ^ (y / 2 ^ prec)
      round32 (stickyVal n ((x - 2 ^ prec) * 2 ^ prec / (x + 2 ^ prec)) (-(prec : Int)) true)

/-- The alternating terms of the error function's series: `t` is `x^(2k)/k!`. -/
def erfTerms (x2 : Nat) : Nat → Nat → Nat → Int
  | 0, _, _ => 0
  | n + 1, k, t => (if k % 2 = 0 then ((t / (2 * k + 1) : Nat) : Int) else -((t / (2 * k + 1) : Nat) : Int))
      + erfTerms x2 n (k + 1) (t * x2 / 2 ^ prec / (k + 1))

/-- ERF (R96, R97). -/
def erf32 (a : Nat) : Nat :=
  match val32 a with
  | .nan => nan32
  | .inf n => binary32.signed n one32
  | .fin n m e =>
    if m = 0 then a
    else if !(lt32 (abs32 a) 0x40800000) then binary32.signed n one32  -- from 4 on the result rounds to 1
    else
      let s := (erfTerms (fixedOf (m * m) (2 * e)) 190 0 (2 ^ prec)).toNat
      round32 (stickyVal n (s * twoOverSqrtPiFixed * m) (e - 2 * prec) true)

/-! Derived functions of R98. -/
def cLOG2E : Nat := 0x3FB8AA3B
def cLN2 : Nat := 0x3F317218
def cINV_SQRT2 : Nat := 0x3F3504F3

def sigmoid32 (v : Nat) : Nat := rcp32 (add32 (exp2_32 (mul32 v (neg32 cLOG2E))) one32)
def silu32 (v : Nat) : Nat := mul32 v (sigmoid32 v)
def gelu32 (v : Nat) : Nat := mul32 (mul32 v (add32 (erf32 (mul32 v cINV_SQRT2)) one32)) 0x3F000000
/-- The exponential of `z` relative to a maximum `m`, with `nm = −(m × LOG2E)` (R102). -/
def negMax32 (m : Nat) : Nat := neg32 (mul32 m cLOG2E)
def expRel32 (z nm : Nat) : Nat := exp2_32 (fma32 z cLOG2E nm)

/-! Compensated pairs (R74). -/

/-- A running sum and its error term. -/
structure Pair where
  s : Nat
  e : Nat
  deriving DecidableEq, Repr, Inhabited

/-- The first contribution into an EMPTY bank. -/
def Pair.start (x : Nat) : Pair := ⟨x, 0⟩

/-- R74 `add` on a LIVE pair. -/
def Pair.add (p : Pair) (x : Nat) : Pair :=
  let t := add32 p.s x
  let e :=
    if finite32 p.s && finite32 x && finite32 t then
      let z := if le32 (abs32 x) (abs32 p.s) then add32 (sub32 p.s t) x else add32 (sub32 x t) p.s
      add32 p.e z
    else 0
  ⟨t, e⟩

/-- R74 `finalise` of a LIVE pair. -/
def Pair.final (p : Pair) : Nat := if finite32 p.s then add32 p.s p.e else p.s

/-- The pair of a list of contributions added in order, starting EMPTY; `none` stays EMPTY. -/
def Pair.ofList : List Nat → Option Pair
  | [] => none
  | x :: r => some (r.foldl Pair.add (Pair.start x))

/-- One combination of the tree of R92: add `s₂` by R74, then `e = e + e₂`. -/
def Pair.combine (a b : Pair) : Pair :=
  let p := a.add b.s
  ⟨p.s, add32 p.e b.e⟩

/-- Adjacent results combined, lower index first. -/
def pairwise {α : Type} (f : α → α → α) : List α → List α
  | a :: b :: r => f a b :: pairwise f r
  | l => l

/-- `n` levels of adjacent combination. -/
def treeLevels {α : Type} (f : α → α → α) : Nat → List α → List α
  | 0, l => l
  | n + 1, l => treeLevels f n (pairwise f l)

/-- The elements `k, k + step, …` of a list. -/
def strided {α : Type} (l : List α) (step k : Nat) : List α :=
  (l.zipIdx.filter fun e => e.2 % step == k).map (·.1)

/-- The root pair of a row reduction over the elements (R92): 256 lanes, then eight levels. -/
def rowSumPair (xs : List Nat) : Pair :=
  let lanes := (List.range 256).map fun k => (Pair.ofList (strided xs 256 k)).getD ⟨0, 0⟩
  (treeLevels Pair.combine 8 lanes).headD ⟨0, 0⟩

/-- A row sum, finalised (R92). -/
def rowSum32 (xs : List Nat) : Nat := (rowSumPair xs).final

/-- The signed row maximum: canonical NaN when any element is NaN, else the ordinary maximum (R53). -/
def rowMax32 : List Nat → Nat
  | [] => negInf32
  | x :: r => r.foldl max32 (if isNaN32 x then nan32 else x)

/-- The largest finite magnitude of a row, +0 when no element is finite (R36, R53). -/
def rowMaxAbs32 (xs : List Nat) : Nat :=
  xs.foldl (fun m x => if finite32 x && lt32 m (abs32 x) then abs32 x else m) 0

/-! Scales and conversions (R36, R42, R47 to R50). -/

/-- What a written element adds to the per-tensor counts (R47, R50). -/
inductive Tally where
  | none
  | zero
  | saturation
  | nonFinite
  deriving DecidableEq, Repr

/-- Vmax of R36 by form: INT8, INT4, L2, L3 in the PREC encoding. -/
def vmaxOf (form : Nat) : Nat := if form = 1 then 7 else if form = 2 then 32639 else if form = 3 then 8355711 else 127

/-- The exponent of a fresh row scale for the largest finite magnitude `m` (R36). -/
def scaleExp (form m : Nat) : Int :=
  match val32 m with
  | .fin _ k q =>
    if k = 0 then 0
    else
      let v := vmaxOf form
      let c : Int := (Nat.log2 k : Int) + q - (Nat.log2 v : Int)
      let fits : Bool := decide (k * 2 ^ (q - c).toNat ≤ v * 2 ^ (c - q).toNat)
      max (-126) (if fits then c else c + 1)
  | _ => 0

/-- The binary32 pattern of the scale `2^e` (R34). -/
def scalePat (e : Int) : Nat := (e + 127).toNat * 2 ^ 23
/-- A stored scale is a positive power of two with biased exponent 1 to 254 (R34). -/
def scaleOk (p : Nat) : Bool := p % 2 ^ 23 == 0 && decide (1 ≤ p / 2 ^ 23) && decide (p / 2 ^ 23 ≤ 254)
/-- The exponent of a stored scale. -/
def scaleExpOf (p : Nat) : Int := ((p / 2 ^ 23 % 256 : Nat) : Int) - 127

/-- The nearest integer to `± m × 2^e`, ties to even. -/
def roundInt (neg : Bool) (m : Nat) (e : Int) : Int :=
  let n := if 0 ≤ e then m * 2 ^ e.toNat else shiftRne m (-e).toNat
  if neg then -(n : Int) else (n : Int)

/-- Conversion of a binary32 value to an integer of magnitude at most `vmax`, in units of `2^e` (R42, R47). -/
def toScaledInt (vmax : Nat) (e : Int) (x : Nat) : Int × Tally :=
  match val32 x with
  | .nan => (0, .nonFinite)
  | .inf n => (if n then -(vmax : Int) else vmax, .nonFinite)
  | .fin n m q =>
    let v := roundInt n m (q - e)
    if (vmax : Int) < v then ((vmax : Int), .saturation)
    else if v < -(vmax : Int) then (-(vmax : Int), .saturation)
    else if v = 0 ∧ m ≠ 0 then (0, .zero)
    else (v, .none)

/-- Conversion to a compact format or to binary32, nearest with ties to even, OVF_MODE by R48; −0 is written +0 (R47). -/
def toFloat (f : FloatFmt) (ovf : Nat) (x : Nat) : Nat × Tally :=
  match val32 x with
  | .nan => (f.nanPat, .nonFinite)
  | .inf n => (f.signed n f.infPat, .nonFinite)
  | .fin n m e =>
    let p := f.roundMag m e
    if f.infPat ≤ p then (f.signed n (if ovf = 0 then f.infPat - 1 else f.infPat), .saturation)
    else if p = 0 then (0, if m = 0 then .none else .zero)
    else (f.signed n p, .none)

/-- Stochastic conversion with the 32-bit word `r` (R49). -/
def toFloatStochastic (f : FloatFmt) (ovf r : Nat) (x : Nat) : Nat × Tally :=
  match val32 x with
  | .fin n m e =>
    if f.infPat ≤ f.roundMag m e then toFloat f ovf x
    else
      -- the unit of the target at |x|: floor to it, and the 32-bit fraction of the rest
      let qmin : Int := 1 - f.bias - f.fb
      let q : Int := max ((Nat.log2 m : Int) + e - f.fb) qmin
      let lo := if q ≤ e then m * 2 ^ (e - q).toNat else m / 2 ^ (q - e).toNat
      let frac := if q ≤ e then 0 else m % 2 ^ (q - e).toNat * 2 ^ 32 / 2 ^ (q - e).toNat
      let p := (q - qmin).toNat * 2 ^ f.fb + (if r < frac then lo + 1 else lo)
      if m = 0 then (0, .none)
      else if f.infPat ≤ p then (f.signed n (f.infPat - 1), .none)
      else if f.infPat - 1 ≤ (q - qmin).toNat * 2 ^ f.fb + lo then (f.signed n (f.infPat - 1), .none)
      else if p = 0 then (0, .zero)
      else (f.signed n p, .none)
  | _ => toFloat f ovf x

/-- A compact pattern as binary32, exactly; NaN canonical, −0 as +0 (R47). -/
def fromFloat (f : FloatFmt) (p : Nat) : Nat := noNegZero (round32 (f.decode p))

/-- An integer in units of `2^e` as binary32, exact for the scaled-block forms (R47). -/
def ofScaledInt (v : Int) (e : Int) : Nat := round32 (.fin (decide (v < 0)) v.natAbs e)

/-- The limbs of a scaled integer, least significant first (R42). -/
def limbsOf (v : Int) : Nat → List Int
  | 0 => []
  | 1 => [v]
  | n + 2 =>
    let l := (v + 128) % 256 - 128
    l :: limbsOf ((v - l) / 256) (n + 1)

/-- The value of a list of limbs, least significant first. -/
def limbValue : List Int → Int
  | [] => 0
  | l :: r => l + 256 * limbValue r

end Sys2Proof.Machine
end

