-- ==== Sys2Proof/Machine/Sparse.lean ====
section
/-!
DEFINITION. A table with a default: a list of (key, value) pairs with strictly rising keys that lists no entry equal to
the default. Memory, tile SRAM, the register file and every per-unit table of the machine are held this way, so that
equal tables are equal lists.
-/
namespace Sys2Proof.Machine

/-- A table from natural numbers; what an unlisted key reads as is the reader's argument. -/
abbrev Sparse (α : Type) := List (Nat × α)

/-- The value at `k`, or `d` where the table lists nothing. -/
def Sparse.get {α : Type} (d : α) (k : Nat) : Sparse α → α
  | [] => d
  | (k', v) :: r => if k' = k then v else Sparse.get d k r

/-- `l` with the pair `(k, v)` put before the first larger key. -/
def Sparse.ins {α : Type} (k : Nat) (v : α) : Sparse α → Sparse α
  | [] => [(k, v)]
  | (k', v') :: r => if k < k' then (k, v) :: (k', v') :: r else (k', v') :: Sparse.ins k v r

/-- `l` without any entry for `k`. -/
def Sparse.del {α : Type} (k : Nat) : Sparse α → Sparse α
  | [] => []
  | (k', v') :: r => if k' = k then Sparse.del k r else (k', v') :: Sparse.del k r

/-- `l` with `v` at `k`; writing the default removes the entry, so the canonical form is kept. -/
def Sparse.put {α : Type} [DecidableEq α] (d : α) (k : Nat) (v : α) (l : Sparse α) : Sparse α :=
  if v = d then Sparse.del k l else Sparse.ins k v (Sparse.del k l)

/-- The canonical form: keys strictly rising, no entry equal to the default. -/
def Sparse.wf {α : Type} [DecidableEq α] (d : α) : Sparse α → Bool
  | [] => true
  | [(_, v)] => v != d
  | (k, v) :: (k', v') :: r => decide (k < k') && v != d && Sparse.wf d ((k', v') :: r)

/-- Only the entries whose key satisfies `p`. -/
def Sparse.keep {α : Type} (p : Nat → Bool) (l : Sparse α) : Sparse α := l.filter fun e => p e.1

end Sys2Proof.Machine
end

