-- ==== Sys2Proof/Machine/Engines.lean ====
section
/-!
DEFINITION. What the hub's engines hold beside their registers: the ring ports' link layer (spec 09_ring_ports.md), the
reduction engine (10_gradient_reduction.md), the update units and working-copy gather (11_update_units.md).
-/
namespace Sys2Proof.Machine

/-! Ring ports. -/

/-- What a sequenced flit carries. -/
inductive PortItem where
  | data (f : Flit)
  | step (f : StepFrame)
  | member (m : Member)
  deriving DecidableEq, Repr

/-- An item's bytes on a ring in an epoch under a SEQ. -/
def PortItem.bytes (ring epoch seq : Nat) : PortItem → List Byte
  | .data f => { f with hdr := { f.hdr with seq := seq } }.bytes
  | .step f => f.bytes ring seq
  | .member m => m.bytes ring epoch seq

/-- A sent flit kept until it is acknowledged (R271), with the times it has been resent (R273). -/
structure Sent where
  seq : Nat
  resent : Nat
  item : PortItem
  deriving DecidableEq, Repr

/-- The link layer of one ring port (R265, R268 to R273, R311): the next SEQ to send, the replay buffer, what waits for a credit or for
room (frames and this device's own data in `waiting`, forwarded data in `passing`), the channel last sent, reserved credits in use by
channel, pool credits in use, words sent; at the receiver the SEQ expected, whether a NAK is out, flits accepted since the last
acknowledgement, credits to return by channel with the pool and frame credits, and words received. -/
structure Port where
  txSeq : Nat
  replay : List Sent
  waiting : List PortItem
  passing : List PortItem
  turn : Nat
  used : Sparse Nat
  poolUsed : Nat
  ctrlUsed : Nat
  txWord : Nat
  rxSeq : Nat
  nakOut : Bool
  unacked : Nat
  rxUsed : Sparse Nat
  credits : Sparse Nat
  pool : Nat
  ctrl : Nat
  rxWord : Nat
  deriving DecidableEq, Repr

def Port.init : Port := ⟨0, [], [], [], 0, [], 0, 0, 0, 0, false, 0, [], [], 0, 0, 0⟩

/-- A DISCOVER recorded in the current round (R286). -/
structure Found where
  serial : Nat
  lastEpoch : Nat
  hops : Nat
  new : Bool
  wrapEnd : Bool
  deriving DecidableEq, Repr

/-- A ring's membership at the device (R279, R285 to R291): round, ports that owe a HOLD, HOLDs passed on as (serial, round, port),
whether DISCOVER is sent, recorded DISCOVERs, the HOPS of the own one once returned, whether discovery has completed, whether the
device is NEW on the ring, the members found at the last completed discovery in ring order as (serial, NEW), and the state
to which the bypass switch is moving or has last been told to move, with true for OPEN. -/
structure RingCtl where
  round : Nat
  holdDue : List Nat
  holds : List (Nat × Nat × Nat)
  sent : Bool
  found : List Found
  ownHops : Option Nat
  complete : Bool
  new : Bool
  members : List (Nat × Bool)
  moving : Option Bool
  deriving DecidableEq, Repr

def RingCtl.init : RingCtl := ⟨0, [], [], false, [], none, false, true, [], none⟩

/-- The poll that a step anchor runs on a ring (R257): values held as (position, committed, attempt, open). -/
structure PollCtl where
  running : Bool
  ring : Nat
  values : List (Nat × Nat × Nat × Bool)
  deriving DecidableEq, Repr

def PollCtl.init : PollCtl := ⟨false, 0, []⟩

/-! Reduction. -/

/-- A slice that waits in the receive buffer: for a local release (R309), or under R24, R241 or R317. -/
structure HeldFlit where
  port : Nat
  flit : Flit
  deriving DecidableEq, Repr

/-- A MODE 1 job in the open step (R326): M by row; in the running round this device's matrix, whose virtual segments the
owner's sums replace, the (ring, virtual segment) it has originated, those whose phase A is summed here, and those whose sums
it holds; P̂ and Q′loc once formed. -/
structure LowRank where
  job : Nat
  m : List (List Nat)
  part : List Nat
  origin : List (Nat × Nat)
  phaseA : List Nat
  sums : List (Nat × List Nat)
  pHat : List Nat
  qLoc : List Nat
  deriving DecidableEq, Repr

/-- A sum being written at its owner, or a gather segment being written (R310): bytes not yet filling a sector. `key` is the
segment, `kind` 0 or 1 for a reduction on ring A or B, 2 for a gather, 3 for a heal. -/
structure Tail where
  kind : Nat
  key : Nat
  next : Nat
  bytes : List Byte
  deriving DecidableEq, Repr

/-- The reduction engine. `released` are the segments given to their jobs in the attempt (R19), `originated` those whose slices
this device has sent by (ring, segment), `reduced` those it has reduced as owner, `phaseA` those of a DIM 2 job whose phase A
is written here (R315). -/
structure RedCtl where
  released : List Nat
  originated : List (Nat × Nat)
  reduced : List Nat
  phaseA : List Nat
  held : List HeldFlit
  tails : List Tail
  low : List LowRank
  crcs : List (Nat × Nat)                 -- (segment, CRC of the reduced values written), for the digest log
  skipRings : List Nat                    -- rings that brought SKIP by a notice before this device recorded it
  skipJob : Nat
  skipCopied : Bool
  noticeSent : List Nat                   -- rings on which this device has sent its skip notice
  noticeOut : List (Nat × Nat)            -- (ring, direction) notices sent and not yet returned
  digestLatched : Bool                    -- RED_MISMATCH_DIGEST has latched since RED_ERROR.VALID was cleared
  haltDue : Option Nat                    -- the code of a halt with no attempt open, for the next one (R319)
  deriving DecidableEq, Repr

def RedCtl.init : RedCtl := ⟨[], [], [], [], [], [], [], [], [], 0, false, [], [], false, none⟩

/-! Update units. -/

/-- What a program run reads besides registers and constants (R338), as it stood when the run started. -/
structure UInputs where
  g : List Nat
  w : List Nat
  m : List (List Nat)
  factors : List Nat          -- 128 row factors, 128 column factors, the sum factor
  t : Nat                     -- binary32 of the gradient's step
  step : Nat
  deriving DecidableEq, Repr

/-- A program run on a segment in a unit (R337, R343): `late` is the step of a pending gradient, `acc` the terms of the pass by
target, `prev` the finalised accumulators of the pass before (128 rows, 128 columns, two totals), `out` the planes written. -/
structure URun where
  unit : Nat
  group : Nat
  seg : Nat
  pass : Nat
  late : Option Nat
  pc : Nat
  inp : UInputs
  v : Sparse (List Nat)
  acc : List (Nat × List Nat)
  prev : List Nat
  out : Sparse (List Byte)
  deriving DecidableEq, Repr

/-- A unit's total accumulators in a pass of a group-scope program (R339). -/
structure UTotals where
  group : Nat
  pass : Nat
  unit : Nat
  tot0 : Option Pair
  tot1 : Option Pair
  deriving DecidableEq, Repr

/-- A pending gradient of a late group (R350 to R352): the reduced segments taken, those whose sum over the pods stands in the slot, the
segments of this device that await the other pods' (log entry 57), `fresh` in the attempt that took it, `applied` in the attempt that has
applied it. -/
structure Pending where
  group : Nat
  step : Nat
  copied : List Nat
  summed : List Nat
  own : List (Nat × List Byte)
  fresh : Bool
  applied : Bool
  deriving DecidableEq, Repr

/-- A group's comparison in a due step (R355 to R359): its own digest, those received as (ring, position, digest), granules
that differ, and granule digests heard as (ring, position, count). -/
structure GroupDigest where
  group : Nat
  own : Option Nat
  received : List (Nat × Nat × Nat)
  granules : List Nat
  heard : List (Nat × Nat × Nat)
  sent : Bool
  deriving DecidableEq, Repr

/-- The update units' work. -/
structure UpdCtl where
  runs : List URun
  done : List (Nat × Nat × Nat)                -- (group, segment, pass) completed in the attempt
  totals : List UTotals
  crcs : List (Nat × Nat × Nat)                -- (group, segment, CRC of the bytes written), for the digest log
  pending : List Pending
  due : List (Nat × Nat)                       -- (group, step) applications of the open step still to run, in order
  podGot : List (Nat × Nat × Nat × Nat)        -- (group, step, segment, pod) copies kept (R418)
  podSent : List (Nat × Nat × Nat × Nat)       -- (group, step, segment, pod) sent in the attempt
  digests : List GroupDigest
  matched : Bool                               -- the comparison due in the attempt has matched (R242, R358)
  heal : List (Nat × List Nat)                 -- (group, segments) to send again at an abort boundary
  healQueue : List Nat                         -- own segments of the running heal still to derive and send (R360)
  healed : List Nat                            -- segments that the running heal has written here
  poison : Option (Nat × Nat)                  -- a code and detail to record against the next attempt (R361)
  spoiled : Option Nat                         -- the code of a working copy derived from a poisoned master: every attempt fails (R361)
  deriving DecidableEq, Repr

def UpdCtl.init : UpdCtl := ⟨[], [], [], [], [], [], [], [], [], false, [], [], [], none, none⟩

/-- A gather (R316, R317): its GKIND while it runs, the own segments still to derive and send, and the
segments complete here. -/
structure GatherCtl where
  kind : Option Nat
  queue : List Nat
  done : List Nat
  deriving DecidableEq, Repr

def GatherCtl.init : GatherCtl := ⟨none, [], []⟩

end Sys2Proof.Machine
end

