-- ==== Sys2Proof/Syntax.lean ====
section
/-!
DEFINITION. The commands of the block: one constructor per row of spec/opcode_table.json, in the table's order, with the
operands the row's rule gives it. A tile instruction's operands are the tile, the stream and the SRAM sectors that have
become uncorrectable since the last command; its own fields are in the stream's instruction memory.
-/
namespace Sys2Proof

open Machine

inductive Instr where
  /-- REGISTER_WRITE (R3). A write to a register field that has no row of its own takes effect by its access class: RW at once, RWB shadowed or immediate, RWL once, W1C/W1S clear or set. -/
  | registerWrite (m off len value : Nat) (selftest : Bool) (request : List Byte)
  /-- NOP (R135). Tile instruction NOP issues and completes with no effect. -/
  | nop (t n : Nat) (bad : List Nat)
  /-- END (R135). END ends the stream for the step, releases its stationary banks and gradient-buffer halves, and completes once every earlier instruction of the stream has completed. -/
  | endStream (t n : Nat) (bad : List Nat)
  /-- TAG (R130). TAG sets the stream's current layer and operator identifiers for every later instruction. -/
  | tag (t n : Nat) (bad : List Nat)
  /-- WAIT (R132). WAIT holds its stream until an event counter, a gather count or fabric time reaches the given value. -/
  | wait (t n : Nat) (bad : List Nat)
  /-- WAIT_RELEASE (R132). A waiting WAIT completes when its condition comes to hold. -/
  | waitRelease (t n : Nat) (bad : List Nat)
  /-- SIGNAL (R131). SIGNAL adds its operand to an event counter at issue. -/
  | signal (t n : Nat) (bad : List Nat)
  /-- XADD (R136). XADD sets an index register to another index register plus an immediate, modulo 2^32. -/
  | xadd (t n : Nat) (bad : List Nat)
  /-- XGET (R136). XGET loads an index register with the microbatch count, the step number or the tile number. -/
  | xget (t n : Nat) (bad : List Nat)
  /-- BNZ (R136). BNZ decrements an index register and branches when the result is not zero, or always when XR is 0. -/
  | bnz (t n : Nat) (bad : List Nat)
  /-- KSET (R136). KSET writes one or two kernel operand registers from immediates plus index registers. -/
  | kset (t n : Nat) (bad : List Nat)
  /-- LD (R141). LD moves sectors from a VENT or REMOTE descriptor span into tile SRAM. -/
  | ld (t n : Nat) (bad : List Nat)
  /-- ST (R142). ST moves sectors from tile SRAM to a VENT or REMOTE descriptor span, completing when the region controller accepts the last sector. -/
  | st (t n : Nat) (bad : List Nat)
  /-- GLD (R141). GLD moves 8 KiB rows from the tile's geyser-mode layer-1 region into SRAM. -/
  | gld (t n : Nat) (bad : List Nat)
  /-- GST (R142). GST moves 8 KiB rows from SRAM into the geyser-mode layer-1 region. -/
  | gst (t n : Nat) (bad : List Nat)
  /-- HOSTLD (R141). HOSTLD loads host memory into SRAM through a HOST descriptor and the far cache. -/
  | hostld (t n : Nat) (bad : List Nat)
  /-- HOSTST (R380). HOSTST stores SRAM into host memory, completing when every written line is globally observed. -/
  | hostst (t n : Nat) (bad : List Nat)
  /-- PREF (R143). PREF asks the far cache to fill the lines of its span that it does not hold. -/
  | pref (t n : Nat) (bad : List Nat)
  /-- SEND (R144). SEND waits for a credit and sends SRAM sectors over a route into the next receive slot of another tile. -/
  | send (t n : Nat) (bad : List Nat)
  /-- RECV (R144). RECV waits until the channel's next slot is full, takes it and writes its first sector into an index register. -/
  | recv (t n : Nat) (bad : List Nat)
  /-- FREE (R146). FREE returns the oldest slot its stream has taken on a channel. -/
  | free (t n : Nat) (bad : List Nat)
  /-- SLOAD (R59). SLOAD fills a stationary bank of an array from SRAM, with the scale exponents of its rows. -/
  | sload (t n : Nat) (bad : List Nat)
  /-- GBLOAD (R69). GBLOAD fills a free half of the shared gradient buffer with one scaled block from SRAM. -/
  | gbload (t n : Nat) (bad : List Nat)
  /-- MPASS (R150). MPASS runs one array pass or limb group, or a lockstep D and W pair, adding its contributions into an accumulator bank. -/
  | mpass (t n : Nat) (bad : List Nat)
  /-- OUSET (R149). OUSET writes the issuing stream's numeric mode word, post-operation word and multiplier for one output unit. -/
  | ouset (t n : Nat) (bad : List Nat)
  /-- OUFIN (R72). OUFIN finalises an accumulator bank through post-operation, row statistics, requantisation and counts, writing SRAM or a score slot. -/
  | oufin (t n : Nat) (bad : List Nat)
  /-- OUSAVE (R79). OUSAVE writes an accumulator bank's s and e planes bit for bit to SRAM or a descriptor and leaves the bank EMPTY. -/
  | ousave (t n : Nat) (bad : List Nat)
  /-- OURESTORE (R79). OURESTORE writes a saved pair back into an EMPTY bank and makes it LIVE. -/
  | ourestore (t n : Nat) (bad : List Nat)
  /-- CHAINOUT (R147). CHAINOUT waits for an outstanding CHAININ at the receiving tile and sends it the bank pair, leaving the bank EMPTY. -/
  | chainout (t n : Nat) (bad : List Nat)
  /-- CHAININ (R147). CHAININ arms an EMPTY bank as WAIT_CHAIN for a chained pair. -/
  | chainin (t n : Nat) (bad : List Nat)
  /-- CHAIN_PAIR_ARRIVAL (R147). A chained pair arrives in full and the WAIT_CHAIN bank becomes LIVE. -/
  | chainPairArrival (t c : Nat)
  /-- GRADOUT (R151). GRADOUT finalises a weight-gradient bank in binary32 and writes it to a reduction segment, which is released when the write completes. -/
  | gradout (t n : Nat) (bad : List Nat)
  /-- VOP (R152). VOP runs an elementwise, conversion, special-function or row-reduction operation on the vector unit. -/
  | vop (t n : Nat) (bad : List Nat)
  /-- NORM_FWD (R103). NORM_FWD computes RMS or layer normalisation of rows and writes y and the row statistics. -/
  | normFwd (t n : Nat) (bad : List Nat)
  /-- NORM_BWD_ACC (R106). NORM_BWD_ACC adds a dy block's terms into the row pairs and the gain-gradient pairs and copies dy to SRAM. -/
  | normBwdAcc (t n : Nat) (bad : List Nat)
  /-- NORM_BWD_FIN (R105). NORM_BWD_FIN produces the input gradient dx of a block from the row terms. -/
  | normBwdFin (t n : Nat) (bad : List Nat)
  /-- ATTN_P (R109). ATTN_P folds a score block into the slot's online records and writes the block's exponentials p. -/
  | attnP (t n : Nat) (bad : List Nat)
  /-- ATTN_O (R110). ATTN_O rescales the O plane by the kept alphas and adds the P·V block. -/
  | attnO (t n : Nat) (bad : List Nat)
  /-- ATTN_FIN (R111). ATTN_FIN normalises O by the row sums, writes the output and statistics and closes the slot. -/
  | attnFin (t n : Nat) (bad : List Nat)
  /-- ATTN_DTERM (R113). ATTN_DTERM writes the row sums of dO times O for a query block. -/
  | attnDterm (t n : Nat) (bad : List Nat)
  /-- ATTN_DS (R114). ATTN_DS recomputes p and computes ds from S and dP, writing both into the shared gradient buffer halves. -/
  | attnDs (t n : Nat) (bad : List Nat)
  /-- XENT_BLK (R116). XENT_BLK folds a logit block into the loss records, captures target logits and copies the block. -/
  | xentBlk (t n : Nat) (bad : List Nat)
  /-- XENT_GRAD (R118). XENT_GRAD computes the scaled logit gradient dz from the final records. -/
  | xentGrad (t n : Nat) (bad : List Nat)
  /-- KSTORE (R154). KSTORE writes the 128 online records of an open kernel-state slot to SRAM. -/
  | kstore (t n : Nat) (bad : List Nat)
  /-- KLOAD (R154). KLOAD opens a closed kernel-state slot with records from SRAM and O at +0. -/
  | kload (t n : Nat) (bad : List Nat)
  /-- GAINOUT (R154). GAINOUT finalises the gain-gradient pairs and writes and releases their reduction segments. -/
  | gainout (t n : Nat) (bad : List Nat)
  /-- XENT_LOSS (R154). XENT_LOSS forms each row's loss at the chain's last tile, accumulates it and writes the sum and count. -/
  | xentLoss (t n : Nat) (bad : List Nat)
  /-- STALLED_ISSUE (R126). An instruction held at issue by a reservation, ownership, credit or unit state issues once what it waited for is free. -/
  | stalledIssue (t n : Nat) (bad : List Nat)
  /-- INSTRUCTION_COMPLETE (R131). A long-running instruction completes and adds 1 to its event counter when EVT_EN is set. -/
  | instructionComplete (t id : Nat)
  /-- MESH_DELIVERY (R144). A SEND's data is written into the receiver's slot, which becomes full in route order. -/
  | meshDelivery (t c : Nat)
  /-- CREDIT_RETURN (R146). A freed slot's credit returns to the sender once every earlier reader of the slot has made its last read. -/
  | creditReturn (t c : Nat)
  /-- TILE_OPEN_TIMEOUT (R260). A programmed tile that has not acknowledged a step opening within 20 µs is marked failed and FAIL is sent. -/
  | tileOpenTimeout (t : Nat)
  /-- OPEN (R237). STEP_CTRL.OPEN opens a step when STATE is CLOSED, or is refused with a step code. -/
  | openStep (m : Nat)
  /-- DEFERRED_OPEN (R238). An OPEN that waited on installation, healing or a CRITICAL column is decided once it may proceed. -/
  | deferredOpen
  /-- ABORT_REQ (R254). STEP_CTRL.ABORT_REQ sets ABORT_PENDING, which makes the device send FAIL. -/
  | abortReq (m : Nat)
  /-- REGATHER (R259). STEP_CTRL.REGATHER, accepted while CLOSED, zeroes the gather counts and re-derives and gathers the working copies. -/
  | regather (m : Nat)
  /-- ROLLBACK (R258). STEP_CTRL.ROLLBACK, accepted OUT_OF_STEP one step ahead, inverts VERSION and lowers STEP_COMMITTED to K. -/
  | rollback (m : Nat)
  /-- SEND_READY (R249). The device sends READY once every condition of R21, R121, R324 and R408 holds for the open attempt. -/
  | sendReady
  /-- READY_FRAME (R250). A READY step frame is received, forwarded and, at the anchor, counted toward the decision. -/
  | readyFrame (p : Nat) (back : Bool) (rx : LineRx)
  /-- FAIL_FRAME (R250). A FAIL step frame is received, forwarded and, at the anchor, decides ABORT. -/
  | failFrame (p : Nat) (back : Bool) (rx : LineRx)
  /-- COMMIT_FRAME (R251). A COMMIT frame is accepted, forwarded and the device reaches its commit boundary in that cycle. -/
  | commitFrame (p : Nat) (back : Bool) (rx : LineRx)
  /-- ABORT_FRAME (R251). An ABORT frame is accepted, forwarded and the device reaches its abort boundary in that cycle. -/
  | abortFrame (p : Nat) (back : Bool) (rx : LineRx)
  /-- A_DONE (R248). An A_DONE frame on ring B tells the torus step anchor that a whole ring A holds READY. -/
  | aDone (p : Nat) (back : Bool) (rx : LineRx)
  /-- STEP_TIMEOUT (R250). When STEP_TIMEOUT milliseconds pass without a decision, the anchor decides ABORT. -/
  | stepTimeout
  /-- POLL (R257). A POLL frame from the new step anchor asks each answering member for its committed step, attempt and open state. -/
  | poll (p : Nat) (back : Bool) (rx : LineRx)
  /-- POLL_REPLY (R257). A POLL_REPLY reaches the anchor carrying a member's committed step, attempt and open state. -/
  | pollReply (p : Nat) (back : Bool) (rx : LineRx)
  /-- POLL_RESEND (R257). Every 20 µs while a reply is missing the anchor resends POLL on both directions. -/
  | pollResend
  /-- POLL_CLOSE (R257). The anchor closes the poll when all replies are held or 150 µs have passed, computes K and A, and sends COMMIT and ABORT. -/
  | pollClose (timeout : Bool)
  /-- STAGE (R227). CFG_CMD.STAGE copies a bitstream from host memory into the shadow store. -/
  | stage (m : Nat)
  /-- STAGE_COMPLETE (R227). The staging copy ends, leaving the loader STAGED, or REJECTED with CFG_SOURCE on a read error. -/
  | stageComplete (bytes : List Byte) (failed : Option Nat)
  /-- CHECK (R228). CFG_CMD.CHECK starts the ordered header, table, signature, section and cross-section checks. -/
  | check (m : Nat)
  /-- CHECK_COMPLETE (R229). The checks end with the loader READY, or REJECTED with CFG_ERROR recorded. -/
  | checkComplete
  /-- ARM (R230). CFG_CMD.ARM starts installation at once when no step is open, or arms it for the next abort boundary. -/
  | arm (m : Nat)
  /-- DISARM (R226). CFG_CMD.DISARM returns an ARMED loader to READY. -/
  | disarm (m : Nat)
  /-- DISCARD (R226). CFG_CMD.DISCARD drops the staged bitstream and returns the loader to EMPTY. -/
  | discard (m : Nat)
  /-- INSTALLATION (R232). Once tiles, gather, update units, ring jobs and column resets are quiet, the loader installs the bitstream in order and returns to EMPTY. -/
  | installation
  /-- RESOURCE_CLAIM (R224). A run-time request for a shared resource proceeds, claims an unowned resource, or returns RESOURCE_BUSY. -/
  | resourceClaim (res inst owner arg : Nat) (release : Bool)
  /-- MEM_REQUEST (R178). A request reaches a region controller and is accepted into a slot or waits under the quota and ceilings. -/
  | memRequest (req a n : Nat) (data : Option (List Byte)) (mask : Option (List Bool))
  /-- MEM_REQUEST_ACCEPT (R178). A waiting request is accepted when a slot within its quota and the bank ceiling frees. -/
  | memRequestAccept (id cycles : Nat)
  /-- MEM_REQUEST_DONE (R178). A request's last sector is read out or written into the array and its slot is freed. -/
  | memRequestDone (id : Nat) (bad : List Nat) (weak : List (Nat × Nat))
  /-- CORRECTED_WRITEBACK (R189). A corrected sector is written back unless a later write to it has been accepted. -/
  | correctedWriteback (a : Nat)
  /-- REFRESH_ROW (R186). A row's refresh falls due and takes its bank for 32 memory cycles ahead of waiting requests. -/
  | refreshRow (w l : Nat) (bad : List Nat) (weak : List (Nat × Nat))
  /-- REFRESH_BAND_RELAX (R185). After 100 ms at least 2 °C below the band's lower bound the controller returns to the longer interval. -/
  | refreshBandRelax (w l : Nat)
  /-- SCRUB_READ (R192). The scrubber reads its next sector, writing back corrections and logging uncorrectable ones. -/
  | scrubRead (w l : Nat) (weak : Option Nat) (bad : Bool)
  /-- HOP_FRAME_RESEND (R164). A vertical-channel frame that fails its CRC is resent, and after a fifth failure the hop is marked failed. -/
  | hopFrameResend (c l : Nat) (fails : Bool)
  /-- LAY_RESET (R195). REG_LCTRL.LAY_RESET starts a 2 µs layer-array reset that ends all slot-holding requests of the layer. -/
  | layReset (m w l : Nat)
  /-- LAY_RESET_END (R195). The layer-array reset ends, LAY registers reset and the layer serves requests again. -/
  | layResetEnd (c l : Nat)
  /-- COL_RESET (R196). REG_COLCTRL.COL_RESET requests a column reset, refused with COL_RESET_REFUSED outside its conditions. -/
  | colReset (m c : Nat)
  /-- COL_RESET_DRAINED (R197). Once every slot of the column is free the column resets its relays and layer arrays over 20 µs. -/
  | colResetDrained (c : Nat)
  /-- COL_RESET_DRAIN_TIMEOUT (R197). After 100 µs of draining the remaining requests complete with MEM_COLUMN_RESET. -/
  | colResetDrainTimeout (c : Nat)
  /-- COL_RESET_END (R197). The column reset ends, clearing HOP_FAILED and resetting the column's COL and LAY registers. -/
  | colResetEnd (c : Nat)
  /-- REDUCE_FLIT (R308). A reduce-scatter data flit is checked, and the device adds its contribution and forwards it or, as owner, writes the result. -/
  | reduceFlit (p : Nat) (back : Bool) (rx : LineRx)
  /-- ORIGINATE_SEGMENT (R307). After local release the origin sends each slice of a segment with its own contribution. -/
  | originateSegment (seg ring : Nat)
  /-- HELD_SLICE_ADD (R309). A slice that arrived before the local release is added and forwarded once the segment is released. -/
  | heldSliceAdd (p c : Nat)
  /-- GATHER_FLIT (R317). An all-gather flit is checked, written into the working-copy partition and forwarded, or held by its GKIND. -/
  | gatherFlit (p : Nat) (back : Bool) (rx : LineRx)
  /-- SKIP_NOTICE (R323). A received skip notice is checked, records SKIP and is forwarded until it returns to its origin. -/
  | skipNotice (p : Nat) (back : Bool) (rx : LineRx)
  /-- SKIP_COPY (R323). After SKIP, update units copy the version in use into the inactive version for every group. -/
  | skipCopy
  /-- SKIP_NOTICE_SEND (R323). Once the SKIP copy has caught up, the device sends a skip notice on the ring. -/
  | skipNoticeSend (ring : Nat)
  /-- LOW_RANK_SEQUENCE (R326). Once a MODE 1 job's segments are released, update units form M and P and start round 1. -/
  | lowRankSequence (j : Nat)
  /-- LOW_RANK_ROUND1_DONE (R327). After round 1 the units orthonormalise P, form Q′loc and start round 2. -/
  | lowRankRound1Done (j : Nat)
  /-- LOW_RANK_ROUND2_DONE (R326). After round 2 the units write E_new and Q′ and rebuild the owned gradient segments. -/
  | lowRankRound2Done (j : Nat)
  /-- DIGEST_FLIT (R357). A digest comparison or narrowing flit is checked, compared with the device's own digests and forwarded. -/
  | digestFlit (p : Nat) (back : Bool) (rx : LineRx)
  /-- DIGEST_COMPUTE (R356). In a due step, once every gather count is at its total, the device computes group digests and sends comparison flits. -/
  | digestCompute
  /-- NARROWING_SEND (R359). After a mismatch the device sends narrowing flits carrying every granule digest of mismatching groups. -/
  | narrowingSend
  /-- UPDATE_PROGRAM_SEGMENT (R337). An update unit runs a segment-scope program on an owned segment once it is reduced. -/
  | updateProgramSegment (g seg : Nat)
  /-- UPDATE_PROGRAM_PASS (R337). An update unit runs pass p of a group-scope program once all owned segments are reduced and pass p − 1 is done everywhere. -/
  | updateProgramPass (g p seg : Nat)
  /-- UPD_PASS (R342). Update instruction PASS starts a pass, resetting V registers and accumulators. -/
  | updPass (u g seg p : Nat)
  /-- UPD_END (R342). Update instruction END ends the program. -/
  | updEnd (u : Nat)
  /-- UPD_WCF (R342). Update instruction WCF sets the working-copy form of the program's groups. -/
  | updWcf (u g seg : Nat)
  /-- UPD_ADD (R342). Update instruction ADD sets DST to A plus B. -/
  | updAdd (u : Nat)
  /-- UPD_SUB (R342). Update instruction SUB sets DST to A minus B. -/
  | updSub (u : Nat)
  /-- UPD_MUL (R342). Update instruction MUL sets DST to A times B. -/
  | updMul (u : Nat)
  /-- UPD_FMA (R342). Update instruction FMA sets DST to A × B + C rounded once. -/
  | updFma (u : Nat)
  /-- UPD_MAX (R342). Update instruction MAX sets DST to the maximum of A and B. -/
  | updMax (u : Nat)
  /-- UPD_MIN (R342). Update instruction MIN sets DST to the minimum of A and B. -/
  | updMin (u : Nat)
  /-- UPD_NEG (R342). Update instruction NEG sets DST to minus A. -/
  | updNeg (u : Nat)
  /-- UPD_ABS (R342). Update instruction ABS sets DST to the magnitude of A. -/
  | updAbs (u : Nat)
  /-- UPD_CMPLT (R342). Update instruction CMPLT sets DST to 1.0 where A < B, else +0. -/
  | updCmplt (u : Nat)
  /-- UPD_SEL (R342). Update instruction SEL sets DST to B where A is non-zero, else C. -/
  | updSel (u : Nat)
  /-- UPD_EXP2 (R342). Update instruction EXP2 sets DST to 2 to the power A. -/
  | updExp2 (u : Nat)
  /-- UPD_LOG2 (R342). Update instruction LOG2 sets DST to the base-2 logarithm of A. -/
  | updLog2 (u : Nat)
  /-- UPD_RCP (R342). Update instruction RCP sets DST to the reciprocal of A. -/
  | updRcp (u : Nat)
  /-- UPD_RSQRT (R342). Update instruction RSQRT sets DST to the reciprocal square root of A. -/
  | updRsqrt (u : Nat)
  /-- UPD_SQRT (R342). Update instruction SQRT sets DST to the IEEE square root of A. -/
  | updSqrt (u : Nat)
  /-- UPD_ACC (R342). Update instruction ACC adds A into a row, column or total accumulator. -/
  | updAcc (u : Nat)
  /-- UPD_STW (R343). Update instruction STW writes A as the master of the inactive version. -/
  | updStw (u : Nat)
  /-- UPD_STM (R343). Update instruction STM writes A as moment k of the inactive version. -/
  | updStm (u : Nat)
  /-- UPD_STF (R343). Update instruction STF writes a row, column or sum factor of the inactive version. -/
  | updStf (u : Nat)
  /-- WC_DERIVE (R347). After a commit the update units derive each owned segment's working copy from the master and send it in gather order. -/
  | wcDerive
  /-- LATE_PENDING_COPY (R350). When a late group's owned segments are reduced, the units copy them into pending slot N mod 5. -/
  | latePendingCopy (g seg : Nat)
  /-- LATE_APPLICATION (R351). At step opening each due pending gradient is applied in ascending step once it is complete. -/
  | lateApplication (g n : Nat)
  /-- POD_EXCHANGE_SEND (R417). The owner sends each reduced late segment by RDMA WRITE and a 32-byte SEND to every other pod of its set. -/
  | podExchangeSend (g seg pod : Nat)
  /-- POD_COPY_RECEIVE (R418). A pod copy's SEND arrives and the receiver keeps the first CRC-valid copy of each step, group, segment and pod. -/
  | podCopyReceive (qp : Nat) (msg : List Byte)
  /-- POD_TIMEOUT (R419). An application that has waited TIMEOUT_MS for an incomplete pending gradient reports ETH_POD_TIMEOUT and sends FAIL. -/
  | podTimeout (g n : Nat)
  /-- BAR0_UNSUPPORTED (R365). A BAR0 access that is not an aligned 4- or 8-byte read or write completes as Unsupported Request. -/
  | bar0Unsupported (off len : Nat)
  /-- BAR2_READ (R366). A host read through BAR2 reaches bonded memory as requester 274, or returns 0 outside memory, reserved bytes or while PENDING. -/
  | bar2Read (x n : Nat)
  /-- BAR2_WRITE (R368). A host write through BAR2 lands in bonded memory, or is discarded for reserved bytes or while PENDING. -/
  | bar2Write (x : Nat) (data : List Byte) (mask : List Bool)
  /-- CXL_MEM_READ (R367). A CXL.mem read through the HDM decoder reaches bonded memory under the page's bias. -/
  | cxlMemRead (hpa share : Nat)
  /-- CXL_MEM_WRITE (R368). A CXL.mem write through the HDM decoder lands in bonded memory under the page's bias. -/
  | cxlMemWrite (hpa : Nat) (data : List Byte) (mask : List Bool)
  /-- QUEUE_ENABLE (R382). Setting HIF_Qq_CFG.ENABLE reads the queue bases and size and zeroes head and tail. -/
  | queueEnable (m q size : Nat)
  /-- QUEUE_DISABLE (R382). Clearing ENABLE stops the queue after its running command. -/
  | queueDisable (m q : Nat)
  /-- SQ_TAIL_DOORBELL (R382). A write to HIF_Qq_SQ_TAIL sets the tail, or stops the queue when out of range. -/
  | sqTailDoorbell (m q v : Nat)
  /-- CQ_HEAD_DOORBELL (R393). A write to HIF_Qq_CQ_HEAD releases completion entries, or stops the queue when out of range. -/
  | cqHeadDoorbell (m q v : Nat)
  /-- DESCRIPTOR_FETCH (R382). The device fetches a descriptor whenever the queue's head differs from its tail. -/
  | descriptorFetch (q : Nat) (bytes : List Byte)
  /-- COMMAND_START (R388). A fetched command starts, after any BARRIER wait, and is checked in order. -/
  | commandStart (q : Nat)
  /-- CMD_NOP (R385). Command NOP completes with no effect. -/
  | cmdNop (q : Nat)
  /-- COPY (R385). Command COPY copies LEN sectors between buffers. -/
  | copy (q : Nat) (host : List Byte) (err : Option (Nat × Nat))
  /-- FILL (R385). Command FILL writes a 64-bit value into every 8 bytes of a span. -/
  | fill (q : Nat) (err : Option (Nat × Nat))
  /-- BIAS (R372). Command BIAS changes the bias of the pages of a bonded span to DEVICE or SHARED. -/
  | bias (q : Nat)
  /-- FC_FLUSH (R385). Command FC_FLUSH writes back, and optionally invalidates, the dirty lines of the marked far-cache partitions. -/
  | fcFlush (q : Nat) (err : Option Nat)
  /-- COMMAND_COMPLETE (R391). Once every write is confirmed the device writes the flag, the completion record and the interrupt in order. -/
  | commandComplete (q : Nat)
  /-- BISNP_RESPONSE (R372). The host answers a back-invalidate snoop, letting a bias change or device access proceed. -/
  | bisnpResponse (line : Nat) (inv : Bool) (data : Option (List Byte))
  /-- BIAS_SNOOP_TIMEOUT (R373). A page whose snoops are unanswered for 10 ms stays SHARED with TIMEOUT set. -/
  | biasSnoopTimeout (p : Nat)
  /-- FAR_CACHE_FILL_DONE (R376). A far-cache fill returns from the host and the line is installed, evicting the least recently used way. -/
  | farCacheFillDone (part line : Nat) (cached write : Bool) (data : List Byte) (err : Nat)
  /-- HOST_SNOOP (R378). A host snoop to the far cache is answered with a whole line. -/
  | hostSnoop (line kind : Nat)
  /-- LINK_RECOVERY (R397). The host link enters Recovery, holding host-bound traffic while steps continue. -/
  | linkRecovery
  /-- LINK_OUT_TIMEOUT (R398). The link out of L0, L0p and L1 for more than 2 ms makes the device reset itself. -/
  | linkOutTimeout
  /-- HOT_RESET (R398). A PCI Express hot reset resets the device. -/
  | hotReset
  /-- FUNCTION_LEVEL_RESET (R364). A Function Level Reset acts as a hot reset. -/
  | functionLevelReset
  /-- DL_DOWN (R398). DL_Down from the Data Link Layer makes the device reset itself. -/
  | dlDown
  /-- PERST (R398). Assertion of PERST# resets the device. -/
  | perst
  /-- NVME_READ (R405). Command NVME_READ reads sectors from a controller into a buffer. -/
  | nvmeRead (q : Nat)
  /-- NVME_WRITE (R406). Command NVME_WRITE writes sectors to a controller with FUA. -/
  | nvmeWrite (q : Nat) (host : List Byte) (err : Option (Nat × Nat))
  /-- CKPT_WRITE (R410). Command CKPT_WRITE writes block 0, data, manifest and commit record of a checkpoint in order. -/
  | ckptWrite (q : Nat)
  /-- CKPT_READ_COMPLETE (R411). When a checkpoint has read all its data, held update-unit writes to that version proceed. -/
  | ckptReadComplete (q : Nat) (host : List Byte) (err : Nat)
  /-- CKPT_RESTORE (R415). Command CKPT_RESTORE validates a slot and writes its owned entries into the inactive version. -/
  | ckptRestore (q : Nat)
  /-- INGEST_PREFILL (R405). Command INGEST_PREFILL fills the ingest half of the step STEP_NUMBER names. -/
  | ingestPrefill (q : Nat)
  /-- NVME_COMPLETION (R406). An NVMe completion arrives and confirms a write or stops the command on error status. -/
  | nvmeCompletion (id status : Nat) (data : List Byte)
  /-- NVME_TIMEOUT (R406). An NVMe command without completion within the controller timeout gives ETH_NVME_TIMEOUT. -/
  | nvmeTimeout (id : Nat)
  /-- INGEST_COMPLETE (R408). The input of the next step has been written completely into its ingest half. -/
  | ingestComplete
  /-- INGEST_ENABLE (R407). Setting ETH_ING_CTRL.EN starts ingest, or is refused with ETH_FIELD for a partition too small. -/
  | ingestEnable (m ctrl part blocks : Nat)
  /-- POD_SET_WRITE (R417). A write of ETH_PODSk with non-zero COUNT configures a pod set, or is refused with ETH_FIELD. -/
  | podSetWrite (m k timeout part base self count : Nat)
  /-- PTP_ENABLE (R420). Setting ETH_PTP_CTRL.EN claims the port's timestamp units for PTP or returns RESOURCE_BUSY. -/
  | ptpEnable (m p : Nat)
  /-- PTP_MESSAGE (R421). A PTP message is timestamped and, at the time master, steers fabric time to PTP time. -/
  | ptpMessage (p kind t : Nat)
  /-- PEER_RDMA_REQUEST (R403). A peer RDMA READ or WRITE succeeds inside one valid memory region that allows it, or draws a remote-access NAK. -/
  | peerRdmaRequest (qp : Nat) (write : Bool) (rkey addr len : Nat) (data : List Byte)
  /-- QP_ERROR (R404). A queue pair exhausting retries or receiving an error NAK moves to ERROR and may send FAIL. -/
  | qpError (qp : Nat)
  /-- ETH_LINK_DOWN (R424). An Ethernet port loses its link and its traffic waits. -/
  | ethLinkDown (p : Nat)
  /-- LINK_CONTROL_FLIT (R272). A link-control flit acknowledges, NAKs, proposes or accepts a lane map and returns credits. -/
  | linkControlFlit (p : Nat) (rx : LineRx) (mapAt : Nat)
  /-- ACK_TIMER (R271). The receiver acknowledges at least every 256 flits and every 1 µs. -/
  | ackTimer (p : Nat)
  /-- LINK_RETRAIN_DONE (R273). Retraining restores the link to the same partner and replayed flits are resent. -/
  | linkRetrainDone (p bad : Nat)
  /-- LANE_FAILED (R274). A receive lane is marked failed and the link begins restriping, or goes down below 8 lanes. -/
  | laneFailed (p lane power ser uncorr : Nat)
  /-- LANE_MAP_SWITCH (R275). At the agreed codeword count both ends apply the new lane map. -/
  | laneMapSwitch (p dir : Nat)
  /-- LANE_RETEST (R277). Once a minute the port retests each failed lane with a test pattern. -/
  | laneRetest (p lane : Nat)
  /-- LANE_REJOIN (R277). A lane that runs 10 ms without fault rejoins the map. -/
  | laneRejoin (p lane power ser : Nat)
  /-- JOIN (R279). RING_CTRL.JOIN opens a ring's bypass after a loopback self-test, or is refused with RING_STATE. -/
  | join (m ring : Nat) (selftest : Bool)
  /-- SWITCH_OPEN_REACHED (R279). The bypass reaches OPEN and the ring's membership change begins. -/
  | switchOpenReached (ring : Nat)
  /-- LEAVE (R280). Setting RING_CTRL.LEAVE closes the ring's bypass within 400 µs. -/
  | leave (m ring : Nat)
  /-- ROSTER_RESET (R283). RING_CTRL.ROSTER_RESET clears both rosters for the next discovery to write. -/
  | rosterReset (m : Nat)
  /-- BYPASS_FAULT (R281). A switch missing its commanded state within 400 µs reports RING_BYPASS_FAULT and takes the device off the ring. -/
  | bypassFault (ring : Nat)
  /-- LINK_UP (R284). A ring port comes up with a partner, refused under the bypass limit or starting a membership change on a new partner. -/
  | linkUp (p serial rx tx margin : Nat)
  /-- LINK_DOWN_TIMEOUT (R285). A port without its link for 300 µs begins a membership change. -/
  | linkDownTimeout (p : Nat)
  /-- HOLD (R285). A HOLD membership flit starts or restarts the membership change and is forwarded. -/
  | hold (p : Nat) (back : Bool) (rx : LineRx)
  /-- DISCOVER (R286). A DISCOVER flit is recorded and forwarded, or returns to its sender. -/
  | discover (p : Nat) (back : Bool) (rx : LineRx)
  /-- DISCOVERY_TIMEOUT (R290). Discovery not complete within 100 µs raises the round and restarts discovery. -/
  | discoveryTimeout (ring : Nat)
  /-- RING_WRAP (R291). A port down for 600 µs wraps the ring at that port. -/
  | ringWrap (p : Nat)
  /-- SYNC_SEND (R296). Every 10 µs each port sends a SYNC flit to its partner. -/
  | syncSend (p frac : Nat)
  /-- DELAY_EXCHANGE (R296). Every 100 µs each port starts a delay exchange with its partner. -/
  | delayExchange (p frac : Nat)
  /-- SYNC (R297). A received SYNC updates the source selection and steers fabric time. -/
  | sync (p frac : Nat) (rx : LineRx)
  /-- DELAY_REQ (R296). A DELAY_REQ is timestamped and answered with DELAY_RESP. -/
  | delayReq (p frac : Nat) (rx : LineRx)
  /-- DELAY_RESP (R296). A DELAY_RESP lets the port compute the link delay. -/
  | delayResp (p frac left : Nat) (rx : LineRx)
  /-- TIME_HOLDOVER (R299). No usable SYNC for 1 ms enters HOLDOVER on the resonator. -/
  | timeHoldover
  /-- MAILBOX_WRITE (R429). A write to MBX_CHn_DATA stores the word and raises a wake, or is discarded with NOT_BOUND or OVERRUN. -/
  | mailboxWrite (m n word : Nat)
  /-- HELD_MESSAGE_SEND (R429). A cluster controller or hub sequencer sends a held message once its channel is empty. -/
  | heldMessageSend (n : Nat)
  /-- MAILBOX_TAKE (R430). An 8-byte read of MBX_CHn_TAKE by the bound receiver returns the word and clears FULL. -/
  | mailboxTake (m n : Nat)
  /-- MAILBOX_CLEAR (R430). MBX_CHn_STATUS.CLEAR by the management core clears the word and the lock. -/
  | mailboxClear (m n : Nat)
  /-- MAILBOX_LOCK_CLAIM (R433). A read of MBX_CHn_LOCK claims an unclaimed shared channel or returns the holder. -/
  | mailboxLockClaim (m n : Nat)
  /-- MAILBOX_LOCK_RELEASE (R433). A write of 0 by the holder releases the claim; from another master it logs MBX_LOCK. -/
  | mailboxLockRelease (m n : Nat)
  /-- MBX_BIND_WRITE (R428). A write of MBX_BINDn while unlocked rebinds a channel and discards its word. -/
  | mbxBindWrite (m n sender receiver : Nat)
  /-- MBX_BIND_LOCK (R428). Setting MBX_BIND_LOCK.LOCKED locks the binding table until a DEV reset. -/
  | mbxBindLock (m : Nat)
  /-- FW_WRITE (R437). SEC_CMD FW_WRITE copies an image into the slot not booted. -/
  | fwWrite (m : Nat)
  /-- FW_WRITE_DONE (R437). The written slot is checked by R435 and marked valid only if every check passes. -/
  | fwWriteDone (bytes : List Byte)
  /-- FW_ACTIVATE (R437). SEC_CMD FW_ACTIVATE sets the valid new slot preferred for trial and resets the management core. -/
  | fwActivate (m : Nat)
  /-- FW_CONFIRM (R437). SEC_CMD FW_CONFIRM ends the trial, raises MIN_SVN and revokes lower vendor key pairs. -/
  | fwConfirm (m : Nat)
  /-- OWNER_REQUEST (R441). SEC_CMD OWNER_REQUEST checks and applies an ENROL, REVOKE or RELEASE owner request. -/
  | ownerRequest (m : Nat) (request : List Byte)
  /-- DEV_RESET (R437). SEC_CMD DEV_RESET resets the device by the management core. -/
  | devReset (m : Nat)
  /-- SB_DEV_RESET (R437). SEC_SB_CTRL.DEV_RESET from the board controller resets the device by the management core. -/
  | sbDevReset (m : Nat)
  /-- MC_RESET (R427). SEC_SB_CTRL.MC_RESET, FW_ACTIVATE or power-on resets the management core, clears measurements and restarts the boot ROM. -/
  | mcReset (m : Nat)
  /-- WATCHDOG_EXPIRY (R427). Expiry of the 1 s watchdog resets the management core. -/
  | watchdogExpiry
  /-- JEOFT_START (R436). The ROM accepts a slot and Jeoft runs, releasing waiting CHECK, DOE and SEC commands. -/
  | jeoftStart
  /-- DOE_DISCOVERY (R445). A DOE Discovery request is answered. -/
  | doeDiscovery (index : Nat)
  /-- GET_CERT (R445). A DOE GET_CERT request returns an identity certificate. -/
  | getCert (request : List Byte)
  /-- ATTEST (R446). A DOE ATTEST request returns a signed attestation report within 5 ms. -/
  | attest (request : List Byte)
  /-- ENROL_ENABLE (R442). SEC_ENROL.ENABLE from the board controller permits one unsigned first ENROL. -/
  | enrolEnable (m : Nat)
  /-- ENROL_ENABLE_EXPIRY (R442). ENABLE clears 600 s after it is set. -/
  | enrolEnableExpiry
  /-- ERROR_REPORT (R451). An error report reaches the management core and becomes an error-history record and an interrupt. -/
  | errorReport (bad : Bool)
  /-- HOURLY_WEAR_RECORD (R481). Hourly, counters, bins and damage indices are stored in the nonvolatile store. -/
  | hourlyWearRecord
  /-- SMBUS_WRITE (R452). A sideband block write of command 0x11 writes a BAR0 offset reachable by the board controller. -/
  | smbusWrite (off : Nat) (data : List Byte) (ok : Bool)
  /-- SMBUS_READ (R452). A sideband command 0x10 returns the data at a reachable BAR0 offset. -/
  | smbusRead (off len : Nat) (ok : Bool)
  /-- POWER_ON (R454). Input at 40 V or more for 10 ms with MATE# closed begins power-on and samples the straps. -/
  | powerOn (straps : Nat) (corrupt : Bool)
  /-- INPUT_LOW (R454). Input from 38 V up to 40 V reports PWR_INPUT_LOW and holds every class at its floor. -/
  | inputLow (v : Nat)
  /-- INPUT_HIGH (R454). Input above 60 V up to 62 V reports PWR_INPUT_HIGH and holds every class at its floor. -/
  | inputHigh (v : Nat)
  /-- INPUT_HOLD_END (R454). Input back within 40 V to 60 V for 10 ms ends the floor hold. -/
  | inputHoldEnd
  /-- INPUT_LOST (R454). Input outside 38 V to 62 V for 2 µs closes bypasses, completes a started record and stops logic and refresh. -/
  | inputLost
  /-- MATE_OPEN (R530). MATE# opening is treated within 2 µs as loss of input. -/
  | mateOpen
  /-- SB_VREF_LOW (R526). SB_VREF below 1.5 V is treated as PERST# asserted. -/
  | sbVrefLow
  /-- REGULATOR_FAULT (R457). A faulting regulator is turned off, with FAIL for a cluster or a device reset for hub, photonic or layer regulators. -/
  | regulatorFault (kind a b : Nat)
  /-- LAYER_REGULATOR_RECOVERED (R457). A restarted layer regulator held for 10 ms has its layer zeroed and the column serves requests again. -/
  | layerRegulatorRecovered (c l : Nat)
  /-- POWER_DIVISION (R468). Every 1 ms the controller divides available power among the classes and sets the common frequency step. -/
  | powerDivision (fixed : Nat) (power demand : List Nat) (inputW inputV : Nat)
  /-- FAST_LOOP (R470). Every 1 µs the fast loop measures input power, updates the energy credit and cuts issue duty and rates when needed. -/
  | fastLoop (p : Nat)
  /-- PWR_LIMIT_WRITE (R471). A write to PWR_LIMIT sets the sustained limit from the next division. -/
  | pwrLimitWrite (m watts : Nat)
  /-- THERMAL_TICK (R473). Every 1 ms the thermal engine updates each node's heat flow, model value and estimate. -/
  | thermalTick (c : Nat) (sensors powers : List (List Int)) (inlet outlet : Int)
  /-- WARN_STEP (R476). Every 10 ms in WARN the column's cap and rates come down one step. -/
  | warnStep (c : Nat)
  /-- CRITICAL_ENTRY (R477). A node held 10 °C above its limit for 1 ms puts the column CRITICAL, stops its tiles and sends FAIL. -/
  | criticalEntry (c : Nat)
  /-- COLUMN_STATE_RELAX (R476). After 100 ms at least 2 °C below entry, a column leaves its state and caps rise one step every 100 ms. -/
  | columnStateRelax (c : Nat)
  /-- SENSOR_SUSPECT (R475). A sensor disagreeing with the model by over 6 °C for 100 ms is marked suspect and replaced by the model. -/
  | sensorSuspect (c r j : Nat)
  /-- SUSPECT_CLEAR (R475). THM_CTRL.SUSPECT_CLEAR clears every mark whose disagreement no longer holds. -/
  | suspectClear
  /-- MARGIN_START (R482). THM_MARGIN_CTRL.START measures the vertical eyes of a column, or is refused. -/
  | marginStart (m c : Nat)
  /-- MARGIN_DONE (R482). The eye measurement ends, recording worst heights and widths and reporting low margin. -/
  | marginDone (eyes : List (Nat × Nat × Nat))
  /-- TILE_IDLE (R462). A tile that can neither issue nor has work in flight becomes IDLE. -/
  | tileIdle (t : Nat)
  /-- TILE_SLEEP (R462). A tile IDLE for SLEEP_AFTER ticks enters SLEEP. -/
  | tileSleep (t : Nat)
  /-- TILE_OFF (R462). A tile in SLEEP for SLEEP_AFTER ticks enters OFF where allowed. -/
  | tileOff (t : Nat)
  /-- PLL_OFF (R463). A PLL in STANDBY whose condition has held 1 ms enters OFF where allowed. -/
  | pllOff (k : Nat)
  /-- TILE_WAKE (R464). A wake event for a sleeping tile requests admission and relocks its PLL. -/
  | tileWake (t : Nat)
  /-- WAKE_ADMISSION (R465). At most 32 waiting tiles per microsecond are admitted to leave SLEEP or OFF in ascending tile order. -/
  | wakeAdmission
  /-- COUNTER_SELECT (R487). A write to DBG_CTRk_SEL or DBG_CMDc_SEL selects an event and scope at the boundary, or logs DBG_EVENT_INVALID. -/
  | counterSelect (cmd : Bool) (k scope inst event : Nat)
  /-- FREEZE_ARM (R495). DBG_FREEZE_CTRL.ARM arms a freeze at DBG_FREEZE_AT, or logs DBG_FREEZE_LATE. -/
  | freezeArm (m : Nat)
  /-- FREEZE_DISARM (R495). DBG_FREEZE_CTRL.DISARM returns an ARMED device to IDLE. -/
  | freezeDisarm (m : Nat)
  /-- FREEZE_EDGE (R496). At fabric time T the work units stop at their next edge and the device is FROZEN. -/
  | freezeEdge
  /-- RESUME_AT_WRITE (R499). A write to DBG_RESUME_AT while FROZEN sets the resume time, or logs DBG_FREEZE_LATE. -/
  | resumeAtWrite (t : Nat)
  /-- RESUME (R499). At DBG_RESUME_AT the units resume from where they stopped, processing held flits first. -/
  | resume
  /-- DIGEST_LOG_ENABLE (R502). Setting DBG_CAP_CTRL.LOG_EN claims the capture buffer for the digest log or latches RESOURCE_BUSY. -/
  | digestLogEnable
  /-- TRACE_ENABLE (R502). Setting DBG_CAP_CTRL.TRACE_EN claims the capture buffer for trace capture or latches RESOURCE_BUSY. -/
  | traceEnable
  /-- REPLAY_START (R509). DBG_REPLAY_CTRL.START begins a replay of the last committed step with its gather, or is refused. -/
  | replayStart (m : Nat)
  /-- REPLAY_GATHER_DONE (R509). When the replay gather completes, tiles reset and start as at an opening under the committed attempt. -/
  | replayGatherDone
  /-- REPLAY_RUN_DONE (R509). When every stream has ended and every job and update program is done, the replay moves to COMPARING. -/
  | replayRunDone
  /-- REPLAY_COMPARE_DONE (R511). Comparison of replay entries with committed entries ends DONE, with mismatches marked and MSI-X vector 14. -/
  | replayCompareDone
  /-- REPLAY_CANCEL (R512). DBG_REPLAY_CTRL.CANCEL ends a replay CANCELLED. -/
  | replayCancel (m : Nat)
  /-- TILE_RESET (R521). CLU_CTRL.TILE_RESET requests a 1 µs TILE-domain reset, or is refused with STEP_STATE. -/
  | tileReset (m k mask : Nat)
  /-- CLU_RESET (R521). CLU_CTRL.CLU_RESET requests a 10 µs cluster reset leaving the PLL OFF, or is refused with STEP_STATE. -/
  | cluReset (m k : Nat)
  /-- TILE_RESET_END (R521). A tile reset ends and sets the tile UNLOADED. -/
  | tileResetEnd (k j : Nat)
  /-- CLU_RESET_END (R521). A cluster reset ends and sets its tiles UNLOADED. -/
  | cluResetEnd (k : Nat)
  /-- HOST_LINK_L0 (R397). The host link reaches L0, after Recovery or after training following a reset, and held requests, descriptor fetches and MSI-X messages proceed. -/
  | hostLinkL0 (rate width : Nat) (cxl : Bool)
  /-- PERST_DEASSERT (R538). PERST# is deasserted, or SB_VREF rises back to 1.5 V or more, and link training begins within 20 ms of the effective deassertion. -/
  | perstDeassert
  /-- ETH_LINK_UP (R400). An Ethernet port gains its link and the traffic that waited on it proceeds. -/
  | ethLinkUp (p lanes : Nat)
  /-- TILE_WAKE_DONE (R464). An admitted tile finishes its power-up and PLL relock and becomes RUN, and deliveries held in the router reach it. -/
  | tileWakeDone (t : Nat)
  /-- CONFIG_REQUEST (R543). A host configuration request reaches the function and is answered, or answered with Request Retry Status until the device is ready. -/
  | configRequest (hdmBase maxPayload maxRead : Option Nat)
  /-- ARP_REQUEST (R400). An ARP request or IPv6 neighbour solicitation for a port's own address arrives and the management core answers it. -/
  | arpRequest (p : Nat)
  /-- NAMESPACE_REPORT (R402). An NVMe controller reports a namespace, which the device attaches or refuses with ETH_NVME_FORMAT. -/
  | namespaceReport (ctrl block : Nat) (metadata : Bool) (blocks : Nat)
  /-- RESERVED_TYPE_FLIT (R266). A ring flit with a reserved TYPE arrives and is discarded and counted in RING_Pp_DISCARDS. -/
  | reservedTypeFlit (p : Nat) (rx : LineRx)
  deriving DecidableEq, Repr

end Sys2Proof
end

