-- ==== Sys2Proof/Decode.lean ====
section
/-!
DEFINITION. The decoder over the command table's bits: spec/opcode_table.json gives no row any bits, since commands reach the
block as register accesses, frames and events and not as words, so no word spells a command. (The words a tile's
sequencers fetch are decoded where they are executed, by Operands.lean.)
-/
namespace Sys2Proof

/-- The command that a word spells by the table's bits: none. -/
def decodeTableWord (_nbits _w : Nat) : Option Instr := none

end Sys2Proof
end

