-- ==== Sys2Proof/Config.lean ====
section
/-!
DEFINITION. What the spec leaves open or leaves to another standard: opaque constants that nothing can evaluate (notes/assumptions).
-/
namespace Sys2Proof.Config

/-- A free 32-bit value: the `n`-th that a run takes (log entry 6). -/
opaque freeWord (n : Nat) : BitVec 32

/-- Whether an Ed25519 signature of RFC 8032 verifies over a message under a public key (log entry 40). -/
opaque edVerify (key message signature : List (BitVec 8)) : Bool

/-- Whether an ML-DSA-65 signature of FIPS 204 verifies over a message under a public key (log entry 40). -/
opaque mlVerify (key message signature : List (BitVec 8)) : Bool

/-- What the device's identity keys sign a message to (R444, R446; log entry 40). -/
opaque edSign (message : List (BitVec 8)) : List (BitVec 8)
opaque mlSign (message : List (BitVec 8)) : List (BitVec 8)

/-- The vendor key pair `k` in the boot ROM (R435; log entry 41). -/
opaque vendorEd (k : Nat) : List (BitVec 8)
opaque vendorMl (k : Nat) : List (BitVec 8)

/-- SHA3-256 of the boot ROM (R438; log entry 41). -/
opaque romDigest : List (BitVec 8)

/-- The identity certificates that the vendor issued to the device of a serial number, which each carries as its subject: 0 Ed25519, 1
ML-DSA-65 (R444; log entry 41). -/
opaque certificate (serial k : Nat) : List (BitVec 8)

/-- TYPE of the record of the store that holds identity certificate `k` (R447, R448; log entry 42). -/
opaque certificateType (k : Nat) : Nat

/-- The vendor ID of the device's configuration space (R445; log entry 41). -/
opaque vendorId : BitVec 16

/-- A byte of MRAM outside the firmware slots, the identity certificates and the error history, when the areas there hold these
owner keys and these register fields by key (R447; log entry 42). -/
opaque mramByte (keys : List (List (BitVec 8))) (fields : List (Nat × Nat)) (address : Nat) : BitVec 8

/-- The thermal resistance between node `j` and the node above it at a region of a column, in units of 2^-16 × 0.25 K/W (R473; log
entry 43). -/
opaque resistance (column region j : Nat) : Nat

end Sys2Proof.Config
end

