-- ==== Sys2Proof/Machine/Plan.lean ====
section
/-!
DEFINITION. The configuration in effect: what a bitstream's sections say, read into data (spec 07_configuration_bitstream.md,
05_tile_instruction_streams.md R137). Installation writes it, and a DEV reset clears it (R542).
-/
namespace Sys2Proof.Machine

/-- A memory descriptor (R137). -/
structure Desc where
  base : Nat
  size : Nat
  kind : Nat
  acc : Nat
  part : Nat
  deriving DecidableEq, Repr

/-- The descriptor that a table does not hold: KIND 0, INVALID (R207). -/
def Desc.invalid : Desc := ⟨0, 0, 0, 0, 0⟩

/-- One tile's part of TILEPROG (R207): both programs as 128-bit words, entry indexes, descriptors, SRAM image bytes. -/
structure TilePlan where
  fwd : List Nat
  fwdEntry : Nat
  bwd : List Nat
  bwdEntry : Nat
  descs : List Desc
  image : List Byte
  deriving DecidableEq, Repr

def TilePlan.empty : TilePlan := ⟨[], 0, [], 0, [], []⟩

/-- A route: destination tile and channel (R209). -/
structure Route where
  tile : Nat
  chan : Nat
  deriving DecidableEq, Repr

/-- A receive channel; slot count 0 is a chain channel (R209). -/
structure ChanPlan where
  base : Nat
  slotSectors : Nat
  slots : Nat
  deriving DecidableEq, Repr

/-- One tile's part of ROUTE: valid routes and channels by number. -/
structure RoutePlan where
  routes : List (Nat × Route)
  chans : List (Nat × ChanPlan)
  deriving DecidableEq, Repr

def RoutePlan.empty : RoutePlan := ⟨[], []⟩

/-- One contiguous piece of a partition (R212). -/
structure Extent where
  part : Nat
  kind : Nat
  pages : Nat
  base : Nat
  grant : Nat
  deriving DecidableEq, Repr

/-- MEMPLAN (R211). -/
structure MemPlan where
  runId : Nat
  modes : List Nat
  quotas : List Nat
  extents : List Extent
  deriving DecidableEq, Repr

/-- One cluster's clock plan (R215). -/
structure ClockPlan where
  fmax : Nat
  fmin : Nat
  pllDeepest : Nat
  tileDeepest : Nat
  sleepAfter : Nat
  deriving DecidableEq, Repr

/-- A ring job (R216). -/
structure Job where
  dim : Nat
  channel : Nat
  mode : Nat
  nanMode : Nat
  rank : Nat
  firstSeg : Nat
  segCount : Nat
  group : Nat
  deriving DecidableEq, Repr

/-- A parameter group (R216). -/
structure Group where
  layer : Nat
  elements : Nat
  prog : Nat
  masterFmt : Nat
  momentFmt : Nat
  late : Bool
  autoHeal : Bool
  wcPart : Nat
  shardPart : Nat
  firstSeg : Nat
  segCount : Nat
  deriving DecidableEq, Repr

/-- RINGPLAN (R216): layers are (identifier, gather total), grants are (first segment, count) per tile. -/
structure RingPlan where
  topology : Nat
  sizeA : Nat
  sizeB : Nat
  segmentTotal : Nat
  digestInterval : Nat
  redPart : Nat
  jobs : List Job
  groups : List Group
  layers : List (Nat × Nat)
  grants : List (Nat × Nat)
  deriving DecidableEq, Repr

def RingPlan.empty : RingPlan := ⟨0, 1, 1, 0, 1, 0, [], [], [], []⟩

/-- One update program (R218): 64-bit or longer instruction bytes as they stand, and 64 binary32 constants. -/
structure UpdProg where
  code : List Byte
  consts : List Nat
  deriving DecidableEq, Repr

/-- One late-update group (R219). -/
structure LatePlan where
  group : Nat
  delay : Nat
  source : Nat
  statePart : Nat
  podSet : Nat
  deriving DecidableEq, Repr

/-- One operator's numeric plan (R220). -/
structure NumPlan where
  layer : Nat
  oper : Nat
  mode : Nat
  pgroup : Nat
  saveFmt : Nat
  deriving DecidableEq, Repr

/-- The key pair of an owner-key slot (R439), or of a vendor (R435). -/
structure KeyPair where
  ed : List Byte
  ml : List Byte
  deriving DecidableEq, Repr

/-- One OWNER entry (R222). -/
structure OwnerEntry where
  res : Nat
  inst : Nat
  owner : Nat
  arg : Nat
  deriving DecidableEq, Repr

/-- The whole configuration. -/
structure Plan where
  digest : List Byte
  tiles : List TilePlan
  routes : List RoutePlan
  mem : MemPlan
  clocks : List ClockPlan
  ring : RingPlan
  runSeed : Nat
  progs : List UpdProg
  late : List LatePlan
  nums : List NumPlan
  owners : List OwnerEntry
  deriving DecidableEq, Repr

def Plan.tile (p : Plan) (t : Nat) : TilePlan := p.tiles.getD t TilePlan.empty
def Plan.route (p : Plan) (t : Nat) : RoutePlan := p.routes.getD t RoutePlan.empty
def Plan.desc (p : Plan) (t d : Nat) : Desc := (p.tile t).descs.getD d Desc.invalid
/-- The program of a stream: 0 forward, 1 backward. -/
def Plan.prog (p : Plan) (t n : Nat) : List Nat := if n = 0 then (p.tile t).fwd else (p.tile t).bwd
def Plan.entry (p : Plan) (t n : Nat) : Nat := if n = 0 then (p.tile t).fwdEntry else (p.tile t).bwdEntry
/-- Whether TILEPROG gives the tile any program. -/
def Plan.programmed (p : Plan) (t : Nat) : Bool := !(p.tile t).fwd.isEmpty || !(p.tile t).bwd.isEmpty
/-- DIGEST64 (R204). -/
def Plan.digest64 (p : Plan) : Nat := (p.digest.take 8).foldr (fun b a => b.toNat + 256 * a) 0

end Sys2Proof.Machine
end

