-- ==== Sys2Proof/Machine/Regs.lean ====
section
/-!
DEFINITION. Every register field of BAR0 that holds state (spec 17_register_map.md and the register tables of each
chapter): its place, width, reset value, access class (R3) and reset domain (R11), and the table of registers with their
dimensions and the masters that may write them. Registers that only show other state (log entry 20) are not fields; the
register read computes them.
-/
namespace Sys2Proof.Machine

/-- Access classes of R3. -/
inductive Access where
  | ro | rw | rwb | rwl | w1c | w1s | rcl
  deriving DecidableEq, Repr

/-- Reset domains of R11. -/
inductive Dom where
  | aon | col | lay | dev | clu | tile
  deriving DecidableEq, Repr

/-- The domain's number within a field's key. -/
def Dom.code : Dom → Nat
  | .aon => 0
  | .col => 1
  | .lay => 2
  | .dev => 3
  | .clu => 4
  | .tile => 5

/-- One field: BAR0 offset of its register, lowest bit, width, reset value, access class, domain. -/
structure Fld where
  off : Nat
  lo : Nat
  w : Nat
  rst : Nat
  acc : Access
  dom : Dom
  deriving DecidableEq, Repr

/-- The field's key in the register file: register offset, lowest bit and domain. -/
def Fld.key (f : Fld) : Nat := (f.off * 64 + f.lo) * 8 + f.dom.code

/-- The register offset and the domain that a key names. -/
def keyOff (k : Nat) : Nat := k / 512
def keyDom (k : Nat) : Nat := k % 8

/-- A register, or a family of registers with one or two dimensions of (count, stride): name, offset, dimensions, width,
domain, the master identities that may write it (none listed: all that reach it, R515), fields as (lowest bit, width,
reset value, access). -/
structure Reg where
  name : String
  base : Nat
  dims : List (Nat × Nat)
  width : Nat
  dom : Dom
  masters : List Nat
  fields : List (Nat × Nat × Nat × Access)
  deriving DecidableEq, Repr

/-- ID_DEVICE.PART, bits [31:16] (R514). -/
def F.ID_DEVICE_PART : Fld := ⟨0x0, 16, 16, 0x4192, .ro, .aon⟩
/-- ID_DEVICE.STEPPING, bits [15:8] (R514). -/
def F.ID_DEVICE_STEPPING : Fld := ⟨0x0, 8, 8, 1, .ro, .aon⟩
/-- ID_DEVICE.MAP, bits [7:0] (R514). -/
def F.ID_DEVICE_MAP : Fld := ⟨0x0, 0, 8, 1, .ro, .aon⟩
/-- ID_SERIAL.SERIAL, bits [63:0] (R514). -/
def F.ID_SERIAL_SERIAL : Fld := ⟨0x8, 0, 64, 1, .ro, .aon⟩
/-- ID_RESET_CAUSE.COUNT, bits [31:16] (R517). -/
def F.ID_RESET_CAUSE_COUNT : Fld := ⟨0x10, 16, 16, 0, .ro, .aon⟩
/-- ID_RESET_CAUSE.CAUSE, bits [7:0] (R517). -/
def F.ID_RESET_CAUSE_CAUSE : Fld := ⟨0x10, 0, 8, 0, .ro, .aon⟩
/-- STEP_STATUS.STATE, bits [31:29] (R239). -/
def F.STEP_STATUS_STATE : Fld := ⟨0x10000, 29, 3, 0, .ro, .dev⟩
/-- STEP_STATUS.ABORT_PENDING, bits [27:27] (R239). -/
def F.STEP_STATUS_ABORT_PENDING : Fld := ⟨0x10000, 27, 1, 0, .ro, .dev⟩
/-- STEP_STATUS.ATTEMPT, bits [19:12] (R239). -/
def F.STEP_STATUS_ATTEMPT : Fld := ⟨0x10000, 12, 8, 0, .ro, .dev⟩
/-- STEP_CTRL.ROLLBACK, bits [3:3] (R261). -/
def F.STEP_CTRL_ROLLBACK : Fld := ⟨0x10008, 3, 1, 0, .w1s, .dev⟩
/-- STEP_CTRL.REGATHER, bits [2:2] (R261). -/
def F.STEP_CTRL_REGATHER : Fld := ⟨0x10008, 2, 1, 0, .w1s, .dev⟩
/-- STEP_CTRL.ABORT_REQ, bits [1:1] (R261). -/
def F.STEP_CTRL_ABORT_REQ : Fld := ⟨0x10008, 1, 1, 0, .w1s, .dev⟩
/-- STEP_CTRL.OPEN, bits [0:0] (R261). -/
def F.STEP_CTRL_OPEN : Fld := ⟨0x10008, 0, 1, 0, .w1s, .dev⟩
/-- STEP_NUMBER.NUMBER, bits [63:0] (R239). -/
def F.STEP_NUMBER_NUMBER : Fld := ⟨0x10010, 0, 64, 1, .ro, .aon⟩
/-- STEP_COMMITTED.NUMBER, bits [63:0] (R253). -/
def F.STEP_COMMITTED_NUMBER : Fld := ⟨0x10018, 0, 64, 0, .ro, .aon⟩
/-- STEP_VERSION.PREV_VALID, bits [1:1] (R243). -/
def F.STEP_VERSION_PREV_VALID : Fld := ⟨0x10020, 1, 1, 0, .ro, .aon⟩
/-- STEP_VERSION.VERSION, bits [0:0] (R243). -/
def F.STEP_VERSION_VERSION : Fld := ⟨0x10020, 0, 1, 0, .ro, .aon⟩
/-- STEP_MB_COUNT.COUNT, bits [12:0] (R240). -/
def F.STEP_MB_COUNT_COUNT : Fld := ⟨0x10028, 0, 13, 1, .rwb, .dev⟩
/-- STEP_STOP_AT.STEP, bits [63:0] (R237). -/
def F.STEP_STOP_AT_STEP : Fld := ⟨0x10030, 0, 64, 0xFFFFFFFFFFFFFFFF, .rwb, .dev⟩
/-- STEP_TIMEOUT.MS, bits [31:0] (R250). -/
def F.STEP_TIMEOUT_MS : Fld := ⟨0x10038, 0, 32, 0, .rwb, .dev⟩
/-- STEP_DECISION.KIND, bits [63:62] (R251). -/
def F.STEP_DECISION_KIND : Fld := ⟨0x10040, 62, 2, 0, .ro, .dev⟩
/-- STEP_DECISION.SKIPPED, bits [61:61] (R251). -/
def F.STEP_DECISION_SKIPPED : Fld := ⟨0x10040, 61, 1, 0, .ro, .dev⟩
/-- STEP_DECISION.VIA_POLL, bits [60:60] (R251). -/
def F.STEP_DECISION_VIA_POLL : Fld := ⟨0x10040, 60, 1, 0, .ro, .dev⟩
/-- STEP_DECISION.CAUSE_POS, bits [59:54] (R251). -/
def F.STEP_DECISION_CAUSE_POS : Fld := ⟨0x10040, 54, 6, 0, .ro, .dev⟩
/-- STEP_DECISION.CAUSE_RING, bits [53:53] (R251). -/
def F.STEP_DECISION_CAUSE_RING : Fld := ⟨0x10040, 53, 1, 0, .ro, .dev⟩
/-- STEP_DECISION.DETAIL, bits [47:32] (R251). -/
def F.STEP_DECISION_DETAIL : Fld := ⟨0x10040, 32, 16, 0, .ro, .dev⟩
/-- STEP_DECISION.CAUSE, bits [31:16] (R251). -/
def F.STEP_DECISION_CAUSE : Fld := ⟨0x10040, 16, 16, 0, .ro, .dev⟩
/-- STEP_DECISION.ATTEMPT, bits [15:8] (R251). -/
def F.STEP_DECISION_ATTEMPT : Fld := ⟨0x10040, 8, 8, 0, .ro, .dev⟩
/-- STEP_BOUNDARY_TIME.TIME, bits [63:0] (R255). -/
def F.STEP_BOUNDARY_TIME_TIME : Fld := ⟨0x10048, 0, 64, 0, .ro, .dev⟩
/-- STEP_READY_MAP.READY, bits [63:0] (R250). -/
def F.STEP_READY_MAP_READY : Fld := ⟨0x10050, 0, 64, 0, .ro, .dev⟩
/-- STEP_COMMITS.COUNT, bits [47:0] (R253). -/
def F.STEP_COMMITS_COUNT : Fld := ⟨0x10058, 0, 48, 0, .ro, .aon⟩
/-- STEP_ABORTS.COUNT, bits [47:0] (R253). -/
def F.STEP_ABORTS_COUNT : Fld := ⟨0x10060, 0, 48, 0, .ro, .aon⟩
/-- STEP_CMD_RESULT.CODE, bits [15:0] (R261). -/
def F.STEP_CMD_RESULT_CODE : Fld := ⟨0x10068, 0, 16, 0, .ro, .dev⟩
/-- STEP_FAILED_TILES.FAILED, bits [63:0] (R260). -/
def F.STEP_FAILED_TILES_FAILED (k : Nat) : Fld := ⟨0x10080 + 0x8 * k, 0, 64, 0, .w1c, .dev⟩
/-- CFG_STATUS.STATE, bits [31:28] (R226). -/
def F.CFG_STATUS_STATE : Fld := ⟨0x20000, 28, 4, 0, .ro, .dev⟩
/-- CFG_STATUS.ACTIVE, bits [27:27] (R226). -/
def F.CFG_STATUS_ACTIVE : Fld := ⟨0x20000, 27, 1, 0, .ro, .dev⟩
/-- CFG_STATUS.LAST_CODE, bits [15:0] (R226). -/
def F.CFG_STATUS_LAST_CODE : Fld := ⟨0x20000, 0, 16, 0, .ro, .dev⟩
/-- CFG_CMD.DISCARD, bits [4:4] (R226). -/
def F.CFG_CMD_DISCARD : Fld := ⟨0x20008, 4, 1, 0, .w1s, .dev⟩
/-- CFG_CMD.DISARM, bits [3:3] (R226). -/
def F.CFG_CMD_DISARM : Fld := ⟨0x20008, 3, 1, 0, .w1s, .dev⟩
/-- CFG_CMD.ARM, bits [2:2] (R226). -/
def F.CFG_CMD_ARM : Fld := ⟨0x20008, 2, 1, 0, .w1s, .dev⟩
/-- CFG_CMD.CHECK, bits [1:1] (R226). -/
def F.CFG_CMD_CHECK : Fld := ⟨0x20008, 1, 1, 0, .w1s, .dev⟩
/-- CFG_CMD.STAGE, bits [0:0] (R226). -/
def F.CFG_CMD_STAGE : Fld := ⟨0x20008, 0, 1, 0, .w1s, .dev⟩
/-- CFG_SRC_ADDR.ADDR, bits [63:12] (R227). -/
def F.CFG_SRC_ADDR_ADDR : Fld := ⟨0x20010, 12, 52, 0, .rw, .dev⟩
/-- CFG_SRC_LEN.LEN, bits [31:0] (R227). -/
def F.CFG_SRC_LEN_LEN : Fld := ⟨0x20018, 0, 32, 0, .rw, .dev⟩
/-- CFG_ERROR.CODE, bits [63:48] (R229). -/
def F.CFG_ERROR_CODE : Fld := ⟨0x20020, 48, 16, 0, .ro, .dev⟩
/-- CFG_ERROR.TYPE, bits [39:32] (R229). -/
def F.CFG_ERROR_TYPE : Fld := ⟨0x20020, 32, 8, 0, .ro, .dev⟩
/-- CFG_ERROR.OFFSET, bits [31:0] (R229). -/
def F.CFG_ERROR_OFFSET : Fld := ⟨0x20020, 0, 32, 0, .ro, .dev⟩
/-- CFG_STAGED_DIGEST.DIGEST, bits [63:0] (R227). -/
def F.CFG_STAGED_DIGEST_DIGEST (k : Nat) : Fld := ⟨0x20040 + 0x8 * k, 0, 64, 0, .ro, .dev⟩
/-- CFG_ACTIVE_DIGEST.DIGEST, bits [63:0] (R232). -/
def F.CFG_ACTIVE_DIGEST_DIGEST (k : Nat) : Fld := ⟨0x20060 + 0x8 * k, 0, 64, 0, .ro, .dev⟩
/-- CFG_RUN_ID.RUN_ID, bits [63:0] (R234). -/
def F.CFG_RUN_ID_RUN_ID (k : Nat) : Fld := ⟨0x20080 + 0x8 * k, 0, 64, 0, .ro, .aon⟩
/-- CFG_RUN_STATE.RETAIN, bits [1:0] (R234). -/
def F.CFG_RUN_STATE_RETAIN : Fld := ⟨0x20090, 0, 2, 0, .ro, .aon⟩
/-- CFG_INSTALLS.COUNT, bits [47:0] (R232). -/
def F.CFG_INSTALLS_COUNT : Fld := ⟨0x20098, 0, 48, 0, .ro, .dev⟩
/-- CFG_OWN_SEL.RES, bits [31:24] (R224). -/
def F.CFG_OWN_SEL_RES : Fld := ⟨0x200A0, 24, 8, 0, .rw, .dev⟩
/-- CFG_OWN_SEL.INSTANCE, bits [15:0] (R224). -/
def F.CFG_OWN_SEL_INSTANCE : Fld := ⟨0x200A0, 0, 16, 0, .rw, .dev⟩
/-- MBX_CH_DATA.WORD, bits [63:0] (R429). -/
def F.MBX_CH_DATA_WORD (n : Nat) : Fld := ⟨0x30000 + 0x40 * n, 0, 64, 0, .rw, .dev⟩
/-- MBX_CH_STATUS.FULL, bits [31:31] (R429). -/
def F.MBX_CH_STATUS_FULL (n : Nat) : Fld := ⟨0x30010 + 0x40 * n, 31, 1, 0, .ro, .dev⟩
/-- MBX_CH_STATUS.OVERRUN, bits [30:30] (R429). -/
def F.MBX_CH_STATUS_OVERRUN (n : Nat) : Fld := ⟨0x30010 + 0x40 * n, 30, 1, 0, .w1c, .dev⟩
/-- MBX_CH_STATUS.NOT_BOUND, bits [29:29] (R429). -/
def F.MBX_CH_STATUS_NOT_BOUND (n : Nat) : Fld := ⟨0x30010 + 0x40 * n, 29, 1, 0, .w1c, .dev⟩
/-- MBX_CH_STATUS.CLEAR, bits [28:28] (R429). -/
def F.MBX_CH_STATUS_CLEAR (n : Nat) : Fld := ⟨0x30010 + 0x40 * n, 28, 1, 0, .w1s, .dev⟩
/-- MBX_CH_STATUS.LAST_SENDER, bits [7:0] (R429). -/
def F.MBX_CH_STATUS_LAST_SENDER (n : Nat) : Fld := ⟨0x30010 + 0x40 * n, 0, 8, 0, .ro, .dev⟩
/-- MBX_CH_LOCK.HOLDER, bits [7:0] (R433). -/
def F.MBX_CH_LOCK_HOLDER (n : Nat) : Fld := ⟨0x30018 + 0x40 * n, 0, 8, 0, .rcl, .dev⟩
/-- MBX_BIND.RECEIVER, bits [15:8] (R428). -/
def F.MBX_BIND_RECEIVER (n : Nat) : Fld := ⟨0x30800 + 0x8 * n, 8, 8, 0, .rw, .dev⟩
/-- MBX_BIND.SENDER, bits [7:0] (R428). -/
def F.MBX_BIND_SENDER (n : Nat) : Fld := ⟨0x30800 + 0x8 * n, 0, 8, 0, .rw, .dev⟩
/-- MBX_BIND_LOCK.LOCKED, bits [0:0] (R428). -/
def F.MBX_BIND_LOCK_LOCKED : Fld := ⟨0x30900, 0, 1, 0, .rwl, .dev⟩
/-- HIF_STATUS.LINK_UP, bits [31:31] (R362). -/
def F.HIF_STATUS_LINK_UP : Fld := ⟨0x40000, 31, 1, 0, .ro, .dev⟩
/-- HIF_STATUS.CXL, bits [30:30] (R362). -/
def F.HIF_STATUS_CXL : Fld := ⟨0x40000, 30, 1, 0, .ro, .dev⟩
/-- HIF_STATUS.RATE, bits [29:26] (R362). -/
def F.HIF_STATUS_RATE : Fld := ⟨0x40000, 26, 4, 0, .ro, .dev⟩
/-- HIF_STATUS.WIDTH, bits [25:22] (R362). -/
def F.HIF_STATUS_WIDTH : Fld := ⟨0x40000, 22, 4, 0, .ro, .dev⟩
/-- HIF_IRQ_CAUSE.CAUSE, bits [47:0] (R396). -/
def F.HIF_IRQ_CAUSE_CAUSE : Fld := ⟨0x40010, 0, 48, 0, .w1c, .dev⟩
/-- HIF_ERRLOG.VALID, bits [63:63] (R399). -/
def F.HIF_ERRLOG_VALID : Fld := ⟨0x40020, 63, 1, 0, .w1c, .dev⟩
/-- HIF_ERRLOG.OVERFLOW, bits [62:62] (R399). -/
def F.HIF_ERRLOG_OVERFLOW : Fld := ⟨0x40020, 62, 1, 0, .w1c, .dev⟩
/-- HIF_ERRLOG.QUEUE, bits [49:48] (R399). -/
def F.HIF_ERRLOG_QUEUE : Fld := ⟨0x40020, 48, 2, 0, .ro, .dev⟩
/-- HIF_ERRLOG.CID, bits [47:32] (R399). -/
def F.HIF_ERRLOG_CID : Fld := ⟨0x40020, 32, 16, 0, .ro, .dev⟩
/-- HIF_ERRLOG.CODE, bits [15:0] (R399). -/
def F.HIF_ERRLOG_CODE : Fld := ⟨0x40020, 0, 16, 0, .ro, .dev⟩
/-- HIF_Q_SQ_BASE.ADDR, bits [63:12] (R382). -/
def F.HIF_Q_SQ_BASE_ADDR (q : Nat) : Fld := ⟨0x40100 + 0x40 * q, 12, 52, 0, .rw, .dev⟩
/-- HIF_Q_CQ_BASE.ADDR, bits [63:12] (R382). -/
def F.HIF_Q_CQ_BASE_ADDR (q : Nat) : Fld := ⟨0x40108 + 0x40 * q, 12, 52, 0, .rw, .dev⟩
/-- HIF_Q_CFG.ENABLE, bits [31:31] (R382). -/
def F.HIF_Q_CFG_ENABLE (q : Nat) : Fld := ⟨0x40110 + 0x40 * q, 31, 1, 0, .rw, .dev⟩
/-- HIF_Q_CFG.SIZE, bits [4:0] (R382). -/
def F.HIF_Q_CFG_SIZE (q : Nat) : Fld := ⟨0x40110 + 0x40 * q, 0, 5, 4, .rw, .dev⟩
/-- HIF_Q_SQ_TAIL.INDEX, bits [16:0] (R382). -/
def F.HIF_Q_SQ_TAIL_INDEX (q : Nat) : Fld := ⟨0x40118 + 0x40 * q, 0, 17, 0, .rw, .dev⟩
/-- HIF_Q_CQ_HEAD.INDEX, bits [16:0] (R393). -/
def F.HIF_Q_CQ_HEAD_INDEX (q : Nat) : Fld := ⟨0x40120 + 0x40 * q, 0, 17, 0, .rw, .dev⟩
/-- HIF_Q_STATUS.RUNNING, bits [31:31] (R383). -/
def F.HIF_Q_STATUS_RUNNING (q : Nat) : Fld := ⟨0x40128 + 0x40 * q, 31, 1, 0, .ro, .dev⟩
/-- HIF_Q_STATUS.STOPPED, bits [30:30] (R383). -/
def F.HIF_Q_STATUS_STOPPED (q : Nat) : Fld := ⟨0x40128 + 0x40 * q, 30, 1, 0, .ro, .dev⟩
/-- HIF_Q_STATUS.CQ_FULL, bits [29:29] (R383). -/
def F.HIF_Q_STATUS_CQ_FULL (q : Nat) : Fld := ⟨0x40128 + 0x40 * q, 29, 1, 0, .ro, .dev⟩
/-- HIF_Q_STATUS.SQ_HEAD, bits [16:0] (R383). -/
def F.HIF_Q_STATUS_SQ_HEAD (q : Nat) : Fld := ⟨0x40128 + 0x40 * q, 0, 17, 0, .ro, .dev⟩
/-- HIF_BUF_BASE.ADDR, bits [63:6] (R386). -/
def F.HIF_BUF_BASE_ADDR (k : Nat) : Fld := ⟨0x41000 + 0x10 * k, 6, 58, 0, .rw, .dev⟩
/-- HIF_BUF_ATTR.KIND, bits [63:62] (R386). -/
def F.HIF_BUF_ATTR_KIND (k : Nat) : Fld := ⟨0x41008 + 0x10 * k, 62, 2, 0, .rw, .dev⟩
/-- HIF_BUF_ATTR.ACC, bits [61:60] (R386). -/
def F.HIF_BUF_ATTR_ACC (k : Nat) : Fld := ⟨0x41008 + 0x10 * k, 60, 2, 0, .rw, .dev⟩
/-- HIF_BUF_ATTR.SIZE, bits [31:0] (R386). -/
def F.HIF_BUF_ATTR_SIZE (k : Nat) : Fld := ⟨0x41008 + 0x10 * k, 0, 32, 0, .rw, .dev⟩
/-- RING_CTRL.ROSTER_RESET, bits [4:4] (R279). -/
def F.RING_CTRL_ROSTER_RESET : Fld := ⟨0x50000, 4, 1, 0, .w1s, .dev⟩
/-- RING_CTRL.LEAVE_B, bits [3:3] (R279). -/
def F.RING_CTRL_LEAVE_B : Fld := ⟨0x50000, 3, 1, 0, .rw, .dev⟩
/-- RING_CTRL.LEAVE_A, bits [2:2] (R279). -/
def F.RING_CTRL_LEAVE_A : Fld := ⟨0x50000, 2, 1, 0, .rw, .dev⟩
/-- RING_CTRL.JOIN_B, bits [1:1] (R279). -/
def F.RING_CTRL_JOIN_B : Fld := ⟨0x50000, 1, 1, 0, .w1s, .dev⟩
/-- RING_CTRL.JOIN_A, bits [0:0] (R279). -/
def F.RING_CTRL_JOIN_A : Fld := ⟨0x50000, 0, 1, 0, .w1s, .dev⟩
/-- RING_STATUS.B_STATE, bits [63:62] (R286). -/
def F.RING_STATUS_B_STATE : Fld := ⟨0x50008, 62, 2, 0, .ro, .dev⟩
/-- RING_STATUS.B_WRAPPED, bits [61:61] (R286). -/
def F.RING_STATUS_B_WRAPPED : Fld := ⟨0x50008, 61, 1, 0, .ro, .dev⟩
/-- RING_STATUS.B_BYPASS_CLOSED, bits [60:60] (R286). -/
def F.RING_STATUS_B_BYPASS_CLOSED : Fld := ⟨0x50008, 60, 1, 1, .ro, .dev⟩
/-- RING_STATUS.B_SWITCH_FAULT, bits [59:59] (R286). -/
def F.RING_STATUS_B_SWITCH_FAULT : Fld := ⟨0x50008, 59, 1, 0, .ro, .dev⟩
/-- RING_STATUS.B_SIZE, bits [58:52] (R286). -/
def F.RING_STATUS_B_SIZE : Fld := ⟨0x50008, 52, 7, 0, .ro, .dev⟩
/-- RING_STATUS.B_POSITION, bits [51:46] (R286). -/
def F.RING_STATUS_B_POSITION : Fld := ⟨0x50008, 46, 6, 0, .ro, .dev⟩
/-- RING_STATUS.A_STATE, bits [31:30] (R286). -/
def F.RING_STATUS_A_STATE : Fld := ⟨0x50008, 30, 2, 0, .ro, .dev⟩
/-- RING_STATUS.A_WRAPPED, bits [29:29] (R286). -/
def F.RING_STATUS_A_WRAPPED : Fld := ⟨0x50008, 29, 1, 0, .ro, .dev⟩
/-- RING_STATUS.A_BYPASS_CLOSED, bits [28:28] (R286). -/
def F.RING_STATUS_A_BYPASS_CLOSED : Fld := ⟨0x50008, 28, 1, 1, .ro, .dev⟩
/-- RING_STATUS.A_SWITCH_FAULT, bits [27:27] (R286). -/
def F.RING_STATUS_A_SWITCH_FAULT : Fld := ⟨0x50008, 27, 1, 0, .ro, .dev⟩
/-- RING_STATUS.A_SIZE, bits [26:20] (R286). -/
def F.RING_STATUS_A_SIZE : Fld := ⟨0x50008, 20, 7, 0, .ro, .dev⟩
/-- RING_STATUS.A_POSITION, bits [19:14] (R286). -/
def F.RING_STATUS_A_POSITION : Fld := ⟨0x50008, 14, 6, 0, .ro, .dev⟩
/-- RING_EPOCH.B_EPOCH, bits [31:16] (R286). -/
def F.RING_EPOCH_B_EPOCH : Fld := ⟨0x50010, 16, 16, 0, .ro, .dev⟩
/-- RING_EPOCH.A_EPOCH, bits [15:0] (R286). -/
def F.RING_EPOCH_A_EPOCH : Fld := ⟨0x50010, 0, 16, 0, .ro, .dev⟩
/-- RING_SERIAL.SERIAL, bits [63:0] (R286). -/
def F.RING_SERIAL_SERIAL : Fld := ⟨0x50018, 0, 64, 1, .ro, .aon⟩
/-- RING_A_ANCHOR.SERIAL, bits [63:0] (R286). -/
def F.RING_A_ANCHOR_SERIAL : Fld := ⟨0x50020, 0, 64, 0, .ro, .dev⟩
/-- RING_B_ANCHOR.SERIAL, bits [63:0] (R286). -/
def F.RING_B_ANCHOR_SERIAL : Fld := ⟨0x50028, 0, 64, 0, .ro, .dev⟩
/-- RING_MEMBER_CHANGES.COUNT, bits [47:0] (R286). -/
def F.RING_MEMBER_CHANGES_COUNT : Fld := ⟨0x50030, 0, 48, 0, .ro, .aon⟩
/-- RING_BYPASS_OPS.COUNT, bits [47:0] (R278). -/
def F.RING_BYPASS_OPS_COUNT : Fld := ⟨0x50038, 0, 48, 0, .ro, .aon⟩
/-- RING_TIME_STATUS.STATE, bits [31:30] (R299). -/
def F.RING_TIME_STATUS_STATE : Fld := ⟨0x50200, 30, 2, 0, .ro, .aon⟩
/-- RING_TIME_STATUS.MASTER, bits [29:29] (R299). -/
def F.RING_TIME_STATUS_MASTER : Fld := ⟨0x50200, 29, 1, 0, .ro, .aon⟩
/-- RING_TIME_STATUS.STEPPED, bits [28:28] (R299). -/
def F.RING_TIME_STATUS_STEPPED : Fld := ⟨0x50200, 28, 1, 0, .w1c, .aon⟩
/-- RING_TIME_STATUS.PTP, bits [27:27] (R299). -/
def F.RING_TIME_STATUS_PTP : Fld := ⟨0x50200, 27, 1, 0, .ro, .aon⟩
/-- RING_TIME_STATUS.SOURCE, bits [26:24] (R299). -/
def F.RING_TIME_STATUS_SOURCE : Fld := ⟨0x50200, 24, 3, 0, .ro, .aon⟩
/-- RING_TIME_STATUS.DEPTH, bits [23:16] (R299). -/
def F.RING_TIME_STATUS_DEPTH : Fld := ⟨0x50200, 16, 8, 255, .ro, .aon⟩
/-- RING_TIME_MASTER.SERIAL, bits [63:0] (R297). -/
def F.RING_TIME_MASTER_SERIAL : Fld := ⟨0x50208, 0, 64, 0, .ro, .aon⟩
/-- RING_TIME_OFFSET.OFFSET, bits [63:0] (R297). -/
def F.RING_TIME_OFFSET_OFFSET : Fld := ⟨0x50210, 0, 64, 0, .ro, .aon⟩
/-- RING_ERRLOG.VALID, bits [63:63] (R300). -/
def F.RING_ERRLOG_VALID : Fld := ⟨0x50280, 63, 1, 0, .w1c, .aon⟩
/-- RING_ERRLOG.OVERFLOW, bits [62:62] (R300). -/
def F.RING_ERRLOG_OVERFLOW : Fld := ⟨0x50280, 62, 1, 0, .w1c, .aon⟩
/-- RING_ERRLOG.PORT, bits [33:32] (R300). -/
def F.RING_ERRLOG_PORT : Fld := ⟨0x50280, 32, 2, 0, .ro, .aon⟩
/-- RING_ERRLOG.LANE, bits [31:27] (R300). -/
def F.RING_ERRLOG_LANE : Fld := ⟨0x50280, 27, 5, 0, .ro, .aon⟩
/-- RING_ERRLOG.CODE, bits [15:0] (R300). -/
def F.RING_ERRLOG_CODE : Fld := ⟨0x50280, 0, 16, 0, .ro, .aon⟩
/-- RING_ERRTIME.TIME, bits [63:0] (R300). -/
def F.RING_ERRTIME_TIME : Fld := ⟨0x50288, 0, 64, 0, .ro, .aon⟩
/-- RING_A_ROSTER.SERIAL, bits [63:0] (R283). -/
def F.RING_A_ROSTER_SERIAL (k : Nat) : Fld := ⟨0x50400 + 0x8 * k, 0, 64, 0, .ro, .aon⟩
/-- RING_B_ROSTER.SERIAL, bits [63:0] (R283). -/
def F.RING_B_ROSTER_SERIAL (k : Nat) : Fld := ⟨0x50600 + 0x8 * k, 0, 64, 0, .ro, .aon⟩
/-- RING_P_STATUS.LINK, bits [31:30] (R285). -/
def F.RING_P_STATUS_LINK (p : Nat) : Fld := ⟨0x50800 + 0x80 * p, 30, 2, 0, .ro, .dev⟩
/-- RING_P_STATUS.WRAP, bits [29:29] (R285). -/
def F.RING_P_STATUS_WRAP (p : Nat) : Fld := ⟨0x50800 + 0x80 * p, 29, 1, 0, .ro, .dev⟩
/-- RING_P_STATUS.TX_LANES, bits [28:23] (R285). -/
def F.RING_P_STATUS_TX_LANES (p : Nat) : Fld := ⟨0x50800 + 0x80 * p, 23, 6, 0, .ro, .dev⟩
/-- RING_P_STATUS.RX_LANES, bits [22:17] (R285). -/
def F.RING_P_STATUS_RX_LANES (p : Nat) : Fld := ⟨0x50800 + 0x80 * p, 17, 6, 0, .ro, .dev⟩
/-- RING_P_STATUS.MARGIN, bits [16:9] (R285). -/
def F.RING_P_STATUS_MARGIN (p : Nat) : Fld := ⟨0x50800 + 0x80 * p, 9, 8, 0, .ro, .dev⟩
/-- RING_P_LANEMAP.RX_MAP, bits [63:32] (R275). -/
def F.RING_P_LANEMAP_RX_MAP (p : Nat) : Fld := ⟨0x50808 + 0x80 * p, 32, 32, 0, .ro, .dev⟩
/-- RING_P_LANEMAP.TX_MAP, bits [31:0] (R275). -/
def F.RING_P_LANEMAP_TX_MAP (p : Nat) : Fld := ⟨0x50808 + 0x80 * p, 0, 32, 0, .ro, .dev⟩
/-- RING_P_PARTNER.SERIAL, bits [63:0] (R285). -/
def F.RING_P_PARTNER_SERIAL (p : Nat) : Fld := ⟨0x50810 + 0x80 * p, 0, 64, 0, .ro, .dev⟩
/-- RING_P_RETRIES.COUNT, bits [47:0] (R271). -/
def F.RING_P_RETRIES_COUNT (p : Nat) : Fld := ⟨0x50818 + 0x80 * p, 0, 48, 0, .ro, .dev⟩
/-- RING_P_FEC_CORR.COUNT, bits [47:0] (R264). -/
def F.RING_P_FEC_CORR_COUNT (p : Nat) : Fld := ⟨0x50820 + 0x80 * p, 0, 48, 0, .ro, .dev⟩
/-- RING_P_FEC_UNCORR.COUNT, bits [47:0] (R267). -/
def F.RING_P_FEC_UNCORR_COUNT (p : Nat) : Fld := ⟨0x50828 + 0x80 * p, 0, 48, 0, .ro, .dev⟩
/-- RING_P_DISCARDS.COUNT, bits [47:0] (R266). -/
def F.RING_P_DISCARDS_COUNT (p : Nat) : Fld := ⟨0x50830 + 0x80 * p, 0, 48, 0, .ro, .dev⟩
/-- RING_P_LANE_SEL.DIR, bits [5:5] (R277). -/
def F.RING_P_LANE_SEL_DIR (p : Nat) : Fld := ⟨0x50840 + 0x80 * p, 5, 1, 0, .rw, .dev⟩
/-- RING_P_LANE_SEL.LANE, bits [4:0] (R277). -/
def F.RING_P_LANE_SEL_LANE (p : Nat) : Fld := ⟨0x50840 + 0x80 * p, 0, 5, 0, .rw, .dev⟩
/-- RED_STATUS.SKIP, bits [31:31] (R323). -/
def F.RED_STATUS_SKIP : Fld := ⟨0x60000, 31, 1, 0, .ro, .dev⟩
/-- RED_STATUS.HALTED, bits [30:30] (R323). -/
def F.RED_STATUS_HALTED : Fld := ⟨0x60000, 30, 1, 0, .ro, .dev⟩
/-- RED_STATUS.NOTICE_OUT, bits [29:29] (R323). -/
def F.RED_STATUS_NOTICE_OUT : Fld := ⟨0x60000, 29, 1, 0, .ro, .dev⟩
/-- RED_STATUS.REDUCED_JOBS, bits [12:0] (R323). -/
def F.RED_STATUS_REDUCED_JOBS : Fld := ⟨0x60000, 0, 13, 0, .ro, .dev⟩
/-- RED_COORD.VALID, bits [31:31] (R304). -/
def F.RED_COORD_VALID : Fld := ⟨0x60008, 31, 1, 0, .rwb, .aon⟩
/-- RED_COORD.B, bits [13:8] (R304). -/
def F.RED_COORD_B : Fld := ⟨0x60008, 8, 6, 0, .rwb, .aon⟩
/-- RED_COORD.A, bits [5:0] (R304). -/
def F.RED_COORD_A : Fld := ⟨0x60008, 0, 6, 0, .rwb, .aon⟩
/-- RED_NAN_INFO.VALID, bits [63:63] (R321). -/
def F.RED_NAN_INFO_VALID : Fld := ⟨0x60010, 63, 1, 0, .w1c, .dev⟩
/-- RED_NAN_INFO.OVERFLOW, bits [62:62] (R321). -/
def F.RED_NAN_INFO_OVERFLOW : Fld := ⟨0x60010, 62, 1, 0, .w1c, .dev⟩
/-- RED_NAN_INFO.LOCAL, bits [61:61] (R321). -/
def F.RED_NAN_INFO_LOCAL : Fld := ⟨0x60010, 61, 1, 0, .ro, .dev⟩
/-- RED_NAN_INFO.RING, bits [60:60] (R321). -/
def F.RED_NAN_INFO_RING : Fld := ⟨0x60010, 60, 1, 0, .ro, .dev⟩
/-- RED_NAN_INFO.CONTRIBUTOR, bits [37:32] (R321). -/
def F.RED_NAN_INFO_CONTRIBUTOR : Fld := ⟨0x60010, 32, 6, 0, .ro, .dev⟩
/-- RED_NAN_INFO.CHANNEL, bits [25:20] (R321). -/
def F.RED_NAN_INFO_CHANNEL : Fld := ⟨0x60010, 20, 6, 0, .ro, .dev⟩
/-- RED_NAN_INFO.JOB, bits [11:0] (R321). -/
def F.RED_NAN_INFO_JOB : Fld := ⟨0x60010, 0, 12, 0, .ro, .dev⟩
/-- RED_NAN_OFFSET.OFFSET, bits [39:0] (R321). -/
def F.RED_NAN_OFFSET_OFFSET : Fld := ⟨0x60018, 0, 40, 0, .ro, .dev⟩
/-- RED_ERROR.VALID, bits [63:63] (R319). -/
def F.RED_ERROR_VALID : Fld := ⟨0x60020, 63, 1, 0, .w1c, .dev⟩
/-- RED_ERROR.OVERFLOW, bits [62:62] (R319). -/
def F.RED_ERROR_OVERFLOW : Fld := ⟨0x60020, 62, 1, 0, .w1c, .dev⟩
/-- RED_ERROR.PORT, bits [33:32] (R319). -/
def F.RED_ERROR_PORT : Fld := ⟨0x60020, 32, 2, 0, .ro, .dev⟩
/-- RED_ERROR.JOB, bits [27:16] (R319). -/
def F.RED_ERROR_JOB : Fld := ⟨0x60020, 16, 12, 0, .ro, .dev⟩
/-- RED_ERROR.CODE, bits [15:0] (R319). -/
def F.RED_ERROR_CODE : Fld := ⟨0x60020, 0, 16, 0, .ro, .dev⟩
/-- RED_MISMATCH_DIGEST.DIGEST64, bits [63:0] (R319). -/
def F.RED_MISMATCH_DIGEST_DIGEST64 : Fld := ⟨0x60028, 0, 64, 0, .ro, .dev⟩
/-- RED_FLITS_ADDED.COUNT, bits [47:0] (R308). -/
def F.RED_FLITS_ADDED_COUNT : Fld := ⟨0x60030, 0, 48, 0, .ro, .dev⟩
/-- RED_SEGS_REDUCED.COUNT, bits [47:0] (R308). -/
def F.RED_SEGS_REDUCED_COUNT : Fld := ⟨0x60038, 0, 48, 0, .ro, .dev⟩
/-- RED_JOB_STATUS.STATE, bits [63:61] (R329). -/
def F.RED_JOB_STATUS_STATE (j : Nat) : Fld := ⟨0x68000 + 0x8 * j, 61, 3, 0, .ro, .dev⟩
/-- RED_JOB_STATUS.ROUND, bits [60:59] (R329). -/
def F.RED_JOB_STATUS_ROUND (j : Nat) : Fld := ⟨0x68000 + 0x8 * j, 59, 2, 0, .ro, .dev⟩
/-- RED_JOB_STATUS.GATHERED, bits [58:32] (R329). -/
def F.RED_JOB_STATUS_GATHERED (j : Nat) : Fld := ⟨0x68000 + 0x8 * j, 32, 27, 0, .ro, .dev⟩
/-- RED_JOB_STATUS.REDUCED, bits [31:0] (R329). -/
def F.RED_JOB_STATUS_REDUCED (j : Nat) : Fld := ⟨0x68000 + 0x8 * j, 0, 32, 0, .ro, .dev⟩
/-- UPD_STATUS.BUSY, bits [31:16] (R360). -/
def F.UPD_STATUS_BUSY : Fld := ⟨0x70000, 16, 16, 0, .ro, .dev⟩
/-- UPD_STATUS.HEALING, bits [15:15] (R360). -/
def F.UPD_STATUS_HEALING : Fld := ⟨0x70000, 15, 1, 0, .ro, .dev⟩
/-- UPD_STATUS.DIG_PENDING, bits [14:14] (R360). -/
def F.UPD_STATUS_DIG_PENDING : Fld := ⟨0x70000, 14, 1, 0, .ro, .dev⟩
/-- UPD_HYPER.VALUE, bits [31:0] (R338). -/
def F.UPD_HYPER_VALUE (k : Nat) : Fld := ⟨0x70100 + 0x4 * k, 0, 32, 0, .rwb, .dev⟩
/-- UPD_LATE_SEL.ENTRY, bits [15:0] (R351). -/
def F.UPD_LATE_SEL_ENTRY : Fld := ⟨0x70200, 0, 16, 0, .rw, .dev⟩
/-- UPD_DIG_CTRL.NARROW_EN, bits [0:0] (R359). -/
def F.UPD_DIG_CTRL_NARROW_EN : Fld := ⟨0x70300, 0, 1, 1, .rwb, .dev⟩
/-- UPD_DIG_LAST_MATCH.STEP, bits [63:0] (R360). -/
def F.UPD_DIG_LAST_MATCH_STEP : Fld := ⟨0x70308, 0, 64, 0, .ro, .dev⟩
/-- UPD_DIG_REPORT.VALID, bits [63:63] (R358). -/
def F.UPD_DIG_REPORT_VALID : Fld := ⟨0x70310, 63, 1, 0, .w1c, .dev⟩
/-- UPD_DIG_REPORT.OVERFLOW, bits [62:62] (R358). -/
def F.UPD_DIG_REPORT_OVERFLOW : Fld := ⟨0x70310, 62, 1, 0, .w1c, .dev⟩
/-- UPD_DIG_REPORT.NARROWED, bits [61:61] (R358). -/
def F.UPD_DIG_REPORT_NARROWED : Fld := ⟨0x70310, 61, 1, 0, .ro, .dev⟩
/-- UPD_DIG_REPORT.HEALED, bits [60:60] (R358). -/
def F.UPD_DIG_REPORT_HEALED : Fld := ⟨0x70310, 60, 1, 0, .ro, .dev⟩
/-- UPD_DIG_REPORT.ORIGIN, bits [59:54] (R358). -/
def F.UPD_DIG_REPORT_ORIGIN : Fld := ⟨0x70310, 54, 6, 0, .ro, .dev⟩
/-- UPD_DIG_REPORT.GROUP, bits [47:32] (R358). -/
def F.UPD_DIG_REPORT_GROUP : Fld := ⟨0x70310, 32, 16, 0, .ro, .dev⟩
/-- UPD_DIG_REPORT.STEP, bits [31:0] (R358). -/
def F.UPD_DIG_REPORT_STEP : Fld := ⟨0x70310, 0, 32, 0, .ro, .dev⟩
/-- UPD_DIG_GRANULES.FIRST, bits [63:32] (R359). -/
def F.UPD_DIG_GRANULES_FIRST : Fld := ⟨0x70318, 32, 32, 0, .ro, .dev⟩
/-- UPD_DIG_GRANULES.COUNT, bits [31:0] (R359). -/
def F.UPD_DIG_GRANULES_COUNT : Fld := ⟨0x70318, 0, 32, 0, .ro, .dev⟩
/-- UPD_SEGS_UPDATED.COUNT, bits [47:0] (R337). -/
def F.UPD_SEGS_UPDATED_COUNT : Fld := ⟨0x70320, 0, 48, 0, .ro, .dev⟩
/-- UPD_ERROR.VALID, bits [63:63] (R361). -/
def F.UPD_ERROR_VALID : Fld := ⟨0x70328, 63, 1, 0, .w1c, .dev⟩
/-- UPD_ERROR.OVERFLOW, bits [62:62] (R361). -/
def F.UPD_ERROR_OVERFLOW : Fld := ⟨0x70328, 62, 1, 0, .w1c, .dev⟩
/-- UPD_ERROR.UNIT, bits [51:48] (R361). -/
def F.UPD_ERROR_UNIT : Fld := ⟨0x70328, 48, 4, 0, .ro, .dev⟩
/-- UPD_ERROR.SEGMENT, bits [47:16] (R361). -/
def F.UPD_ERROR_SEGMENT : Fld := ⟨0x70328, 16, 32, 0, .ro, .dev⟩
/-- UPD_ERROR.CODE, bits [15:0] (R361). -/
def F.UPD_ERROR_CODE : Fld := ⟨0x70328, 0, 16, 0, .ro, .dev⟩
/-- ETH_PORT_STATUS.LINK_UP, bits [31:31] (R400). -/
def F.ETH_PORT_STATUS_LINK_UP (p : Nat) : Fld := ⟨0x80000 + 0x8 * p, 31, 1, 0, .ro, .dev⟩
/-- ETH_PORT_STATUS.LANES, bits [30:27] (R400). -/
def F.ETH_PORT_STATUS_LANES (p : Nat) : Fld := ⟨0x80000 + 0x8 * p, 27, 4, 0, .ro, .dev⟩
/-- ETH_ING_CTRL.EN, bits [63:63] (R407). -/
def F.ETH_ING_CTRL_EN : Fld := ⟨0x80100, 63, 1, 0, .rw, .dev⟩
/-- ETH_ING_CTRL.CTRL, bits [59:56] (R407). -/
def F.ETH_ING_CTRL_CTRL : Fld := ⟨0x80100, 56, 4, 0, .rw, .dev⟩
/-- ETH_ING_CTRL.PART, bits [55:40] (R407). -/
def F.ETH_ING_CTRL_PART : Fld := ⟨0x80100, 40, 16, 0, .rw, .dev⟩
/-- ETH_ING_CTRL.STEP_BLOCKS, bits [39:20] (R407). -/
def F.ETH_ING_CTRL_STEP_BLOCKS : Fld := ⟨0x80100, 20, 20, 0, .rw, .dev⟩
/-- ETH_ING_BASE.LBA_BASE, bits [47:0] (R407). -/
def F.ETH_ING_BASE_LBA_BASE : Fld := ⟨0x80108, 0, 48, 0, .rw, .dev⟩
/-- ETH_ING_COUNT.COUNT, bits [31:0] (R407). -/
def F.ETH_ING_COUNT_COUNT : Fld := ⟨0x80110, 0, 32, 1, .rw, .dev⟩
/-- ETH_ING_HALF.STEP, bits [63:0] (R408). -/
def F.ETH_ING_HALF_STEP (h : Nat) : Fld := ⟨0x80120 + 0x8 * h, 0, 64, 0, .ro, .dev⟩
/-- ETH_CKPT_STATUS.PHASE, bits [31:30] (R410). -/
def F.ETH_CKPT_STATUS_PHASE : Fld := ⟨0x80200, 30, 2, 0, .ro, .dev⟩
/-- ETH_CKPT_STATUS.READING, bits [29:29] (R410). -/
def F.ETH_CKPT_STATUS_READING : Fld := ⟨0x80200, 29, 1, 0, .ro, .dev⟩
/-- ETH_PODS.TIMEOUT_MS, bits [63:48] (R417). -/
def F.ETH_PODS_TIMEOUT_MS (k : Nat) : Fld := ⟨0x80300 + 0x8 * k, 48, 16, 0, .rw, .dev⟩
/-- ETH_PODS.RX_PART, bits [47:32] (R417). -/
def F.ETH_PODS_RX_PART (k : Nat) : Fld := ⟨0x80300 + 0x8 * k, 32, 16, 0, .rw, .dev⟩
/-- ETH_PODS.QP_BASE, bits [31:22] (R417). -/
def F.ETH_PODS_QP_BASE (k : Nat) : Fld := ⟨0x80300 + 0x8 * k, 22, 10, 0, .rw, .dev⟩
/-- ETH_PODS.SELF, bits [15:8] (R417). -/
def F.ETH_PODS_SELF (k : Nat) : Fld := ⟨0x80300 + 0x8 * k, 8, 8, 0, .rw, .dev⟩
/-- ETH_PODS.COUNT, bits [7:0] (R417). -/
def F.ETH_PODS_COUNT (k : Nat) : Fld := ⟨0x80300 + 0x8 * k, 0, 8, 0, .rw, .dev⟩
/-- ETH_PTP_CTRL.DOMAIN, bits [31:24] (R420). -/
def F.ETH_PTP_CTRL_DOMAIN : Fld := ⟨0x80400, 24, 8, 0, .rw, .dev⟩
/-- ETH_PTP_CTRL.P2P, bits [5:5] (R420). -/
def F.ETH_PTP_CTRL_P2P : Fld := ⟨0x80400, 5, 1, 0, .rw, .dev⟩
/-- ETH_PTP_CTRL.TRANSPORT, bits [4:3] (R420). -/
def F.ETH_PTP_CTRL_TRANSPORT : Fld := ⟨0x80400, 3, 2, 0, .rw, .dev⟩
/-- ETH_PTP_CTRL.EN1, bits [1:1] (R420). -/
def F.ETH_PTP_CTRL_EN1 : Fld := ⟨0x80400, 1, 1, 0, .rw, .dev⟩
/-- ETH_PTP_CTRL.EN0, bits [0:0] (R420). -/
def F.ETH_PTP_CTRL_EN0 : Fld := ⟨0x80400, 0, 1, 0, .rw, .dev⟩
/-- ETH_PTP_OFFSET.OFFSET, bits [63:0] (R421). -/
def F.ETH_PTP_OFFSET_OFFSET : Fld := ⟨0x80408, 0, 64, 0, .ro, .dev⟩
/-- ETH_ERRLOG.VALID, bits [63:63] (R424). -/
def F.ETH_ERRLOG_VALID : Fld := ⟨0x80480, 63, 1, 0, .w1c, .dev⟩
/-- ETH_ERRLOG.OVERFLOW, bits [62:62] (R424). -/
def F.ETH_ERRLOG_OVERFLOW : Fld := ⟨0x80480, 62, 1, 0, .w1c, .dev⟩
/-- ETH_ERRLOG.QP, bits [41:32] (R424). -/
def F.ETH_ERRLOG_QP : Fld := ⟨0x80480, 32, 10, 0, .ro, .dev⟩
/-- ETH_ERRLOG.PORT, bits [16:16] (R424). -/
def F.ETH_ERRLOG_PORT : Fld := ⟨0x80480, 16, 1, 0, .ro, .dev⟩
/-- ETH_ERRLOG.CODE, bits [15:0] (R424). -/
def F.ETH_ERRLOG_CODE : Fld := ⟨0x80480, 0, 16, 0, .ro, .dev⟩
/-- ETH_QP_PAGE.PAGE, bits [1:0] (R523). -/
def F.ETH_QP_PAGE_PAGE : Fld := ⟨0x80500, 0, 2, 0, .rw, .dev⟩
/-- PWR_LIMIT.WATTS, bits [12:0] (R471). -/
def F.PWR_LIMIT_WATTS : Fld := ⟨0x90000, 0, 13, 4200, .rw, .aon⟩
/-- PWR_STATUS.INPUT_V, bits [63:48] (R470). -/
def F.PWR_STATUS_INPUT_V : Fld := ⟨0x90008, 48, 16, 0, .ro, .dev⟩
/-- PWR_STATUS.INPUT_W, bits [47:32] (R470). -/
def F.PWR_STATUS_INPUT_W : Fld := ⟨0x90008, 32, 16, 0, .ro, .dev⟩
/-- PWR_STATUS.CREDIT, bits [31:16] (R470). -/
def F.PWR_STATUS_CREDIT : Fld := ⟨0x90008, 16, 16, 0, .ro, .dev⟩
/-- PWR_STATUS.FIXED, bits [15:8] (R470). -/
def F.PWR_STATUS_FIXED : Fld := ⟨0x90008, 8, 8, 0, .ro, .dev⟩
/-- PWR_STATUS.ABOVE_LIMIT, bits [7:7] (R470). -/
def F.PWR_STATUS_ABOVE_LIMIT : Fld := ⟨0x90008, 7, 1, 0, .ro, .dev⟩
/-- PWR_STATUS.INPUT_LOW, bits [6:6] (R470). -/
def F.PWR_STATUS_INPUT_LOW : Fld := ⟨0x90008, 6, 1, 0, .ro, .dev⟩
/-- PWR_STATUS.INPUT_HIGH, bits [5:5] (R470). -/
def F.PWR_STATUS_INPUT_HIGH : Fld := ⟨0x90008, 5, 1, 0, .ro, .dev⟩
/-- PWR_STATUS.THROTTLED, bits [4:0] (R470). -/
def F.PWR_STATUS_THROTTLED : Fld := ⟨0x90008, 0, 5, 0, .ro, .dev⟩
/-- PWR_FLOORS.ARRAY, bits [59:48] (R468). -/
def F.PWR_FLOORS_ARRAY : Fld := ⟨0x90010, 48, 12, 100, .rw, .aon⟩
/-- PWR_FLOORS.GEYSER, bits [47:36] (R468). -/
def F.PWR_FLOORS_GEYSER : Fld := ⟨0x90010, 36, 12, 15, .rw, .aon⟩
/-- PWR_FLOORS.VENT, bits [35:24] (R468). -/
def F.PWR_FLOORS_VENT : Fld := ⟨0x90010, 24, 12, 15, .rw, .aon⟩
/-- PWR_FLOORS.UPDATE, bits [23:12] (R468). -/
def F.PWR_FLOORS_UPDATE : Fld := ⟨0x90010, 12, 12, 15, .rw, .aon⟩
/-- PWR_FLOORS.RING, bits [11:0] (R468). -/
def F.PWR_FLOORS_RING : Fld := ⟨0x90010, 0, 12, 20, .rw, .aon⟩
/-- PWR_CLASS_POWER.ARRAY, bits [59:48] (R468). -/
def F.PWR_CLASS_POWER_ARRAY : Fld := ⟨0x90018, 48, 12, 0, .ro, .dev⟩
/-- PWR_CLASS_POWER.GEYSER, bits [47:36] (R468). -/
def F.PWR_CLASS_POWER_GEYSER : Fld := ⟨0x90018, 36, 12, 0, .ro, .dev⟩
/-- PWR_CLASS_POWER.VENT, bits [35:24] (R468). -/
def F.PWR_CLASS_POWER_VENT : Fld := ⟨0x90018, 24, 12, 0, .ro, .dev⟩
/-- PWR_CLASS_POWER.UPDATE, bits [23:12] (R468). -/
def F.PWR_CLASS_POWER_UPDATE : Fld := ⟨0x90018, 12, 12, 0, .ro, .dev⟩
/-- PWR_CLASS_POWER.RING, bits [11:0] (R468). -/
def F.PWR_CLASS_POWER_RING : Fld := ⟨0x90018, 0, 12, 0, .ro, .dev⟩
/-- PWR_CLU.PLL, bits [31:30] (R462). -/
def F.PWR_CLU_PLL (c : Nat) : Fld := ⟨0x90100 + 0x8 * c, 30, 2, 2, .ro, .clu⟩
/-- PWR_CLU.FREQ, bits [29:25] (R462). -/
def F.PWR_CLU_FREQ (c : Nat) : Fld := ⟨0x90100 + 0x8 * c, 25, 5, 10, .ro, .clu⟩
/-- PWR_CLU.CAP, bits [24:20] (R462). -/
def F.PWR_CLU_CAP (c : Nat) : Fld := ⟨0x90100 + 0x8 * c, 20, 5, 30, .ro, .clu⟩
/-- PWR_CLU.TILES, bits [15:0] (R462). -/
def F.PWR_CLU_TILES (c : Nat) : Fld := ⟨0x90100 + 0x8 * c, 0, 16, 0xFFFF, .ro, .clu⟩
/-- THM_STATUS.MAX_LOGIC, bits [63:52] (R476). -/
def F.THM_STATUS_MAX_LOGIC : Fld := ⟨0x91000, 52, 12, 0, .ro, .aon⟩
/-- THM_STATUS.MAX_MEMORY, bits [51:40] (R476). -/
def F.THM_STATUS_MAX_MEMORY : Fld := ⟨0x91000, 40, 12, 0, .ro, .aon⟩
/-- THM_STATUS.COOLANT_IN, bits [39:28] (R476). -/
def F.THM_STATUS_COOLANT_IN : Fld := ⟨0x91000, 28, 12, 0, .ro, .aon⟩
/-- THM_STATUS.COOLANT_OUT, bits [27:16] (R476). -/
def F.THM_STATUS_COOLANT_OUT : Fld := ⟨0x91000, 16, 12, 0, .ro, .aon⟩
/-- THM_STATUS.COLUMNS, bits [14:0] (R476). -/
def F.THM_STATUS_COLUMNS : Fld := ⟨0x91000, 0, 15, 0, .ro, .aon⟩
/-- THM_SEL.COLUMN, bits [13:11] (R472). -/
def F.THM_SEL_COLUMN : Fld := ⟨0x91008, 11, 3, 0, .rw, .aon⟩
/-- THM_SEL.NODE, bits [10:7] (R472). -/
def F.THM_SEL_NODE : Fld := ⟨0x91008, 7, 4, 0, .rw, .aon⟩
/-- THM_SEL.REGION, bits [5:0] (R472). -/
def F.THM_SEL_REGION : Fld := ⟨0x91008, 0, 6, 0, .rw, .aon⟩
/-- THM_CTRL.SUSPECT_COUNT, bits [31:16] (R475). -/
def F.THM_CTRL_SUSPECT_COUNT : Fld := ⟨0x91018, 16, 16, 0, .ro, .aon⟩
/-- THM_CTRL.SUSPECT_CLEAR, bits [0:0] (R475). -/
def F.THM_CTRL_SUSPECT_CLEAR : Fld := ⟨0x91018, 0, 1, 0, .w1s, .aon⟩
/-- THM_WEAR_DAMAGE.INDEX, bits [63:0] (R480). -/
def F.THM_WEAR_DAMAGE_INDEX (c : Nat) : Fld := ⟨0x91100 + 0x20 * c, 0, 64, 0, .ro, .aon⟩
/-- THM_WEAR_BINS01.BIN1, bits [63:32] (R479). -/
def F.THM_WEAR_BINS01_BIN1 (c : Nat) : Fld := ⟨0x91108 + 0x20 * c, 32, 32, 0, .ro, .aon⟩
/-- THM_WEAR_BINS01.BIN0, bits [31:0] (R479). -/
def F.THM_WEAR_BINS01_BIN0 (c : Nat) : Fld := ⟨0x91108 + 0x20 * c, 0, 32, 0, .ro, .aon⟩
/-- THM_WEAR_BINS23.BIN3, bits [63:32] (R479). -/
def F.THM_WEAR_BINS23_BIN3 (c : Nat) : Fld := ⟨0x91110 + 0x20 * c, 32, 32, 0, .ro, .aon⟩
/-- THM_WEAR_BINS23.BIN2, bits [31:0] (R479). -/
def F.THM_WEAR_BINS23_BIN2 (c : Nat) : Fld := ⟨0x91110 + 0x20 * c, 0, 32, 0, .ro, .aon⟩
/-- THM_MARGIN_CTRL.START, bits [31:31] (R482). -/
def F.THM_MARGIN_CTRL_START : Fld := ⟨0x91200, 31, 1, 0, .w1s, .dev⟩
/-- THM_MARGIN_CTRL.COLUMN, bits [18:16] (R482). -/
def F.THM_MARGIN_CTRL_COLUMN : Fld := ⟨0x91200, 16, 3, 0, .rw, .dev⟩
/-- THM_MARGIN_CTRL.CODE, bits [15:0] (R482). -/
def F.THM_MARGIN_CTRL_CODE : Fld := ⟨0x91200, 0, 16, 0, .ro, .dev⟩
/-- THM_MARGIN.HEIGHT, bits [31:24] (R482). -/
def F.THM_MARGIN_HEIGHT (h : Nat) : Fld := ⟨0x91208 + 0x8 * h, 24, 8, 0, .ro, .dev⟩
/-- THM_MARGIN.WIDTH, bits [23:16] (R482). -/
def F.THM_MARGIN_WIDTH (h : Nat) : Fld := ⟨0x91208 + 0x8 * h, 16, 8, 0, .ro, .dev⟩
/-- THM_MARGIN.REGION, bits [15:10] (R482). -/
def F.THM_MARGIN_REGION (h : Nat) : Fld := ⟨0x91208 + 0x8 * h, 10, 6, 0, .ro, .dev⟩
/-- PWR_ERRLOG.VALID, bits [63:63] (R483). -/
def F.PWR_ERRLOG_VALID : Fld := ⟨0x91F00, 63, 1, 0, .w1c, .aon⟩
/-- PWR_ERRLOG.OVERFLOW, bits [62:62] (R483). -/
def F.PWR_ERRLOG_OVERFLOW : Fld := ⟨0x91F00, 62, 1, 0, .w1c, .aon⟩
/-- PWR_ERRLOG.LOCATION, bits [29:16] (R483). -/
def F.PWR_ERRLOG_LOCATION : Fld := ⟨0x91F00, 16, 14, 0, .ro, .aon⟩
/-- PWR_ERRLOG.CODE, bits [15:0] (R483). -/
def F.PWR_ERRLOG_CODE : Fld := ⟨0x91F00, 0, 16, 0, .ro, .aon⟩
/-- PWR_ERRTIME.TIME, bits [63:0] (R483). -/
def F.PWR_ERRTIME_TIME : Fld := ⟨0x91F08, 0, 64, 0, .ro, .aon⟩
/-- SEC_STATUS.BOOT, bits [31:30] (R436). -/
def F.SEC_STATUS_BOOT : Fld := ⟨0xA0000, 30, 2, 0, .ro, .aon⟩
/-- SEC_STATUS.SLOT, bits [29:29] (R436). -/
def F.SEC_STATUS_SLOT : Fld := ⟨0xA0000, 29, 1, 0, .ro, .aon⟩
/-- SEC_STATUS.TRIAL, bits [28:28] (R436). -/
def F.SEC_STATUS_TRIAL : Fld := ⟨0xA0000, 28, 1, 0, .ro, .aon⟩
/-- SEC_STATUS.SLOT_A_VALID, bits [27:27] (R436). -/
def F.SEC_STATUS_SLOT_A_VALID : Fld := ⟨0xA0000, 27, 1, 0, .ro, .aon⟩
/-- SEC_STATUS.SLOT_B_VALID, bits [26:26] (R436). -/
def F.SEC_STATUS_SLOT_B_VALID : Fld := ⟨0xA0000, 26, 1, 0, .ro, .aon⟩
/-- SEC_STATUS.PREF, bits [25:25] (R436). -/
def F.SEC_STATUS_PREF : Fld := ⟨0xA0000, 25, 1, 0, .ro, .aon⟩
/-- SEC_STATUS.ASLEEP, bits [24:24] (R436). -/
def F.SEC_STATUS_ASLEEP : Fld := ⟨0xA0000, 24, 1, 0, .ro, .aon⟩
/-- SEC_STATUS.REVOKED, bits [23:20] (R436). -/
def F.SEC_STATUS_REVOKED : Fld := ⟨0xA0000, 20, 4, 0, .ro, .aon⟩
/-- SEC_STATUS.TRIED, bits [19:19] (R436). -/
def F.SEC_STATUS_TRIED : Fld := ⟨0xA0000, 19, 1, 0, .ro, .aon⟩
/-- SEC_CMD.BUSY, bits [31:31] (R437). -/
def F.SEC_CMD_BUSY : Fld := ⟨0xA0008, 31, 1, 0, .ro, .dev⟩
/-- SEC_CMD.OP, bits [7:0] (R437). -/
def F.SEC_CMD_OP : Fld := ⟨0xA0008, 0, 8, 0, .rw, .dev⟩
/-- SEC_CMD_ADDR.ADDR, bits [63:6] (R437). -/
def F.SEC_CMD_ADDR_ADDR : Fld := ⟨0xA0010, 6, 58, 0, .rw, .dev⟩
/-- SEC_CMD_LEN.LEN, bits [31:0] (R437). -/
def F.SEC_CMD_LEN_LEN : Fld := ⟨0xA0018, 0, 32, 0, .rw, .dev⟩
/-- SEC_CMD_RESULT.CODE, bits [15:0] (R437). -/
def F.SEC_CMD_RESULT_CODE : Fld := ⟨0xA0020, 0, 16, 0, .ro, .dev⟩
/-- SEC_SVN.FW_SVN, bits [63:32] (R437). -/
def F.SEC_SVN_FW_SVN : Fld := ⟨0xA0028, 32, 32, 0, .ro, .aon⟩
/-- SEC_SVN.MIN_SVN, bits [31:0] (R437). -/
def F.SEC_SVN_MIN_SVN : Fld := ⟨0xA0028, 0, 32, 0, .ro, .aon⟩
/-- SEC_OWNER_COUNTER.COUNT, bits [63:0] (R441). -/
def F.SEC_OWNER_COUNTER_COUNT : Fld := ⟨0xA0030, 0, 64, 0, .ro, .aon⟩
/-- SEC_OWNER_SLOT.ACTIVE, bits [63:63] (R439). -/
def F.SEC_OWNER_SLOT_ACTIVE (k : Nat) : Fld := ⟨0xA0040 + 0x8 * k, 63, 1, 0, .ro, .aon⟩
/-- SEC_OWNER_SLOT.ED_ID, bits [31:0] (R439). -/
def F.SEC_OWNER_SLOT_ED_ID (k : Nat) : Fld := ⟨0xA0040 + 0x8 * k, 0, 32, 0, .ro, .aon⟩
/-- SEC_ENROL.ENABLE, bits [0:0] (R442). -/
def F.SEC_ENROL_ENABLE : Fld := ⟨0xA0060, 0, 1, 0, .w1s, .dev⟩
/-- SEC_SB_CTRL.MC_RESET, bits [1:1] (R427). -/
def F.SEC_SB_CTRL_MC_RESET : Fld := ⟨0xA0068, 1, 1, 0, .w1s, .dev⟩
/-- SEC_SB_CTRL.DEV_RESET, bits [0:0] (R427). -/
def F.SEC_SB_CTRL_DEV_RESET : Fld := ⟨0xA0068, 0, 1, 0, .w1s, .dev⟩
/-- SEC_MEAS.VALUE, bits [63:0] (R438). -/
def F.SEC_MEAS_VALUE (i : Nat) (k : Nat) : Fld := ⟨0xA0100 + 0x20 * i + 0x8 * k, 0, 64, 0, .ro, .aon⟩
/-- NVS_WIN_BASE.PAGE, bits [25:12] (R447). -/
def F.NVS_WIN_BASE_PAGE : Fld := ⟨0xA0200, 12, 14, 0, .rw, .dev⟩
/-- NVS_HIST_SEQ.COUNT, bits [63:0] (R451). -/
def F.NVS_HIST_SEQ_COUNT : Fld := ⟨0xA0208, 0, 64, 0, .ro, .aon⟩
/-- NVS_HIST_DROPPED.COUNT, bits [63:0] (R451). -/
def F.NVS_HIST_DROPPED_COUNT : Fld := ⟨0xA0210, 0, 64, 0, .ro, .aon⟩
/-- SEC_ERRLOG.VALID, bits [63:63] (R453). -/
def F.SEC_ERRLOG_VALID : Fld := ⟨0xA0218, 63, 1, 0, .w1c, .aon⟩
/-- SEC_ERRLOG.OVERFLOW, bits [62:62] (R453). -/
def F.SEC_ERRLOG_OVERFLOW : Fld := ⟨0xA0218, 62, 1, 0, .w1c, .aon⟩
/-- SEC_ERRLOG.MASTER, bits [23:16] (R453). -/
def F.SEC_ERRLOG_MASTER : Fld := ⟨0xA0218, 16, 8, 0, .ro, .aon⟩
/-- SEC_ERRLOG.CODE, bits [15:0] (R453). -/
def F.SEC_ERRLOG_CODE : Fld := ⟨0xA0218, 0, 16, 0, .ro, .aon⟩
/-- DBG_FREEZE_AT.TIME, bits [63:0] (R495). -/
def F.DBG_FREEZE_AT_TIME : Fld := ⟨0xB0018, 0, 64, 0, .rw, .dev⟩
/-- DBG_RESUME_AT.TIME, bits [63:0] (R499). -/
def F.DBG_RESUME_AT_TIME : Fld := ⟨0xB0020, 0, 64, 0, .rw, .dev⟩
/-- DBG_FROZEN_AT.TIME, bits [63:0] (R496). -/
def F.DBG_FROZEN_AT_TIME : Fld := ⟨0xB0028, 0, 64, 0, .ro, .dev⟩
/-- DBG_FREEZE_CTRL.STATE, bits [31:30] (R495). -/
def F.DBG_FREEZE_CTRL_STATE : Fld := ⟨0xB0010, 30, 2, 0, .ro, .dev⟩
/-- DBG_FREEZE_CTRL.BROKEN, bits [29:29] (R495). -/
def F.DBG_FREEZE_CTRL_BROKEN : Fld := ⟨0xB0010, 29, 1, 0, .w1c, .dev⟩
/-- DBG_FREEZE_CTRL.ARM, bits [1:1] (R495). -/
def F.DBG_FREEZE_CTRL_ARM : Fld := ⟨0xB0010, 1, 1, 0, .w1s, .dev⟩
/-- DBG_FREEZE_CTRL.DISARM, bits [0:0] (R495). -/
def F.DBG_FREEZE_CTRL_DISARM : Fld := ⟨0xB0010, 0, 1, 0, .w1s, .dev⟩
/-- DBG_CUT_FLITS.COUNT, bits [15:0] (R498). -/
def F.DBG_CUT_FLITS_COUNT (p : Nat) : Fld := ⟨0xB0040 + 0x8 * p, 0, 16, 0, .ro, .dev⟩
/-- DBG_CAP_CTRL.LOG_EN, bits [31:31] (R502). -/
def F.DBG_CAP_CTRL_LOG_EN : Fld := ⟨0xB0100, 31, 1, 0, .rw, .dev⟩
/-- DBG_CAP_CTRL.TRACE_EN, bits [30:30] (R502). -/
def F.DBG_CAP_CTRL_TRACE_EN : Fld := ⟨0xB0100, 30, 1, 0, .rw, .dev⟩
/-- DBG_CAP_CTRL.TRACE_MASK, bits [23:16] (R502). -/
def F.DBG_CAP_CTRL_TRACE_MASK : Fld := ⟨0xB0100, 16, 8, 0, .rw, .dev⟩
/-- DBG_CAP_CTRL.PAGE, bits [8:0] (R502). -/
def F.DBG_CAP_CTRL_PAGE : Fld := ⟨0xB0100, 0, 9, 0, .rw, .dev⟩
/-- DBG_LOG_STATUS.OPEN_BANK, bits [63:63] (R505). -/
def F.DBG_LOG_STATUS_OPEN_BANK : Fld := ⟨0xB0108, 63, 1, 0, .ro, .dev⟩
/-- DBG_LOG_STATUS.OPEN_FULL, bits [62:62] (R505). -/
def F.DBG_LOG_STATUS_OPEN_FULL : Fld := ⟨0xB0108, 62, 1, 0, .ro, .dev⟩
/-- DBG_LOG_STATUS.COMMITTED_FULL, bits [61:61] (R505). -/
def F.DBG_LOG_STATUS_COMMITTED_FULL : Fld := ⟨0xB0108, 61, 1, 0, .ro, .dev⟩
/-- DBG_LOG_STATUS.COMMITTED_VALID, bits [60:60] (R505). -/
def F.DBG_LOG_STATUS_COMMITTED_VALID : Fld := ⟨0xB0108, 60, 1, 0, .ro, .dev⟩
/-- DBG_LOG_STATUS.OPEN_COUNT, bits [37:19] (R505). -/
def F.DBG_LOG_STATUS_OPEN_COUNT : Fld := ⟨0xB0108, 19, 19, 0, .ro, .dev⟩
/-- DBG_LOG_STATUS.COMMITTED_COUNT, bits [18:0] (R505). -/
def F.DBG_LOG_STATUS_COMMITTED_COUNT : Fld := ⟨0xB0108, 0, 19, 0, .ro, .dev⟩
/-- DBG_LOG_STEP.STEP, bits [63:0] (R505). -/
def F.DBG_LOG_STEP_STEP : Fld := ⟨0xB0110, 0, 64, 0, .ro, .dev⟩
/-- DBG_REPLAY_CTRL.START, bits [1:1] (R508). -/
def F.DBG_REPLAY_CTRL_START : Fld := ⟨0xB0200, 1, 1, 0, .w1s, .dev⟩
/-- DBG_REPLAY_CTRL.CANCEL, bits [0:0] (R508). -/
def F.DBG_REPLAY_CTRL_CANCEL : Fld := ⟨0xB0200, 0, 1, 0, .w1s, .dev⟩
/-- DBG_REPLAY_STATUS.STATE, bits [63:61] (R511). -/
def F.DBG_REPLAY_STATUS_STATE : Fld := ⟨0xB0208, 61, 3, 0, .ro, .dev⟩
/-- DBG_REPLAY_STATUS.INCOMPLETE, bits [60:60] (R511). -/
def F.DBG_REPLAY_STATUS_INCOMPLETE : Fld := ⟨0xB0208, 60, 1, 0, .ro, .dev⟩
/-- DBG_REPLAY_STATUS.CODE, bits [47:32] (R511). -/
def F.DBG_REPLAY_STATUS_CODE : Fld := ⟨0xB0208, 32, 16, 0, .ro, .dev⟩
/-- DBG_REPLAY_STATUS.MISMATCHES, bits [31:0] (R511). -/
def F.DBG_REPLAY_STATUS_MISMATCHES : Fld := ⟨0xB0208, 0, 32, 0, .ro, .dev⟩
/-- DBG_DIVERGE.VALID, bits [63:63] (R511). -/
def F.DBG_DIVERGE_VALID : Fld := ⟨0xB0210, 63, 1, 0, .ro, .dev⟩
/-- DBG_DIVERGE.ENTRY, bits [17:0] (R511). -/
def F.DBG_DIVERGE_ENTRY : Fld := ⟨0xB0210, 0, 18, 0, .ro, .dev⟩
/-- DBG_CTR_SEL.INSTANCE, bits [24:16] (R487). -/
def F.DBG_CTR_SEL_INSTANCE (k : Nat) : Fld := ⟨0xB1000 + 0x20 * k, 16, 9, 0x1FF, .rwb, .dev⟩
/-- DBG_CTR_SEL.EVENT, bits [15:0] (R487). -/
def F.DBG_CTR_SEL_EVENT (k : Nat) : Fld := ⟨0xB1000 + 0x20 * k, 0, 16, 0, .rwb, .dev⟩
/-- DBG_CTR_STEP.COUNT, bits [47:0] (R484). -/
def F.DBG_CTR_STEP_COUNT (k : Nat) : Fld := ⟨0xB1008 + 0x20 * k, 0, 48, 0, .ro, .dev⟩
/-- DBG_CTR_RUN.COUNT, bits [47:0] (R484). -/
def F.DBG_CTR_RUN_COUNT (k : Nat) : Fld := ⟨0xB1010 + 0x20 * k, 0, 48, 0, .ro, .dev⟩
/-- DBG_CTR_ABORTED.COUNT, bits [47:0] (R484). -/
def F.DBG_CTR_ABORTED_COUNT (k : Nat) : Fld := ⟨0xB1018 + 0x20 * k, 0, 48, 0, .ro, .dev⟩
/-- DBG_CMD_SEL.SCOPE, bits [27:25] (R487). -/
def F.DBG_CMD_SEL_SCOPE (c : Nat) : Fld := ⟨0xB2000 + 0x20 * c, 25, 3, 0, .rwb, .dev⟩
/-- DBG_CMD_SEL.INSTANCE, bits [24:16] (R487). -/
def F.DBG_CMD_SEL_INSTANCE (c : Nat) : Fld := ⟨0xB2000 + 0x20 * c, 16, 9, 0x1FF, .rwb, .dev⟩
/-- DBG_CMD_SEL.EVENT, bits [15:0] (R487). -/
def F.DBG_CMD_SEL_EVENT (c : Nat) : Fld := ⟨0xB2000 + 0x20 * c, 0, 16, 0, .rwb, .dev⟩
/-- DBG_CMD_LIVE.SEQ, bits [63:48] (R488). -/
def F.DBG_CMD_LIVE_SEQ (c : Nat) : Fld := ⟨0xB2008 + 0x20 * c, 48, 16, 1, .ro, .dev⟩
/-- DBG_CMD_LIVE.COUNT, bits [47:0] (R488). -/
def F.DBG_CMD_LIVE_COUNT (c : Nat) : Fld := ⟨0xB2008 + 0x20 * c, 0, 48, 0, .ro, .dev⟩
/-- DBG_CMD_LAST.SEQ, bits [63:48] (R488). -/
def F.DBG_CMD_LAST_SEQ (c : Nat) : Fld := ⟨0xB2010 + 0x20 * c, 48, 16, 0, .ro, .dev⟩
/-- DBG_CMD_LAST.COUNT, bits [47:0] (R488). -/
def F.DBG_CMD_LAST_COUNT (c : Nat) : Fld := ⟨0xB2010 + 0x20 * c, 0, 48, 0, .ro, .dev⟩
/-- DBG_PF_ISSUED.COUNT, bits [47:0] (R493). -/
def F.DBG_PF_ISSUED_COUNT (p : Nat) : Fld := ⟨0xB3000 + 0x40 * p, 0, 48, 0, .ro, .dev⟩
/-- DBG_PF_USED.COUNT, bits [47:0] (R493). -/
def F.DBG_PF_USED_COUNT (p : Nat) : Fld := ⟨0xB3008 + 0x40 * p, 0, 48, 0, .ro, .dev⟩
/-- DBG_PF_TIMELY.COUNT, bits [47:0] (R493). -/
def F.DBG_PF_TIMELY_COUNT (p : Nat) : Fld := ⟨0xB3010 + 0x40 * p, 0, 48, 0, .ro, .dev⟩
/-- DBG_PF_LATE.COUNT, bits [47:0] (R493). -/
def F.DBG_PF_LATE_COUNT (p : Nat) : Fld := ⟨0xB3018 + 0x40 * p, 0, 48, 0, .ro, .dev⟩
/-- DBG_PF_EVICTED.COUNT, bits [47:0] (R493). -/
def F.DBG_PF_EVICTED_COUNT (p : Nat) : Fld := ⟨0xB3020 + 0x40 * p, 0, 48, 0, .ro, .dev⟩
/-- DBG_ERRLOG.VALID, bits [63:63] (R513). -/
def F.DBG_ERRLOG_VALID : Fld := ⟨0xB3F00, 63, 1, 0, .w1c, .dev⟩
/-- DBG_ERRLOG.OVERFLOW, bits [62:62] (R513). -/
def F.DBG_ERRLOG_OVERFLOW : Fld := ⟨0xB3F00, 62, 1, 0, .w1c, .dev⟩
/-- DBG_ERRLOG.CODE, bits [15:0] (R513). -/
def F.DBG_ERRLOG_CODE : Fld := ⟨0xB3F00, 0, 16, 0, .ro, .dev⟩
/-- NUM_SEL.BANK, bits [31:31] (R491). -/
def F.NUM_SEL_BANK : Fld := ⟨0xC0000, 31, 1, 0, .rw, .dev⟩
/-- NUM_SEL.ENTRY, bits [14:0] (R491). -/
def F.NUM_SEL_ENTRY : Fld := ⟨0xC0000, 0, 15, 0, .rw, .dev⟩
/-- NUM_BANK_INFO.KIND, bits [63:62] (R491). -/
def F.NUM_BANK_INFO_KIND : Fld := ⟨0xC0030, 62, 2, 0, .ro, .dev⟩
/-- NUM_BANK_INFO.ATTEMPT, bits [61:54] (R491). -/
def F.NUM_BANK_INFO_ATTEMPT : Fld := ⟨0xC0030, 54, 8, 0, .ro, .dev⟩
/-- NUM_BANK_INFO.STEP, bits [31:0] (R491). -/
def F.NUM_BANK_INFO_STEP : Fld := ⟨0xC0030, 0, 32, 0, .ro, .dev⟩
/-- NUM_TRAP_INFO.VALID, bits [63:63] (R492). -/
def F.NUM_TRAP_INFO_VALID : Fld := ⟨0xC0100, 63, 1, 0, .w1c, .dev⟩
/-- NUM_TRAP_INFO.OVERFLOW, bits [62:62] (R492). -/
def F.NUM_TRAP_INFO_OVERFLOW : Fld := ⟨0xC0100, 62, 1, 0, .w1c, .dev⟩
/-- NUM_TRAP_INFO.SOURCE, bits [61:60] (R492). -/
def F.NUM_TRAP_INFO_SOURCE : Fld := ⟨0xC0100, 60, 2, 0, .ro, .dev⟩
/-- NUM_TRAP_INFO.STREAM, bits [59:59] (R492). -/
def F.NUM_TRAP_INFO_STREAM : Fld := ⟨0xC0100, 59, 1, 0, .ro, .dev⟩
/-- NUM_TRAP_INFO.OU, bits [58:58] (R492). -/
def F.NUM_TRAP_INFO_OU : Fld := ⟨0xC0100, 58, 1, 0, .ro, .dev⟩
/-- NUM_TRAP_INFO.FMT, bits [57:54] (R492). -/
def F.NUM_TRAP_INFO_FMT : Fld := ⟨0xC0100, 54, 4, 0, .ro, .dev⟩
/-- NUM_TRAP_INFO.ATTEMPT, bits [53:46] (R492). -/
def F.NUM_TRAP_INFO_ATTEMPT : Fld := ⟨0xC0100, 46, 8, 0, .ro, .dev⟩
/-- NUM_TRAP_INFO.UNIT, bits [45:38] (R492). -/
def F.NUM_TRAP_INFO_UNIT : Fld := ⟨0xC0100, 38, 8, 0, .ro, .dev⟩
/-- NUM_TRAP_INFO.LAYER, bits [31:16] (R492). -/
def F.NUM_TRAP_INFO_LAYER : Fld := ⟨0xC0100, 16, 16, 0, .ro, .dev⟩
/-- NUM_TRAP_INFO.OPER, bits [15:0] (R492). -/
def F.NUM_TRAP_INFO_OPER : Fld := ⟨0xC0100, 0, 16, 0, .ro, .dev⟩
/-- NUM_TRAP_WHERE.ROW, bits [63:57] (R492). -/
def F.NUM_TRAP_WHERE_ROW : Fld := ⟨0xC0108, 57, 7, 0, .ro, .dev⟩
/-- NUM_TRAP_WHERE.COL, bits [56:50] (R492). -/
def F.NUM_TRAP_WHERE_COL : Fld := ⟨0xC0108, 50, 7, 0, .ro, .dev⟩
/-- NUM_TRAP_WHERE.DKIND, bits [49:48] (R492). -/
def F.NUM_TRAP_WHERE_DKIND : Fld := ⟨0xC0108, 48, 2, 0, .ro, .dev⟩
/-- NUM_TRAP_WHERE.ADDR, bits [47:0] (R492). -/
def F.NUM_TRAP_WHERE_ADDR : Fld := ⟨0xC0108, 0, 48, 0, .ro, .dev⟩
/-- NUM_TRAP_STEP.VALUE, bits [63:0] (R492). -/
def F.NUM_TRAP_STEP_VALUE : Fld := ⟨0xC0110, 0, 64, 0, .ro, .dev⟩
/-- NUM_TRAP_TIME.VALUE, bits [63:0] (R492). -/
def F.NUM_TRAP_TIME_VALUE : Fld := ⟨0xC0118, 0, 64, 0, .ro, .dev⟩
/-- NUM_TRAP_VALUE.VALUE, bits [63:0] (R492). -/
def F.NUM_TRAP_VALUE_VALUE : Fld := ⟨0xC0120, 0, 64, 0, .ro, .dev⟩
/-- CLU_STATUS.CTRL_AWAKE, bits [31:31] (R521). -/
def F.CLU_STATUS_CTRL_AWAKE (k : Nat) : Fld := ⟨0x2000000 + 0x10000 * k, 31, 1, 0, .ro, .dev⟩
/-- CLU_STATUS.UNLOADED, bits [30:23] (R521). -/
def F.CLU_STATUS_UNLOADED (k : Nat) : Fld := ⟨0x2000000 + 0x10000 * k, 23, 8, 0, .ro, .dev⟩
/-- CLU_WAKES.COUNT, bits [47:0] (R520). -/
def F.CLU_WAKES_COUNT (k : Nat) : Fld := ⟨0x2000008 + 0x10000 * k, 0, 48, 0, .ro, .dev⟩
/-- CLU_CTRL.CODE, bits [31:16] (R521). -/
def F.CLU_CTRL_CODE (k : Nat) : Fld := ⟨0x2000010 + 0x10000 * k, 16, 16, 0, .ro, .dev⟩
/-- CLU_CTRL.CLU_RESET, bits [8:8] (R521). -/
def F.CLU_CTRL_CLU_RESET (k : Nat) : Fld := ⟨0x2000010 + 0x10000 * k, 8, 1, 0, .w1s, .dev⟩
/-- CLU_CTRL.TILE_RESET, bits [7:0] (R521). -/
def F.CLU_CTRL_TILE_RESET (k : Nat) : Fld := ⟨0x2000010 + 0x10000 * k, 0, 8, 0, .w1s, .dev⟩
/-- REG_LCTRL.BANK_QUOTA, bits [23:17] (R195). -/
def F.REG_LCTRL_BANK_QUOTA (w : Nat) (l : Nat) : Fld := ⟨0x2400000 + 0x1000 * w + 0x100 * l, 17, 7, 8, .rwb, .lay⟩
/-- REG_LCTRL.SCRUB_EN, bits [8:8] (R195). -/
def F.REG_LCTRL_SCRUB_EN (w : Nat) (l : Nat) : Fld := ⟨0x2400000 + 0x1000 * w + 0x100 * l, 8, 1, 1, .rw, .lay⟩
/-- REG_LCTRL.LAY_RESET, bits [0:0] (R195). -/
def F.REG_LCTRL_LAY_RESET (w : Nat) (l : Nat) : Fld := ⟨0x2400000 + 0x1000 * w + 0x100 * l, 0, 1, 0, .w1s, .lay⟩
/-- REG_LSTATUS.MODE, bits [31:30] (R184). -/
def F.REG_LSTATUS_MODE (w : Nat) (l : Nat) : Fld := ⟨0x2400008 + 0x1000 * w + 0x100 * l, 30, 2, 0, .ro, .lay⟩
/-- REG_LSTATUS.RESET_ACTIVE, bits [29:29] (R184). -/
def F.REG_LSTATUS_RESET_ACTIVE (w : Nat) (l : Nat) : Fld := ⟨0x2400008 + 0x1000 * w + 0x100 * l, 29, 1, 0, .ro, .lay⟩
/-- REG_LSTATUS.REFRESH_BAND, bits [28:26] (R184). -/
def F.REG_LSTATUS_REFRESH_BAND (w : Nat) (l : Nat) : Fld := ⟨0x2400008 + 0x1000 * w + 0x100 * l, 26, 3, 0, .ro, .lay⟩
/-- REG_LSTATUS.SLOTS_USED, bits [25:19] (R184). -/
def F.REG_LSTATUS_SLOTS_USED (w : Nat) (l : Nat) : Fld := ⟨0x2400008 + 0x1000 * w + 0x100 * l, 19, 7, 0, .ro, .lay⟩
/-- REG_LCE_COUNT.COUNT, bits [47:0] (R189). -/
def F.REG_LCE_COUNT_COUNT (w : Nat) (l : Nat) : Fld := ⟨0x2400010 + 0x1000 * w + 0x100 * l, 0, 48, 0, .ro, .aon⟩
/-- REG_LUE_COUNT.COUNT, bits [47:0] (R190). -/
def F.REG_LUE_COUNT_COUNT (w : Nat) (l : Nat) : Fld := ⟨0x2400018 + 0x1000 * w + 0x100 * l, 0, 48, 0, .ro, .aon⟩
/-- REG_LBANKSTALL.CYCLES, bits [47:0] (R180). -/
def F.REG_LBANKSTALL_CYCLES (w : Nat) (l : Nat) : Fld := ⟨0x2400020 + 0x1000 * w + 0x100 * l, 0, 48, 0, .ro, .lay⟩
/-- REG_LERRLOG.VALID, bits [63:63] (R190). -/
def F.REG_LERRLOG_VALID (w : Nat) (l : Nat) : Fld := ⟨0x2400028 + 0x1000 * w + 0x100 * l, 63, 1, 0, .w1c, .aon⟩
/-- REG_LERRLOG.OVERFLOW, bits [62:62] (R190). -/
def F.REG_LERRLOG_OVERFLOW (w : Nat) (l : Nat) : Fld := ⟨0x2400028 + 0x1000 * w + 0x100 * l, 62, 1, 0, .w1c, .aon⟩
/-- REG_LERRLOG.KIND, bits [61:60] (R190). -/
def F.REG_LERRLOG_KIND (w : Nat) (l : Nat) : Fld := ⟨0x2400028 + 0x1000 * w + 0x100 * l, 60, 2, 0, .ro, .aon⟩
/-- REG_LERRLOG.REQUESTER, bits [59:51] (R190). -/
def F.REG_LERRLOG_REQUESTER (w : Nat) (l : Nat) : Fld := ⟨0x2400028 + 0x1000 * w + 0x100 * l, 51, 9, 0, .ro, .aon⟩
/-- REG_LERRLOG.BANK, bits [50:47] (R190). -/
def F.REG_LERRLOG_BANK (w : Nat) (l : Nat) : Fld := ⟨0x2400028 + 0x1000 * w + 0x100 * l, 47, 4, 0, .ro, .aon⟩
/-- REG_LERRLOG.ROW, bits [46:37] (R190). -/
def F.REG_LERRLOG_ROW (w : Nat) (l : Nat) : Fld := ⟨0x2400028 + 0x1000 * w + 0x100 * l, 37, 10, 0, .ro, .aon⟩
/-- REG_LERRLOG.SECTOR, bits [36:30] (R190). -/
def F.REG_LERRLOG_SECTOR (w : Nat) (l : Nat) : Fld := ⟨0x2400028 + 0x1000 * w + 0x100 * l, 30, 7, 0, .ro, .aon⟩
/-- REG_LERRLOG.SYMBOL, bits [29:23] (R190). -/
def F.REG_LERRLOG_SYMBOL (w : Nat) (l : Nat) : Fld := ⟨0x2400028 + 0x1000 * w + 0x100 * l, 23, 7, 0, .ro, .aon⟩
/-- REG_LERRTIME.TIME, bits [63:0] (R190). -/
def F.REG_LERRTIME_TIME (w : Nat) (l : Nat) : Fld := ⟨0x2400030 + 0x1000 * w + 0x100 * l, 0, 64, 0, .ro, .aon⟩
/-- REG_LREFRESH.TEMP, bits [31:24] (R184). -/
def F.REG_LREFRESH_TEMP (w : Nat) (l : Nat) : Fld := ⟨0x2400038 + 0x1000 * w + 0x100 * l, 24, 8, 0, .ro, .lay⟩
/-- REG_LREFRESH.INTERVAL_US, bits [23:0] (R184). -/
def F.REG_LREFRESH_INTERVAL_US (w : Nat) (l : Nat) : Fld := ⟨0x2400038 + 0x1000 * w + 0x100 * l, 0, 24, 32000, .ro, .lay⟩
/-- REG_LSCRUB.PERIOD_H, bits [23:16] (R192). -/
def F.REG_LSCRUB_PERIOD_H (w : Nat) (l : Nat) : Fld := ⟨0x2400040 + 0x1000 * w + 0x100 * l, 16, 8, 24, .rw, .lay⟩
/-- REG_LSCRUB.POSITION, bits [13:0] (R192). -/
def F.REG_LSCRUB_POSITION (w : Nat) (l : Nat) : Fld := ⟨0x2400040 + 0x1000 * w + 0x100 * l, 0, 14, 0, .ro, .lay⟩
/-- REG_LCE_THRESH.THRESH, bits [15:0] (R193). -/
def F.REG_LCE_THRESH_THRESH (w : Nat) (l : Nat) : Fld := ⟨0x2400048 + 0x1000 * w + 0x100 * l, 0, 16, 64, .rw, .lay⟩
/-- REG_COLCTRL.COL_RESET, bits [0:0] (R196). -/
def F.REG_COLCTRL_COL_RESET (c : Nat) : Fld := ⟨0x2400800 + 0x40000 * c, 0, 1, 0, .w1s, .col⟩
/-- REG_COLSTATUS.IN_RESET, bits [31:31] (R197). -/
def F.REG_COLSTATUS_IN_RESET (c : Nat) : Fld := ⟨0x2400808 + 0x40000 * c, 31, 1, 0, .ro, .col⟩
/-- REG_COLSTATUS.DRAINED, bits [30:30] (R197). -/
def F.REG_COLSTATUS_DRAINED (c : Nat) : Fld := ⟨0x2400808 + 0x40000 * c, 30, 1, 0, .ro, .col⟩
/-- REG_COLSTATUS.HOP_FAILED, bits [7:0] (R197). -/
def F.REG_COLSTATUS_HOP_FAILED (c : Nat) : Fld := ⟨0x2400808 + 0x40000 * c, 0, 8, 0, .ro, .col⟩
/-- REG_COLRESULT.CODE, bits [15:0] (R196). -/
def F.REG_COLRESULT_CODE (c : Nat) : Fld := ⟨0x2400810 + 0x40000 * c, 0, 16, 0, .ro, .aon⟩
/-- PAGE_BIAS.TIMEOUT, bits [3:3] (R371). -/
def F.PAGE_BIAS_TIMEOUT (i : Nat) : Fld := ⟨0x3000000 + 0x4 * i, 3, 1, 0, .ro, .dev⟩
/-- PAGE_BIAS.CHANGING, bits [2:2] (R371). -/
def F.PAGE_BIAS_CHANGING (i : Nat) : Fld := ⟨0x3000000 + 0x4 * i, 2, 1, 0, .ro, .dev⟩
/-- PAGE_BIAS.BIAS, bits [1:0] (R371). -/
def F.PAGE_BIAS_BIAS (i : Nat) : Fld := ⟨0x3000000 + 0x4 * i, 0, 2, 0, .ro, .dev⟩
/-- TILE_SEQ_STATUS.STATE, bits [31:30] (R135). -/
def F.TILE_SEQ_STATUS_STATE (t : Nat) (n : Nat) : Fld := ⟨0x1000000 + 0x10000 * t + 0x8 * n, 30, 2, 0, .ro, .tile⟩
/-- TILE_SEQ_STATUS.STALL, bits [29:27] (R135). -/
def F.TILE_SEQ_STATUS_STALL (t : Nat) (n : Nat) : Fld := ⟨0x1000000 + 0x10000 * t + 0x8 * n, 27, 3, 0, .ro, .tile⟩
/-- TILE_SEQ_STATUS.PC, bits [26:14] (R135). -/
def F.TILE_SEQ_STATUS_PC (t : Nat) (n : Nat) : Fld := ⟨0x1000000 + 0x10000 * t + 0x8 * n, 14, 13, 0, .ro, .tile⟩
/-- TILE_SEQ_STATUS.OPCODE, bits [13:6] (R135). -/
def F.TILE_SEQ_STATUS_OPCODE (t : Nat) (n : Nat) : Fld := ⟨0x1000000 + 0x10000 * t + 0x8 * n, 6, 8, 0, .ro, .tile⟩
/-- TILE_SEQ_ISSUED.ISSUED, bits [47:0] (R122). -/
def F.TILE_SEQ_ISSUED_ISSUED (t : Nat) (n : Nat) : Fld := ⟨0x1000010 + 0x10000 * t + 0x8 * n, 0, 48, 0, .ro, .tile⟩
/-- TILE_FAULT_INFO.VALID, bits [63:63] (R157). -/
def F.TILE_FAULT_INFO_VALID (t : Nat) (n : Nat) : Fld := ⟨0x1000020 + 0x10000 * t + 0x10 * n, 63, 1, 0, .w1c, .tile⟩
/-- TILE_FAULT_INFO.OVERFLOW, bits [62:62] (R157). -/
def F.TILE_FAULT_INFO_OVERFLOW (t : Nat) (n : Nat) : Fld := ⟨0x1000020 + 0x10000 * t + 0x10 * n, 62, 1, 0, .w1c, .tile⟩
/-- TILE_FAULT_INFO.PC, bits [44:32] (R157). -/
def F.TILE_FAULT_INFO_PC (t : Nat) (n : Nat) : Fld := ⟨0x1000020 + 0x10000 * t + 0x10 * n, 32, 13, 0, .ro, .tile⟩
/-- TILE_FAULT_INFO.OPCODE, bits [31:24] (R157). -/
def F.TILE_FAULT_INFO_OPCODE (t : Nat) (n : Nat) : Fld := ⟨0x1000020 + 0x10000 * t + 0x10 * n, 24, 8, 0, .ro, .tile⟩
/-- TILE_FAULT_INFO.CODE, bits [15:0] (R157). -/
def F.TILE_FAULT_INFO_CODE (t : Nat) (n : Nat) : Fld := ⟨0x1000020 + 0x10000 * t + 0x10 * n, 0, 16, 0, .ro, .tile⟩
/-- TILE_FAULT_TAG.STEP, bits [63:32] (R130). -/
def F.TILE_FAULT_TAG_STEP (t : Nat) (n : Nat) : Fld := ⟨0x1000028 + 0x10000 * t + 0x10 * n, 32, 32, 0, .ro, .tile⟩
/-- TILE_FAULT_TAG.LAYER, bits [31:16] (R130). -/
def F.TILE_FAULT_TAG_LAYER (t : Nat) (n : Nat) : Fld := ⟨0x1000028 + 0x10000 * t + 0x10 * n, 16, 16, 0, .ro, .tile⟩
/-- TILE_FAULT_TAG.OPER, bits [15:0] (R130). -/
def F.TILE_FAULT_TAG_OPER (t : Nat) (n : Nat) : Fld := ⟨0x1000028 + 0x10000 * t + 0x10 * n, 0, 16, 0, .ro, .tile⟩
/-- TILE_EVT.COUNT, bits [31:0] (R131). -/
def F.TILE_EVT_COUNT (t : Nat) (c : Nat) : Fld := ⟨0x1000080 + 0x10000 * t + 0x4 * c, 0, 32, 0, .ro, .tile⟩
/-- TILE_ARR_STATUS.BUSY, bits [31:31] (R62). -/
def F.TILE_ARR_STATUS_BUSY (t : Nat) (n : Nat) : Fld := ⟨0x1000400 + 0x10000 * t + 0x8 * n, 31, 1, 0, .ro, .tile⟩
/-- TILE_ARR_STATUS.PREC, bits [30:28] (R62). -/
def F.TILE_ARR_STATUS_PREC (t : Nat) (n : Nat) : Fld := ⟨0x1000400 + 0x10000 * t + 0x8 * n, 28, 3, 0, .ro, .tile⟩
/-- TILE_ARR_STATUS.KIND, bits [27:26] (R62). -/
def F.TILE_ARR_STATUS_KIND (t : Nat) (n : Nat) : Fld := ⟨0x1000400 + 0x10000 * t + 0x8 * n, 26, 2, 0, .ro, .tile⟩
/-- TILE_ARR_STATUS.SBANK, bits [25:25] (R62). -/
def F.TILE_ARR_STATUS_SBANK (t : Nat) (n : Nat) : Fld := ⟨0x1000400 + 0x10000 * t + 0x8 * n, 25, 1, 0, .ro, .tile⟩
/-- TILE_ARR_STATUS.LOADING, bits [24:24] (R62). -/
def F.TILE_ARR_STATUS_LOADING (t : Nat) (n : Nat) : Fld := ⟨0x1000400 + 0x10000 * t + 0x8 * n, 24, 1, 0, .ro, .tile⟩
/-- TILE_ARR_STATUS.C_LAST, bits [23:15] (R62). -/
def F.TILE_ARR_STATUS_C_LAST (t : Nat) (n : Nat) : Fld := ⟨0x1000400 + 0x10000 * t + 0x8 * n, 15, 9, 0, .ro, .tile⟩
/-- TILE_ARR_PASSES.PASSES, bits [47:0] (R65). -/
def F.TILE_ARR_PASSES_PASSES (t : Nat) (n : Nat) : Fld := ⟨0x1000410 + 0x10000 * t + 0x8 * n, 0, 48, 0, .ro, .tile⟩
/-- TILE_OU_STATUS.BANK1_STATE, bits [31:30] (R74). -/
def F.TILE_OU_STATUS_BANK1_STATE (t : Nat) (n : Nat) : Fld := ⟨0x1000440 + 0x10000 * t + 0x8 * n, 30, 2, 0, .ro, .tile⟩
/-- TILE_OU_STATUS.BANK0_STATE, bits [29:28] (R74). -/
def F.TILE_OU_STATUS_BANK0_STATE (t : Nat) (n : Nat) : Fld := ⟨0x1000440 + 0x10000 * t + 0x8 * n, 28, 2, 0, .ro, .tile⟩
/-- TILE_OU_STATUS.BANK1_STREAM, bits [27:27] (R74). -/
def F.TILE_OU_STATUS_BANK1_STREAM (t : Nat) (n : Nat) : Fld := ⟨0x1000440 + 0x10000 * t + 0x8 * n, 27, 1, 0, .ro, .tile⟩
/-- TILE_OU_STATUS.BANK0_STREAM, bits [26:26] (R74). -/
def F.TILE_OU_STATUS_BANK0_STREAM (t : Nat) (n : Nat) : Fld := ⟨0x1000440 + 0x10000 * t + 0x8 * n, 26, 1, 0, .ro, .tile⟩
/-- TILE_OU_STATUS.COMB_BUSY, bits [25:25] (R74). -/
def F.TILE_OU_STATUS_COMB_BUSY (t : Nat) (n : Nat) : Fld := ⟨0x1000440 + 0x10000 * t + 0x8 * n, 25, 1, 0, .ro, .tile⟩
/-- TILE_OU_STATUS.STALL, bits [24:24] (R74). -/
def F.TILE_OU_STATUS_STALL (t : Nat) (n : Nat) : Fld := ⟨0x1000440 + 0x10000 * t + 0x8 * n, 24, 1, 0, .ro, .tile⟩
/-- TILE_SGB_STATUS.HALF1_STATE, bits [31:30] (R71). -/
def F.TILE_SGB_STATUS_HALF1_STATE (t : Nat) : Fld := ⟨0x1000450 + 0x10000 * t, 30, 2, 0, .ro, .tile⟩
/-- TILE_SGB_STATUS.HALF0_STATE, bits [29:28] (R71). -/
def F.TILE_SGB_STATUS_HALF0_STATE (t : Nat) : Fld := ⟨0x1000450 + 0x10000 * t, 28, 2, 0, .ro, .tile⟩
/-- TILE_SGB_STATUS.HALF1_FORM, bits [27:25] (R71). -/
def F.TILE_SGB_STATUS_HALF1_FORM (t : Nat) : Fld := ⟨0x1000450 + 0x10000 * t, 25, 3, 0, .ro, .tile⟩
/-- TILE_SGB_STATUS.HALF0_FORM, bits [24:22] (R71). -/
def F.TILE_SGB_STATUS_HALF0_FORM (t : Nat) : Fld := ⟨0x1000450 + 0x10000 * t, 22, 3, 0, .ro, .tile⟩
/-- TILE_VEC_STATUS.BUSY, bits [31:31] (R95). -/
def F.TILE_VEC_STATUS_BUSY (t : Nat) : Fld := ⟨0x1000460 + 0x10000 * t, 31, 1, 0, .ro, .tile⟩
/-- TILE_VEC_STATUS.SFU_BUSY, bits [30:30] (R95). -/
def F.TILE_VEC_STATUS_SFU_BUSY (t : Nat) : Fld := ⟨0x1000460 + 0x10000 * t, 30, 1, 0, .ro, .tile⟩
/-- TILE_VEC_STATUS.SLOT1_OPEN, bits [29:29] (R95). -/
def F.TILE_VEC_STATUS_SLOT1_OPEN (t : Nat) : Fld := ⟨0x1000460 + 0x10000 * t, 29, 1, 0, .ro, .tile⟩
/-- TILE_VEC_STATUS.SLOT0_OPEN, bits [28:28] (R95). -/
def F.TILE_VEC_STATUS_SLOT0_OPEN (t : Nat) : Fld := ⟨0x1000460 + 0x10000 * t, 28, 1, 0, .ro, .tile⟩
/-- TILE_VEC_STATUS.SLOT1_STREAM, bits [27:27] (R95). -/
def F.TILE_VEC_STATUS_SLOT1_STREAM (t : Nat) : Fld := ⟨0x1000460 + 0x10000 * t, 27, 1, 0, .ro, .tile⟩
/-- TILE_VEC_STATUS.SLOT0_STREAM, bits [26:26] (R95). -/
def F.TILE_VEC_STATUS_SLOT0_STREAM (t : Nat) : Fld := ⟨0x1000460 + 0x10000 * t, 26, 1, 0, .ro, .tile⟩
/-- TILE_VEC_STATUS.SB1_FULL, bits [25:24] (R95). -/
def F.TILE_VEC_STATUS_SB1_FULL (t : Nat) : Fld := ⟨0x1000460 + 0x10000 * t, 24, 2, 0, .ro, .tile⟩
/-- TILE_VEC_STATUS.SB0_FULL, bits [23:22] (R95). -/
def F.TILE_VEC_STATUS_SB0_FULL (t : Nat) : Fld := ⟨0x1000460 + 0x10000 * t, 22, 2, 0, .ro, .tile⟩
/-- TILE_SFU_RESULTS.RESULTS, bits [47:0] (R96). -/
def F.TILE_SFU_RESULTS_RESULTS (t : Nat) : Fld := ⟨0x1000468 + 0x10000 * t, 0, 48, 0, .ro, .tile⟩

def regTable0 : List Reg := [
  ⟨"ID_DEVICE", 0x0, [], 32, .aon, [],
    [(16, 16, 0x4192, .ro), (8, 8, 1, .ro), (0, 8, 1, .ro)]⟩,
  ⟨"ID_SERIAL", 0x8, [], 64, .aon, [],
    [(0, 64, 1, .ro)]⟩,
  ⟨"ID_RESET_CAUSE", 0x10, [], 32, .aon, [],
    [(16, 16, 0, .ro), (0, 8, 0, .ro)]⟩,
  ⟨"STEP_STATUS", 0x10000, [], 32, .dev, [],
    [(29, 3, 0, .ro), (27, 1, 0, .ro), (12, 8, 0, .ro)]⟩,
  ⟨"STEP_CTRL", 0x10008, [], 32, .dev, [1, 2],
    [(3, 1, 0, .w1s), (2, 1, 0, .w1s), (1, 1, 0, .w1s), (0, 1, 0, .w1s)]⟩,
  ⟨"STEP_NUMBER", 0x10010, [], 64, .aon, [],
    [(0, 64, 1, .ro)]⟩,
  ⟨"STEP_COMMITTED", 0x10018, [], 64, .aon, [],
    [(0, 64, 0, .ro)]⟩,
  ⟨"STEP_VERSION", 0x10020, [], 32, .aon, [],
    [(1, 1, 0, .ro), (0, 1, 0, .ro)]⟩,
  ⟨"STEP_MB_COUNT", 0x10028, [], 32, .dev, [],
    [(0, 13, 1, .rwb)]⟩,
  ⟨"STEP_STOP_AT", 0x10030, [], 64, .dev, [],
    [(0, 64, 0xFFFFFFFFFFFFFFFF, .rwb)]⟩,
  ⟨"STEP_TIMEOUT", 0x10038, [], 32, .dev, [],
    [(0, 32, 0, .rwb)]⟩,
  ⟨"STEP_DECISION", 0x10040, [], 64, .dev, [],
    [(62, 2, 0, .ro), (61, 1, 0, .ro), (60, 1, 0, .ro), (54, 6, 0, .ro), (53, 1, 0, .ro), (32, 16, 0, .ro), (16, 16, 0, .ro), (8, 8, 0, .ro)]⟩,
  ⟨"STEP_BOUNDARY_TIME", 0x10048, [], 64, .dev, [],
    [(0, 64, 0, .ro)]⟩,
  ⟨"STEP_READY_MAP", 0x10050, [], 64, .dev, [],
    [(0, 64, 0, .ro)]⟩,
  ⟨"STEP_COMMITS", 0x10058, [], 64, .aon, [],
    [(0, 48, 0, .ro)]⟩,
  ⟨"STEP_ABORTS", 0x10060, [], 64, .aon, [],
    [(0, 48, 0, .ro)]⟩,
  ⟨"STEP_CMD_RESULT", 0x10068, [], 32, .dev, [],
    [(0, 16, 0, .ro)]⟩,
  ⟨"STEP_FAILED_TILES", 0x10080, [(4, 0x8)], 64, .dev, [],
    [(0, 64, 0, .w1c)]⟩,
  ⟨"CFG_STATUS", 0x20000, [], 32, .dev, [],
    [(28, 4, 0, .ro), (27, 1, 0, .ro), (0, 16, 0, .ro)]⟩,
  ⟨"CFG_CMD", 0x20008, [], 32, .dev, [1, 2],
    [(4, 1, 0, .w1s), (3, 1, 0, .w1s), (2, 1, 0, .w1s), (1, 1, 0, .w1s), (0, 1, 0, .w1s)]⟩]

def regTable1 : List Reg := [
  ⟨"CFG_SRC_ADDR", 0x20010, [], 64, .dev, [],
    [(12, 52, 0, .rw)]⟩,
  ⟨"CFG_SRC_LEN", 0x20018, [], 32, .dev, [],
    [(0, 32, 0, .rw)]⟩,
  ⟨"CFG_ERROR", 0x20020, [], 64, .dev, [],
    [(48, 16, 0, .ro), (32, 8, 0, .ro), (0, 32, 0, .ro)]⟩,
  ⟨"CFG_STAGED_DIGEST", 0x20040, [(4, 0x8)], 64, .dev, [],
    [(0, 64, 0, .ro)]⟩,
  ⟨"CFG_ACTIVE_DIGEST", 0x20060, [(4, 0x8)], 64, .dev, [],
    [(0, 64, 0, .ro)]⟩,
  ⟨"CFG_RUN_ID", 0x20080, [(2, 0x8)], 64, .aon, [],
    [(0, 64, 0, .ro)]⟩,
  ⟨"CFG_RUN_STATE", 0x20090, [], 32, .aon, [],
    [(0, 2, 0, .ro)]⟩,
  ⟨"CFG_INSTALLS", 0x20098, [], 64, .dev, [],
    [(0, 48, 0, .ro)]⟩,
  ⟨"CFG_OWN_SEL", 0x200A0, [], 32, .dev, [],
    [(24, 8, 0, .rw), (0, 16, 0, .rw)]⟩,
  ⟨"MBX_CH_DATA", 0x30000, [(32, 0x40)], 64, .dev, [],
    [(0, 64, 0, .rw)]⟩,
  ⟨"MBX_CH_STATUS", 0x30010, [(32, 0x40)], 32, .dev, [],
    [(31, 1, 0, .ro), (30, 1, 0, .w1c), (29, 1, 0, .w1c), (28, 1, 0, .w1s), (0, 8, 0, .ro)]⟩,
  ⟨"MBX_CH_LOCK", 0x30018, [(32, 0x40)], 32, .dev, [],
    [(0, 8, 0, .rcl)]⟩,
  ⟨"MBX_BIND", 0x30800, [(32, 0x8)], 32, .dev, [1, 2],
    [(8, 8, 0, .rw), (0, 8, 0, .rw)]⟩,
  ⟨"MBX_BIND_LOCK", 0x30900, [], 32, .dev, [1, 2],
    [(0, 1, 0, .rwl)]⟩,
  ⟨"HIF_STATUS", 0x40000, [], 32, .dev, [],
    [(31, 1, 0, .ro), (30, 1, 0, .ro), (26, 4, 0, .ro), (22, 4, 0, .ro)]⟩,
  ⟨"HIF_IRQ_CAUSE", 0x40010, [], 64, .dev, [],
    [(0, 48, 0, .w1c)]⟩,
  ⟨"HIF_ERRLOG", 0x40020, [], 64, .dev, [],
    [(63, 1, 0, .w1c), (62, 1, 0, .w1c), (48, 2, 0, .ro), (32, 16, 0, .ro), (0, 16, 0, .ro)]⟩,
  ⟨"HIF_Q_SQ_BASE", 0x40100, [(4, 0x40)], 64, .dev, [1, 2],
    [(12, 52, 0, .rw)]⟩,
  ⟨"HIF_Q_CQ_BASE", 0x40108, [(4, 0x40)], 64, .dev, [1, 2],
    [(12, 52, 0, .rw)]⟩,
  ⟨"HIF_Q_CFG", 0x40110, [(4, 0x40)], 32, .dev, [1, 2],
    [(31, 1, 0, .rw), (0, 5, 4, .rw)]⟩]

def regTable2 : List Reg := [
  ⟨"HIF_Q_SQ_TAIL", 0x40118, [(4, 0x40)], 32, .dev, [1, 2],
    [(0, 17, 0, .rw)]⟩,
  ⟨"HIF_Q_CQ_HEAD", 0x40120, [(4, 0x40)], 32, .dev, [1, 2],
    [(0, 17, 0, .rw)]⟩,
  ⟨"HIF_Q_STATUS", 0x40128, [(4, 0x40)], 32, .dev, [],
    [(31, 1, 0, .ro), (30, 1, 0, .ro), (29, 1, 0, .ro), (0, 17, 0, .ro)]⟩,
  ⟨"HIF_BUF_BASE", 0x41000, [(256, 0x10)], 64, .dev, [1, 2],
    [(6, 58, 0, .rw)]⟩,
  ⟨"HIF_BUF_ATTR", 0x41008, [(256, 0x10)], 64, .dev, [1, 2],
    [(62, 2, 0, .rw), (60, 2, 0, .rw), (0, 32, 0, .rw)]⟩,
  ⟨"RING_CTRL", 0x50000, [], 32, .dev, [1, 2],
    [(4, 1, 0, .w1s), (3, 1, 0, .rw), (2, 1, 0, .rw), (1, 1, 0, .w1s), (0, 1, 0, .w1s)]⟩,
  ⟨"RING_STATUS", 0x50008, [], 64, .dev, [],
    [(62, 2, 0, .ro), (61, 1, 0, .ro), (60, 1, 1, .ro), (59, 1, 0, .ro), (52, 7, 0, .ro), (46, 6, 0, .ro), (30, 2, 0, .ro), (29, 1, 0, .ro), (28, 1, 1, .ro), (27, 1, 0, .ro), (20, 7, 0, .ro), (14, 6, 0, .ro)]⟩,
  ⟨"RING_EPOCH", 0x50010, [], 32, .dev, [],
    [(16, 16, 0, .ro), (0, 16, 0, .ro)]⟩,
  ⟨"RING_SERIAL", 0x50018, [], 64, .aon, [],
    [(0, 64, 1, .ro)]⟩,
  ⟨"RING_A_ANCHOR", 0x50020, [], 64, .dev, [],
    [(0, 64, 0, .ro)]⟩,
  ⟨"RING_B_ANCHOR", 0x50028, [], 64, .dev, [],
    [(0, 64, 0, .ro)]⟩,
  ⟨"RING_MEMBER_CHANGES", 0x50030, [], 64, .aon, [],
    [(0, 48, 0, .ro)]⟩,
  ⟨"RING_BYPASS_OPS", 0x50038, [], 64, .aon, [],
    [(0, 48, 0, .ro)]⟩,
  ⟨"RING_TIME_STATUS", 0x50200, [], 32, .aon, [],
    [(30, 2, 0, .ro), (29, 1, 0, .ro), (28, 1, 0, .w1c), (27, 1, 0, .ro), (24, 3, 0, .ro), (16, 8, 255, .ro)]⟩,
  ⟨"RING_TIME_MASTER", 0x50208, [], 64, .aon, [],
    [(0, 64, 0, .ro)]⟩,
  ⟨"RING_TIME_OFFSET", 0x50210, [], 64, .aon, [],
    [(0, 64, 0, .ro)]⟩,
  ⟨"RING_ERRLOG", 0x50280, [], 64, .aon, [],
    [(63, 1, 0, .w1c), (62, 1, 0, .w1c), (32, 2, 0, .ro), (27, 5, 0, .ro), (0, 16, 0, .ro)]⟩,
  ⟨"RING_ERRTIME", 0x50288, [], 64, .aon, [],
    [(0, 64, 0, .ro)]⟩,
  ⟨"RING_A_ROSTER", 0x50400, [(64, 0x8)], 64, .aon, [],
    [(0, 64, 0, .ro)]⟩,
  ⟨"RING_B_ROSTER", 0x50600, [(64, 0x8)], 64, .aon, [],
    [(0, 64, 0, .ro)]⟩]

def regTable3 : List Reg := [
  ⟨"RING_P_STATUS", 0x50800, [(4, 0x80)], 32, .dev, [],
    [(30, 2, 0, .ro), (29, 1, 0, .ro), (23, 6, 0, .ro), (17, 6, 0, .ro), (9, 8, 0, .ro)]⟩,
  ⟨"RING_P_LANEMAP", 0x50808, [(4, 0x80)], 64, .dev, [],
    [(32, 32, 0, .ro), (0, 32, 0, .ro)]⟩,
  ⟨"RING_P_PARTNER", 0x50810, [(4, 0x80)], 64, .dev, [],
    [(0, 64, 0, .ro)]⟩,
  ⟨"RING_P_RETRIES", 0x50818, [(4, 0x80)], 64, .dev, [],
    [(0, 48, 0, .ro)]⟩,
  ⟨"RING_P_FEC_CORR", 0x50820, [(4, 0x80)], 64, .dev, [],
    [(0, 48, 0, .ro)]⟩,
  ⟨"RING_P_FEC_UNCORR", 0x50828, [(4, 0x80)], 64, .dev, [],
    [(0, 48, 0, .ro)]⟩,
  ⟨"RING_P_DISCARDS", 0x50830, [(4, 0x80)], 64, .dev, [],
    [(0, 48, 0, .ro)]⟩,
  ⟨"RING_P_LANE_SEL", 0x50840, [(4, 0x80)], 32, .dev, [],
    [(5, 1, 0, .rw), (0, 5, 0, .rw)]⟩,
  ⟨"RED_STATUS", 0x60000, [], 32, .dev, [],
    [(31, 1, 0, .ro), (30, 1, 0, .ro), (29, 1, 0, .ro), (0, 13, 0, .ro)]⟩,
  ⟨"RED_COORD", 0x60008, [], 32, .aon, [],
    [(31, 1, 0, .rwb), (8, 6, 0, .rwb), (0, 6, 0, .rwb)]⟩,
  ⟨"RED_NAN_INFO", 0x60010, [], 64, .dev, [],
    [(63, 1, 0, .w1c), (62, 1, 0, .w1c), (61, 1, 0, .ro), (60, 1, 0, .ro), (32, 6, 0, .ro), (20, 6, 0, .ro), (0, 12, 0, .ro)]⟩,
  ⟨"RED_NAN_OFFSET", 0x60018, [], 64, .dev, [],
    [(0, 40, 0, .ro)]⟩,
  ⟨"RED_ERROR", 0x60020, [], 64, .dev, [],
    [(63, 1, 0, .w1c), (62, 1, 0, .w1c), (32, 2, 0, .ro), (16, 12, 0, .ro), (0, 16, 0, .ro)]⟩,
  ⟨"RED_MISMATCH_DIGEST", 0x60028, [], 64, .dev, [],
    [(0, 64, 0, .ro)]⟩,
  ⟨"RED_FLITS_ADDED", 0x60030, [], 64, .dev, [],
    [(0, 48, 0, .ro)]⟩,
  ⟨"RED_SEGS_REDUCED", 0x60038, [], 64, .dev, [],
    [(0, 48, 0, .ro)]⟩,
  ⟨"RED_JOB_STATUS", 0x68000, [(4096, 0x8)], 64, .dev, [],
    [(61, 3, 0, .ro), (59, 2, 0, .ro), (32, 27, 0, .ro), (0, 32, 0, .ro)]⟩,
  ⟨"UPD_STATUS", 0x70000, [], 32, .dev, [],
    [(16, 16, 0, .ro), (15, 1, 0, .ro), (14, 1, 0, .ro)]⟩,
  ⟨"UPD_HYPER", 0x70100, [(16, 0x4)], 32, .dev, [],
    [(0, 32, 0, .rwb)]⟩,
  ⟨"UPD_LATE_SEL", 0x70200, [], 32, .dev, [],
    [(0, 16, 0, .rw)]⟩]

def regTable4 : List Reg := [
  ⟨"UPD_DIG_CTRL", 0x70300, [], 32, .dev, [],
    [(0, 1, 1, .rwb)]⟩,
  ⟨"UPD_DIG_LAST_MATCH", 0x70308, [], 64, .dev, [],
    [(0, 64, 0, .ro)]⟩,
  ⟨"UPD_DIG_REPORT", 0x70310, [], 64, .dev, [],
    [(63, 1, 0, .w1c), (62, 1, 0, .w1c), (61, 1, 0, .ro), (60, 1, 0, .ro), (54, 6, 0, .ro), (32, 16, 0, .ro), (0, 32, 0, .ro)]⟩,
  ⟨"UPD_DIG_GRANULES", 0x70318, [], 64, .dev, [],
    [(32, 32, 0, .ro), (0, 32, 0, .ro)]⟩,
  ⟨"UPD_SEGS_UPDATED", 0x70320, [], 64, .dev, [],
    [(0, 48, 0, .ro)]⟩,
  ⟨"UPD_ERROR", 0x70328, [], 64, .dev, [],
    [(63, 1, 0, .w1c), (62, 1, 0, .w1c), (48, 4, 0, .ro), (16, 32, 0, .ro), (0, 16, 0, .ro)]⟩,
  ⟨"ETH_PORT_STATUS", 0x80000, [(2, 0x8)], 32, .dev, [],
    [(31, 1, 0, .ro), (27, 4, 0, .ro)]⟩,
  ⟨"ETH_ING_CTRL", 0x80100, [], 64, .dev, [1, 2],
    [(63, 1, 0, .rw), (56, 4, 0, .rw), (40, 16, 0, .rw), (20, 20, 0, .rw)]⟩,
  ⟨"ETH_ING_BASE", 0x80108, [], 64, .dev, [1, 2],
    [(0, 48, 0, .rw)]⟩,
  ⟨"ETH_ING_COUNT", 0x80110, [], 32, .dev, [1, 2],
    [(0, 32, 1, .rw)]⟩,
  ⟨"ETH_ING_HALF", 0x80120, [(2, 0x8)], 64, .dev, [],
    [(0, 64, 0, .ro)]⟩,
  ⟨"ETH_CKPT_STATUS", 0x80200, [], 32, .dev, [],
    [(30, 2, 0, .ro), (29, 1, 0, .ro)]⟩,
  ⟨"ETH_PODS", 0x80300, [(16, 0x8)], 64, .dev, [1, 2],
    [(48, 16, 0, .rw), (32, 16, 0, .rw), (22, 10, 0, .rw), (8, 8, 0, .rw), (0, 8, 0, .rw)]⟩,
  ⟨"ETH_PTP_CTRL", 0x80400, [], 32, .dev, [1, 2],
    [(24, 8, 0, .rw), (5, 1, 0, .rw), (3, 2, 0, .rw), (1, 1, 0, .rw), (0, 1, 0, .rw)]⟩,
  ⟨"ETH_PTP_OFFSET", 0x80408, [], 64, .dev, [],
    [(0, 64, 0, .ro)]⟩,
  ⟨"ETH_ERRLOG", 0x80480, [], 64, .dev, [1, 2],
    [(63, 1, 0, .w1c), (62, 1, 0, .w1c), (32, 10, 0, .ro), (16, 1, 0, .ro), (0, 16, 0, .ro)]⟩,
  ⟨"ETH_QP_PAGE", 0x80500, [], 32, .dev, [1, 2],
    [(0, 2, 0, .rw)]⟩,
  ⟨"PWR_LIMIT", 0x90000, [], 32, .aon, [1, 2, 3],
    [(0, 13, 4200, .rw)]⟩,
  ⟨"PWR_STATUS", 0x90008, [], 64, .dev, [],
    [(48, 16, 0, .ro), (32, 16, 0, .ro), (16, 16, 0, .ro), (8, 8, 0, .ro), (7, 1, 0, .ro), (6, 1, 0, .ro), (5, 1, 0, .ro), (0, 5, 0, .ro)]⟩,
  ⟨"PWR_FLOORS", 0x90010, [], 64, .aon, [1, 2, 3],
    [(48, 12, 100, .rw), (36, 12, 15, .rw), (24, 12, 15, .rw), (12, 12, 15, .rw), (0, 12, 20, .rw)]⟩]

def regTable5 : List Reg := [
  ⟨"PWR_CLASS_POWER", 0x90018, [], 64, .dev, [],
    [(48, 12, 0, .ro), (36, 12, 0, .ro), (24, 12, 0, .ro), (12, 12, 0, .ro), (0, 12, 0, .ro)]⟩,
  ⟨"PWR_CLU", 0x90100, [(32, 0x8)], 32, .clu, [],
    [(30, 2, 2, .ro), (25, 5, 10, .ro), (20, 5, 30, .ro), (0, 16, 0xFFFF, .ro)]⟩,
  ⟨"THM_STATUS", 0x91000, [], 64, .aon, [],
    [(52, 12, 0, .ro), (40, 12, 0, .ro), (28, 12, 0, .ro), (16, 12, 0, .ro), (0, 15, 0, .ro)]⟩,
  ⟨"THM_SEL", 0x91008, [], 32, .aon, [],
    [(11, 3, 0, .rw), (7, 4, 0, .rw), (0, 6, 0, .rw)]⟩,
  ⟨"THM_CTRL", 0x91018, [], 32, .aon, [],
    [(16, 16, 0, .ro), (0, 1, 0, .w1s)]⟩,
  ⟨"THM_WEAR_DAMAGE", 0x91100, [(5, 0x20)], 64, .aon, [],
    [(0, 64, 0, .ro)]⟩,
  ⟨"THM_WEAR_BINS01", 0x91108, [(5, 0x20)], 64, .aon, [],
    [(32, 32, 0, .ro), (0, 32, 0, .ro)]⟩,
  ⟨"THM_WEAR_BINS23", 0x91110, [(5, 0x20)], 64, .aon, [],
    [(32, 32, 0, .ro), (0, 32, 0, .ro)]⟩,
  ⟨"THM_MARGIN_CTRL", 0x91200, [], 32, .dev, [1, 2],
    [(31, 1, 0, .w1s), (16, 3, 0, .rw), (0, 16, 0, .ro)]⟩,
  ⟨"THM_MARGIN", 0x91208, [(8, 0x8)], 32, .dev, [],
    [(24, 8, 0, .ro), (16, 8, 0, .ro), (10, 6, 0, .ro)]⟩,
  ⟨"PWR_ERRLOG", 0x91F00, [], 64, .aon, [],
    [(63, 1, 0, .w1c), (62, 1, 0, .w1c), (16, 14, 0, .ro), (0, 16, 0, .ro)]⟩,
  ⟨"PWR_ERRTIME", 0x91F08, [], 64, .aon, [],
    [(0, 64, 0, .ro)]⟩,
  ⟨"SEC_STATUS", 0xA0000, [], 32, .aon, [],
    [(30, 2, 0, .ro), (29, 1, 0, .ro), (28, 1, 0, .ro), (27, 1, 0, .ro), (26, 1, 0, .ro), (25, 1, 0, .ro), (24, 1, 0, .ro), (20, 4, 0, .ro), (19, 1, 0, .ro)]⟩,
  ⟨"SEC_CMD", 0xA0008, [], 32, .dev, [1],
    [(31, 1, 0, .ro), (0, 8, 0, .rw)]⟩,
  ⟨"SEC_CMD_ADDR", 0xA0010, [], 64, .dev, [1],
    [(6, 58, 0, .rw)]⟩,
  ⟨"SEC_CMD_LEN", 0xA0018, [], 32, .dev, [1],
    [(0, 32, 0, .rw)]⟩,
  ⟨"SEC_CMD_RESULT", 0xA0020, [], 32, .dev, [],
    [(0, 16, 0, .ro)]⟩,
  ⟨"SEC_SVN", 0xA0028, [], 64, .aon, [],
    [(32, 32, 0, .ro), (0, 32, 0, .ro)]⟩,
  ⟨"SEC_OWNER_COUNTER", 0xA0030, [], 64, .aon, [],
    [(0, 64, 0, .ro)]⟩,
  ⟨"SEC_OWNER_SLOT", 0xA0040, [(4, 0x8)], 64, .aon, [],
    [(63, 1, 0, .ro), (0, 32, 0, .ro)]⟩]

def regTable6 : List Reg := [
  ⟨"SEC_ENROL", 0xA0060, [], 32, .dev, [3],
    [(0, 1, 0, .w1s)]⟩,
  ⟨"SEC_SB_CTRL", 0xA0068, [], 32, .dev, [3],
    [(1, 1, 0, .w1s), (0, 1, 0, .w1s)]⟩,
  ⟨"SEC_MEAS", 0xA0100, [(8, 0x20), (4, 0x8)], 64, .aon, [],
    [(0, 64, 0, .ro)]⟩,
  ⟨"NVS_WIN_BASE", 0xA0200, [], 32, .dev, [],
    [(12, 14, 0, .rw)]⟩,
  ⟨"NVS_HIST_SEQ", 0xA0208, [], 64, .aon, [],
    [(0, 64, 0, .ro)]⟩,
  ⟨"NVS_HIST_DROPPED", 0xA0210, [], 64, .aon, [],
    [(0, 64, 0, .ro)]⟩,
  ⟨"SEC_ERRLOG", 0xA0218, [], 64, .aon, [],
    [(63, 1, 0, .w1c), (62, 1, 0, .w1c), (16, 8, 0, .ro), (0, 16, 0, .ro)]⟩,
  ⟨"DBG_FREEZE_AT", 0xB0018, [], 64, .dev, [],
    [(0, 64, 0, .rw)]⟩,
  ⟨"DBG_RESUME_AT", 0xB0020, [], 64, .dev, [],
    [(0, 64, 0, .rw)]⟩,
  ⟨"DBG_FROZEN_AT", 0xB0028, [], 64, .dev, [],
    [(0, 64, 0, .ro)]⟩,
  ⟨"DBG_FREEZE_CTRL", 0xB0010, [], 32, .dev, [1, 2],
    [(30, 2, 0, .ro), (29, 1, 0, .w1c), (1, 1, 0, .w1s), (0, 1, 0, .w1s)]⟩,
  ⟨"DBG_CUT_FLITS", 0xB0040, [(4, 0x8)], 64, .dev, [],
    [(0, 16, 0, .ro)]⟩,
  ⟨"DBG_CAP_CTRL", 0xB0100, [], 32, .dev, [],
    [(31, 1, 0, .rw), (30, 1, 0, .rw), (16, 8, 0, .rw), (0, 9, 0, .rw)]⟩,
  ⟨"DBG_LOG_STATUS", 0xB0108, [], 64, .dev, [],
    [(63, 1, 0, .ro), (62, 1, 0, .ro), (61, 1, 0, .ro), (60, 1, 0, .ro), (19, 19, 0, .ro), (0, 19, 0, .ro)]⟩,
  ⟨"DBG_LOG_STEP", 0xB0110, [], 64, .dev, [],
    [(0, 64, 0, .ro)]⟩,
  ⟨"DBG_REPLAY_CTRL", 0xB0200, [], 32, .dev, [1, 2],
    [(1, 1, 0, .w1s), (0, 1, 0, .w1s)]⟩,
  ⟨"DBG_REPLAY_STATUS", 0xB0208, [], 64, .dev, [],
    [(61, 3, 0, .ro), (60, 1, 0, .ro), (32, 16, 0, .ro), (0, 32, 0, .ro)]⟩,
  ⟨"DBG_DIVERGE", 0xB0210, [], 64, .dev, [],
    [(63, 1, 0, .ro), (0, 18, 0, .ro)]⟩,
  ⟨"DBG_CTR_SEL", 0xB1000, [(64, 0x20)], 32, .dev, [],
    [(16, 9, 0x1FF, .rwb), (0, 16, 0, .rwb)]⟩,
  ⟨"DBG_CTR_STEP", 0xB1008, [(64, 0x20)], 64, .dev, [],
    [(0, 48, 0, .ro)]⟩]

def regTable7 : List Reg := [
  ⟨"DBG_CTR_RUN", 0xB1010, [(64, 0x20)], 64, .dev, [],
    [(0, 48, 0, .ro)]⟩,
  ⟨"DBG_CTR_ABORTED", 0xB1018, [(64, 0x20)], 64, .dev, [],
    [(0, 48, 0, .ro)]⟩,
  ⟨"DBG_CMD_SEL", 0xB2000, [(8, 0x20)], 32, .dev, [],
    [(25, 3, 0, .rwb), (16, 9, 0x1FF, .rwb), (0, 16, 0, .rwb)]⟩,
  ⟨"DBG_CMD_LIVE", 0xB2008, [(8, 0x20)], 64, .dev, [],
    [(48, 16, 1, .ro), (0, 48, 0, .ro)]⟩,
  ⟨"DBG_CMD_LAST", 0xB2010, [(8, 0x20)], 64, .dev, [],
    [(48, 16, 0, .ro), (0, 48, 0, .ro)]⟩,
  ⟨"DBG_PF_ISSUED", 0xB3000, [(16, 0x40)], 64, .dev, [],
    [(0, 48, 0, .ro)]⟩,
  ⟨"DBG_PF_USED", 0xB3008, [(16, 0x40)], 64, .dev, [],
    [(0, 48, 0, .ro)]⟩,
  ⟨"DBG_PF_TIMELY", 0xB3010, [(16, 0x40)], 64, .dev, [],
    [(0, 48, 0, .ro)]⟩,
  ⟨"DBG_PF_LATE", 0xB3018, [(16, 0x40)], 64, .dev, [],
    [(0, 48, 0, .ro)]⟩,
  ⟨"DBG_PF_EVICTED", 0xB3020, [(16, 0x40)], 64, .dev, [],
    [(0, 48, 0, .ro)]⟩,
  ⟨"DBG_ERRLOG", 0xB3F00, [], 64, .dev, [],
    [(63, 1, 0, .w1c), (62, 1, 0, .w1c), (0, 16, 0, .ro)]⟩,
  ⟨"NUM_SEL", 0xC0000, [], 32, .dev, [],
    [(31, 1, 0, .rw), (0, 15, 0, .rw)]⟩,
  ⟨"NUM_BANK_INFO", 0xC0030, [], 64, .dev, [],
    [(62, 2, 0, .ro), (54, 8, 0, .ro), (0, 32, 0, .ro)]⟩,
  ⟨"NUM_TRAP_INFO", 0xC0100, [], 64, .dev, [],
    [(63, 1, 0, .w1c), (62, 1, 0, .w1c), (60, 2, 0, .ro), (59, 1, 0, .ro), (58, 1, 0, .ro), (54, 4, 0, .ro), (46, 8, 0, .ro), (38, 8, 0, .ro), (16, 16, 0, .ro), (0, 16, 0, .ro)]⟩,
  ⟨"NUM_TRAP_WHERE", 0xC0108, [], 64, .dev, [],
    [(57, 7, 0, .ro), (50, 7, 0, .ro), (48, 2, 0, .ro), (0, 48, 0, .ro)]⟩,
  ⟨"NUM_TRAP_STEP", 0xC0110, [], 64, .dev, [],
    [(0, 64, 0, .ro)]⟩,
  ⟨"NUM_TRAP_TIME", 0xC0118, [], 64, .dev, [],
    [(0, 64, 0, .ro)]⟩,
  ⟨"NUM_TRAP_VALUE", 0xC0120, [], 64, .dev, [],
    [(0, 64, 0, .ro)]⟩,
  ⟨"CLU_STATUS", 0x2000000, [(32, 0x10000)], 32, .dev, [],
    [(31, 1, 0, .ro), (23, 8, 0, .ro)]⟩,
  ⟨"CLU_WAKES", 0x2000008, [(32, 0x10000)], 64, .dev, [],
    [(0, 48, 0, .ro)]⟩]

def regTable8 : List Reg := [
  ⟨"CLU_CTRL", 0x2000010, [(32, 0x10000)], 32, .dev, [1, 2],
    [(16, 16, 0, .ro), (8, 1, 0, .w1s), (0, 8, 0, .w1s)]⟩,
  ⟨"REG_LCTRL", 0x2400000, [(320, 0x1000), (8, 0x100)], 32, .lay, [],
    [(17, 7, 8, .rwb), (8, 1, 1, .rw), (0, 1, 0, .w1s)]⟩,
  ⟨"REG_LSTATUS", 0x2400008, [(320, 0x1000), (8, 0x100)], 32, .lay, [],
    [(30, 2, 0, .ro), (29, 1, 0, .ro), (26, 3, 0, .ro), (19, 7, 0, .ro)]⟩,
  ⟨"REG_LCE_COUNT", 0x2400010, [(320, 0x1000), (8, 0x100)], 64, .aon, [],
    [(0, 48, 0, .ro)]⟩,
  ⟨"REG_LUE_COUNT", 0x2400018, [(320, 0x1000), (8, 0x100)], 64, .aon, [],
    [(0, 48, 0, .ro)]⟩,
  ⟨"REG_LBANKSTALL", 0x2400020, [(320, 0x1000), (8, 0x100)], 64, .lay, [],
    [(0, 48, 0, .ro)]⟩,
  ⟨"REG_LERRLOG", 0x2400028, [(320, 0x1000), (8, 0x100)], 64, .aon, [],
    [(63, 1, 0, .w1c), (62, 1, 0, .w1c), (60, 2, 0, .ro), (51, 9, 0, .ro), (47, 4, 0, .ro), (37, 10, 0, .ro), (30, 7, 0, .ro), (23, 7, 0, .ro)]⟩,
  ⟨"REG_LERRTIME", 0x2400030, [(320, 0x1000), (8, 0x100)], 64, .aon, [],
    [(0, 64, 0, .ro)]⟩,
  ⟨"REG_LREFRESH", 0x2400038, [(320, 0x1000), (8, 0x100)], 32, .lay, [],
    [(24, 8, 0, .ro), (0, 24, 32000, .ro)]⟩,
  ⟨"REG_LSCRUB", 0x2400040, [(320, 0x1000), (8, 0x100)], 32, .lay, [],
    [(16, 8, 24, .rw), (0, 14, 0, .ro)]⟩,
  ⟨"REG_LCE_THRESH", 0x2400048, [(320, 0x1000), (8, 0x100)], 32, .lay, [],
    [(0, 16, 64, .rw)]⟩,
  ⟨"REG_COLCTRL", 0x2400800, [(5, 0x40000)], 32, .col, [1, 2],
    [(0, 1, 0, .w1s)]⟩,
  ⟨"REG_COLSTATUS", 0x2400808, [(5, 0x40000)], 32, .col, [],
    [(31, 1, 0, .ro), (30, 1, 0, .ro), (0, 8, 0, .ro)]⟩,
  ⟨"REG_COLRESULT", 0x2400810, [(5, 0x40000)], 32, .aon, [],
    [(0, 16, 0, .ro)]⟩,
  ⟨"PAGE_BIAS", 0x3000000, [(196608, 0x4)], 32, .dev, [],
    [(3, 1, 0, .ro), (2, 1, 0, .ro), (0, 2, 0, .ro)]⟩,
  ⟨"TILE_SEQ_STATUS", 0x1000000, [(256, 0x10000), (2, 0x8)], 32, .tile, [],
    [(30, 2, 0, .ro), (27, 3, 0, .ro), (14, 13, 0, .ro), (6, 8, 0, .ro)]⟩,
  ⟨"TILE_SEQ_ISSUED", 0x1000010, [(256, 0x10000), (2, 0x8)], 64, .tile, [],
    [(0, 48, 0, .ro)]⟩,
  ⟨"TILE_FAULT_INFO", 0x1000020, [(256, 0x10000), (2, 0x10)], 64, .tile, [],
    [(63, 1, 0, .w1c), (62, 1, 0, .w1c), (32, 13, 0, .ro), (24, 8, 0, .ro), (0, 16, 0, .ro)]⟩,
  ⟨"TILE_FAULT_TAG", 0x1000028, [(256, 0x10000), (2, 0x10)], 64, .tile, [],
    [(32, 32, 0, .ro), (16, 16, 0, .ro), (0, 16, 0, .ro)]⟩,
  ⟨"TILE_EVT", 0x1000080, [(256, 0x10000), (16, 0x4)], 32, .tile, [],
    [(0, 32, 0, .ro)]⟩]

def regTable9 : List Reg := [
  ⟨"TILE_ARR_STATUS", 0x1000400, [(256, 0x10000), (2, 0x8)], 32, .tile, [],
    [(31, 1, 0, .ro), (28, 3, 0, .ro), (26, 2, 0, .ro), (25, 1, 0, .ro), (24, 1, 0, .ro), (15, 9, 0, .ro)]⟩,
  ⟨"TILE_ARR_PASSES", 0x1000410, [(256, 0x10000), (2, 0x8)], 64, .tile, [],
    [(0, 48, 0, .ro)]⟩,
  ⟨"TILE_OU_STATUS", 0x1000440, [(256, 0x10000), (2, 0x8)], 32, .tile, [],
    [(30, 2, 0, .ro), (28, 2, 0, .ro), (27, 1, 0, .ro), (26, 1, 0, .ro), (25, 1, 0, .ro), (24, 1, 0, .ro)]⟩,
  ⟨"TILE_SGB_STATUS", 0x1000450, [(256, 0x10000)], 32, .tile, [],
    [(30, 2, 0, .ro), (28, 2, 0, .ro), (25, 3, 0, .ro), (22, 3, 0, .ro)]⟩,
  ⟨"TILE_VEC_STATUS", 0x1000460, [(256, 0x10000)], 32, .tile, [],
    [(31, 1, 0, .ro), (30, 1, 0, .ro), (29, 1, 0, .ro), (28, 1, 0, .ro), (27, 1, 0, .ro), (26, 1, 0, .ro), (24, 2, 0, .ro), (22, 2, 0, .ro)]⟩,
  ⟨"TILE_SFU_RESULTS", 0x1000468, [(256, 0x10000)], 64, .tile, [],
    [(0, 48, 0, .ro)]⟩]

/-- Every register of BAR0 that holds state. -/
def regTable : List Reg := regTable0 ++ regTable1 ++ regTable2 ++ regTable3 ++ regTable4 ++ regTable5 ++ regTable6 ++ regTable7 ++ regTable8 ++ regTable9

/-- Whether `d`, a distance from a family's base, is a member of dimensions given largest stride first. -/
def dimHit : List (Nat × Nat) → Nat → Bool
  | [], d => d == 0
  | (n, st) :: r, d => decide (d / st < n) && dimHit r (d % st)

/-- Whether register `r` has a member at `off`. -/
def Reg.hit (r : Reg) (off : Nat) : Bool :=
  decide (r.base ≤ off) && dimHit r.dims (off - r.base)

/-- The blocks of layers 7 and 8 in the region-controller windows of the compute columns are RSVD (spec 06, registers). -/
def hiddenLayer (off : Nat) : Bool :=
  decide (0x2400000 ≤ off) && decide (off < 0x2500000) && decide (0x600 ≤ off % 0x1000) && decide (off % 0x1000 < 0x800)

/-- The register at an offset, if any (R514). -/
def regAt (off : Nat) : Option Reg := if hiddenLayer off then none else regTable.find? fun r => r.hit off

/-- The fields of a register at the offset of one of its members. -/
def Reg.fieldsAt (r : Reg) (off : Nat) : List Fld :=
  r.fields.map fun f => ⟨off, f.1, f.2.1, f.2.2.1, f.2.2.2, r.dom⟩

end Sys2Proof.Machine
end

