-- ==== Sys2Proof/Machine/TileUnits.lean ====
section
/-!
DEFINITION. The state inside a tile that no register shows (spec 03_tile_arrays.md, 04_fused_kernels.md,
05_tile_instruction_streams.md). What a register shows (bank states, half states, program counters, event counters, fault
records) is held in the register file and not here.
-/
namespace Sys2Proof.Machine

/-- A span of sectors in one of the spaces an instruction touches (R126). -/
inductive Space where
  | sram
  | memory
  | host
  deriving DecidableEq, Repr

structure Span where
  space : Space
  start : Nat
  len : Nat
  deriving DecidableEq, Repr

/-- A scaled block taken apart: one plane, or the two or three limb planes, of 128 rows of 128, and 128 row scales (R33). -/
structure Block where
  form : Nat
  planes : List (List (List Int))
  scales : List Nat
  deriving DecidableEq, Repr

def Block.empty : Block := ⟨0, [], []⟩

/-- A stationary bank: its owner and its block; `loading` until its SLOAD completes (R59, R60, R124). -/
structure StatBank where
  owner : Option Nat
  loading : Bool
  block : Block
  deriving DecidableEq, Repr

def StatBank.free : StatBank := ⟨none, false, Block.empty⟩

/-- A half of the shared gradient buffer: its owner and block; its state is HALFh_STATE (R69, R71, R125). -/
structure Half where
  owner : Option Nat
  block : Block
  deriving DecidableEq, Repr

def Half.free : Half := ⟨none, Block.empty⟩

/-- The s and e planes of an accumulator bank, row-major; its state is BANKb_STATE (R74, R79). `chan` is the chain channel
a WAIT_CHAIN bank is armed on. -/
structure Bank where
  pairs : List Pair
  chan : Option Nat
  deriving DecidableEq, Repr

def Bank.empty : Bank := ⟨[], none⟩

/-- An online record (R100). -/
structure Online where
  m : Nat
  ls : Nat
  le : Nat
  t : Nat
  deriving DecidableEq, Repr

/-- An opened record (R100). -/
def Online.opened : Online := ⟨negInf32, 0, 0, 0⟩

/-- A kernel-state slot: the O plane, 128 records, the alphas kept for ATTN_O, and for a normalisation band the lane pairs
of each row's one or two terms (R95, R105, R106, R109). -/
structure KSlot where
  o : List Nat
  recs : List Online
  alpha : List Nat
  firstO : Bool
  terms1 : List (List (Option Pair))
  terms2 : List (List (Option Pair))
  deriving DecidableEq, Repr

def KSlot.closed : KSlot := ⟨[], [], [], true, [], []⟩

/-- A stream's setup of one output unit (R149). -/
structure OuSetup where
  mode : Nat
  postop : Nat
  mult : Nat
  deriving DecidableEq, Repr

def OuSetup.init : OuSetup := ⟨0, 0, one32⟩

/-- A TAG span of the digest log that is not yet written (R503): its number, identifiers, the CRCs of its writing
instructions in issue order, and whether a TAG or END has closed it. -/
structure SpanLog where
  seq : Nat
  layer : Nat
  oper : Nat
  crcs : List (Nat × Nat)       -- (flight, CRC) of each writing instruction
  closed : Bool
  deriving DecidableEq, Repr

/-- What a stream holds beside its registers (R128 to R130, R146, R154). -/
structure Stream where
  x : Sparse Nat
  k : Sparse Nat
  layer : Nat
  oper : Nat
  setup0 : OuSetup
  setup1 : OuSetup
  taken : List (Nat × Nat)      -- slots taken and not freed, oldest first: (channel, slot)
  lossPair : Option Pair
  lossCount : Nat
  spans : List SpanLog
  seq : Nat
  ended : Bool                  -- END has completed for the step (R121)
  deriving DecidableEq, Repr

def Stream.init : Stream := ⟨[], [], 0, 0, OuSetup.init, OuSetup.init, [], none, 0, [], 0, false⟩

/-- What comes about when an instruction in flight completes. -/
inductive Post where
  | statLoaded (arr sb : Nat)
  | passDone (arr sb passes : Nat) (release : Bool)
  | halfLoaded (h : Nat)
  | halfRead (h : Nat) (release : Bool)
  | bankEmpty (ou b : Nat)
  | bankLive (ou b : Nat)
  | vectorDone (slots : List Nat) (sfu : Nat)
  | segmentRelease (seg attempt : Nat)
  | ending
  deriving DecidableEq, Repr

/-- Where a non-finite element was written (R492). -/
structure Trap where
  source : Nat
  stream : Nat
  ou : Nat
  fmt : Nat
  unit : Nat
  layer : Nat
  oper : Nat
  row : Nat
  col : Nat
  dkind : Nat
  addr : Nat
  value : Nat
  deriving DecidableEq, Repr

/-- A scaled block on its way into a half of the gradient buffer, with its counts and its trap (R114). -/
structure HalfFill where
  half : Nat
  block : Block
  tally : List Tally
  trap : Option Trap
  deriving DecidableEq, Repr

/-- An instruction issued and not yet complete: `ready` is false while an outside event is still to come (a delivery at the
receiver, a chained pair). -/
structure Flight where
  id : Nat
  stream : Nat
  pc : Nat
  op : Nat
  evt : Option Nat
  seq : Nat
  rd : List Span
  wr : List Span
  post : List Post
  ready : Bool
  waiting : List Nat            -- host lines still awaited (HOSTLD), or written and not yet observed (HOSTST)
  dst : Nat                     -- first SRAM sector of a HOSTLD
  src : Nat                     -- first host line of a HOSTLD
  layer : Nat                   -- identifiers current at its issue (R130)
  oper : Nat
  fills : List HalfFill         -- blocks that wait for their half to be free (R114)
  deriving DecidableEq, Repr

/-- A receive channel: slots full and not yet taken in order, the next slot to fill, and how many of the sender's credits
are out (R144, R146). -/
structure Chan where
  full : List Nat
  next : Nat
  used : Nat
  freed : List (Nat × Nat × Nat)  -- slots freed, credit not yet returned: (slot, stream, flights issued before the FREE)
  deriving DecidableEq, Repr

def Chan.empty : Chan := ⟨[], 0, 0, []⟩

/-- A tile. -/
structure Tile where
  s0 : Stream
  s1 : Stream
  sram : Sparse Byte
  badSectors : List Nat         -- SRAM sectors that read as uncorrectable
  stat : Sparse StatBank        -- array × 2 + bank
  half0 : Half
  half1 : Half
  banks : Sparse Bank           -- output unit × 2 + bank
  score : Sparse (List Nat)     -- score slots 0 to 3 in the SSEL order less 1
  scoreOwner : Sparse (Option Nat)
  slot0 : KSlot
  slot1 : KSlot
  chans : Sparse Chan
  flights : List Flight
  nextId : Nat
  run : Nat                     -- contested grants in a row to the backward stream (R123)
  since : Nat                   -- fabric time at which the tile became IDLE or entered SLEEP (R462)
  acked : Bool                  -- it has acknowledged the opening of the step (R260)
  deriving DecidableEq, Repr

def Tile.init : Tile :=
  ⟨Stream.init, Stream.init, [], [], [], Half.free, Half.free, [], [], [], KSlot.closed, KSlot.closed, [], [], 0, 0, 0, false⟩

def Tile.stream (x : Tile) (n : Nat) : Stream := if n = 0 then x.s0 else x.s1
def Tile.setStream (x : Tile) (n : Nat) (f : Stream → Stream) : Tile :=
  if n = 0 then { x with s0 := f x.s0 } else { x with s1 := f x.s1 }

/-- A message on the mesh, in route order (R144, R147): a SEND's bytes or a chained pair, with the sending flight. -/
structure MeshMsg where
  srcTile : Nat
  flight : Nat
  dstTile : Nat
  chan : Nat
  bytes : List Byte
  pairs : List Pair
  chain : Bool
  partial' : Bool               -- cut short by an uncorrectable sector: it fills no slot (R157 item 7)
  deriving DecidableEq, Repr

end Sys2Proof.Machine
end

