-- ==== Sys2Proof/Machine/State.lean ====
section
/-!
DEFINITION. The whole state of the block, as plain data, and its value right after power-on (INVENTORY.md, State).
Register fields of BAR0 live in one register file, `fld`; the structures here hold what no register shows.
-/
namespace Sys2Proof.Machine

/-- Why a step stops for good: nothing in the spec stops the block, so no meaning raises one. -/
inductive Fault where
  /-- Never raised. Kept so that a later repair could name a stop; safe. -/
  | none
  deriving DecidableEq, Repr

/-- Why a command has no meaning. -/
inductive Refusal where
  /-- Raised by an arm of `exec` whose command has no meaning yet; safe. -/
  | notModelled (mnemonic : String)
  deriving DecidableEq, Repr

/-- What the block sends out, oldest first in `State.outbox`. -/
inductive Out where
  /-- An MSI-X message of a vector. -/
  | msix (vector : Nat)
  /-- A sequenced flit sent on a ring port under its SEQ. -/
  | port (port seq : Nat) (item : PortItem)
  /-- The words of that flit, or of a link-control or time flit, on the transmit lanes of a ring port, each with its lane (R265). -/
  | light (port : Nat) (words : List (Nat × Nat))
  /-- A link-control flit sent on a ring port. -/
  | control (port : Nat) (c : LinkControl)
  /-- A far-cache fill, or an uncached read, of a 64-byte host line. -/
  | hostFill (line : Nat)
  /-- Host memory written: a line written back, an uncached store, a completion record, a flag. -/
  | hostWrite (addr : Nat) (bytes : List Byte)
  /-- Data of a command posted to host memory with Relaxed Ordering (R362, R391). -/
  | postedWrite (addr : Nat) (bytes : List Byte)
  /-- An RDMA WRITE of bytes to a byte offset of the peer's receiving partition, on a queue pair (R417). -/
  | rdmaWrite (qp offset : Nat) (bytes : List Byte)
  /-- An RDMA SEND on a queue pair. -/
  | rdmaSend (qp : Nat) (bytes : List Byte)
  /-- The answer to a peer's RDMA request: what a READ returns, or a remote-access NAK (R403). -/
  | rdmaReply (qp : Nat) (nak : Bool) (bytes : List Byte)
  /-- An NVMe command on a queue pair: controller, Write with FUA or Read, first logical block, blocks, the bytes written (R401, R406). -/
  | nvme (pair ctrl : Nat) (write : Bool) (lba blocks : Nat) (bytes : List Byte)
  /-- A read of host memory by a command, a descriptor fetch or the loader: address and bytes. -/
  | hostRead (addr len : Nat)
  /-- The completion of a host access: the data, poisoned or not; an Unsupported Request (R365, R370). -/
  | hostReply (bytes : List Byte) (poison : Bool)
  | unsupported
  /-- The completion of a configuration request, or Request Retry Status (R543). -/
  | configReply (retry : Bool)
  /-- A back-invalidate snoop of a line of HDA space: BISnpInv, or BISnpData (R371). -/
  | biSnoop (line : Nat) (inv : Bool)
  /-- The answer of the far cache to a host snoop: the whole line, none when it holds none (R378). -/
  | snoopReply (line : Nat) (data : Option (List Byte))
  /-- A time-synchronisation flit sent on a ring port: kind, SEQ or request number, times (R296). -/
  | time (port : Nat) (f : TimeFlit)
  /-- What a register read returns to a master (R515). -/
  | regData (master off value : Nat)
  /-- A DOE or sideband answer (R445, R452). -/
  | doe (bytes : List Byte)
  | smbus (bytes : List Byte)
  /-- An answer to ARP or neighbour discovery on an Ethernet port (R400). -/
  | arp (port : Nat)
  /-- A PTP message sent on an Ethernet port: its type, and the time it carries in nanoseconds (R421). -/
  | ptp (port kind time : Nat)
  /-- A request to a region controller completes: its number, the code it completes with (0 for none), what a read returns. -/
  | memDone (id code : Nat) (bytes : List Byte)
  deriving DecidableEq, Repr

/-- An error report on its way to the management core (R194, R451). -/
structure Report where
  time : Nat
  code : Nat
  unit : Nat
  step : Nat
  detail : Nat
  deriving DecidableEq, Repr

/-- The step transaction controller beside its registers (spec 08). -/
structure StepCtl where
  mbCount : Nat                 -- microbatch count latched at opening (R240)
  failed : Option (Nat × Nat)   -- first cause and detail recorded against the attempt (R249)
  held : List (Nat × StepFrame) -- READY, FAIL and A_DONE, with their ring, of an attempt that has not opened here (R241, R252)
  adone : List Nat              -- ring-B positions whose A_DONE of the open attempt is held (R248)
  due : Option (Nat × Nat × Nat × Nat)  -- a FAIL at the anchor, decided in the same command: cause, detail, position, ring (R250)
  seen : List (Nat × Nat × Nat × Nat × Nat × Nat)  -- torus frames passed on: type, attempt, step, origin ring and position, port (R248)
  openWaiting : Bool            -- an OPEN waits on the loader, on healing or on a CRITICAL column (R238, R360, R477)
  pollK : Option Nat            -- K of the last poll (R257)
  polled : Option (Nat × Nat)   -- K and ATTEMPT of the poll that has settled here since membership last changed (R257)
  segsNamed : List Nat          -- reduction segments named by a GRADOUT or GAINOUT of the attempt (R151)
  gather : Sparse Nat           -- gather count per layer identifier (R132)
  deriving DecidableEq, Repr

def StepCtl.init : StepCtl := ⟨1, none, [], [], none, [], false, none, none, [], []⟩

/-- Images of the RWB fields in effect with the latched microbatch count (R507): at the last opening, at the opening of the last
committed step, and what a running replay puts back at its end. -/
structure Images where
  opening : Sparse Nat
  openingMb : Nat
  committed : Sparse Nat
  committedMb : Nat
  saved : Option (Sparse Nat × Nat)
  deriving DecidableEq, Repr

def Images.init : Images := ⟨[], 1, [], 1, none⟩

/-- Counts of one per-tensor entry (R490). -/
structure NumCount where
  written : Nat
  zeros : Nat
  sats : Nat
  nonfinite : Nat
  deriving DecidableEq, Repr

def NumCount.zero : NumCount := ⟨0, 0, 0, 0⟩

/-- The numerics watch (R490, R491): counts per entry and the key table of each bank. -/
structure Watch where
  openCounts : Sparse NumCount
  openKeys : List (Nat × Nat)
  lastCounts : Sparse NumCount
  lastKeys : List (Nat × Nat)
  trapped : Bool                -- a first non-finite write of the attempt has come (R492)
  deriving DecidableEq, Repr

/-- A digest-log entry (R504). -/
structure LogEntry where
  crc : Nat
  layer : Nat
  oper : Nat
  source : Nat
  flags : Nat
  unit : Nat
  seq : Nat
  count : Nat
  time : Nat
  deriving DecidableEq, Repr

/-- The capture buffer (R502 to R506): the two digest-log banks, the trace records, and HOST's bytes. -/
structure Capture where
  bank0 : List LogEntry
  bank1 : List LogEntry
  trace : List (Nat × Nat × Nat × Nat)
  bytes : Sparse Byte
  fullLogged : Bool
  deriving DecidableEq, Repr

/-- The bonded memory beside its registers: bytes by device physical address, the sectors that read as uncorrectable, and those that every
read corrects until they are written (R188). -/
structure Memory where
  cells : List Host.Cell
  bad : List Nat
  weak : List (Nat × Nat)       -- sectors with one wrong symbol, and that symbol's number
  deriving DecidableEq, Repr

/-- A request to a region controller (R177): `data` is what a write stores; a host write to one sector may carry a mask of the
bytes it stores (R183). -/
structure MemReq where
  id : Nat
  req : Nat
  addr : Nat
  sectors : Nat
  data : Option (List Byte)
  mask : Option (List Bool)
  deriving DecidableEq, Repr

/-- The region controllers and relays beside their registers (R164, R178, R189, R192, R193, R197): requests that wait and that
hold slots, each in order; corrected sectors not yet written back; the sector of the row that each scrubber reads next;
corrected errors in the fabric-time hour as (hour, count, whether reported) by layer of a window; failures of the frame a hop is
sending; the columns whose arrays a column reset is resetting. -/
structure RegionCtl where
  waiting : List MemReq
  held : List MemReq
  nextId : Nat
  fixes : List Nat
  scrub : Sparse Nat
  hours : Sparse (Nat × Nat × Bool)
  hops : Sparse Nat
  resetting : List Nat
  deriving DecidableEq, Repr

def RegionCtl.init : RegionCtl := ⟨[], [], 0, [], [], [], [], []⟩

/-- One node of the stack model (R472 to R476), temperatures in units of 0.25 °C and heat flow in units of 2^-16 W: sensor, from
above, from below, model, estimate, filtered flow; whether the sensor is suspect. -/
structure ThmNode where
  sensor : Int
  up : Int
  down : Int
  model : Int
  est : Int
  flow : Int
  suspect : Bool
  deriving DecidableEq, Repr

def ThmNode.init : ThmNode := ⟨0, 0, 0, 0, 0, 0, false⟩

/-- A line of the far cache (R376), in a way of its set: `pf` while it was filled by a PREF and not yet touched (R493). -/
structure FarLine where
  part : Nat
  way : Nat
  line : Nat
  data : List Byte
  dirty : Bool
  pf : Bool
  deriving DecidableEq, Repr

/-- A far-cache fill or an uncached read in flight; `cached` is false for a requester without a partition (R377), `units` tells
that the update units await it. -/
structure FarFill where
  part : Nat
  line : Nat
  cached : Bool
  pf : Bool
  units : Bool
  deriving DecidableEq, Repr

/-- A CXL.cache write that the host has not answered (R380, R381): a line written uncached by a tile's instruction in flight, or by the
update units, or a dirty line written back. -/
structure FarWrite where
  line : Nat
  flight : Option (Nat × Nat)   -- the tile and the flight that await the answer
  units : Bool
  deriving DecidableEq, Repr

/-- The far cache: lines in the order of their last use, oldest first, fills in flight, writes not answered, and lines that have come
uncached for the update units and are not yet used. -/
structure FarCache where
  lines : List FarLine
  fills : List FarFill
  writes : List FarWrite
  loose : List (Nat × List Byte)
  deriving DecidableEq, Repr

def FarCache.init : FarCache := ⟨[], [], [], []⟩

/-- MSI-X (R395, R396): the table's 32-bit words by index, four to a vector, with the pending bits.
The word of vector control reads 1, masked, until it is written (log entry 30). -/
structure MsiCtl where
  table : Sparse Nat
  unmasked : List Nat
  pendingBits : List Nat
  deriving DecidableEq, Repr

def MsiCtl.init : MsiCtl := ⟨[], [], []⟩

/-- What waits for the end of a freeze (R497, R498): flits and frames accepted meanwhile, by port and whether on a return leg, and writes to stopped units as
(master, offset, value), oldest first. -/
structure Frozen where
  flits : List (Nat × Bool × PortItem)
  writes : List (Nat × Nat × Nat)
  deriving DecidableEq, Repr

def Frozen.init : Frozen := ⟨[], []⟩

/-- The configuration loader beside its registers (R226, R227): bytes of the image in the shadow store or being copied into it,
the plan read by a CHECK that passed, and whether an abort boundary has come while ARMED, after which installation waits for R158 alone
(R230). -/
structure LoaderCtl where
  len : Nat
  plan : Option Plan
  due : Bool
  deriving DecidableEq, Repr

def LoaderCtl.init : LoaderCtl := ⟨0, none, false⟩

/-- An error-history record (R451). -/
structure HistRecord where
  seq : Nat
  report : Report
  deriving DecidableEq, Repr

/-- A DOE request (R445): Discovery by index, GET_CERT, ATTEST. -/
inductive DoeReq where
  | discovery (index : Nat)
  | cert (request : List Byte)
  | attest (request : List Byte)
  deriving DecidableEq, Repr

/-- The security engine, the management core and the nonvolatile store beside their registers (spec 14): the firmware slots'
images, the owner-key slots, the error history oldest first, what the hourly record last stored (register fields by key),
whether FW_WRITE is writing an image, whether a command waits for Jeoft, messages that cluster controllers and the hub sequencer hold back (channel, sender, word),
and the fabric time at which ENROL was enabled. -/
structure SecCtl where
  slotA : List Byte
  slotB : List Byte
  keys : List (Option KeyPair)
  history : List HistRecord
  stored : Sparse Nat
  writing : Bool
  waits : Bool
  held : List (Nat × Nat × Nat)
  enrolAt : Nat
  asked : List DoeReq
  rested : Bool
  deriving DecidableEq, Repr

def SecCtl.init : SecCtl := ⟨[], [], [none, none, none, none], [], [], false, false, [], 0, [], false⟩

/-! Host interface (spec 12). -/

/-- A descriptor fetched from a queue (R384), with its place in the order of all fetches (BARRIER). -/
structure Fetched where
  num : Nat
  bytes : List Byte
  deriving DecidableEq, Repr

/-- A piece that a checkpoint writes (R412): kind, group, index, step of a pending gradient, where it lies, its bytes. -/
structure CkptPart where
  kind : Nat
  group : Nat
  index : Nat
  step : Nat
  host : Bool
  addr : Nat
  len : Nat
  deriving DecidableEq, Repr

/-- A checkpoint command's progress (R410, R415): the part being written, or read on a restore; K; the version read, while it
still has to be read; the pieces; the manifest's bytes and the record read so far. -/
structure CkptRun where
  phase : Nat
  step : Nat
  reading : Option Nat
  parts : List CkptPart
  record : List Byte
  manifest : List Byte
  deriving DecidableEq, Repr

def CkptRun.init : CkptRun := ⟨0, 0, none, [], [], []⟩

/-- A buffer-table entry as a command read it when it started (R386). -/
structure Buf where
  kind : Nat
  acc : Nat
  base : Nat
  size : Nat
  deriving DecidableEq, Repr

def Buf.none : Buf := ⟨0, 0, 0, 0⟩

/-- A queue's running command (R388 to R391): `stage` 0 while its effect is to come, 1 while it awaits answers, 2 when it is over, 3
when a check has failed; its source, destination and flag buffers; pages of a BIAS command that have not changed yet; a
checkpoint's progress. -/
structure HostCmd where
  num : Nat
  desc : List Byte
  stage : Nat
  status : Nat
  result : Nat
  src : Buf
  dst : Buf
  flag : Buf
  pages : List Nat
  ckpt : CkptRun
  deriving DecidableEq, Repr

/-- A command queue beside its registers (R382, R393): whether it has been started and not stopped, what ENABLE read, commands
fetched, the one running, the completion entry to write next and its PHASE. -/
structure HostQueue where
  live : Bool
  sqBase : Nat
  cqBase : Nat
  size : Nat
  fetched : List Fetched
  cmd : Option HostCmd
  cqTail : Nat
  phase : Bool
  deriving DecidableEq, Repr

def HostQueue.init : HostQueue := ⟨false, 0, 0, 4, [], none, 0, true⟩

/-- A host request that the link layers hold through a Recovery (R543). -/
inductive HostReq where
  | barRead (offset len : Nat)
  | barWrite (offset : Nat) (data : List Byte) (mask : List Bool)
  | registerWrite (off len value : Nat) (selftest : Bool) (request : List Byte)
  | badAccess (off len : Nat)
  | cxlRead (hpa share : Nat)
  | cxlWrite (hpa : Nat) (data : List Byte) (mask : List Bool)
  | config (hdmBase maxPayload maxRead : Option Nat)
  deriving DecidableEq, Repr

/-- The host interface beside its registers: queues by number, the number of the next fetch, what the host may hold of the 64-byte
lines of HDA space (1 a shared copy, 2 an owned one, 3 a shared copy that a BISnpData has left it, R371), lines whose back-invalidate
snoop is not yet answered, with whether it is BISnpInv (R371, R372), whether HIF_RETAINED has been logged since
CFG_RUN_STATE became PENDING (R370), whether the link is in Recovery (R397), whether configuration requests may be answered
(R543), HDM_BASE (R367), what waits to leave for the host until the link is back (R396, R397), and the host's requests that wait for it; the maximum
payload and read request sizes in bytes (R362; log entry 54). -/
structure HostCtl where
  queues : Sparse HostQueue
  nextNum : Nat
  lines : Sparse Nat
  snoops : List (Nat × Bool)
  retainedLogged : Bool
  recovery : Bool
  ready : Bool
  hdmBase : Nat
  leaving : List Out
  coming : List HostReq
  maxPayload : Nat
  maxRead : Nat
  deriving DecidableEq, Repr

def HostCtl.init : HostCtl := ⟨[], 0, [], [], false, false, false, 0, [], [], 128, 512⟩

/-! Ethernet and storage (spec 13). -/

/-- An NVMe command without completion (R406): its number, controller, the queue (0 to 3) whose command issued it or 4 for
ingest, Write or Read, its first block and blocks, what it writes, and the queue pair on which it is outstanding, none while it waits
for one (R401, R424). -/
structure NvmeOp where
  id : Nat
  ctrl : Nat
  user : Nat
  write : Bool
  lba : Nat
  blocks : Nat
  bytes : List Byte
  pair : Option Nat
  deriving DecidableEq, Repr

/-- PTP on an Ethernet port (R421), times in nanoseconds: arrival of the last Sync; origin and arrival of the Sync whose Delay_Req is out, with
the time at which that left; departure of a Pdelay_Req, then the peer's time of its arrival and the arrival of the answer; the path delay to
the peer. -/
structure PtpPort where
  sync : Option Nat
  asked : Option (Nat × Nat × Nat)
  peerAsked : Option Nat
  peerTold : Option (Nat × Nat × Nat)
  delay : Int
  deriving DecidableEq, Repr

def PtpPort.init : PtpPort := ⟨none, none, none, none, 0⟩

/-- The Ethernet engines beside their registers: bytes of the queue-pair contexts and of the memory-region table (R403), size in
blocks of the namespace attached at each controller (R402), NVMe commands outstanding, whether a restore since the last FINAL has
failed (R416), and PTP by port. -/
structure EthCtl where
  qp : Sparse Byte
  mr : Sparse Byte
  spaces : Sparse (Option Nat)
  ops : List NvmeOp
  nextId : Nat
  restoreBad : Bool
  ptp : Sparse PtpPort
  deriving DecidableEq, Repr

def EthCtl.init : EthCtl := ⟨[], [], [], [], 0, false, []⟩

/-! Ring lanes and fabric time (spec 09). -/

/-- A lane of a port direction, as RING_Pp_LANE_INFO shows it: 0 off, 1 active, 2 failed, 3 under retest; power; error exponent;
failures. -/
structure Lane where
  state : Nat
  power : Nat
  ser : Nat
  fails : Nat
  deriving DecidableEq, Repr

def Lane.off : Lane := ⟨0, 0, 0, 0⟩

/-- A ring port's line beside its registers (R275, R284, R285, R296, R297): the serial of the partner before, whether its link is
refused, a receive map proposed by this end, receive and transmit maps accepted with the codeword count at which they take
effect, departure of a DELAY_REQ not yet answered, link delay, and what the last SYNC gave: depth, master, offset. Times are in
units of 2^-16 ns. -/
structure Line where
  lastPartner : Nat
  refused : Bool
  proposed : Option Nat
  rxNext : Option (Nat × Nat)
  txNext : Option (Nat × Nat)
  asked : Option Nat
  delay : Option Int
  sync : Option (Nat × Nat × Int)
  deriving DecidableEq, Repr

def Line.init : Line := ⟨0, false, none, none, none, none, none, none⟩

/-- The slewing of fabric time (R297): nanoseconds still to correct, and ticks until the next correction of one. -/
structure Slew where
  left : Int
  wait : Nat
  deriving DecidableEq, Repr

def Slew.init : Slew := ⟨0, 0⟩

/-! Power, temperature and pins (spec 15 and 18). -/

/-- The extremes of a column's tracked temperature (R479): the last reversal, the extreme since, whether it rises, whether any
sample has come. -/
structure Wear where
  last : Int
  ext : Int
  up : Bool
  seen : Bool
  deriving DecidableEq, Repr

def Wear.init : Wear := ⟨0, 0, true, false⟩

/-- The power controller and the regulators beside their registers: energy credit in µJ, microseconds that P has stayed above
the limit, input power of the last ten microseconds (R470), what FIXED and each class (RING, UPDATE, VENT, GEYSER, ARRAY) drew, would
draw and are granted in watts (R468), what the fast loop leaves each class in eighths, rates of a column under R476 in eighths by
column × 2 (vent or, on the hub, update duty) and column × 2 + 1 (geyser or ring pacing), clusters and layers (column × 8 + layer − 1)
whose regulator is off, layers whose regulator has faulted since power-on, and that stay off (R457), tiles that wait for admission and
that are admitted (R465), the tracked temperatures, and the column whose eyes are being measured (R482). -/
structure PowerCtl where
  credit : Nat
  above : Nat
  recent : List Nat
  fixed : Nat
  demand : List Nat
  grant : List Nat
  duty : List Nat
  rates : Sparse Nat
  offClusters : List Nat
  offLayers : List Nat
  faulted : List Nat
  dead : List Nat
  waiting : List Nat
  admitted : List Nat
  wear : Sparse Wear
  margin : Option Nat
  deriving DecidableEq, Repr

def PowerCtl.init : PowerCtl :=
  ⟨0, 0, [], 0, [0, 0, 0, 0, 0], [0, 0, 0, 0, 0], [8, 8, 8, 8, 8], [], [], [], [], [], [], [], [], none⟩

/-- Pins and what they cause (spec 18): PERST# asserted, SB_VREF below 1.5 V, MATE# open, the address straps sampled, PWR_OK
released, THERM_TRIP# low; whether the management core has still to log a lost input or a TRIP; whether TRIP keeps the regulators
off. -/
structure Pins where
  perst : Bool
  vrefLow : Bool
  mateOpen : Bool
  straps : Nat
  pwrOk : Bool
  thermTrip : Bool
  lostDue : Bool
  tripDue : Bool
  deriving DecidableEq, Repr

/-- Just after power-on the host holds PERST# asserted (R538). -/
def Pins.init : Pins := ⟨true, false, false, 0, true, false, false, false⟩

structure State where
  /-- The register file: what differs from the reset value, by field key. -/
  fld : Sparse Nat
  /-- RWB shadows of the open step (R5). -/
  shadow : List (Fld × Nat)
  /-- RWL fields written since their domain's reset (R7). -/
  locked : List Nat
  /-- Fabric time in nanoseconds. -/
  time : Nat
  /-- Commands that wait, first in, first out. -/
  pending : List Instr
  /-- Everything sent out, oldest first. -/
  outbox : List Out
  /-- Error reports not yet in the error history (R451). -/
  reports : List Report
  /-- Whether the 48 V input is present and the logic powered (R454). -/
  powered : Bool
  plan : Option Plan
  loader : LoaderCtl
  sec : SecCtl
  stp : StepCtl
  images : Images
  tiles : Sparse Tile
  mesh : List MeshMsg
  mem : Memory
  regions : RegionCtl
  /-- The stack model's nodes, by (column × 64 + region) × 16 + node. -/
  thm : Sparse ThmNode
  far : FarCache
  /-- Shared resources held at run time under R224. -/
  claims : List OwnerEntry
  ports : Sparse Port
  lines : Sparse Line
  lanes : Sparse Lane
  slew : Slew
  ringA : RingCtl
  ringB : RingCtl
  poll : PollCtl
  red : RedCtl
  upd : UpdCtl
  gather : GatherCtl
  /-- The step whose input the ingest engine is reading (R408). -/
  ingest : Option Nat
  num : Watch
  cap : Capture
  msi : MsiCtl
  frozen' : Frozen
  host : HostCtl
  eth : EthCtl
  power : PowerCtl
  pins : Pins
  /-- Accesses to bonded memory that the running command has found waiting, each with the snoops it needs; empty between commands (log
  entry 32). -/
  waits : List (List (Nat × Bool))
  /-- The model's own counter of free values taken (no part of the hardware). -/
  freeCount : Nat
  deriving DecidableEq, Repr

/-- The machine just after power-on (R187, R234, R278, R538): every register at its reset value, nothing installed, nothing in
memory, both rings bypassed, the boot ROM running, no command waiting. -/
def State.reset : State where
  fld := []
  shadow := []
  locked := []
  time := 0
  pending := []
  outbox := []
  reports := []
  powered := true
  plan := none
  loader := LoaderCtl.init
  sec := SecCtl.init
  stp := StepCtl.init
  images := Images.init
  tiles := []
  mesh := []
  mem := ⟨[], [], []⟩
  regions := RegionCtl.init
  thm := []
  far := FarCache.init
  claims := []
  ports := []
  lines := []
  lanes := []
  slew := Slew.init
  ringA := RingCtl.init
  ringB := RingCtl.init
  poll := PollCtl.init
  red := RedCtl.init
  upd := UpdCtl.init
  gather := GatherCtl.init
  ingest := none
  num := ⟨[], [], [], [], false⟩
  cap := ⟨[], [], [], [], false⟩
  msi := MsiCtl.init
  frozen' := Frozen.init
  host := HostCtl.init
  eth := EthCtl.init
  power := PowerCtl.init
  pins := Pins.init
  waits := []
  freeCount := 0

end Sys2Proof.Machine
end

