-- ==== Sys2Proof/Machine/Ops.lean ====
section
/-!
DEFINITION. The named operations over registers, tiles, outputs, interrupts, error reports and bonded memory that every
family shares.
-/
namespace Sys2Proof.Machine

/-- What a meaning answers. -/
abbrev Res := Host.Outcome State Fault Refusal

/-! Registers. -/

/-- The value of a register field. -/
def State.g (s : State) (f : Fld) : Nat := Sparse.get f.rst f.key s.fld

/-- `s` with a register field set, cut to its width. -/
def State.set (s : State) (f : Fld) (v : Nat) : State := { s with fld := Sparse.put f.rst f.key (lowBits f.w v) s.fld }

/-- Whether a field is not 0. -/
def State.on (s : State) (f : Fld) : Bool := s.g f != 0

/-- A counter field plus `n`, modulo its width. -/
def State.addTo (s : State) (f : Fld) (n : Nat) : State := s.set f (s.g f + n)
def State.inc (s : State) (f : Fld) : State := s.addTo f 1

/-- One bit of a field set to `b`. -/
def State.setBit (s : State) (f : Fld) (i : Nat) (b : Bool) : State :=
  let v := s.g f
  s.set f (if v.testBit i = b then v else if b then v + 2 ^ i else v - 2 ^ i)

/-- Several fields set, in order. -/
def State.setAll (s : State) : List (Fld × Nat) → State
  | [] => s
  | (f, v) :: r => (s.set f v).setAll r

/-! Outputs, gates. -/

def State.emit (s : State) (o : Out) : State := { s with outbox := s.outbox ++ [o] }
def State.emitAll (s : State) (l : List Out) : State := { s with outbox := s.outbox ++ l }

/-- Whether the device is FROZEN (R496). -/
def State.frozen (s : State) : Bool := s.g F.DBG_FREEZE_CTRL_STATE == 2

/-- Whether the units that a freeze stops run (R496, R454). -/
def State.working (s : State) : Bool := s.powered && !s.frozen

/-- What leaves for the host over its link: it waits while the link is not up (R396, R397). -/
def State.toHost (s : State) (l : List Out) : State :=
  if s.on F.HIF_STATUS_LINK_UP then s.emitAll l else { s with host := { s.host with leaving := s.host.leaving ++ l } }

/-- A span cut into pieces of at most `n` bytes, none of which crosses a multiple of `n` (R362). -/
def packets (n : Nat) : Nat → Nat → Nat → List (Nat × Nat)
  | 0, _, _ => []
  | fuel + 1, a, len =>
    if len = 0 ∨ n = 0 then []
    else
      let k := min len (n - a % n)
      (a, k) :: packets n fuel (a + k) (len - k)

/-- Reads of host memory by the device, each of at most the maximum read request size (R362). -/
def State.readHost (s : State) (addr len : Nat) : State :=
  s.toHost ((packets s.host.maxRead (len / 128 + 2) addr len).map fun e => .hostRead e.1 e.2)

/-- Back-invalidate snoops sent, once each, and awaited (R371). -/
def State.snoop : List (Nat × Bool) → State → State
  | [], s => s
  | e :: r, s =>
    if s.host.snoops.contains e then s.snoop r
    else (({ s with host := { s.host with snoops := s.host.snoops ++ [e] } }).toHost [.biSnoop e.1 e.2]).snoop r

/-- The state after a command that began in `s`: where one of its accesses to bonded memory has to wait, nothing but the snoops that the
access needs (log entry 32); a command carried out within another one makes that one wait. -/
def State.orWait (t s : State) : State :=
  if t.waits = s.waits then t else if s.waits.isEmpty then s.snoop t.waits.flatten else { s with waits := t.waits }

/-- A command carried out within another one. -/
def State.within (s : State) (f : State → State) : State :=
  let t := f { s with waits := s.waits ++ [[]] }
  if t.waits = s.waits ++ [[]] then { t with waits := s.waits } else t

/-- The answer of a command: its effect where it is enabled, and no change where it is not (log entry 3). -/
def doIf (c : Bool) (s : State) (k : State → State) : Res := .next (if c then (k s).orWait s else s)

/-- Whether a register write of a master reaches the device: the host's comes over its link, which must be up (R543). -/
def State.fromMaster (s : State) (m : Nat) : Bool := s.powered && (m != 1 || s.on F.HIF_STATUS_LINK_UP)

/-- Step controller states (STEP_STATUS.STATE). -/
def stCLOSED : Nat := 0
def stOPEN : Nat := 1
def stREADY : Nat := 2
def stFAIL : Nat := 3
def stREGATHER : Nat := 4
def stOUT : Nat := 5

def State.stepState (s : State) : Nat := s.g F.STEP_STATUS_STATE
/-- Whether a step is open (R237). -/
def State.stepOpen (s : State) : Bool := 1 ≤ s.stepState && s.stepState ≤ 3
/-- Whether a replay is gathering or running (R510). -/
def State.replaying (s : State) : Bool := s.g F.DBG_REPLAY_STATUS_STATE == 1 || s.g F.DBG_REPLAY_STATUS_STATE == 2
/-- Whether tiles run: a step is open, or a replay runs (R509). -/
def State.tilesRun (s : State) : Bool := s.stepOpen || s.g F.DBG_REPLAY_STATUS_STATE == 2

/-- The step the work belongs to: the open step, or the replayed one (R509). -/
def State.workStep (s : State) : Nat :=
  if s.replaying then s.g F.STEP_COMMITTED_NUMBER else s.g F.STEP_NUMBER_NUMBER
def State.workAttempt (s : State) : Nat :=
  if s.replaying then s.g F.STEP_DECISION_ATTEMPT else s.g F.STEP_STATUS_ATTEMPT

/-! Interrupts and reports. -/

/-- An MSI-X message on its way: kept as a pending bit while its vector is masked, and waiting while the host link is not up
(R396). -/
def State.message (s : State) (v : Nat) : State :=
  if !s.msi.unmasked.contains v then
    { s with msi := { s.msi with pendingBits := if s.msi.pendingBits.contains v then s.msi.pendingBits else s.msi.pendingBits ++ [v] } }
  else s.toHost [.msix v]

/-- Raise a vector: only a source that sets its bit in HIF_IRQ_CAUSE sends the message (R396). -/
def State.raise (s : State) (v : Nat) : State :=
  if (s.g F.HIF_IRQ_CAUSE_CAUSE).testBit v then s else (s.setBit F.HIF_IRQ_CAUSE_CAUSE v true).message v

/-- Pass an error to the management core (R194, R451): while the core is in reset, reports wait in a queue of 64, and any beyond it
are counted (R427). -/
def State.report (s : State) (code unit detail : Nat) : State :=
  if s.g F.SEC_STATUS_BOOT == 0 && decide (64 ≤ s.reports.length) then s.inc F.NVS_HIST_DROPPED_COUNT
  else { s with reports := s.reports ++ [⟨s.time, code, unit, s.g F.STEP_NUMBER_NUMBER, detail⟩] }

/-! Event counters (R484 to R489). -/

/-- Whether a counter selection counts an event at an instance. -/
def selects (ev inst event place : Nat) : Bool := ev == event && (inst == 0x1FF || inst == place)

def countCtr (event inst n : Nat) : Nat → State → State
  | 0, s => s
  | k + 1, s =>
    let s := countCtr event inst n k s
    if selects (s.g (F.DBG_CTR_SEL_EVENT k)) (s.g (F.DBG_CTR_SEL_INSTANCE k)) event inst
    then s.addTo (F.DBG_CTR_STEP_COUNT k) n else s

/-- Whether a per-command counter's command runs in its scope: an attempt, or queue `q`'s command (R488). -/
def State.scopeRuns (s : State) (busy : Nat → Bool) (scope : Nat) : Bool := if scope = 4 then s.stepOpen else busy scope

def countCmd (event inst n : Nat) (busy : Nat → Bool) : Nat → State → State
  | 0, s => s
  | c + 1, s =>
    let s := countCmd event inst n busy c s
    if selects (s.g (F.DBG_CMD_SEL_EVENT c)) (s.g (F.DBG_CMD_SEL_INSTANCE c)) event inst
        && s.scopeRuns busy (s.g (F.DBG_CMD_SEL_SCOPE c))
    then s.addTo (F.DBG_CMD_LIVE_COUNT c) n else s

/-- `n` events of a kind at an instance: the 64 counters count in an open step only, the eight per-command counters while
their command runs (R485, R488); nothing counts while frozen or in a replay (R496, R510). -/
def State.count (s : State) (event inst n : Nat) : State :=
  if s.frozen || s.replaying then s
  else
    let s := if s.stepOpen then countCtr event inst n 64 s else s
    countCmd event inst n (fun q => s.on (F.HIF_Q_STATUS_RUNNING q)) 8 s

/-! Tiles. -/

def State.tile (s : State) (t : Nat) : Tile := Sparse.get Tile.init t s.tiles
def State.setTile (s : State) (t : Nat) (f : Tile → Tile) : State :=
  { s with tiles := Sparse.put Tile.init t (f (s.tile t)) s.tiles }

/-- Power states of a tile in PWR_CLU.TILES (R462). -/
def tpRUN : Nat := 0
def tpIDLE : Nat := 1
def tpSLEEP : Nat := 2
def tpOFF : Nat := 3
def State.tilePower (s : State) (t : Nat) : Nat := s.g (F.PWR_CLU_TILES (t / 8)) / 4 ^ (t % 8) % 4
def State.setTilePower (s : State) (t p : Nat) : State :=
  let v := s.g (F.PWR_CLU_TILES (t / 8))
  let k := 4 ^ (t % 8)
  s.set (F.PWR_CLU_TILES (t / 8)) (v - v / k % 4 * k + p % 4 * k)
/-- Whether a tile's clock runs. -/
def State.tileAwake (s : State) (t : Nat) : Bool := s.tilePower t == tpRUN || s.tilePower t == tpIDLE

/-- An IDLE tile runs again at a wake event (R462, R464). -/
def State.rouse (s : State) (t : Nat) : State := if s.tilePower t = tpIDLE then s.setTilePower t tpRUN else s

def Tile.readSram (x : Tile) (a n : Nat) : List Byte := (List.range n).map fun i => Sparse.get 0 (a + i) x.sram

/-- The entries of consecutive bytes from key `a`, those that are 0 left out. -/
def byteCells : Nat → List Byte → Sparse Byte
  | _, [] => []
  | a, b :: r => if b = 0 then byteCells (a + 1) r else (a, b) :: byteCells (a + 1) r

/-- Bytes put at consecutive keys of a byte table whose unlisted bytes are 0. -/
def putBytes (m : Sparse Byte) (a : Nat) (l : List Byte) : Sparse Byte :=
  m.filter (fun e => decide (e.1 < a)) ++ byteCells a l ++ m.filter (fun e => decide (a + l.length ≤ e.1))

/-- Bytes written into tile SRAM at a byte address; sectors wholly written read as correct again (R188, R190). -/
def Tile.writeSram (x : Tile) (a : Nat) (l : List Byte) : Tile :=
  { x with
    sram := putBytes x.sram a l,
    badSectors := x.badSectors.filter fun k => !(decide (a ≤ 64 * k) && decide (64 * k + 64 ≤ a + l.length)) }

/-- The first sector of a span that reads as uncorrectable. -/
def firstBad (bad : List Nat) (start len : Nat) : Option Nat := (List.range len).find? fun i => bad.contains (start + i)

/-! Device physical addresses (R165 to R170, R214). -/

def dpaCol (a : Nat) : Nat := a / 2 ^ 37 % 8
def dpaLayer (a : Nat) : Nat := a / 2 ^ 33 % 16
def dpaRegion (a : Nat) : Nat := a / 2 ^ 27 % 64
def dpaOff (a : Nat) : Nat := a % 2 ^ 27
def dpaRow (a : Nat) : Nat := a / 2 ^ 17 % 1024
def dpaBank (a : Nat) : Nat := a / 2 ^ 13 % 16
def dpaSector (a : Nat) : Nat := a / 64 % 128
/-- Window of the region controller: column × 64 + region. -/
def dpaWin (a : Nat) : Nat := dpaCol a * 64 + dpaRegion a

def layersOf (col : Nat) : Nat := if col = 4 then 8 else 6
def regionBytes : Nat := 0x6000000

/-- R167, R168. -/
def populated (a : Nat) : Bool :=
  decide (a < 2 ^ 40) && decide (dpaCol a ≤ 4) && decide (1 ≤ dpaLayer a) && decide (dpaLayer a ≤ layersOf (dpaCol a))
    && decide (dpaOff a < regionBytes)

def mkDpa (col layer region off : Nat) : Nat := col * 2 ^ 37 + layer * 2 ^ 33 + region * 2 ^ 27 + off

/-- The device physical address of a host device address below 192 GiB (R169). -/
def dpaOfHda (h : Nat) : Nat :=
  let col := min (h / (36 * 2 ^ 30)) 4
  let r := h - col * (36 * 2 ^ 30)
  mkDpa col (r / (6 * 2 ^ 30) + 1) (r % (6 * 2 ^ 30) / regionBytes) (r % regionBytes)

/-- The host device address of a populated device physical address (R169). -/
def hdaOfDpa (a : Nat) : Nat :=
  dpaCol a * (36 * 2 ^ 30) + (dpaLayer a - 1) * (6 * 2 ^ 30) + dpaRegion a * regionBytes + dpaOff a

/-- Bytes in the top 8 MiB of every region of a hub layer. -/
def hubTop (layer a : Nat) : Bool := dpaCol a == 4 && dpaLayer a == layer && decide (0x5800000 ≤ dpaOff a)
def farCacheByte (a : Nat) : Bool := hubTop 8 a
def shadowByte (a : Nat) : Bool := hubTop 7 a

/-- Requester identities of R177. -/
def rqUPD : Nat := 256
def rqRED : Nat := 272
def rqFAR : Nat := 273
def rqHOST : Nat := 274
def rqETH : Nat := 275
def rqMC : Nat := 276
def rqSCRUB : Nat := 277
def rqLOAD : Nat := 278

/-- Whether a hop on the way to the layer has failed, or a regulator of a layer on the way is off (R164, R457). -/
def State.hopFailed (s : State) (a : Nat) : Bool :=
  decide (s.g (F.REG_COLSTATUS_HOP_FAILED (dpaCol a)) % 2 ^ dpaLayer a ≠ 0)
    || s.power.offLayers.any fun k => k / 8 == dpaCol a && decide (k % 8 < dpaLayer a)

/-- What a request to one row meets before it reaches the array: 0, or the code it completes with (R164, R168, R170,
R195, R197, R214). -/
def State.memGate (s : State) (req a : Nat) : Nat :=
  if !populated a then 0x0302
  else if (farCacheByte a && req != rqFAR) || (shadowByte a && req != rqLOAD) then 0x0303
  else if s.on (F.REG_COLSTATUS_IN_RESET (dpaCol a)) then 0x0306
  else if s.on (F.REG_LSTATUS_RESET_ACTIVE (dpaWin a) (dpaLayer a - 1)) then 0x0305
  else if s.hopFailed a then 0x0308
  else 0

/-- One byte of bonded memory; a byte that nothing has written reads as 0 (log entry 5). -/
def Memory.byte (m : Memory) (a : Nat) : Byte := Sparse.get 0 a m.cells
def Memory.read (m : Memory) (a n : Nat) : List Byte := (List.range n).map fun i => m.byte (a + i)

/-- Bytes stored; a sector wholly written reads as correct again (R191). -/
def Memory.write (m : Memory) (a : Nat) (l : List Byte) : Memory :=
  let whole (k : Nat) : Bool := decide (a ≤ 64 * k) && decide (64 * k + 64 ≤ a + l.length)
  { cells := putBytes m.cells a l, bad := m.bad.filter fun k => !whole k, weak := m.weak.filter fun e => !whole e.1 }

/-- The canonical form of memory: addresses strictly rising and no listed byte 0. -/
def Memory.wf (m : Memory) : Bool := Sparse.wf (0 : Byte) m.cells

/-- A span of sectors cut at row boundaries: (address, sectors) of each request (R177). -/
def rowPieces : Nat → Nat → Nat → List (Nat × Nat)
  | 0, _, _ => []
  | fuel + 1, a, n =>
    if n = 0 then []
    else
      let k := min n (128 - dpaSector a)
      (a, k) :: rowPieces fuel (a + 64 * k) (n - k)

/-- Count and log an uncorrectable read, or a discarded merged write (R190 to R192): `kind` as in REG_LERRLOG. A record of
KIND 1 to 3 replaces a latched corrected one. -/
def State.logMem (s : State) (kind req a symbol : Nat) : State :=
  let w := dpaWin a
  let l := dpaLayer a - 1
  if s.on (F.REG_LERRLOG_VALID w l) && !(kind != 0 && s.g (F.REG_LERRLOG_KIND w l) == 0)
  then s.set (F.REG_LERRLOG_OVERFLOW w l) 1
  else
    s.setAll [(F.REG_LERRLOG_VALID w l, 1), (F.REG_LERRLOG_KIND w l, kind), (F.REG_LERRLOG_REQUESTER w l, req),
      (F.REG_LERRLOG_BANK w l, dpaBank a), (F.REG_LERRLOG_ROW w l, dpaRow a), (F.REG_LERRLOG_SECTOR w l, dpaSector a),
      (F.REG_LERRLOG_SYMBOL w l, symbol), (F.REG_LERRTIME_TIME w l, s.time)]

/-- One uncorrectable read met by a requester (R190). -/
def State.uncorrectable (s : State) (req a : Nat) : State :=
  let s := s.inc (F.REG_LUE_COUNT_COUNT (dpaWin a) (dpaLayer a - 1))
  (s.logMem 1 req a 127).report 0x0301 (dpaWin a) a

/-! Requests to the region controllers (R177 to R183). -/

def MemReq.win (r : MemReq) : Nat := dpaWin r.addr
def MemReq.layer (r : MemReq) : Nat := dpaLayer r.addr - 1
/-- Whether two requests are for one region controller, and for one of its banks. -/
def MemReq.sameCtl (r q : MemReq) : Bool := r.win == q.win && r.layer == q.layer
def MemReq.sameBank (r q : MemReq) : Bool := r.sameCtl q && dpaBank r.addr == dpaBank q.addr
/-- Whether two requests touch a common sector, which one of them writes. -/
def MemReq.clashes (r q : MemReq) : Bool :=
  spansMeet (r.addr / 64) r.sectors (q.addr / 64) q.sectors && (r.data.isSome || q.data.isSome)

/-- R178: its requester's quota on the bank, the bank's ceiling of 48, and the 64 slots. -/
def State.slotFree (s : State) (r : MemReq) : Bool :=
  let h := s.regions.held
  decide ((h.filter fun q => q.sameBank r && q.req == r.req).length < s.g (F.REG_LCTRL_BANK_QUOTA r.win r.layer))
    && decide ((h.filter (·.sameBank r)).length < 48) && decide ((h.filter (·.sameCtl r)).length < 64)

/-- Whether an earlier waiting request of the same requester touches a common sector (R181). -/
def behind (l : List MemReq) (r : MemReq) : Bool := l.any fun q => q.req == r.req && q.clashes r

def pageBytes : Nat := 0x100000

/-- Lines of a device access that the host may hold (R371): what they are snooped with. A line that a BISnpData has left shared is not
snooped for a read again. -/
def State.snoopsFor (s : State) (r : MemReq) : List (Nat × Bool) :=
  if s.host.lines.isEmpty || r.req == rqHOST then []
  else
    let h := hdaOfDpa r.addr / 64
    let inv := r.data.isSome
    (List.range r.sectors).filterMap fun i =>
      let held := Sparse.get 0 (h + i) s.host.lines
      if held = 1 ∨ held = 2 ∨ (held = 3 ∧ inv) then some (h + i, inv) else none

/-- A request of the device to a page whose bias is changing, or to a line that the host has still to answer for, waits (R371, R372). -/
def State.biasHolds (s : State) (r : MemReq) : Bool :=
  let h := hdaOfDpa r.addr
  r.req != rqHOST && (s.on (F.PAGE_BIAS_CHANGING (h / pageBytes)) || !(s.snoopsFor r).isEmpty
    || s.host.snoops.any fun e => decide (h / 64 ≤ e.1) && decide (e.1 < h / 64 + r.sectors))

/-- Whether an engine's access has to wait: for a slot, for a clashing request that was accepted or issued before it, or for the host (R178,
R181, R371, R372). -/
def State.mustWait (s : State) (r : MemReq) : Bool :=
  !s.slotFree r || s.regions.held.any (·.clashes r) || behind s.regions.waiting r || s.biasHolds r

/-- An engine's access that is accepted now, or marks the command as one that waits. -/
def State.access (s : State) (r : MemReq) : State := if s.mustWait r then { s with waits := s.waits ++ [s.snoopsFor r] } else s

def hourNs : Nat := 3600000000000

/-- A corrected read: counted, logged, its sector to be written back, and the hour's threshold, reported once an hour (R189, R193). -/
def State.corrected (s : State) (req a symbol : Nat) : State :=
  let w := dpaWin a
  let l := dpaLayer a - 1
  let k := w * 8 + l
  let h := s.time / hourNs
  let old := Sparse.get (0, 0, false) k s.regions.hours
  let n := if old.1 = h then old.2.1 + 1 else 1
  let told := old.1 == h && old.2.2
  let t := s.g (F.REG_LCE_THRESH_THRESH w l)
  let tell := !told && t != 0 && decide (t < n)
  let s := ((s.inc (F.REG_LCE_COUNT_COUNT w l)).count 0x0031 w 1).logMem 0 req a symbol
  let s := { s with regions := { s.regions with
    hours := Sparse.put (0, 0, false) k (h, n, told || tell) s.regions.hours,
    fixes := if s.regions.fixes.contains a then s.regions.fixes else s.regions.fixes ++ [a] } }
  if tell then s.report 0x030A w l else s

/-- A read corrects every sector of its span that holds one wrong symbol (R188, R189). -/
def State.correctAll (s : State) (req a n : Nat) : State :=
  (s.mem.weak.filter fun e => decide (a / 64 ≤ e.1) && decide (e.1 < a / 64 + n)).foldl (fun s e => s.corrected req (64 * e.1) e.2) s

/-- What a read of `n` sectors returns: every correctable one corrected, or the code of the first uncorrectable one (R188 to R190). -/
def State.readOut (s : State) (req a n : Nat) : State × Except Nat (List Byte) :=
  match firstBad s.mem.bad (a / 64) n with
  | some i => ((s.correctAll req a i).uncorrectable req (a + 64 * i), .error 0x0301)
  | none => (s.correctAll req a n, .ok (s.mem.read a (64 * n)))

/-- A merged host write (R183, R191): the sector is read, its unmasked bytes kept. -/
def State.mergeWrite (s : State) (r : MemReq) (d : List Byte) (m : List Bool) : State × Nat :=
  let w := dpaWin r.addr
  let l := dpaLayer r.addr - 1
  if s.mem.bad.contains (r.addr / 64) then
    (((s.inc (F.REG_LUE_COUNT_COUNT w l)).logMem 3 r.req r.addr 127).report 0x0301 w r.addr, 0x0301)
  else
    let s := s.correctAll r.req r.addr 1
    let old := s.mem.read r.addr 64
    ({ s with mem := s.mem.write r.addr (List.zipWith (fun b e => if b then e.1 else e.2) m (d.zip old)) }, 0)

/-- A write that an engine's access or a request carries out: an accepted write stands against an earlier read's writeback (R189). -/
def State.dropFixes (s : State) (a n : Nat) : State :=
  { s with regions := { s.regions with fixes := s.regions.fixes.filter fun k => !(decide (a ≤ k) && decide (k < a + 64 * n)) } }

/-- One request that reads `n` sectors of one row: the bytes, or the code it completes with (R168 to R190). -/
def State.readRow (s : State) (req a n : Nat) : State × Except Nat (List Byte) :=
  let c := s.memGate req a
  if c ≠ 0 then (s.report c req a, .error c) else (s.access ⟨0, req, a, n, none, none⟩).readOut req a n

/-- One request that writes whole sectors of one row: 0 or the code it completes with (R168 to R191). -/
def State.writeRow (s : State) (req a : Nat) (l : List Byte) : State × Nat :=
  let c := s.memGate req a
  if c ≠ 0 then (s.report c req a, c)
  else
    let s := (s.access ⟨0, req, a, l.length / 64, some l, none⟩).dropFixes a (l.length / 64)
    ({ s with mem := s.mem.write a l }, 0)

/-- One request that writes the bytes of a sector that a mask enables (R183). -/
def State.mergeRow (s : State) (req a : Nat) (d : List Byte) (m : List Bool) : State × Nat :=
  let c := s.memGate req a
  let r : MemReq := ⟨0, req, a, 1, some d, some m⟩
  if m.all id then s.writeRow req a d
  else if c ≠ 0 then (s.report c req a, c)
  else ((s.access r).dropFixes a 1).mergeWrite r d m

/-- Row requests read in ascending order until one fails: the bytes read before it and its code (0 for none). -/
def readPieces (req : Nat) : List (Nat × Nat) → State → State × List Byte × Nat
  | [], s => (s, [], 0)
  | (a, n) :: r, s =>
    match s.readRow req a n with
    | (s, .error c) => (s, [], c)
    | (s, .ok l) =>
      let (s, l', c) := readPieces req r s
      (s, l ++ l', c)

/-- A span read from bonded memory: the bytes up to the first failing request, and its code. -/
def State.readMem (s : State) (req a n : Nat) : State × List Byte × Nat := readPieces req (rowPieces (n + 1) a n) s

def writePieces (req : Nat) : List (Nat × Nat) → List Byte → State → State × Nat
  | [], _, s => (s, 0)
  | (a, n) :: r, l, s =>
    match s.writeRow req a (l.take (64 * n)) with
    | (s, 0) => writePieces req r (l.drop (64 * n)) s
    | (s, c) => (s, c)

/-- Whole sectors written to bonded memory: requests in ascending order up to the first that fails, and its code. -/
def State.writeMem (s : State) (req a : Nat) (l : List Byte) : State × Nat :=
  writePieces req (rowPieces (l.length / 64 + 1) a (l.length / 64)) l s

/-! The configuration in effect. -/

def State.extents (s : State) : List Extent := s.plan.elim [] fun p => p.mem.extents
def Extent.host (e : Extent) : Bool := e.kind == 7
/-- The bonded-memory extents of a partition, in the order MEMPLAN lists them (R212). -/
def State.partExtents (s : State) (part : Nat) : List Extent := s.extents.filter fun e => e.part == part
/-- Whether a byte lies in an extent. -/
def Extent.holds (e : Extent) (granule a : Nat) : Bool := decide (e.base ≤ a) && decide (a < e.base + e.pages * granule)
/-- The address of byte `off` of a partition, its extents taken in order. -/
def addrInExtents (granule : Nat) : List Extent → Nat → Option Nat
  | [], _ => none
  | e :: r, off => if off < e.pages * granule then some (e.base + off) else addrInExtents granule r (off - e.pages * granule)

/-- Whether bitstream data give `prog` for the tile (R119). -/
def State.hasProgram (s : State) (t n : Nat) : Bool := s.plan.elim false fun p => !(p.prog t n).isEmpty
def State.programmed (s : State) (t : Nat) : Bool := s.plan.elim false fun p => p.programmed t

end Sys2Proof.Machine
end

