-- ==== Sys2Proof/Machine/RingOps.lean ====
section
/-!
DEFINITION. The ring ports' link layer (spec 09_ring_ports.md R262 to R273, R289, R291; 10_gradient_reduction.md R311) and the sending
of step frames (08_step_commit.md R245 to R249).
-/
namespace Sys2Proof.Machine

/-! Rings and ports: ring A has ports 0 (east) and 1 (west), ring B ports 2 and 3 (R262). -/

def ringBYPASSED : Nat := 0
def ringJOINING : Nat := 1
def ringRECOVERING : Nat := 2
def ringUP : Nat := 3

def ringStateF (ring : Nat) : Fld := if ring = 0 then F.RING_STATUS_A_STATE else F.RING_STATUS_B_STATE
def ringSizeF (ring : Nat) : Fld := if ring = 0 then F.RING_STATUS_A_SIZE else F.RING_STATUS_B_SIZE
def ringPosF (ring : Nat) : Fld := if ring = 0 then F.RING_STATUS_A_POSITION else F.RING_STATUS_B_POSITION
def ringEpochF (ring : Nat) : Fld := if ring = 0 then F.RING_EPOCH_A_EPOCH else F.RING_EPOCH_B_EPOCH
def State.ringState (s : State) (ring : Nat) : Nat := s.g (ringStateF ring)
def State.ringEpoch (s : State) (ring : Nat) : Nat := s.g (ringEpochF ring)
def State.ringPos (s : State) (ring : Nat) : Nat := s.g (ringPosF ring)
def State.ringUp (s : State) (ring : Nat) : Bool := s.ringState ring == ringUP
def State.torus (s : State) : Bool := s.plan.elim false fun p => p.ring.topology == 1
/-- Ring size as jobs and decisions count it: a BYPASSED ring is a ring of one (R248). -/
def State.ringSize (s : State) (ring : Nat) : Nat := if s.ringState ring = ringBYPASSED then 1 else s.g (ringSizeF ring)
def State.digest64 (s : State) : Nat := s.g (F.CFG_ACTIVE_DIGEST_DIGEST 0)

def portOf (ring dir : Nat) : Nat := 2 * ring + dir
def portRing (p : Nat) : Nat := p / 2
/-- The port that a flit out of port `p` leaves by: the other port of its ring while the ring is wrapped there (R291). -/
def State.outPort (s : State) (p : Nat) : Nat := if s.on (F.RING_P_STATUS_WRAP p) then 2 * (p / 2) + (1 - p % 2) else p

/-- The port of the same ring on the other side. -/
def oppositePort (p : Nat) : Nat := 2 * (p / 2) + (1 - p % 2)

/-- The port at which the logical ring brings a flit that arrives at `p`; none where it passes through. Of a wrapped ring, `back` tells
that the flit is on its return leg (R291): the device at the other end of the break takes it as from its dead side, and every
other device passes it. -/
def State.side (s : State) (p : Nat) (back : Bool) : Option Nat :=
  if !back then some p
  else if s.on (F.RING_P_STATUS_WRAP (oppositePort p)) then some (oppositePort p)
  else none

/-- Whether a port's link carries sequenced flits: up, and not refused (R284). -/
def State.lineUp (s : State) (p : Nat) : Bool :=
  s.g (F.RING_P_STATUS_LINK p) == 2 && !(Sparse.get Line.init p s.lines).refused

def State.port (s : State) (p : Nat) : Port := Sparse.get Port.init p s.ports
def State.setPort (s : State) (p : Nat) (f : Port → Port) : State :=
  { s with ports := Sparse.put Port.init p (f (s.port p)) s.ports }

/-! Sending. -/

/-- Credits (R269): 64 reserved for each channel, 4,096 in the pool, 64 for step and membership frames. -/
def Port.hasCredit (x : Port) : PortItem → Bool
  | .data f => decide (Sparse.get 0 f.hdr.channel x.used < 64) || decide (x.poolUsed < 4096)
  | _ => decide (x.ctrlUsed < 64)

def Port.takeCredit (x : Port) : PortItem → Port
  | .data f =>
    let u := Sparse.get 0 f.hdr.channel x.used
    if u < 64 then { x with used := Sparse.put 0 f.hdr.channel (u + 1) x.used } else { x with poolUsed := x.poolUsed + 1 }
  | _ => { x with ctrlUsed := x.ctrlUsed + 1 }

/-- Whether an item can leave now: a credit, and room in the replay buffer (R269, R271). -/
def Port.ready (x : Port) (i : PortItem) : Bool := x.hasCredit i && decide (x.replay.length < 4096)

def PortItem.isData : PortItem → Bool
  | .data _ => true
  | _ => false
def PortItem.channel : PortItem → Option Nat
  | .data f => some f.hdr.channel
  | _ => none

/-- A data flit's header carries the SEQ it is sent under (R267). -/
def PortItem.stamp (q : Nat) : PortItem → PortItem
  | .data f => .data { f with hdr := { f.hdr with seq := q } }
  | i => i

/-- A flit's bytes put on the active transmit lanes of a port, word by word (R265). -/
def State.shine (s : State) (p : Nat) (b : List Byte) : State :=
  (s.setPort p fun x => { x with txWord := x.txWord + 16 }).emit
    (.light p (stripe (mapLanes (s.g (F.RING_P_LANEMAP_TX_MAP p))) (s.port p).txWord b))

/-- A sequenced item sent on a port's lanes under a SEQ. -/
def State.sendItem (s : State) (p q : Nat) (i : PortItem) : State :=
  (s.emit (.port p q i)).shine p (i.bytes (portRing p) (s.ringEpoch (portRing p)) q)

/-- An item sent under the next SEQ; its channel has had its turn (R311). -/
def State.launchItem (s : State) (p : Nat) (i : PortItem) : State :=
  let q := (s.port p).txSeq
  let i := i.stamp q
  let s := (s.setPort p fun x => { x.takeCredit i with
    txSeq := (q + 1) % 65536, replay := x.replay ++ [⟨q, 0, i⟩], turn := i.channel.getD x.turn }).sendItem p q i
  if i.isData then s.count 0x0040 p 1 else s

/-- Whether an item can leave a port now: its link is up, and credit and room are there. -/
def State.canSend (s : State) (p : Nat) (i : PortItem) : Bool := s.lineUp p && (s.port p).ready i

/-- An item handed to a port: sent at once, or kept behind earlier items of its channel; frames go ahead of data (R245,
R268). -/
def State.portSend (s : State) (p : Nat) (i : PortItem) : State :=
  let x := s.port p
  if s.canSend p i && !(x.waiting.any fun j => j.channel == i.channel) then s.launchItem p i
  else s.setPort p fun x => { x with waiting :=
    if i.isData then x.waiting ++ [i] else x.waiting.filter (!·.isData) ++ [i] ++ x.waiting.filter (·.isData) }

/-- A forwarded data flit handed to a port: sent at once, or kept behind those of its channel that wait before it (R268, R311). -/
def State.portPass (s : State) (p : Nat) (f : Flit) : State :=
  let i : PortItem := .data f
  if s.canSend p i && !((s.port p).passing.any fun j => j.channel == i.channel) then s.launchItem p i
  else s.setPort p fun x => { x with passing := x.passing ++ [i] }

/-- The first item of the channel whose turn it is among those that can leave (R311), with the rest of its queue. -/
def State.turnOf (s : State) (p : Nat) (l : List PortItem) : Option (PortItem × List PortItem) :=
  (List.range 64).findSome? fun k =>
    (takeFirst (fun i => i.channel == some (((s.port p).turn + 1 + k) % 64)) l).filter fun e => s.canSend p e.1

/-- One waiting item sent: a frame first, then forwarded data, then data of this device (R245, R311). -/
def State.pumpOne (s : State) (p : Nat) : Option State :=
  let x := s.port p
  match (takeFirst (!·.isData) x.waiting).filter (fun e => s.canSend p e.1), s.turnOf p x.passing, s.turnOf p x.waiting with
  | some (i, rest), _, _ => some ((s.setPort p fun x => { x with waiting := rest }).launchItem p i)
  | none, some (i, rest), _ => some ((s.setPort p fun x => { x with passing := rest }).launchItem p i)
  | none, none, some (i, rest) => some ((s.setPort p fun x => { x with waiting := rest }).launchItem p i)
  | none, none, none => none

/-- Waiting items sent while one can leave; fuel is their number. -/
def pumpItems (p : Nat) : Nat → State → State
  | 0, s => s
  | n + 1, s => (s.pumpOne p).elim s (pumpItems p n)

def State.pump (s : State) (p : Nat) : State := pumpItems p ((s.port p).waiting.length + (s.port p).passing.length) s

/-- No data flit leaves on a ring while its membership changes (R285). -/
def State.sendsData (s : State) (ring : Nat) : Bool := s.ringState ring != ringRECOVERING

/-- A data flit of this device, and one that it forwards, sent in a direction of a ring (R291). -/
def State.sendFlit (s : State) (ring dir : Nat) (f : Flit) : State :=
  if s.sendsData ring then s.portSend (s.outPort (portOf ring dir)) (.data f) else s
def State.passFlit (s : State) (ring dir : Nat) (f : Flit) : State :=
  if s.sendsData ring then s.portPass (s.outPort (portOf ring dir)) f else s

/-- A link-control flit with what the receiver owes: acknowledgement and credits (R271, R272). -/
def State.sendControl (s : State) (p : Nat) (nak : Bool) (laneOp laneMap mapAt : Nat) : State :=
  let x := s.port p
  let c : LinkControl :=
    ⟨(x.rxSeq + 65535) % 65536, nak, laneOp, laneMap, mapAt, (List.range 64).map fun k => Sparse.get 0 k x.credits, x.pool, x.ctrl⟩
  ((s.setPort p fun x => { x with unacked := 0, credits := [], pool := 0, ctrl := 0 }).emit (.control p c)).shine p (c.bytes (portRing p))

/-! Receiving. -/

/-- The 512 bytes that a port receives on its active lanes: none for a flit that is lost, because a codeword did not decode or the CRC does
not match (R264, R265, R267). -/
def State.heard (s : State) (p : Nat) (rx : LineRx) : Option (List Byte) :=
  if rx.uncorr ≠ 0 then none
  else (unstripe (mapLanes (s.g (F.RING_P_LANEMAP_RX_MAP p))) 16 (s.port p).rxWord rx.words).filter crcOk

/-- The codewords of a flit counted, and its words behind the port (R264, R265). -/
def State.noteLine (s : State) (p : Nat) (rx : LineRx) : State :=
  ((s.setPort p fun x => { x with rxWord := x.rxWord + 16 }).addTo (F.RING_P_FEC_CORR_COUNT p) rx.corr).addTo
    (F.RING_P_FEC_UNCORR_COUNT p) rx.uncorr

/-- A lost flit draws a NAK (R271). -/
def State.nak (s : State) (p : Nat) : State :=
  ((s.setPort p fun x => { x with nakOut := true }).inc (F.RING_P_RETRIES_COUNT p)).sendControl p true 0 0 0

/-- Whether SEQ `q` is one of the 32,767 before SEQ `r`. -/
def seqBefore (q r : Nat) : Bool := let d := (r + 65536 - q) % 65536; decide (1 ≤ d) && decide (d < 32768)

/-- The link layer at a sequenced flit received whole (R271): whether it is accepted in order. Of the others, one that has been accepted
before is a resent copy, and one that comes while a NAK is out waits to be resent; any other shows a loss and draws a NAK. -/
def State.arrive (s : State) (p seq : Nat) : State × Bool :=
  let x := s.port p
  if seq = x.rxSeq then
    let s := s.setPort p fun x => { x with rxSeq := (x.rxSeq + 1) % 65536, nakOut := false, unacked := x.unacked + 1 }
    (if 256 ≤ (s.port p).unacked then s.sendControl p false 0 0 0 else s, true)
  else if x.nakOut || seqBefore seq x.rxSeq then (s, false)
  else (s.nak p, false)

/-- The buffer space of a data flit taken at arrival and freed when it has been dealt with (R269), at the port it came in by: what is above
64 flits of a channel is pool space (log entry 64). -/
def State.holdCredit (s : State) (p c : Nat) : State :=
  s.setPort p fun x => { x with rxUsed := Sparse.put 0 c (Sparse.get 0 c x.rxUsed + 1) x.rxUsed }
def State.freeCredit (s : State) (p c : Nat) : State :=
  s.setPort (s.outPort p) fun x =>
    let u := Sparse.get 0 c x.rxUsed
    let x := { x with rxUsed := Sparse.put 0 c (u - 1) x.rxUsed }
    if 64 < u then { x with pool := x.pool + 1 } else { x with credits := Sparse.put 0 c (Sparse.get 0 c x.credits + 1) x.credits }
/-- The space of a step or membership frame. -/
def State.freeFrame (s : State) (p : Nat) : State := s.setPort p fun x => { x with ctrl := x.ctrl + 1 }

/-- A flit discarded under R266 or R289 counted. -/
def State.discard (s : State) (p : Nat) : State := s.inc (F.RING_P_DISCARDS_COUNT (s.outPort p))

/-- A flit or frame accepted during a freeze, kept for the resume and counted in DBG_CUT_FLITSp (R498). -/
def State.keepFrozen (s : State) (p : Nat) (back : Bool) (i : PortItem) : State :=
  { s with frozen' := { s.frozen' with flits := s.frozen'.flits ++ [(p, back, i)] } }.inc (F.DBG_CUT_FLITS_COUNT p)

/-! Step frames. -/

def State.ringCtl (s : State) (ring : Nat) : RingCtl := if ring = 0 then s.ringA else s.ringB
def State.setRingCtl (s : State) (ring : Nat) (f : RingCtl → RingCtl) : State :=
  if ring = 0 then { s with ringA := f s.ringA } else { s with ringB := f s.ringB }

/-- Whether step frames pass on a ring: it is UP, or its discovery has completed and the poll runs (R285, R288). -/
def State.frameRing (s : State) (ring : Nat) : Bool :=
  s.ringUp ring || (s.ringState ring == ringRECOVERING && (s.ringCtl ring).complete)

/-- A frame sent on both directions of a ring (R247); no frame leaves a bypassed ring, and none is sent while membership
changes (R248, R285). -/
def State.sendOn (s : State) (ring : Nat) (f : StepFrame) : State :=
  if s.frameRing ring then
    let f := { f with epoch := s.ringEpoch ring, digest := s.digest64 }
    (s.portSend (s.outPort (portOf ring 0)) (.step f)).portSend (s.outPort (portOf ring 1)) (.step f)
  else s

/-- A device whose ring A is BYPASSED is the only member of its attempts, and no frame leaves it (R248). -/
def State.alone (s : State) : Bool := s.ringState 0 == ringBYPASSED

/-- A frame that this device originates on a ring, and in a torus on the other ring too (R248). -/
def State.sendBoth (s : State) (ring : Nat) (f : StepFrame) : State :=
  let s := s.sendOn ring { f with originRing := ring, originPos := s.ringPos ring }
  if s.torus then s.sendOn (1 - ring) { f with originRing := 1 - ring, originPos := s.ringPos (1 - ring) } else s

/-- FAIL, COMMIT and ABORT travel on both rings of a torus, other frames of a ring on ring A (R248). -/
def State.sendAll (s : State) (f : StepFrame) : State := if s.alone then s else s.sendBoth 0 f

def ringAnchorF (ring : Nat) : Fld := if ring = 0 then F.RING_A_ANCHOR_SERIAL else F.RING_B_ANCHOR_SERIAL
def State.serial (s : State) : Nat := s.g F.RING_SERIAL_SERIAL

/-- Whether the device is the step anchor (R248): a ring of one always is; in a torus it is the time master, the lowest serial of the
connected rings (R296). -/
def State.isAnchor (s : State) : Bool :=
  s.ringState 0 == ringBYPASSED || (if s.torus then s.on F.RING_TIME_STATUS_MASTER else s.g F.RING_A_ANCHOR_SERIAL == s.serial)

/-- The device's own FAIL for the open attempt. -/
def State.failFrame (s : State) (cause detail : Nat) : StepFrame :=
  { type := frameFAIL, attempt := s.g F.STEP_STATUS_ATTEMPT, originPos := s.ringPos 0, step := s.g F.STEP_NUMBER_NUMBER,
    cause := cause, detail := detail }

/-- Whether step frames can be sent: ring A is UP, or the device is a ring of one. -/
def State.framesFlow (s : State) : Bool := s.ringUp 0 || s.ringState 0 == ringBYPASSED

/-- FAIL sent for the open attempt; at the step anchor it waits for the decision made in the same command (R249, R250).
Nothing is sent while membership changes (R285). -/
def State.sendFail (s : State) (cause detail : Nat) : State :=
  if !s.framesFlow then s
  else
    let s := (s.set F.STEP_STATUS_STATE stFAIL).sendAll (s.failFrame cause detail)
    if s.isAnchor then { s with stp := { s.stp with due := some (cause, detail, s.ringPos 0, 0) } } else s

/-- A fault, trap, mismatch or failed tile recorded against the attempt: FAIL goes out unless READY or FAIL has gone
(R249). In a running replay it marks the replay incomplete (R512). Nothing is recorded while no attempt is open. -/
def State.recordFail (s : State) (cause detail : Nat) : State :=
  if s.replaying then s.set F.DBG_REPLAY_STATUS_INCOMPLETE 1
  else if !s.stepOpen then s
  else
    let s := { s with stp := { s.stp with failed := s.stp.failed <|> some (cause, detail) } }
    if s.stepState = stOPEN then s.sendFail cause detail else s

end Sys2Proof.Machine
end

