-- ==== Sys2Proof/Machine/Flags.lean ====
section
/-!
DEFINITION. Status the machine keeps about its work: failures of the attempt and the FAIL frames they send (R249), event
counters (R484), the numerics watch and its trap (R490 to R492), the digest log and the trace (R503 to R506), and the error
logs of the blocks.
-/
namespace Sys2Proof.Machine

/-- A log that latches while VALID is 0 and otherwise sets OVERFLOW. -/
def State.latch (s : State) (valid overflow : Fld) (rec : List (Fld × Nat)) : State :=
  if s.on valid then s.set overflow 1 else (s.set valid 1).setAll rec

/-! Error logs that every block keeps: a latched code, the error history, and the block's vector (R395). -/

def State.logDbg (s : State) (code : Nat) : State :=
  ((s.latch F.DBG_ERRLOG_VALID F.DBG_ERRLOG_OVERFLOW [(F.DBG_ERRLOG_CODE, code)]).report code 0 0).raise 14

/-- A failed tile (R260). -/
def State.failTile (s : State) (t : Nat) : State :=
  (s.setBit (F.STEP_FAILED_TILES_FAILED (t / 64)) (t % 64) true).recordFail 0x0202 t

/-! Numerics watch. -/

/-- The entry of a key: its place among the first 16,384 NUMPLAN entries, or 16,384 for OTHER (R490). -/
def watchEntry (keys : List (Nat × Nat)) (layer oper : Nat) : Nat :=
  ((keys.take 16384).findIdx? (· == (layer, oper))).getD 16384

def NumCount.add (c : NumCount) (t : List Tally) : NumCount :=
  ⟨(c.written + t.length) % 2 ^ 48, (c.zeros + t.count .zero) % 2 ^ 48, (c.sats + t.count .saturation) % 2 ^ 48,
    (c.nonfinite + t.count .nonFinite) % 2 ^ 48⟩

/-- Written elements counted under a layer and operator (R490). -/
def State.tally (s : State) (layer oper : Nat) (t : List Tally) : State :=
  let i := watchEntry s.num.openKeys layer oper
  { s with num := { s.num with
      openCounts := Sparse.put NumCount.zero i ((Sparse.get NumCount.zero i s.num.openCounts).add t) s.num.openCounts } }

/-- A non-finite write: the first of an attempt latches the trap record, or sets OVERFLOW while one is latched, raises
vector 13 and fails the attempt with NONFINITE (R54, R492, R57). Later ones of the attempt do nothing more. -/
def State.trap (s : State) (t : Trap) : State :=
  if s.num.trapped then s
  else
    let s := { s with num := { s.num with trapped := true } }
    let latched := !(s.on F.NUM_TRAP_INFO_VALID)
    let s := s.latch F.NUM_TRAP_INFO_VALID F.NUM_TRAP_INFO_OVERFLOW
      [(F.NUM_TRAP_INFO_SOURCE, t.source), (F.NUM_TRAP_INFO_STREAM, t.stream), (F.NUM_TRAP_INFO_OU, t.ou),
        (F.NUM_TRAP_INFO_FMT, t.fmt), (F.NUM_TRAP_INFO_ATTEMPT, s.workAttempt), (F.NUM_TRAP_INFO_UNIT, t.unit),
        (F.NUM_TRAP_INFO_LAYER, t.layer), (F.NUM_TRAP_INFO_OPER, t.oper), (F.NUM_TRAP_WHERE_ROW, t.row),
        (F.NUM_TRAP_WHERE_COL, t.col), (F.NUM_TRAP_WHERE_DKIND, t.dkind), (F.NUM_TRAP_WHERE_ADDR, t.addr),
        (F.NUM_TRAP_STEP_VALUE, s.workStep), (F.NUM_TRAP_TIME_VALUE, s.time), (F.NUM_TRAP_VALUE_VALUE, t.value)]
    let s := if latched then s.raise 13 else s
    s.recordFail 0x0B02 (if t.source ≤ 1 then t.unit else 0xFFFF)

/-- A write counted under a layer and operator, and its trap raised (R89, R490). -/
def State.counted (s : State) (layer oper : Nat) (tl : List Tally) (tr : Option Trap) : State :=
  let s := s.tally layer oper tl
  match tr with
  | some tr => s.trap tr
  | none => s

/-! Digest log and trace. -/

/-- Whether the digest log, or trace capture, holds the capture buffer (R502). -/
def State.logOn (s : State) : Bool := s.on F.DBG_CAP_CTRL_LOG_EN
def State.traceOn (s : State) : Bool := s.on F.DBG_CAP_CTRL_TRACE_EN && s.working

/-- An entry put into the open bank; when the bank is full it is dropped, FULL is set, and DBG_LOG_FULL is logged once
(R505). -/
def State.logEntry (s : State) (e : LogEntry) : State :=
  if !s.logOn then s
  else if s.g F.DBG_LOG_STATUS_OPEN_COUNT ≥ 262144 then
    let s := s.set F.DBG_LOG_STATUS_OPEN_FULL 1
    if s.cap.fullLogged then s else { s with cap := { s.cap with fullLogged := true } }.logDbg 0x0C04
  else
    let e := { e with time := s.time }
    let s := s.inc F.DBG_LOG_STATUS_OPEN_COUNT
    if s.on F.DBG_LOG_STATUS_OPEN_BANK then { s with cap := { s.cap with bank1 := s.cap.bank1 ++ [e] } }
    else { s with cap := { s.cap with bank0 := s.cap.bank0 ++ [e] } }

/-- The CRC of an entry: over its member CRCs as 8 bytes each (R503). -/
def crcOfCrcs (l : List Nat) : Nat := crc64 (l.flatMap (leBytes 8))

/-- A trace record: the buffer holds the last 1,048,576 (R506). -/
def State.traceRec (s : State) (kind inst value : Nat) : State :=
  if s.traceOn && (s.g F.DBG_CAP_CTRL_TRACE_MASK).testBit kind then
    let l := s.cap.trace ++ [(s.time, kind, inst, value)]
    { s with cap := { s.cap with trace := l.drop (l.length - 1048576) } }
  else s

end Sys2Proof.Machine
end

