-- ==== Sys2Proof/Machine/FarOps.lean ====
section
/-!
DEFINITION. The owners of shared resources and the far cache's operations (spec 07 R222 to R224, 12 R376 to R381, 16 R493).
-/
namespace Sys2Proof.Machine

/-- OWNER's entries and the run-time claims. -/
def State.owners (s : State) : List OwnerEntry := s.plan.elim [] (fun p => p.owners) ++ s.claims

/-- The owner of an instance of a resource; a vent channel that OWNER does not name belongs to its own tile (R223). -/
def State.ownerOf (s : State) (res inst : Nat) : Option OwnerEntry :=
  (s.owners.find? fun e => e.res == res && e.inst == inst) <|> (if res = 4 then some ⟨4, inst, 1, inst⟩ else none)

/-- A run-time request (R224): it proceeds when the function owns the resource with the same ARG, claims an unowned one,
and otherwise is refused. The Boolean says whether it proceeds. -/
def State.claim (s : State) (res inst owner arg : Nat) : State × Bool :=
  match s.ownerOf res inst with
  | some e => (s, e.owner == owner && e.arg == arg)
  | none => ({ s with claims := s.claims ++ [⟨res, inst, owner, arg⟩] }, true)

/-- A run-time claim given back; what OWNER names stays. -/
def State.unclaim (s : State) (res inst owner : Nat) : State :=
  { s with claims := s.claims.filter fun e => !(e.res == res && e.inst == inst && e.owner == owner) }

/-- Who asks the far cache. -/
inductive FarUser where
  | tile (t : Nat)
  | units
  | host
  deriving DecidableEq, Repr

/-- Ascending instances of the far-cache partitions that serve a requester (R377). -/
def State.farParts (s : State) (u : FarUser) : List Nat :=
  let own (o a : Nat) : List Nat :=
    (List.range 16).filter fun i => s.owners.any fun e => e.res == 3 && e.inst == i && e.owner == o && e.arg == a
  match u with
  | .tile t => if (own 1 t).isEmpty then own 1 0xFFFF else own 1 t
  | .units => own 6 0
  | .host => own 9 0

/-- The partition a line of a requester goes to; none: uncached (R377). -/
def State.farPart (s : State) (u : FarUser) (line : Nat) : Option Nat :=
  let l := s.farParts u
  if l.isEmpty then none else l[line * 64 / 2097152 % l.length]?

def State.farLine (s : State) (part line : Nat) : Option FarLine := s.far.lines.find? fun e => e.part == part && e.line == line
def State.setFar (s : State) (f : FarCache → FarCache) : State := { s with far := f s.far }

/-- The place of a way of a line's set: partition `i` lies in the far-cache bytes of regions 4i to 4i + 3 of hub layer 8 (R376). -/
def FarLine.place (e : FarLine) : Nat :=
  let k := (e.line % 32768 * 16 + e.way) * 64
  mkDpa 4 8 (4 * e.part + k / 0x800000) (0x5800000 + k % 0x800000)

/-- A line read where it lies, by the far-cache controller: its data, or the code with which the access ends (R177, R381; log entry 52). -/
def State.farGet (s : State) (e : FarLine) : State × Except Nat (List Byte) :=
  match s.readRow rqFAR e.place 1 with
  | (s, .ok _) => (s, .ok e.data)
  | (s, .error c) => (s, .error (if c = 0x0301 then 0x0708 else 0x0707))

/-- A line used: it moves to the end of the order, and a prefetched line's first touch is counted (R493). -/
def State.farTouch (s : State) (part line : Nat) : State :=
  match s.farLine part line with
  | some e =>
    let s := s.setFar fun c => { c with lines := (c.lines.filter fun x => !(x.part == part && x.line == line)) ++ [{ e with pf := false }] }
    if e.pf then (s.inc (F.DBG_PF_USED_COUNT part)).inc (F.DBG_PF_TIMELY_COUNT part) else s
  | none =>
    if s.far.fills.any fun x => x.part == part && x.line == line && x.pf then
      let s := s.setFar fun c => { c with fills := c.fills.map fun x =>
        if x.part == part && x.line == line then { x with pf := false } else x }
      (s.inc (F.DBG_PF_USED_COUNT part)).inc (F.DBG_PF_LATE_COUNT part)
    else s

/-- Whether a fill of the line is in flight for the requester's partition, or uncached. -/
def State.farFilling (s : State) (part : Nat) (cached : Bool) (line : Nat) : Bool :=
  s.far.fills.any fun x => x.line == line && x.cached == cached && (!cached || x.part == part)

/-- A fill begun, unless one is in flight. -/
def State.farFill (s : State) (u : FarUser) (part : Nat) (cached : Bool) (line : Nat) (pf : Bool) : State :=
  if s.farFilling part cached line then
    s.setFar fun c => { c with fills := c.fills.map fun x =>
      if x.part == part && x.line == line && x.cached == cached then { x with units := x.units || u == .units } else x }
  else (s.setFar fun c => { c with fills := c.fills ++ [⟨part, line, cached, pf, u == .units⟩] }).toHost [.hostFill line]

/-- A CXL.cache write of a line, which the host has still to answer (R380, R381). -/
def State.cacheWrite (s : State) (w : FarWrite) (data : List Byte) : State :=
  (s.setFar fun c => { c with writes := c.writes ++ [w] }).toHost [.hostWrite (64 * w.line) data]

/-- A dirty line written back. -/
def State.writeBack (s : State) (e : FarLine) : State := s.cacheWrite ⟨e.line, none, false⟩ e.data

/-- A line put into its set: in the way that holds it, else in a free one, else in that of the least recently used line, which is written
back when dirty (R376). -/
def State.farInstall (s : State) (part line : Nat) (data : List Byte) (dirty pf : Bool) : State :=
  let same (x : FarLine) : Bool := x.part == part && x.line % 32768 == line % 32768
  let old := s.farLine part line
  let s := s.setFar fun c => { c with lines := c.lines.filter fun x => !(x.part == part && x.line == line) }
  let used := (s.far.lines.filter same).map (·.way)
  let (s, way) :=
    match old, (List.range 16).find? (fun k => !used.contains k) with
    | some e, _ => (s, e.way)
    | none, some k => (s, k)
    | none, none =>
      match takeFirst same s.far.lines with
      | none => (s, 0)
      | some (v, rest) =>
        let s := s.setFar fun c => { c with lines := rest }
        let s := if v.pf then s.inc (F.DBG_PF_EVICTED_COUNT v.part) else s
        (if v.dirty then s.writeBack v else s, v.way)
  let e : FarLine := ⟨part, way, line, data, dirty, pf⟩
  (s.writeRow rqFAR e.place data).1.setFar fun c => { c with lines := c.lines ++ [e] }

/-- A read of one host line: its data, or the code of a failed access, when the requester's partition holds it; else a fill is begun
(R379). Lines that have come uncached for the update units serve them until they are dropped. -/
def State.farRead (s : State) (u : FarUser) (line : Nat) : State × Option (Except Nat (List Byte)) :=
  match s.farPart u line with
  | none =>
    match (if u = .units then s.far.loose.lookup line else none) with
    | some d => (s, some (.ok d))
    | none => (s.farFill u 0 false line false, none)
  | some p =>
    match s.farLine p line with
    | some e => let (s, d) := ((s.farTouch p line).count 0x0060 p 1).farGet e
      (s, some d)
    | none => (((s.farTouch p line).count 0x0061 p 1).farFill u p true line false, none)

/-- The copy of a line that any partition holds. -/
def State.farCopy (s : State) (line : Nat) : Option FarLine := s.far.lines.find? fun e => e.line == line

/-- A line about to be overwritten leaves every partition but the one named: the far cache is coherent (R378). -/
def State.farOwn (s : State) (part : Option Nat) (line : Nat) : State :=
  s.setFar fun c => { c with lines := c.lines.filter fun x => x.line != line || some x.part == part }

/-- A write of one whole host line (R380): held Modified in the requester's partition, or sent to the host, whose answer a tile's flight
then awaits. -/
def State.farWrite (s : State) (u : FarUser) (flight : Option (Nat × Nat)) (line : Nat) (data : List Byte) : State :=
  let s := s.farOwn (s.farPart u line) line
  match s.farPart u line with
  | none => s.cacheWrite ⟨line, flight, u == .units⟩ data
  | some p =>
    let s := if (s.farLine p line).isSome then s.count 0x0060 p 1 else s.count 0x0061 p 1
    (s.farTouch p line).farInstall p line data true false

/-- The lines that have come uncached for the update units, dropped. -/
def State.dropLoose (s : State) : State := s.setFar fun c => { c with loose := [] }

/-! Errors of the host interface and of the Ethernet block (R399, R424). -/

def State.logHif (s : State) (code queue cid : Nat) : State :=
  ((s.latch F.HIF_ERRLOG_VALID F.HIF_ERRLOG_OVERFLOW
    [(F.HIF_ERRLOG_CODE, code), (F.HIF_ERRLOG_QUEUE, queue), (F.HIF_ERRLOG_CID, cid)]).report code queue cid).raise 15

def State.logEth (s : State) (code qp port : Nat) : State :=
  ((s.latch F.ETH_ERRLOG_VALID F.ETH_ERRLOG_OVERFLOW
    [(F.ETH_ERRLOG_CODE, code), (F.ETH_ERRLOG_QP, qp), (F.ETH_ERRLOG_PORT, port)]).report code qp port).raise 10

/-- A queue pair's context (R403): a byte of it, its STATE, its port; in RTS, on a port that is up, it carries traffic (R424). -/
def State.qpByte (s : State) (q i : Nat) : Nat := (Sparse.get 0 (64 * q + i) s.eth.qp).toNat
def State.qpState (s : State) (q : Nat) : Nat := s.qpByte q 0
def State.qpPort (s : State) (q : Nat) : Nat := s.qpByte q 1 % 2
def State.qpReady (s : State) (q : Nat) : Bool := s.qpState q == 3 && s.on (F.ETH_PORT_STATUS_LINK_UP (s.qpPort q))

/-- The queue pair of a controller's first I/O queue; I/O queue `i` has pair `ioPair ctrl + i - 1` (R401). -/
def ioPair (ctrl : Nat) : Nat := 9 * ctrl + 1

/-- The first connected I/O queue of a controller whose depth of 128 is not used up (R400, R401; log entry 45). -/
def State.freePair (s : State) (ctrl : Nat) : Option Nat :=
  ((List.range 8).map (ioPair ctrl + ·)).find? fun q => s.qpReady q && decide ((s.eth.ops.filter fun o => o.pair == some q).length < 128)

/-- Commands that wait for a queue pair go out where there is one, in their order. -/
def State.sendNvme : List NvmeOp → State → State
  | [], s => s
  | o :: r, s =>
    match (if o.pair = none then s.freePair o.ctrl else none) with
    | none => s.sendNvme r
    | some q =>
      let sent (x : NvmeOp) : NvmeOp := if x.id = o.id then { x with pair := some q } else x
      (({ s with eth := { s.eth with ops := s.eth.ops.map sent } }).emit (.nvme q o.ctrl o.write o.lba o.blocks o.bytes)).sendNvme r

def State.pumpNvme (s : State) : State := s.sendNvme s.eth.ops

/-- An NVMe command issued for a user (R406): one for the whole span (log entry 45). Traffic waits while no queue pair carries it (R424). -/
def State.issueNvme (s : State) (user ctrl : Nat) (write : Bool) (lba blocks : Nat) (bytes : List Byte) : State :=
  let op : NvmeOp := ⟨s.eth.nextId, ctrl, user, write, lba, blocks, bytes, none⟩
  let s : State := { s with eth := { s.eth with ops := s.eth.ops ++ [op], nextId := s.eth.nextId + 1 } }
  s.sendNvme [op]

/-- The namespace attached at a controller: its size in blocks (R402). -/
def State.space (s : State) (ctrl : Nat) : Option Nat := Sparse.get none ctrl s.eth.spaces

/-- Whether CXL.cache carries host accesses (R363). -/
def State.cxl (s : State) : Bool := s.on F.HIF_STATUS_CXL

/-- A line that a PREF names: a fill, counted, when it is neither present nor being filled (R143, R493). -/
def State.farPrefetch (s : State) (u : FarUser) (line : Nat) : State :=
  match s.farPart u line with
  | none => s
  | some p =>
    if (s.farLine p line).isSome || s.farFilling p true line then s
    else (s.farFill u p true line true).inc (F.DBG_PF_ISSUED_COUNT p)

end Sys2Proof.Machine
end

