-- ==== Sys2Proof/Machine/Operands.lean ====
section
/-!
DEFINITION. Instruction words and their operands: fields (R133), SRAM operands (R134), descriptors (R138 to R140), scaled
blocks in SRAM (R33), binary32 tensors, and reservations (R126). A word is the 128-bit instruction as a number.
-/
namespace Sys2Proof.Machine

/-! Words. -/

def opOf (w : Nat) : Nat := bitsOf w 7 0
def evtOf (w : Nat) : Option Nat := if bitOf w 12 then some (bitsOf w 11 8) else none

/-- Whether every bit of `w` outside the listed ranges (high, low) is 0; bits [12:0] belong to every opcode (R133). -/
def onlyBits (ranges : List (Nat × Nat)) (w : Nat) : Bool :=
  ((12, 0) :: ranges).foldl (fun v r => v - bitsOf v r.1 r.2 * 2 ^ r.2) w == 0

/-- The first code of a list of checks that fails, in the order of the list; 0 when all hold (R156). -/
def firstFail : List (Bool × Nat) → Nat
  | [] => 0
  | (ok, c) :: r => if ok then firstFail r else c

def cOPCODE : Nat := 0x0180
def cFIELD : Nat := 0x0181
def cLEN : Nat := 0x0182
def cRANGE : Nat := 0x0183
def cALIGN : Nat := 0x0184
def cDESC : Nat := 0x0185
def cACCESS : Nat := 0x0186
def cWC : Nat := 0x0187
def cROUTE : Nat := 0x0188
def cACC : Nat := 0x0189
def cSOURCE : Nat := 0x018A
def cSEGDENIED : Nat := 0x018B
def cSEGCLOSED : Nat := 0x018C
def cBRANCH : Nat := 0x018D
def cSRAM : Nat := 0x018E
def cTRANSFER : Nat := 0x018F

/-- Index register `i`; X0 reads 0 (R128). -/
def Stream.xr (y : Stream) (i : Nat) : Nat := if i = 0 then 0 else Sparse.get 0 i y.x
def Stream.setX (y : Stream) (i v : Nat) : Stream := if i = 0 then y else { y with x := Sparse.put 0 i (v % 2 ^ 32) y.x }
def Stream.kr (y : Stream) (i : Nat) : Nat := Sparse.get 0 i y.k
def Stream.setK (y : Stream) (i v : Nat) : Stream := { y with k := Sparse.put 0 i (v % 2 ^ 32) y.k }
def Stream.setup (y : Stream) (ou : Nat) : OuSetup := if ou = 0 then y.setup0 else y.setup1

def sramSectors : Nat := 98304

/-- The effective sector of the SRAM operand whose lowest bit is `lo` (R134). -/
def sramOp (y : Stream) (w lo : Nat) : Nat := bitsOf w (lo + 16) lo + y.xr (bitsOf w (lo + 20) (lo + 17))

/-- Address checks of SRAM spans (sector, length), all ADDR_RANGE before all LEN_EXCEEDS_BUFFER (R134, R156 step 5);
`descOk` is the descriptor span's length check, which comes after the SRAM operands'. -/
def addrCode (spans : List (Nat × Nat)) (descOk : Bool) : Nat :=
  if spans.any fun e => sramSectors ≤ e.1 then cRANGE
  else if (spans.any fun e => sramSectors < e.1 + e.2) || !descOk then cLEN
  else 0

def sramSpan (e : Nat × Nat) : Span := ⟨.sram, e.1, e.2⟩

/-! Reservations. -/

def Span.meets (a b : Span) : Bool := a.space == b.space && spansMeet a.start a.len b.start b.len

def anyMeets (l m : List Span) : Bool := l.any fun a => m.any a.meets

/-- The spans that an instruction reserves: one that it both reads and writes is one reservation. -/
def spanCount (rd wr : List Span) : Nat := rd.length + (wr.filter fun x => !rd.contains x).length

/-- What an instruction's spans meet at issue (R126): STALL reason 1 for an overlap with an earlier instruction in flight,
6 when the stream would hold more than 16 reservations. -/
def reserveStall (x : Tile) (n : Nat) (rd wr : List Span) : Option Nat :=
  if x.flights.any fun f => anyMeets wr f.rd || anyMeets wr f.wr || anyMeets rd f.wr then some 1
  else if 16 < ((x.flights.filter (·.stream == n)).map fun f => spanCount f.rd f.wr).sum + spanCount rd wr then some 6
  else none

/-! Descriptors. -/

def dkVENT : Nat := 1
def dkGEYSER : Nat := 2
def dkREMOTE : Nat := 3
def dkHOST : Nat := 4

/-- The pages of a descriptor's whole span: bonded pages of 1 MiB, or host granules of 2 MiB (R140, R375). -/
def Desc.granule (d : Desc) : Nat := if d.kind = dkHOST then 0x200000 else pageBytes
def Desc.pages (d : Desc) : List Nat :=
  let g := d.granule
  (List.range ((d.base + 64 * d.size - 1) / g + 1 - d.base / g)).map fun i => (d.base / g + i) * g

/-- Whether the extent is of the descriptor's space, holds a page, and grants the tile. -/
def pageGranted (ex : List Extent) (t : Nat) (d : Desc) (page : Nat) : Bool :=
  ex.any fun e => (e.host == (d.kind == dkHOST)) && e.holds d.granule page && e.grant.testBit t

def pageIsWc (ex : List Extent) (page : Nat) : Bool := ex.any fun e => e.kind == 2 && e.holds pageBytes page

/-- R140: ACCESS_DENIED before WC_WRITE, over the descriptor's whole span; 0 when the access is allowed. -/
def accessCode (ex : List Extent) (t : Nat) (d : Desc) (write : Bool) : Nat :=
  if !(d.acc.testBit (bit write)) || !(d.pages.all (pageGranted ex t d)) then cACCESS
  else if write && d.kind != dkHOST && d.pages.any (pageIsWc ex) then cWC
  else 0

/-- The reservation of a descriptor's sectors. -/
def Desc.span (d : Desc) (off len : Nat) : Span :=
  ⟨if d.kind = dkHOST then .host else .memory, d.base / 64 + off, len⟩

/-! Scaled blocks in SRAM (R33). -/

/-- Sectors of a scaled block by form. -/
def formSectors (form : Nat) : Nat := if form = 1 then 136 else if form = 2 then 520 else if form = 3 then 776 else 264
/-- Planes of a form. -/
def formPlanes (form : Nat) : Nat := if form = 2 then 2 else if form = 3 then 3 else 1
/-- Byte offset of the scales. -/
def formScales (form : Nat) : Nat := if form = 1 then 8192 else 16384 * formPlanes form

/-- 128 rows of 128 elements of an INT8 or limb plane. -/
def int8Rows (l : List Byte) : List (List Int) := chunksOf 128 128 (l.map fun b => b.toInt)
/-- INT4 elements, two to a byte, the even element low (R29). -/
def int4Rows (l : List Byte) : List (List Int) :=
  chunksOf 128 128 (l.flatMap fun b => [signedOf 4 (b.toNat % 16), signedOf 4 (b.toNat / 16)])

/-- A scaled block read from its bytes. -/
def blockOfBytes (form : Nat) (l : List Byte) : Block :=
  { form := form,
    planes := if form = 1 then [int4Rows (l.take 8192)]
      else (List.range (formPlanes form)).map fun p => int8Rows (sliceBytes l (16384 * p) 16384),
    scales := (List.range 128).map fun r => leAt l (formScales form + 4 * r) 4 }

/-- The bytes of one plane. -/
def planeBytes (form : Nat) (rows : List (List Int)) : List Byte :=
  if form = 1 then
    let e := rows.flatMap fun r => r.map (patternOf 4)
    (chunksOf 2 e.length e).map fun p => BitVec.ofNat 8 (p.getD 0 0 + 16 * p.getD 1 0)
  else rows.flatMap fun r => r.map fun v => BitVec.ofInt 8 v

def blockBytes (b : Block) : List Byte := b.planes.flatMap (planeBytes b.form) ++ b.scales.flatMap (leBytes 4)

/-- The scaled integer of an element: its limbs put together (R42). -/
def Block.int (b : Block) (r c : Nat) : Int := limbValue (b.planes.map fun p => (p.getD r []).getD c 0)

/-- The exact binary32 value of an element (R34, R47). Only array passes check a scale: elsewhere its exponent field counts and the rest
of it does not (log entry 78). -/
def Block.value (b : Block) (r c : Nat) : Nat := ofScaledInt (b.int r c) (scaleExpOf (b.scales.getD r 0))
def Block.row (b : Block) (r : Nat) : List Nat := (List.range 128).map (b.value r)

def Block.rowZero (b : Block) (r : Nat) : Bool := b.planes.all fun p => (p.getD r []).all (· == 0)
def Block.scalesOk (b : Block) : Bool := b.scales.all scaleOk

def Tile.block (x : Tile) (form sector : Nat) : Block := blockOfBytes form (x.readSram (64 * sector) (64 * formSectors form))

def Tile.words (x : Tile) (sector count : Nat) : List Nat := wordsOf (x.readSram (64 * sector) (4 * count))

/-! Writing results. -/

/-- Valid rows of binary32 values quantised to one scaled block with fresh row scales; elements outside the valid rows and
columns are 0, padding rows have scale 1.0 (R35, R36, R42, R88). The tallies are those of the valid elements, in order. -/
def quantBlock (form : Nat) (rows : List (List Nat)) (vcols : Nat) : Block × List Tally :=
  let q := rows.map fun r =>
    let e := scaleExp form (rowMaxAbs32 (r.take vcols))
    (e, (r.take vcols).map (toScaledInt (vmaxOf form) e))
  let ints := (q.map fun p => p.2.map (·.1) ++ List.replicate (128 - p.2.length) 0)
    ++ List.replicate (128 - q.length) (List.replicate 128 0)
  let planes := (List.range (formPlanes form)).map fun j => ints.map fun r => r.map fun v =>
    (limbsOf v (formPlanes form)).getD j 0
  (⟨form, planes, q.map (fun p => scalePat p.1) ++ List.replicate (128 - q.length) one32⟩,
    q.flatMap fun p => p.2.map (·.2))

/-- The compact or binary32 format of an OUT_FMT from 4 to 7 (R55). -/
def outFloat (fmt : Nat) : FloatFmt := if fmt = 5 then fmtK16B else if fmt = 6 then fmtK16H else if fmt = 7 then fmtM24 else binary32

/-- Patterns packed into bytes in the format's layout: M24 21 to a sector with a RSVD byte, the others whole (R31). -/
def packFloats (fmt : Nat) (l : List Nat) : List Byte :=
  if fmt = 7 then (chunksOf 21 l.length l).flatMap fun c =>
    let b := c.flatMap (leBytes 3)
    b ++ List.replicate (64 - b.length) 0
  else if fmt = 4 then wordBytes l
  else l.flatMap (leBytes 2)

/-- Sectors that `count` elements take in an OUT_FMT; scaled blocks come whole. -/
def fmtSectors (fmt count : Nat) : Nat :=
  if fmt ≤ 3 then count / 16384 * formSectors fmt
  else if fmt = 7 then (count + 20) / 21
  else if fmt = 4 then (count + 15) / 16
  else (count + 31) / 32

/-- A 128 × 128 block of binary32 rows written in an OUT_FMT: bytes and tallies of the valid elements. Padding is 0. -/
def writeBlock (fmt ovf : Nat) (rows : List (List Nat)) (vcols : Nat) : List Byte × List Tally :=
  if fmt ≤ 3 then
    let (b, t) := quantBlock fmt rows vcols
    (blockBytes b, t)
  else
    let q := rows.map fun r => (r.take vcols).map (toFloat (outFloat fmt) ovf)
    let pats := (q.map fun r => r.map (·.1) ++ List.replicate (128 - r.length) 0)
      ++ List.replicate (128 - q.length) (List.replicate 128 0)
    (packFloats fmt pats.flatten, q.flatMap fun r => r.map (·.2))

/-- The valid element, row-major, that first wrote a non-finite value. -/
def firstNonFinite (t : List Tally) : Option Nat := t.findIdx? (· == .nonFinite)

/-- The bits that a written element shows in NUM_TRAP_VALUE (R492): the limbs of an integer form, or the encoding. -/
def trapValue (fmt ovf x : Nat) (e : Int) : Nat :=
  if fmt ≤ 3 then
    let v := (toScaledInt (vmaxOf fmt) e x).1
    if fmt = 1 then patternOf 4 v
    else ((limbsOf v (formPlanes fmt)).zipIdx.map fun p => patternOf 8 p.1 * 256 ^ p.2).sum
  else (toFloat (outFloat fmt) ovf x).1

/-- Byte distance of element `i` of a written block from its start. -/
def elemOffset (fmt i : Nat) : Nat :=
  if fmt = 1 then i / 2
  else if fmt ≤ 3 then i
  else if fmt = 7 then i / 21 * 64 + i % 21 * 3
  else if fmt = 4 then 4 * i
  else 2 * i

end Sys2Proof.Machine
end

