-- ==== Sys2Proof/Machine/ShardOps.lean ====
section
/-!
DEFINITION. Where the shard and its working copies lie: ownership of segments (spec 10_gradient_reduction.md R304 to R316),
shard records, pending slots and working-copy areas (11_update_units.md R333 to R336, R347, R348), and access to them.
-/
namespace Sys2Proof.Machine

def State.ring (s : State) : RingPlan := s.plan.elim RingPlan.empty fun p => p.ring
def State.job (s : State) (j : Nat) : Option Job := s.ring.jobs[j]?
def State.group (s : State) (g : Nat) : Option Group := s.ring.groups[g]?

/-- The job whose range holds a segment. -/
def State.jobOf (s : State) (seg : Nat) : Option Nat :=
  s.ring.jobs.findIdx? fun j => decide (j.firstSeg ≤ seg) && decide (seg < j.firstSeg + j.segCount)
def Job.segs (j : Job) : List Nat := (List.range j.segCount).map (j.firstSeg + ·)
def Group.segs (g : Group) : List Nat := (List.range g.segCount).map (g.firstSeg + ·)

/-! Ownership. -/

/-- The device's coordinate on a ring (R304); a BYPASSED ring A has size 1 and position 0 (R248). -/
def State.coord (s : State) (ring : Nat) : Nat :=
  if s.ringState ring = ringBYPASSED then 0 else if ring = 0 then s.g F.RED_COORD_A else s.g F.RED_COORD_B

/-- A segment's way around one ring: ring, size, own coordinate, owner, and whether it travels east (R306, R314). -/
structure Way where
  ring : Nat
  n : Nat
  c : Nat
  o : Nat
  east : Bool
  deriving DecidableEq, Repr

def State.way (s : State) (dim ring seg : Nat) : Way :=
  let nA := max 1 (s.ringSize 0)
  let n := max 1 (s.ringSize ring)
  let k := if dim = 2 ∧ ring = 1 then seg / nA else seg
  ⟨ring, n, s.coord ring % n, k % n, k / n % 2 == 0⟩

/-- Rings a job reduces over, in order (R314). -/
def Job.rings (j : Job) : List Nat := if j.dim = 2 then [0, 1] else [j.dim]

/-- The ring of a job's last phase. -/
def Job.lastRing (j : Job) : Nat := if j.dim = 0 then 0 else 1

/-- Whether the device owns the segment for a phase. -/
def State.ownsPhase (s : State) (dim ring seg : Nat) : Bool :=
  let w := s.way dim ring seg
  w.c == w.o

/-- Whether the device owns the segment (R306, R314). -/
def State.owns (s : State) (j : Job) (seg : Nat) : Bool := j.rings.all fun r => s.ownsPhase j.dim r seg

def State.ownsSeg (s : State) (seg : Nat) : Bool := ((s.jobOf seg).bind s.job).elim false fun j => s.owns j seg
def State.ownedOf (s : State) (g : Group) : List Nat := g.segs.filter s.ownsSeg
def State.ownedOfJob (s : State) (j : Job) : List Nat := j.segs.filter (s.owns j)
/-- The group of a segment. -/
def State.groupOf (s : State) (seg : Nat) : Option Nat := ((s.jobOf seg).bind s.job).map (·.group)

/-! Update programs (R340 to R344). -/

structure UInstr where
  op : Nat
  md : Nat
  dst : Nat
  a : Nat
  b : Nat
  c : Nat
  deriving DecidableEq, Repr

def uinstrOf (w : Nat) : UInstr := ⟨bitsOf w 7 0, bitsOf w 15 8, bitsOf w 23 16, bitsOf w 31 24, bitsOf w 39 32, bitsOf w 47 40⟩
def UpdProg.instrs (p : UpdProg) : List UInstr := (chunksOf 16 (p.code.length / 16) p.code).map fun l => uinstrOf (leNat l)
def UpdProg.empty : UpdProg := ⟨[], []⟩
def State.progOf (s : State) (g : Group) : UpdProg := (s.plan.elim [] fun p => p.progs).getD g.prog UpdProg.empty

def uPASS : Nat := 0x01
def uEND : Nat := 0x02
def uWCF : Nat := 0x03
def uACC : Nat := 0x30
def uSTW : Nat := 0x40
def uSTM : Nat := 0x41
def uSTF : Nat := 0x42

/-- Operands that an instruction reads, as selectors. -/
def UInstr.reads (i : UInstr) : List Nat :=
  if i.op ≤ 3 then []
  else if i.op = 0x13 ∨ i.op = 0x19 then [i.a, i.b, i.c]
  else if (0x10 ≤ i.op ∧ i.op ≤ 0x15) ∨ i.op = 0x18 then [i.a, i.b]
  else [i.a]

/-- Number of moments MC: one more than the highest that the program names (R333). -/
def momentCount (l : List UInstr) : Nat :=
  (l.flatMap fun i => (i.reads.filter fun x => decide (0x62 ≤ x) && decide (x ≤ 0x65)).map (· - 0x61)
    ++ (if i.op = uSTM then [i.md % 4 + 1] else [])).foldl max 0
/-- Whether the program has a factor plane. -/
def hasFactor (l : List UInstr) : Bool := l.any fun i => i.op == uSTF || i.reads.any fun x => decide (0x66 ≤ x) && decide (x ≤ 0x68)
/-- Whether the program's working copies are binary32 (WCF FORM 1). -/
def wcfBinary (l : List UInstr) : Bool := (l.head?).elim false fun i => i.op == uWCF && i.md % 2 == 1
/-- Whether the program is of group scope. -/
def groupScope (l : List UInstr) : Bool := (l.find? fun i => i.op == uPASS).elim false fun i => i.md % 2 == 1

/-! Records. -/

def masterBytes (g : Group) : Nat := if g.masterFmt = 1 then 49984 else 65536
def momentBytes (g : Group) : Nat := if g.momentFmt = 0 then 65536 else 32768
def factorBytes : Nat := 1088
/-- Bytes of one version's part of a record (R333, R334). -/
def partBytes (g : Group) (l : List UInstr) : Nat :=
  masterBytes g + momentCount l * momentBytes g + (if hasFactor l then factorBytes else 0)

/-- MAXOWN of a group (R335). -/
def RingPlan.maxOwn (r : RingPlan) (g : Nat) : Nat :=
  ((r.jobs.filter fun j => j.group == g).map fun j =>
    let n := if j.dim = 0 then r.sizeA else if j.dim = 1 then r.sizeB else r.sizeA * r.sizeB
    (j.segCount + n - 1) / max 1 n).sum

/-- The units that follow the records of a MODE 1 group: 2 × (S + r) of 64 KiB. -/
def RingPlan.lowUnits (r : RingPlan) (g : Nat) : Nat :=
  ((r.jobs.filter fun j => j.group == g && j.mode == 1).map fun j => 2 * (j.segCount + j.rank)).sum

/-- The items of a group's area, as byte sizes in order (R335). -/
def areaItems (r : RingPlan) (gi : Nat) (g : Group) (l : List UInstr) : List Nat :=
  List.replicate (r.maxOwn gi) (2 * partBytes g l) ++ List.replicate (r.lowUnits gi) 65536
    ++ (if g.late then List.replicate (5 * r.maxOwn gi) 65536 else [])

/-- A place in bonded memory (device physical address) or in host memory. -/
structure Place where
  host : Bool
  addr : Nat
  deriving DecidableEq, Repr

/-- Items placed one after another in extents (base, bytes); one that would cross an extent's end starts the next (R335).
Fuel is the number of steps. -/
def placeItem : Nat → List (Nat × Nat) → Nat → List Nat → Option Nat
  | 0, _, _, _ => none
  | _, [], _, _ => none
  | _, _, _, [] => none
  | fuel + 1, (b, n) :: ex, off, z :: r =>
    if n < off + z then placeItem fuel ex 0 (z :: r)
    else if r.isEmpty then some (b + off)
    else placeItem fuel ((b, n) :: ex) (off + z) r

def Extent.bytes (e : Extent) : Nat := if e.host then e.pages * 0x200000 else e.pages * pageBytes

/-- The late entry of a group (R219). -/
def State.lateOf (s : State) (g : Nat) : Option LatePlan := (s.plan.elim [] fun p => p.late).find? fun e => e.group == g

/-- The partition that holds a group's area (R335). -/
def State.areaPart (s : State) (gi : Nat) (g : Group) : Nat :=
  if g.late then (s.lateOf gi).elim g.shardPart (·.statePart) else g.shardPart

/-- Item `k` of a group's area. -/
def State.areaItem (s : State) (gi k : Nat) : Option Place :=
  (s.group gi).bind fun g =>
    let part := s.areaPart gi g
    let ex := s.partExtents part
    let before := (List.range gi).flatMap fun h => match s.group h with
      | some q => if s.areaPart h q = part then areaItems s.ring h q (s.progOf q).instrs else []
      | none => []
    let items := before ++ (areaItems s.ring gi g (s.progOf g).instrs).take (k + 1)
    (placeItem (items.length + ex.length + 1) (ex.map fun e => (e.base, e.bytes)) 0 items).map fun a =>
      ⟨ex.any Extent.host, a⟩

/-- The k-th record of a group; unit `k` of its low-rank state; unit `k` of pending slot `i`. -/
def State.recordAt (s : State) (gi k : Nat) : Option Place := s.areaItem gi k
def State.lowUnit (s : State) (gi k : Nat) : Option Place := s.areaItem gi (s.ring.maxOwn gi + k)
def State.pendingUnit (s : State) (gi i k : Nat) : Option Place :=
  s.areaItem gi (s.ring.maxOwn gi + s.ring.lowUnits gi + i * s.ring.maxOwn gi + k)

/-- The index of an owned segment within its group. -/
def State.ownIndex (s : State) (gi seg : Nat) : Nat := ((s.group gi).elim [] s.ownedOf).findIdx (· == seg)

/-- The unit that serves a record (R336). -/
def servingUnit (p : Place) (k : Nat) : Nat := if p.host then k % 16 else dpaRegion p.addr / 4
def State.unitOf (s : State) (gi seg : Nat) : Nat :=
  let k := s.ownIndex gi seg
  (s.recordAt gi k).elim 0 fun p => servingUnit p k

/-! Access. -/

/-- Bytes read from a place by an update unit: none while host lines are on their way; the code of a failed request. -/
def State.unitRead (s : State) (u : Nat) (p : Place) (len : Nat) : State × Option (List Byte × Nat) :=
  if p.host && !s.cxl then (s.logHif 0x0707 0 0, some ([], 0x0707))
  else if p.host then
    (List.range (len / 64)).foldl (fun r i =>
      match r.1.farRead .units (p.addr / 64 + i) with
      | (s, some (.ok d)) => (s, r.2.map fun q => (q.1 ++ d, q.2))
      | (s, some (.error c)) => (s, r.2.map fun q => (q.1, if q.2 = 0 then c else q.2))
      | (s, none) => (s, none)) (s, some ([], 0))
  else
    let (s, b, c) := s.readMem (rqUPD + u) p.addr (len / 64)
    (s, some (b, c))

/-- Whole sectors written to a place by an update unit: the code of a failed request. -/
def State.unitWrite (s : State) (u : Nat) (p : Place) (l : List Byte) : State × Nat :=
  if p.host && !s.cxl then (s.logHif 0x0707 0 0, 0x0707)
  else if p.host then
    (((List.range (l.length / 64)).foldl (fun s i => s.farWrite .units none (p.addr / 64 + i) (sliceBytes l (64 * i) 64)) s), 0)
  else s.writeMem (rqUPD + u) p.addr l

/-! Working copies. -/

/-- The numeric plan entry bound to a group (R221). -/
def State.numOf (s : State) (gi : Nat) : Option NumPlan := (s.plan.elim [] fun p => p.nums).find? fun e => e.pgroup == gi

/-- Form of a group's working copies: a PREC form, or 4 for binary32 (R220, R347). -/
def State.wcForm (s : State) (gi : Nat) (g : Group) : Nat :=
  if wcfBinary (s.progOf g).instrs then 4 else (s.numOf gi).elim 0 fun e => e.mode % 8
/-- Gather length of a form (R347). -/
def gatherLen (form : Nat) : Nat := if form = 4 then 65536 else 64 * formSectors form
def State.gatherLenOf (s : State) (gi : Nat) : Nat := (s.group gi).elim 0 fun g => gatherLen (s.wcForm gi g)

/-- Byte offset of a group's working copies in its partition (R348). -/
def State.wcBase (s : State) (gi : Nat) : Nat :=
  let part := (s.group gi).elim 0 (·.wcPart)
  ((List.range gi).map fun h => match s.group h with
    | some q => if q.wcPart = part then q.segCount * s.gatherLenOf h else 0
    | none => 0).sum

/-- Sectors of a partition's bytes, its extents joined end to end: the address of each (R335, R348). -/
def State.partSector (s : State) (part k : Nat) : Option Nat := addrInExtents pageBytes (s.partExtents part) (64 * k)

/-- `n` sectors of a partition from its sector `k` on, written one after another until one fails. -/
def writePartFrom (req part : Nat) : Nat → Nat → List Byte → State → State × Nat
  | _, 0, _, s => (s, 0)
  | k, n + 1, l, s =>
    match s.partSector part k with
    | none => (s, 0x0302)
    | some a => match s.writeRow req a (l.take 64) with
      | (s, 0) => writePartFrom req part (k + 1) n (l.drop 64) s
      | (s, c) => (s, c)

/-- The same sectors read: the bytes before the first that fails, and its code. -/
def readPartFrom (req part : Nat) : Nat → Nat → State → State × List Byte × Nat
  | _, 0, s => (s, [], 0)
  | k, n + 1, s =>
    match s.partSector part k with
    | none => (s, [], 0x0302)
    | some a => match s.readRow req a 1 with
      | (s, .error c) => (s, [], c)
      | (s, .ok b) =>
        let (s, l, c) := readPartFrom req part (k + 1) n s
        (s, b ++ l, c)

/-- Whole sectors written at an offset of a partition, by a requester. -/
def State.writePart (s : State) (req part : Nat) (off : Nat) (l : List Byte) : State × Nat :=
  writePartFrom req part (off / 64) (l.length / 64) l s

/-- Bytes read at an offset of a partition. -/
def State.readPart (s : State) (req part : Nat) (off len : Nat) : State × List Byte × Nat := readPartFrom req part (off / 64) (len / 64) s

/-- The place of a segment's working copy: partition and byte offset (R348). -/
def State.wcPlace (s : State) (seg : Nat) : Option (Nat × Nat) :=
  (s.groupOf seg).bind fun gi => (s.group gi).map fun g => (g.wcPart, s.wcBase gi + (seg - g.firstSeg) * s.gatherLenOf gi)

/-! Planes of a record. -/

def fmtOfMaster (g : Group) : FloatFmt := if g.masterFmt = 1 then fmtM24 else binary32
def fmtOfMoment (g : Group) : FloatFmt := if g.momentFmt = 1 then fmtK16B else if g.momentFmt = 2 then fmtK16H else binary32

/-- Values of a plane of `f`: M24 21 to a sector (R31). -/
def unpackPlane (f : FloatFmt) (l : List Byte) : List Nat :=
  if f = fmtM24 then
    (((chunksOf 64 (l.length / 64) l).flatMap fun c => (List.range 21).map fun i => leAt c (3 * i) 3).take 16384).map (fromFloat f)
  else if f = binary32 then (wordsOf l).map fun p => round32 (val32 p)
  else ((chunksOf 2 (l.length / 2) l).map leNat).map (fromFloat f)

def packPlane (f : FloatFmt) (l : List Nat) : List Byte :=
  if f = fmtM24 then packFloats 7 l else if f = binary32 then wordBytes l else l.flatMap (leBytes 2)

/-- Byte offset of moment `k`, and of the factor plane, in a version's part. -/
def momentOff (g : Group) (k : Nat) : Nat := masterBytes g + k * momentBytes g
def factorOff (g : Group) (l : List UInstr) : Nat := masterBytes g + momentCount l * momentBytes g

/-- The version in use, and the other (R243). -/
def State.version (s : State) : Nat := s.g F.STEP_VERSION_VERSION

/-- Where version `v` of a record begins. -/
def Place.plus (p : Place) (n : Nat) : Place := { p with addr := p.addr + n }
def State.partAt (s : State) (gi k v : Nat) : Option Place :=
  (s.group gi).bind fun g => (s.recordAt gi k).map fun p => p.plus (v * partBytes g (s.progOf g).instrs)

/-- A working copy derived from the 16,384 values of a master (R347); a binary32 one writes −0 as +0 (R52). -/
def deriveCopy (form : Nat) (vals : List Nat) : List Byte :=
  if form = 4 then wordBytes (vals.map noNegZero) else blockBytes (quantBlock form (chunksOf 128 128 vals) 128).1

end Sys2Proof.Machine
end

