-- ==== Sys2Proof/Machine/CheckImage.lean ====
section
/-!
DEFINITION. The checks of a staged bitstream, in the order of R228, and the plan that a bitstream passing them holds (spec
07_configuration_bitstream.md R199 to R225).
-/
namespace Sys2Proof.Machine

/-- A failed check (R229): code, section TYPE, byte offset. -/
structure ImgErr where
  code : Nat
  type : Nat
  offset : Nat
  deriving DecidableEq, Repr

abbrev Chk := Except ImgErr

def need (c : Bool) (code type offset : Nat) : Chk Unit := if c then .ok () else .error ⟨code, type, offset⟩

/-- RSVD bytes `a` to `b - 1` of a section: a field that is not 0 is named by its first byte (R228, R229). -/
def rsvd (l : List Byte) (a b type : Nat) : Chk Unit := need (allZero (sliceBytes l a (b - a))) 0x010A type a

/-- RSVD bytes of the header or table: the first that is not 0 (R200). -/
def rsvdBytes (l : List Byte) (a b : Nat) : Chk Unit :=
  match (sliceBytes l a (b - a)).findIdx? (· != 0) with
  | some i => .error ⟨0x010A, 0, a + i⟩
  | none => .ok ()

def byteAt (l : List Byte) (i : Nat) : Nat := leAt l i 1

/-! Header and section table (R199 to R202). -/

def checkHeader (img : List Byte) : Chk Unit := do
  need (img.take 4 == bytesOf [0x5A, 0x4B, 0x42, 0x53]) 0x0101 0 0
  need (leAt img 4 2 == 1) 0x0102 0 4
  need (leAt img 6 2 == 0) 0x0102 0 6
  need (leAt img 8 8 % 64 == 0 && decide (leAt img 8 8 ≤ 536870912) && leAt img 8 8 == img.length) 0x0103 0 8
  rsvdBytes img 50 64
  rsvdBytes img 80 128

/-- Entries `i` and on: `last` is the TYPE before, `stop` the end of what stands before the next section. A TYPE that R201
reserves is a reserved value in the section table (R236). -/
def tableFrom (img : List Byte) : Nat → Nat → Nat → Nat → Chk (List (Nat × List Byte))
  | 0, i, _, stop => do
    need (stop == img.length) 0x0104 0 (128 + 32 * (i - 1))
    pure []
  | n + 1, i, last, stop => do
    let e := 128 + 32 * i
    let t := leAt img e 2
    let off := leAt img (e + 8) 8
    let len := leAt img (e + 16) 8
    rsvdBytes img (e + 2) (e + 8)
    rsvdBytes img (e + 24) (e + 32)
    need (decide (1 ≤ t) && decide (t ≤ 10)) 0x010A 0 e
    need (decide (last < t) && decide (1 ≤ len) && off == roundUp stop 64 && decide (off + len ≤ img.length)
      && allZero (sliceBytes img stop (off - stop))) 0x0104 0 e
    let r ← tableFrom img n (i + 1) t (off + len)
    pure ((t, sliceBytes img off len) :: r)

/-- The sections by TYPE. -/
def checkTable (img : List Byte) : Chk (List (Nat × List Byte)) := do
  let n := leAt img 48 2
  need (decide (8 ≤ n) && decide (n ≤ 10)) 0x0104 0 48
  let l ← tableFrom img n 0 0 (128 + 32 * n)
  need ([1, 2, 3, 4, 5, 8, 9, 10].all fun t => l.any (·.1 == t)) 0x0104 0 128
  pure l

def sectionOf (l : List (Nat × List Byte)) (t : Nat) : List Byte := ((l.find? (·.1 == t)).map (·.2)).getD []

/-! Signatures and digest (R203 to R206). -/

/-- The byte string under the configuration digest (R203). -/
def digestString (l : List (Nat × List Byte)) : List Byte :=
  (l.filter (·.1 != 10)).flatMap fun e => leBytes 2 e.1 ++ List.replicate 6 0 ++ leBytes 8 e.2.length ++ e.2

/-- The key pair that a SIG block names among those given (R206). -/
def sigKeys (keys : List KeyPair) (g : List Byte) : Option KeyPair :=
  keys.find? fun k => sha3 k.ed == sliceBytes g 8 32 && sha3 k.ml == sliceBytes g 40 32

def checkSigned (keys : List KeyPair) (img : List Byte) (l : List (Nat × List Byte)) : Chk Unit := do
  let g := sectionOf l 10
  need (g.length == 3456) 0x0106 10 0
  need (leAt g 0 2 == 1) 0x0106 10 0
  need (allZero (sliceBytes g 2 6)) 0x0106 10 2
  need (allZero (sliceBytes g 3445 11)) 0x0106 10 3445
  match sigKeys keys g with
  | none => .error ⟨0x0107, 10, 8⟩
  | some k => do
    need (sha3 (digestString l) == sliceBytes img 16 32) 0x0105 0 16
    need (Config.edVerify k.ed (img.take 128) (sliceBytes g 72 64)) 0x0108 10 72
    need (Config.mlVerify k.ml (img.take 128) (sliceBytes g 136 3309)) 0x0109 10 136

/-! TILEPROG (R137, R207, R208). -/

/-- The checks of R137 that need no other section. -/
def checkDesc (d : List Byte) (o : Nat) : Chk Desc := do
  let x : Desc := ⟨leAt d o 8, leAt d (o + 8) 4, byteAt d (o + 12), byteAt d (o + 13), leAt d (o + 14) 2⟩
  need (decide (x.kind ≤ 4)) 0x010A 1 (o + 12)
  need (decide (x.acc < 4)) 0x010A 1 (o + 13)
  rsvd d (o + 16) (o + 32) 1
  need (x.kind == 0 || (x.base % 64 == 0 && decide (1 ≤ x.size) && (x.kind == dkHOST || decide (x.base < 2 ^ 40)))) 0x010C 1 o
  pure x

/-- A program, descriptor table or image of the directory: offset, items, bytes of an item, most items. -/
def spanOk (d : List Byte) (off count unit most : Nat) : Bool :=
  off % 64 == 0 && decide (count ≤ most) && (if count = 0 then off == 0 else decide (8192 ≤ off) && decide (off + count * unit ≤ d.length))

def checkTileEntry (d : List Byte) (t : Nat) : Chk TilePlan := do
  let e := 32 * t
  let f (o n : Nat) : Nat := leAt d (e + o) n
  rsvd d (e + 22) (e + 24) 1
  need (spanOk d (f 0 4) (f 4 2) 16 8192 && decide (f 6 2 < max 1 (f 4 2)) && spanOk d (f 8 4) (f 12 2) 16 8192
    && decide (f 14 2 < max 1 (f 12 2)) && spanOk d (f 16 4) (f 20 2) 32 256 && spanOk d (f 24 4) (f 28 4) 64 98304) 0x010B 1 e
  let descs ← (List.range (f 20 2)).mapM fun i => checkDesc d (f 16 4 + 32 * i)
  let prog (off count : Nat) : List Nat := (List.range count).map fun i => leAt d (off + 16 * i) 16
  pure ⟨prog (f 0 4) (f 4 2), f 6 2, prog (f 8 4) (f 12 2), f 14 2, descs, sliceBytes d (f 24 4) (64 * f 28 4)⟩

def checkTileprog (d : List Byte) : Chk (List TilePlan) := do
  need (decide (8192 ≤ d.length)) 0x010B 1 0
  (List.range 256).mapM (checkTileEntry d)

/-! ROUTE (R209, R210). -/

def checkRouteEntry (d : List Byte) (o k : Nat) : Chk (List (Nat × Route)) := do
  need (decide (byteAt d (o + 2) < 2)) 0x010A 2 (o + 2)
  rsvd d (o + 3) (o + 4) 2
  if byteAt d (o + 2) = 0 then do
    need (allZero (sliceBytes d o 4)) 0x010D 2 o
    pure []
  else do
    need (decide (byteAt d (o + 1) ≤ 15)) 0x010D 2 o
    pure [(k, ⟨byteAt d o, byteAt d (o + 1)⟩)]

def checkChanEntry (d : List Byte) (o k : Nat) : Chk (List (Nat × ChanPlan)) := do
  let base := leAt d o 3
  let sec := leAt d (o + 3) 3
  let slots := byteAt d (o + 6)
  need (decide (byteAt d (o + 7) < 2)) 0x010A 2 (o + 7)
  if byteAt d (o + 7) = 0 then do
    need (allZero (sliceBytes d o 8)) 0x010D 2 o
    pure []
  else do
    need (if slots = 0 then sec == 0 && base == 0
      else decide (1 ≤ sec) && decide (sec ≤ 98304) && decide (slots ≤ 64) && decide (base + slots * sec ≤ 98304)) 0x010D 2 o
    pure [(k, ⟨base, sec, slots⟩)]

/-- Routes against channels (R210): each names a valid channel, and none a channel that an earlier one names. -/
def checkDests (l : List RoutePlan) : List (Nat × Nat × Route) → List Route → Chk Unit
  | [], _ => .ok ()
  | (t, k, r) :: rest, seen => do
    need (((l.getD r.tile RoutePlan.empty).chans.any (·.1 == r.chan)) && !seen.contains r) 0x010D 2 (192 * t + 4 * k)
    checkDests l rest (r :: seen)

def checkRoute (d : List Byte) : Chk (List RoutePlan) := do
  need (d.length == 49152) 0x010D 2 0
  let l ← (List.range 256).mapM fun t => do
    let rs ← (List.range 16).mapM fun k => checkRouteEntry d (192 * t + 4 * k) k
    let cs ← (List.range 16).mapM fun k => checkChanEntry d (192 * t + 64 + 8 * k) k
    pure (⟨rs.flatten, cs.flatten⟩ : RoutePlan)
  checkDests l (l.zipIdx.flatMap fun e => e.1.routes.map fun r => (e.2, r.1, r.2)) []
  pure l

/-! MEMPLAN (R211 to R213, R375). -/

/-- Bytes of an extent's pages. -/
def extentEnd (e : Extent) : Nat := e.base + e.bytes

/-- Where an extent of a KIND may lie (R212, R213). -/
def extentPlaced (e : Extent) : Bool :=
  if e.kind = 7 then e.base % 0x200000 == 0 && decide (extentEnd e ≤ 2 ^ 57)
  else
    decide (1 ≤ e.pages) && decide (e.pages ≤ 96) && e.base % pageBytes == 0 && decide (e.base < 2 ^ 40) && populated e.base
      && decide (dpaOff e.base + e.pages * pageBytes ≤ regionBytes)
      && !(dpaCol e.base == 4 && decide (7 ≤ dpaLayer e.base) && decide (0x5800000 < dpaOff e.base + e.pages * pageBytes))
      && (if e.kind ≤ 3 then decide (dpaCol e.base ≤ 3) else e.kind == 6 || dpaCol e.base == 4)
      && ((e.kind != 4 && e.kind != 5) || e.grant == 0)

/-- Two extents of one plan: no overlap, and one KIND and GRANT in a partition (R213). -/
def extentsAgree (a b : Extent) : Bool :=
  !(a.host == b.host && spansMeet a.base a.bytes b.base b.bytes) && (a.part != b.part || (a.kind == b.kind && a.grant == b.grant))

def checkExtents (d : List Byte) : Nat → Nat → List Extent → Chk (List Extent)
  | 0, _, acc => .ok acc
  | n + 1, i, acc => do
    let o := 2880 + 64 * i
    let e : Extent := ⟨leAt d o 2, byteAt d (o + 2), leAt d (o + 4) 4, leAt d (o + 8) 8, leAt d (o + 16) 32⟩
    need (decide (1 ≤ e.kind) && decide (e.kind ≤ 7)) 0x010A 3 (o + 2)
    rsvd d (o + 3) (o + 4) 3
    rsvd d (o + 48) (o + 64) 3
    need (e.part != 65535 && extentPlaced e && acc.all (extentsAgree e)) 0x010E 3 o
    checkExtents d n (i + 1) (acc ++ [e])

def quotaOk (d : List Byte) (i : Nat) : Bool :=
  let q := byteAt d (320 + i)
  decide (q ≤ 64) && (q == 0 || !(decide (i / 512 ≤ 3) && decide (6 ≤ i % 8)))

def checkMemplan (d : List Byte) : Chk MemPlan := do
  let n := leAt d 16 2
  need (decide (2880 ≤ d.length) && decide (1 ≤ n) && decide (n ≤ 16384) && d.length == 2880 + 64 * n) 0x010E 3 16
  need (!allZero (d.take 16)) 0x010E 3 0
  rsvd d 18 64 3
  let _ ← (List.range 256).mapM fun t => need (decide (byteAt d (64 + t) < 2)) 0x010A 3 (64 + t)
  let _ ← (List.range 2560).mapM fun i => need (quotaOk d i) 0x010E 3 (320 + i)
  let ex ← checkExtents d n 0 []
  pure ⟨leAt d 0 16, (List.range 256).map fun t => byteAt d (64 + t), (List.range 2560).map fun i => byteAt d (320 + i), ex⟩

def MemPlan.kindOf (m : MemPlan) (part : Nat) : Option Nat := (m.extents.find? fun e => e.part == part).map (·.kind)
def MemPlan.bytesOf (m : MemPlan) (part : Nat) : Nat := ((m.extents.filter fun e => e.part == part).map Extent.bytes).sum

/-! CLOCKPLAN (R215). -/

def checkClockplan (d : List Byte) (tiles : List TilePlan) : Chk (List ClockPlan) := do
  need (d.length == 512) 0x010F 4 0
  (List.range 32).mapM fun c => do
    let o := 16 * c
    let x : ClockPlan := ⟨byteAt d o, byteAt d (o + 1), byteAt d (o + 2), byteAt d (o + 3), leAt d (o + 4) 4⟩
    rsvd d (o + 8) (o + 16) 4
    let used := ((tiles.drop (8 * c)).take 8).any fun t => !t.fwd.isEmpty || !t.bwd.isEmpty || !t.image.isEmpty
    need (decide (10 ≤ x.fmin) && decide (x.fmin ≤ x.fmax) && decide (x.fmax ≤ 30) && decide (x.pllDeepest ≤ 2)
      && decide (x.tileDeepest ≤ 2) && decide (1 ≤ x.sleepAfter) && !(x.tileDeepest == 2 && used)) 0x010F 4 o
    pure x

/-! RINGPLAN (R216, R217). -/

def checkJob (d : List Byte) (i groups total : Nat) : Chk Job := do
  let o := 64 + 32 * i
  let b : Job := ⟨byteAt d (o + 2), byteAt d (o + 3), byteAt d (o + 4), byteAt d (o + 5), leAt d (o + 6) 2, leAt d (o + 8) 4,
    leAt d (o + 12) 4, leAt d (o + 16) 2⟩
  rsvd d (o + 18) (o + 32) 5
  need (leAt d o 2 == i && decide (b.dim ≤ 2) && decide (b.channel ≤ 63) && decide (b.mode ≤ 1) && decide (b.nanMode ≤ 1)
    && (if b.mode = 1 then decide (1 ≤ b.rank) && decide (b.rank ≤ 256) else b.rank == 0) && decide (1 ≤ b.segCount)
    && decide (b.firstSeg + b.segCount ≤ total) && decide (b.group < groups)) 0x0110 5 o
  pure b

def checkGroup (d : List Byte) (base i total : Nat) (m : MemPlan) : Chk Group := do
  let o := base + 32 * i
  let fl := byteAt d (o + 11)
  let g : Group := ⟨leAt d (o + 2) 2, leAt d (o + 4) 4, byteAt d (o + 8), byteAt d (o + 9), byteAt d (o + 10), fl % 2 == 1,
    fl / 2 % 2 == 1, leAt d (o + 12) 2, leAt d (o + 14) 2, leAt d (o + 16) 4, leAt d (o + 20) 4⟩
  need (decide (fl < 4)) 0x010A 5 (o + 11)
  rsvd d (o + 24) (o + 32) 5
  need (leAt d o 2 == i && decide (1 ≤ g.elements) && decide (g.masterFmt ≤ 1) && decide (g.momentFmt ≤ 2) && decide (1 ≤ g.segCount)
    && decide (g.firstSeg + g.segCount ≤ total) && m.kindOf g.wcPart == some 2
    && (m.kindOf g.shardPart == some 5 || (g.late && g.shardPart == 0xFFFF))) 0x0110 5 o
  pure g

/-- Job ranges are disjoint; the later entry fails. -/
def checkDisjoint : List (Nat × Job) → List Job → Chk Unit
  | [], _ => .ok ()
  | (i, b) :: r, seen => do
    need (!(seen.any fun x => spansMeet b.firstSeg b.segCount x.firstSeg x.segCount)) 0x0110 5 (64 + 32 * i)
    checkDisjoint r (b :: seen)

/-- Jobs being disjoint, each segment of a group lies in exactly one job, one that names the group. -/
def groupCovered (jobs : List Job) (i : Nat) (g : Group) : Bool :=
  let meet := jobs.filter fun b => spansMeet b.firstSeg b.segCount g.firstSeg g.segCount
  meet.all (fun b => b.group == i)
    && (meet.map fun b => min (b.firstSeg + b.segCount) (g.firstSeg + g.segCount) - max b.firstSeg g.firstSeg).sum == g.segCount

def checkRingplan (d : List Byte) (m : MemPlan) : Chk RingPlan := do
  let nj := leAt d 0 2
  let ng := leAt d 2 2
  let nl := leAt d 4 2
  let g0 := 64 + 32 * nj
  let l0 := g0 + 32 * ng
  need (decide (64 ≤ d.length) && decide (nj ≤ 4096) && d.length == l0 + 8 * nl + 2048) 0x0110 5 0
  need (decide (byteAt d 6 ≤ 1)) 0x0110 5 6
  rsvd d 7 8 5
  let total := leAt d 12 4
  need (decide (1 ≤ leAt d 8 2) && decide (leAt d 8 2 ≤ 64)) 0x0110 5 8
  need (if byteAt d 6 = 0 then leAt d 10 2 == 1 else decide (2 ≤ leAt d 10 2) && decide (leAt d 10 2 ≤ 64)) 0x0110 5 10
  need (decide (1 ≤ leAt d 16 2)) 0x0110 5 16
  need (m.kindOf (leAt d 18 2) == some 4 && decide (total * 65536 ≤ m.bytesOf (leAt d 18 2))) 0x0110 5 18
  rsvd d 20 64 5
  let jobs ← (List.range nj).mapM fun i => checkJob d i ng total
  let groups ← (List.range ng).mapM fun i => checkGroup d g0 i total m
  let layers ← (List.range nl).mapM fun i => do
    rsvd d (l0 + 8 * i + 2) (l0 + 8 * i + 4) 5
    pure (leAt d (l0 + 8 * i) 2, leAt d (l0 + 8 * i + 4) 4)
  let grants ← (List.range 256).mapM fun t => do
    let o := l0 + 8 * nl + 8 * t
    need (leAt d (o + 4) 4 == 0 || decide (leAt d o 4 + leAt d (o + 4) 4 ≤ total)) 0x0110 5 o
    pure (leAt d o 4, leAt d (o + 4) 4)
  checkDisjoint (jobs.zipIdx.map fun e => (e.2, e.1)) []
  let _ ← groups.zipIdx.mapM fun e =>
    need (groupCovered jobs e.2 e.1 && layers.countP (·.1 == e.1.layer) == 1) 0x0110 5 (g0 + 32 * e.2)
  let _ ← layers.zipIdx.mapM fun e =>
    need (e.1.2 == ((groups.filter fun g => g.layer == e.1.1).map (·.segCount)).sum) 0x0110 5 (l0 + 8 * e.2)
  pure ⟨byteAt d 6, leAt d 8 2, leAt d 10 2, total, leAt d 16 2, leAt d 18 2, jobs, groups, layers, grants⟩

/-- UPDPROG and LATEGRP are present exactly when RINGPLAN needs them (R228). -/
def checkPresence (l : List (Nat × List Byte)) (r : RingPlan) : Chk Unit := do
  need ((l.any (·.1 == 6)) == !r.groups.isEmpty) 0x0104 5 2
  match r.groups.findIdx? (·.late) with
  | some i => need (l.any (·.1 == 7)) 0x0104 5 (64 + 32 * r.jobs.length + 32 * i)
  | none => need (!(l.any (·.1 == 7))) 0x0104 5 2

/-! UPDPROG (R218, R340 to R344). -/

/-- What an opcode uses of the other fields: bits of MOD, whether DST, and how many operands (R342). -/
def updForm (op : Nat) : Option (Nat × Bool × Nat) :=
  if op = 0x01 ∨ op = 0x03 then some (1, false, 0)
  else if op = 0x02 then some (0, false, 0)
  else if op = 0x13 ∨ op = 0x19 then some (0, true, 3)
  else if op = 0x16 ∨ op = 0x17 ∨ (0x20 ≤ op ∧ op ≤ 0x24) then some (0, true, 1)
  else if 0x10 ≤ op ∧ op ≤ 0x18 then some (0, true, 2)
  else if op = 0x30 then some (3, false, 1)
  else if op = 0x40 then some (1, false, 1)
  else if op = 0x41 then some (7, false, 1)
  else if op = 0x42 then some (3, false, 1)
  else none

/-- The encoding of one instruction (R340, R341, R344). -/
def updFieldsOk (w : Nat) : Bool :=
  let i := uinstrOf w
  match updForm i.op with
  | none => false
  | some (md, dst, n) =>
    decide (w < 2 ^ 48) && i.md &&& md == i.md && (if dst then decide (i.dst ≤ 15) else i.dst == 0)
      && (([i.a, i.b, i.c].zipIdx).all fun e => if e.2 < n then decide (e.1 ≤ 0x6D) else e.1 == 0)
      && !(i.op == uSTF && i.md == 3)

/-- The place of instruction `k` in its program (R344). -/
def updPlaceOk (l : List UInstr) (k : Nat) (i : UInstr) : Bool :=
  let passes := l.countP fun x => x.op == uPASS
  let pass := (l.take (k + 1)).countP fun x => x.op == uPASS
  let first := if (l.head?).elim false fun x => x.op == uWCF then 1 else 0
  let store := decide (uSTW ≤ i.op) && decide (i.op ≤ uSTF)
  (i.op != uWCF || k == 0)
    && (k != first || i.op == uPASS)
    && ((i.op == uEND) == (k + 1 == l.length))
    && (i.op != uPASS || (decide (pass ≤ 4) && (i.md % 2 == 1) == groupScope l))
    && (i.op != uACC || (decide (pass < passes) && (!groupScope l || decide (2 ≤ i.md))))
    && !(pass == 1 && i.reads.any fun x => decide (0x69 ≤ x) && decide (x ≤ 0x6C))
    && (!store || pass == passes)

/-- What a program must store (R344). -/
def updStoresOk (l : List UInstr) : Bool :=
  let reads (x : Nat) : Bool := l.any fun i => i.reads.contains x
  l.countP (fun i => i.op == uSTW) == 1
    && ([0, 1, 2, 3].all fun k =>
      let n := l.countP fun i => i.op == uSTM && i.md % 4 == k
      n == 1 || (n == 0 && !reads (0x62 + k)))
    && (!(reads 0x66 || reads 0x67 || reads 0x68) || [0, 1, 2].all fun k => l.countP (fun i => i.op == uSTF && i.md == k) == 1)

def checkProg (d : List Byte) (i : Nat) (before : Nat) : Chk UpdProg := do
  let o := 64 + 16 * i
  let code := leAt d o 4
  let len := leAt d (o + 4) 4
  let consts := leAt d (o + 8) 4
  rsvd d (o + 12) (o + 16) 6
  need (code % 16 == 0 && len % 16 == 0 && decide (16 ≤ len) && decide (len ≤ 65536) && consts % 64 == 0
    && decide (code + len ≤ d.length) && decide (consts + 256 ≤ d.length) && decide (before + len ≤ 262144)) 0x0111 6 o
  let p : UpdProg := ⟨sliceBytes d code len, (List.range 64).map fun k => leAt d (consts + 4 * k) 4⟩
  let l := p.instrs
  let _ ← l.zipIdx.mapM fun e =>
    need (updFieldsOk (leAt d (code + 16 * e.2) 16) && updPlaceOk l e.2 e.1) 0x0111 6 (code + 16 * e.2)
  need (updStoresOk l) 0x0111 6 o
  pure p

def checkUpdprog (d : List Byte) : Chk (Nat × List UpdProg) := do
  let n := leAt d 8 2
  need (decide (64 ≤ d.length) && decide (1 ≤ n) && decide (n ≤ 64) && decide (64 + 16 * n ≤ d.length)) 0x0111 6 8
  rsvd d 10 64 6
  let progs ← (List.range n).mapM fun i =>
    checkProg d i ((List.range i).map fun k => leAt d (64 + 16 * k + 4) 4).sum
  pure (leAt d 0 8, progs)

/-! LATEGRP, NUMPLAN, OWNER (R219 to R223). -/

def checkLategrp (d : List Byte) : Chk (List LatePlan) := do
  let n := leAt d 0 2
  need (decide (16 ≤ d.length) && decide (1 ≤ n) && d.length == 16 + 32 * n) 0x0112 7 0
  rsvd d 2 16 7
  (List.range n).mapM fun i => do
    let o := 16 + 32 * i
    let e : LatePlan := ⟨leAt d o 2, byteAt d (o + 2), byteAt d (o + 3), leAt d (o + 4) 2, leAt d (o + 6) 2⟩
    rsvd d (o + 8) (o + 32) 7
    need (decide (1 ≤ e.delay) && decide (e.delay ≤ 4) && decide (e.source ≤ 1)
      && (if e.source = 0 then e.podSet == 0 else decide (1 ≤ e.podSet) && decide (e.podSet ≤ 15))) 0x0112 7 o
    pure e

/-- A numeric mode word without reserved values (R55, R56). -/
def planModeOk (m : Nat) : Bool := decide (m < 512) && decide (m % 8 ≤ 3) && !bitOf m 3 && decide (bitsOf m 8 5 ≤ 7)

def checkNums (d : List Byte) : Nat → Nat → Option (Nat × Nat) → Chk (List NumPlan)
  | 0, _, _ => .ok []
  | n + 1, i, last => do
    let o := 16 + 16 * i
    let e : NumPlan := ⟨leAt d o 2, leAt d (o + 2) 2, leAt d (o + 4) 4, leAt d (o + 8) 2, byteAt d (o + 10)⟩
    rsvd d (o + 11) (o + 16) 8
    need (planModeOk e.mode && decide (e.saveFmt ≤ 4)
      && last.elim true fun p => decide (p.1 < e.layer) || (p.1 == e.layer && decide (p.2 < e.oper))) 0x0113 8 o
    let r ← checkNums d n (i + 1) (some (e.layer, e.oper))
    pure (e :: r)

def checkNumplan (d : List Byte) : Chk (List NumPlan) := do
  let n := leAt d 0 4
  need (decide (16 ≤ d.length) && decide (1 ≤ n) && decide (n ≤ 1048576) && d.length == 16 + 16 * n) 0x0113 8 0
  rsvd d 4 16 8
  checkNums d n 0 none

/-- The combinations of R222. -/
def ownerAllowed (e : OwnerEntry) : Bool :=
  match e.res with
  | 1 => e.inst == 0 && (e.owner == 2 || e.owner == 3 || e.owner == 9) && e.arg == 0
  | 2 => decide (e.inst ≤ 7) && ((e.owner == 3 || e.owner == 4 || e.owner == 9) && e.arg == 0 || e.owner == 5 && decide (e.arg ≤ 1))
  | 3 => decide (e.inst ≤ 15) && (e.owner == 1 && (decide (e.arg ≤ 255) || e.arg == 0xFFFF) || (e.owner == 6 || e.owner == 9) && e.arg == 0)
  | 4 => decide (e.inst ≤ 255) && (e.owner == 1 && e.arg == e.inst || e.owner == 7 && e.arg == 0)
  | 5 => decide (e.inst ≤ 31) && e.owner == 8
  | _ => false

def checkOwners (d : List Byte) : Nat → Nat → List OwnerEntry → Chk (List OwnerEntry)
  | 0, _, acc => .ok acc
  | n + 1, i, acc => do
    let o := 16 + 8 * i
    let e : OwnerEntry := ⟨byteAt d o, leAt d (o + 2) 2, leAt d (o + 4) 2, leAt d (o + 6) 2⟩
    rsvd d (o + 1) (o + 2) 9
    need (decide (1 ≤ e.owner) && decide (e.owner ≤ 9)) 0x010A 9 (o + 4)
    need (!(acc.any fun x => x.res == e.res && x.inst == e.inst)) 0x0115 9 o
    need (ownerAllowed e) 0x0116 9 o
    checkOwners d n (i + 1) (acc ++ [e])

def checkOwner (d : List Byte) : Chk (List OwnerEntry) := do
  let n := leAt d 0 2
  need (decide (16 ≤ d.length) && decide (n ≤ 1024) && d.length == 16 + 8 * n) 0x0116 9 0
  rsvd d 2 16 9
  checkOwners d n 0 []

/-! Cross-section checks (R208, R217 item 7, R219, R221, R225, R335, R348). -/

/-- Whether a partition's extents hold a whole span (R208). -/
def MemPlan.holds (m : MemPlan) (part : Nat) (d : Desc) : Bool :=
  d.pages.all fun page => m.extents.any fun e => e.part == part && e.holds d.granule page

def descOk (m : MemPlan) (owners : List OwnerEntry) (t : Nat) (d : Desc) : Bool :=
  let inPart := m.holds d.part d && m.extents.any fun e => e.part == d.part && e.grant.testBit t
  let vent := m.modes.getD t 0 == 0
  if d.kind = 0 then true
  else if d.kind = dkHOST then m.kindOf d.part == some 7 && inPart
  else
    let one := populated d.base && decide (dpaOff d.base + 64 * d.size ≤ regionBytes)
    let own := dpaCol d.base == t / 64 && dpaRegion d.base == t % 64
    one && m.kindOf d.part != some 7 && inPart
      && (d.kind != dkVENT || (own && (dpaLayer d.base != 1 || vent)
        && !(owners.any fun e => e.res == 4 && e.inst == t && e.owner != 1)))
      && (d.kind != dkGEYSER || (own && dpaLayer d.base == 1 && !vent && d.size % 128 == 0))

/-- Entries of NUMPLAN against the groups (R221): identifiers named so far are carried. -/
def checkBound (groups : Nat) : List (Nat × NumPlan) → List Nat → Chk (List Nat)
  | [], seen => .ok seen
  | (i, e) :: r, seen =>
    if e.pgroup = 0xFFFF then checkBound groups r seen
    else do
      need (decide (e.pgroup < groups)) 0x0113 8 (16 + 16 * i)
      need (!seen.contains e.pgroup) 0x0114 8 (16 + 16 * i)
      checkBound groups r (e.pgroup :: seen)

/-- LATEGRP against RINGPLAN and MEMPLAN (R216, R219). -/
def checkLates (ring : RingPlan) (m : MemPlan) : List (Nat × LatePlan) → List Nat → Chk Unit
  | [], seen => need ((ring.groups.zipIdx).all fun e => !e.1.late || seen.contains e.2) 0x0112 7 0
  | (i, e) :: r, seen => do
    need ((ring.groups[e.group]?).elim false fun g => g.late && !seen.contains e.group
      && (if e.source = 0 then m.kindOf e.statePart == some 7 && g.shardPart == 0xFFFF
          else m.kindOf e.statePart == some 5 && g.shardPart == e.statePart)) 0x0112 7 (16 + 32 * i)
    checkLates ring m r (e.group :: seen)

/-- The partition that holds a group's area. -/
def planAreaPart (late : List LatePlan) (gi : Nat) (g : Group) : Nat :=
  ((late.find? fun e => e.group == gi).map (·.statePart)).getD g.shardPart

/-- Whether the areas of a partition fit it (R335). -/
def areasFit (ring : RingPlan) (m : MemPlan) (progs : List UpdProg) (late : List LatePlan) (part : Nat) : Bool :=
  let items := (ring.groups.zipIdx).flatMap fun e =>
    if planAreaPart late e.2 e.1 = part then areaItems ring e.2 e.1 (progs.getD e.1.prog UpdProg.empty).instrs else []
  let ex := (m.extents.filter fun e => e.part == part).map fun e => (e.base, e.bytes)
  items.isEmpty || (placeItem (items.length + ex.length + 1) ex 0 items).isSome

/-- Whether the working copies of a partition fit it (R348). -/
def copiesFit (ring : RingPlan) (m : MemPlan) (progs : List UpdProg) (nums : List NumPlan) (part : Nat) : Bool :=
  decide (((ring.groups.zipIdx).map fun e =>
    if e.1.wcPart = part then
      let form := if wcfBinary (progs.getD e.1.prog UpdProg.empty).instrs then 4
        else ((nums.find? fun n => n.pgroup == e.2).map fun n => n.mode % 8).getD 0
      e.1.segCount * gatherLen form
    else 0).sum ≤ m.bytesOf part)

def checkCross (locked : Bool) (bind : Nat → Nat) (tp : List Byte) (p : Plan) : Chk Unit := do
  let g0 := 64 + 32 * p.ring.jobs.length
  let _ ← p.tiles.zipIdx.mapM fun t => t.1.descs.zipIdx.mapM fun d =>
    need (descOk p.mem p.owners t.2 d.1) 0x010C 1 (leAt tp (32 * t.2 + 16) 4 + 32 * d.2)
  let seen ← checkBound p.ring.groups.length (p.nums.zipIdx.map fun e => (e.2, e.1)) []
  let _ ← p.ring.groups.zipIdx.mapM fun e => need (seen.contains e.2) 0x0110 5 (g0 + 32 * e.2)
  let _ ← p.ring.groups.zipIdx.mapM fun e => need (decide (e.1.prog < p.progs.length)) 0x0110 5 (g0 + 32 * e.2)
  checkLates p.ring p.mem (p.late.zipIdx.map fun e => (e.2, e.1)) []
  let _ ← p.ring.groups.zipIdx.mapM fun e =>
    need (areasFit p.ring p.mem p.progs p.late (planAreaPart p.late e.2 e.1) && copiesFit p.ring p.mem p.progs p.nums e.1.wcPart)
      0x0110 5 (g0 + 32 * e.2)
  let _ ← p.owners.zipIdx.mapM fun e =>
    need (!(locked && e.1.res == 5 && bind e.1.inst != e.1.arg)) 0x0117 9 (16 + 8 * e.2)
  pure ()

/-- Every check of R228, in order: the plan of a bitstream that passes. `keys` are the ACTIVE owner-key slots; `locked` and
`bind` the mailbox binding table, each binding as SENDER + 256 × RECEIVER. -/
def checkImage (keys : List KeyPair) (locked : Bool) (bind : Nat → Nat) (img : List Byte) : Chk Plan := do
  checkHeader img
  let l ← checkTable img
  checkSigned keys img l
  let tiles ← checkTileprog (sectionOf l 1)
  let routes ← checkRoute (sectionOf l 2)
  let mem ← checkMemplan (sectionOf l 3)
  let clocks ← checkClockplan (sectionOf l 4) tiles
  let ring ← checkRingplan (sectionOf l 5) mem
  checkPresence l ring
  let (seed, progs) ← if ring.groups.isEmpty then pure (0, []) else checkUpdprog (sectionOf l 6)
  let late ← if ring.groups.any (·.late) then checkLategrp (sectionOf l 7) else pure []
  let nums ← checkNumplan (sectionOf l 8)
  let owners ← checkOwner (sectionOf l 9)
  let p : Plan := ⟨sliceBytes img 16 32, tiles, routes, mem, clocks, ring, seed, progs, late, nums, owners⟩
  checkCross locked bind (sectionOf l 1) p
  pure p

end Sys2Proof.Machine
end

