-- ==== Sys2Proof/Machine/GatherOps.lean ====
section
/-!
DEFINITION. Jobs' status, the gather of working copies (spec 10_gradient_reduction.md R316, R317, 05 R132) and the error logs of
the reduction engine and the update units.
-/
namespace Sys2Proof.Machine

/-! Error logs (R332, R361). -/

/-- An error of the reduction engine: latched, reported, vector 8. -/
def State.logRed (s : State) (code port job : Nat) : State :=
  ((s.latch F.RED_ERROR_VALID F.RED_ERROR_OVERFLOW
    [(F.RED_ERROR_CODE, code), (F.RED_ERROR_PORT, port), (F.RED_ERROR_JOB, job)]).report code job 0).raise 8

/-- An error of the update units: latched, reported, vector 9. -/
def State.logUpd (s : State) (code unit seg : Nat) : State :=
  ((s.latch F.UPD_ERROR_VALID F.UPD_ERROR_OVERFLOW
    [(F.UPD_ERROR_CODE, code), (F.UPD_ERROR_UNIT, unit), (F.UPD_ERROR_SEGMENT, seg)]).report code unit seg).raise 9

/-- An update error that fails the attempt (R361): recorded against the open attempt, or against the next at its opening. -/
def State.updFault (s : State) (code unit seg : Nat) : State :=
  let s := s.logUpd code unit seg
  if s.stepOpen || s.replaying then s.recordFail code 0xFFFF
  else { s with upd := { s.upd with poison := s.upd.poison <|> some (code, 0xFFFF) } }

/-! Headers. -/

/-- The header of a data flit that this device sends on a ring (R266). -/
def State.header (s : State) (ring job : Nat) : Header :=
  { ring := ring, job := job, channel := (s.job job).elim 0 (·.channel), digest := s.digest64, epoch := s.ringEpoch ring,
    step := s.workStep % 2 ^ 32, attempt := s.workAttempt % 16 }

/-- Payload words of bytes, padded to 120. -/
def payloadOf (l : List Byte) : List Nat :=
  let w := wordsOf l
  w ++ List.replicate (120 - w.length) 0

/-! Job states (RED_JOBj_STATUS). -/

def jobIDLE : Nat := 0
def jobREDUCING : Nat := 1
def jobREDUCED : Nat := 2
def jobHALTED : Nat := 3
def jobGATHERING : Nat := 4
def State.jobState (s : State) (j : Nat) : Nat := s.g (F.RED_JOB_STATUS_STATE j)
def State.halted (s : State) (j : Nat) : Bool := s.jobState j == jobHALTED

/-- Whether a flit of the job that this device sent waits for its acknowledgement (R329). -/
def State.unacked (s : State) (j : Nat) : Bool :=
  let mine : PortItem → Bool := fun i => match i with
    | .data f => f.hdr.job == j
    | _ => false
  (List.range 4).any fun p => ((s.port p).replay.any fun e => mine e.item) || (s.port p).waiting.any mine || (s.port p).passing.any mine

/-- Whether the segments of a job that the running gather brings are all here. -/
def State.gatheredJob (s : State) (b : Job) : Bool := s.gather.kind.isNone || b.segs.all s.gather.done.contains

/-- R329, for a job that is not halted, while a step or a replay runs. -/
def State.jobDone (s : State) (j : Nat) (b : Job) : Bool :=
  s.tilesRun && (s.ownedOfJob b).all s.red.reduced.contains && !s.unacked j && (b.mode == 0 || s.g (F.RED_JOB_STATUS_ROUND j) == 3)
    && s.gatheredJob b

/-- The job's state brought up to date, and RED_STATUS with it. -/
def State.refreshJob (s : State) (j : Nat) : State :=
  match s.job j with
  | none => s
  | some b =>
    if s.halted j then s
    else
      let active := b.segs.any s.red.released.contains || s.red.tails.any (fun t => decide (t.kind ≤ 1) && b.segs.contains t.key)
        || b.segs.any s.red.reduced.contains
      let st := if s.jobDone j b then jobREDUCED
        else if s.tilesRun && active then jobREDUCING
        else if s.gather.kind.isSome && !s.gatheredJob b then jobGATHERING
        else jobIDLE
      s.set (F.RED_JOB_STATUS_STATE j) st

def State.jobs (s : State) : List Nat := List.range s.ring.jobs.length
def State.refreshJobs (s : State) : State :=
  let s := s.jobs.foldl State.refreshJob s
  s.set F.RED_STATUS_REDUCED_JOBS ((s.jobs.filter fun j => s.jobState j == jobREDUCED).length)

/-! Gather. -/

/-- The device's own segments in the order in which they are sent (R317). -/
def State.gatherOrder (s : State) : List Nat :=
  s.ring.layers.flatMap fun l => ((s.ring.groups.filter fun g => g.layer == l.1).flatMap s.ownedOf).foldr insertAsc []

/-- Every gather count at its total. -/
def State.gatherFull (s : State) : Bool := s.ring.layers.all fun l => decide (l.2 ≤ Sparse.get 0 l.1 s.stp.gather)

/-- The gather has ended when every count has reached its total. -/
def State.gatherEnd (s : State) : State :=
  if s.gather.kind.isSome && s.gatherFull && s.gather.queue.isEmpty
  then { s with gather := { s.gather with kind := none } } else s

/-- Every gather count at 0: the working copies no longer belong to the version in use (R132). -/
def State.forgetGathers (s : State) : State := { s with stp := { s.stp with gather := [] } }
/-- Every gather count at its layer's total, as installation leaves it (R132, R232). -/
def State.fillGathers (s : State) (l : List (Nat × Nat)) : State :=
  { s with stp := { s.stp with gather := l.foldl (fun a e => Sparse.put 0 e.1 e.2 a) [] } }

/-- A gather begins: every count is 0, and the device's own segments are to be derived and sent (R132, R317). -/
def State.gatherBegin (s : State) (kind : Nat) : State :=
  let s := { s with gather := ⟨some kind, s.gatherOrder, []⟩, stp := { s.stp with gather := [] } }
  let s := { s with red := { s.red with tails := s.red.tails.filter (·.kind != 2) } }
  (s.jobs.foldl (fun s j => s.set (F.RED_JOB_STATUS_GATHERED j) 0) s).gatherEnd.refreshJobs

/-- REGATHER is done when every count has reached its total (R259). -/
def State.regatherDone (s : State) : State :=
  if s.stepState = stREGATHER ∧ s.gather.kind.isNone then
    (s.set F.STEP_STATUS_STATE stCLOSED).set F.STEP_CTRL_REGATHER 0
  else s

/-- A heal is done when every expected segment has been written (R360). -/
def State.healDone (s : State) : State :=
  if s.on F.UPD_STATUS_HEALING && s.upd.heal.all (fun e => e.2.all s.upd.healed.contains) then
    let s := (s.set F.UPD_STATUS_HEALING 0).set F.UPD_DIG_REPORT_HEALED 1
    ({ s with upd := { s.upd with heal := [], healed := [] } }).logUpd 0x0604 0 0
  else s

/-- A segment wholly written here by a heal: no gather count changes (R360). -/
def State.healedSeg (s : State) (seg : Nat) : State :=
  ({ s with upd := { s.upd with healed := s.upd.healed ++ [seg] } } : State).healDone

/-- A gather segment wholly written here: its layer's count grows (R317). -/
def State.gathered (s : State) (seg : Nat) : State :=
  if s.gather.done.contains seg then s
  else
    let s := { s with gather := { s.gather with done := s.gather.done ++ [seg] } }
    match s.jobOf seg, (s.groupOf seg).bind s.group with
    | some j, some g =>
      let s := s.inc (F.RED_JOB_STATUS_GATHERED j)
      let s := { s with stp := { s.stp with gather := Sparse.put 0 g.layer (Sparse.get 0 g.layer s.stp.gather + 1) s.stp.gather } }
      (s.gatherEnd.regatherDone.refreshJob j).refreshJobs
    | _, _ => s

/-- Bytes that continue a segment's run in order, cut into whole sectors and a tail (R310). -/
def State.takeTail (s : State) (kind key k : Nat) (l : List Byte) : State × Nat × List Byte :=
  let old := (s.red.tails.find? fun t => t.kind == kind && t.key == key).getD ⟨kind, key, 0, []⟩
  let all := old.bytes ++ l
  let n := all.length / 64 * 64
  let rest := all.drop n
  let tails := s.red.tails.filter fun t => !(t.kind == kind && t.key == key)
  let s := { s with red := { s.red with tails := if rest.isEmpty then tails else tails ++ [⟨kind, key, k + 1, rest⟩] } }
  (s, old.bytes.length, all.take n)

/-- Directions of a gather flit with the number of devices it passes (R316). -/
def gatherReach (n : Nat) : List (Nat × Nat) := [(0, n / 2), (1, (n - 1) / 2)]

/-- The flits of a gather segment (R316). -/
def State.gatherFlits (s : State) (ring job firstSeg seg kind src : Nat) (l : List Byte) : List Flit :=
  let k := (l.length + 479) / 480
  (List.range k).map fun g =>
    { hdr := { s.header ring job with phase := 1, gkind := kind, srcPos := src, added := 1, last := g + 1 == k,
                                      offset := (seg - firstSeg) * 16384 + 120 * g },
      payload := payloadOf ((l.drop (480 * g)).take 480) }

/-- Flits sent around a ring in both directions as far as they go. -/
def State.sendAround (s : State) (ring : Nat) (fs : List Flit) : State :=
  let n := if s.ringState ring = ringBYPASSED then 1 else s.g (ringSizeF ring)
  (gatherReach n).foldl (fun s d => if d.2 = 0 then s else fs.foldl (fun s f => s.sendFlit ring d.1 f) s) s

/-- Working-copy bytes written by requester 272 (R310). -/
def State.writeCopy (s : State) (seg off : Nat) (l : List Byte) : State :=
  match s.wcPlace seg with
  | some (part, base) => (s.writePart rqRED part (base + off) l).1
  | none => s

/-- The owner sends a derived working copy under a GKIND and writes its own (R316): along ring B first for a DIM 2 job, and then along
ring A. -/
def State.sendCopy (s : State) (kind seg : Nat) (l : List Byte) : State :=
  match s.jobOf seg with
  | none => s
  | some j =>
    match s.job j with
    | none => s
    | some b =>
      let s := s.writeCopy seg 0 l
      let s := b.rings.reverse.foldl (fun s r => s.sendAround r (s.gatherFlits r j b.firstSeg seg kind (s.coord r) l)) s
      if kind = 2 then s.healedSeg seg else s.gathered seg

/-- A gather flit written, forwarded in its direction of travel, and, in a DIM 2 job, sent on along ring A (R316). -/
def State.gatherTake (s : State) (p : Nat) (f : Flit) : State :=
  match s.job f.hdr.job with
  | none => s
  | some b =>
    let h := f.hdr
    let seg := b.firstSeg + h.offset / 16384
    let g := h.offset % 16384 / 120
    let len := (s.groupOf seg).elim 0 s.gatherLenOf
    let bytes := (wordBytes f.payload).take (min 480 (len - 480 * g))
    let (s, before, whole) := s.takeTail (if h.gkind = 2 then 3 else 2) seg g bytes
    let s := s.writeCopy seg (480 * g - before) whole
    let ring := portRing p
    let dir := 1 - p % 2
    let n := s.g (ringSizeF ring)
    let reach := if dir = 0 then n / 2 else (n - 1) / 2
    let s := if h.added < reach then s.passFlit ring dir { f with hdr := { h with added := h.added + 1, epoch := s.ringEpoch ring } } else s
    let s := if b.dim = 2 ∧ ring = 1
      then s.sendAround 0 [{ f with hdr := { h with ring := 0, added := 1, srcPos := s.coord 0, epoch := s.ringEpoch 0 } }] else s
    if !h.last then s else if h.gkind = 2 then s.healedSeg seg else s.gathered seg

end Sys2Proof.Machine
end

