-- ==== Sys2Proof/Machine/ReduceOps.lean ====
section
/-!
DEFINITION. The reduction engine's work on slices (spec 10_gradient_reduction.md R301 to R329): checks, additions in the fixed
order, the owner's writes, rounds of low-rank jobs, skip notices, and the holding of flits (R24, R241, R309, R317).
-/
namespace Sys2Proof.Machine

/-! Halting. -/

/-- Flits of a job that wait at the ports: a halted job sends none of them (R319). -/
def State.dropJob (s : State) (j : Nat) : State :=
  let other : PortItem → Bool := fun i => match i with
    | .data f => f.hdr.job != j
    | _ => true
  (List.range 4).foldl (fun s p => s.setPort p fun x => { x with waiting := x.waiting.filter other, passing := x.passing.filter other }) s

/-- A fault of the reduction recorded against the attempt, or against the next one where none is open (R319). -/
def State.redFault (s : State) (code : Nat) : State :=
  if s.stepOpen || s.replaying then s.recordFail code 0xFFFF
  else { s with red := { s.red with haltDue := s.red.haltDue <|> some code } }

/-- A halted job (R319): state, error record, fault against the attempt. A job that RINGPLAN does not name halts nothing. -/
def State.haltJob (s : State) (j port code : Nat) : State :=
  let s := if (s.job j).isSome then (((s.dropJob j).set (F.RED_JOB_STATUS_STATE j) jobHALTED).set F.RED_STATUS_HALTED 1).refreshJobs else s
  (s.logRed code port j).redFault code

/-- CONFIG_MISMATCH: the first received DIGEST64 since VALID was cleared latches (R319). -/
def State.mismatch (s : State) (j port digest : Nat) : State :=
  let s := if s.red.digestLatched then s
    else { s.set F.RED_MISMATCH_DIGEST_DIGEST64 digest with red := { s.red with digestLatched := true } }
  s.haltJob j port 0x0501

/-! Kinds of data flits (R323, R328, R357). -/

inductive FlitKind where
  | slice
  | gather
  | round (r : Nat) (sum : Bool)
  | digest
  | skip
  deriving DecidableEq, Repr

def Header.top (h : Header) : Nat := bitsOf h.offset 39 38
def Header.kind (h : Header) : FlitKind :=
  if h.top = 3 then (if h.phase = 1 then .digest else .skip)
  else if h.top ≠ 0 then .round h.top (h.phase == 0)
  else if h.phase = 1 then .gather else .slice

def sliceLen (f : Nat) : Nat := if f = 136 then 64 else 120

/-! NaN and SKIP. -/

/-- RED_NAN_INFO latches while VALID is 0 (R321). -/
def State.nanLatch (s : State) (local' : Bool) (h : Header) (contributor offset : Nat) : State :=
  s.latch F.RED_NAN_INFO_VALID F.RED_NAN_INFO_OVERFLOW
    [(F.RED_NAN_INFO_LOCAL, bit local'), (F.RED_NAN_INFO_RING, h.ring), (F.RED_NAN_INFO_CONTRIBUTOR, contributor),
      (F.RED_NAN_INFO_CHANNEL, h.channel), (F.RED_NAN_INFO_JOB, h.job), (F.RED_NAN_OFFSET_OFFSET, offset)]

/-- SKIP recorded for the attempt (R323): from a notice on a ring, or from this device's own sum. -/
def State.recordSkip (s : State) (j : Nat) (fromRing : List Nat) : State :=
  if s.on F.RED_STATUS_SKIP then s
  else
    let s := { s.set F.RED_STATUS_SKIP 1 with red := { s.red with skipRings := fromRing, skipJob := j, skipCopied := false } }
    s.logRed 0x0508 0 j

/-- Rings on which a device that recorded SKIP sends a notice. -/
def State.noticeRings (s : State) : List Nat :=
  ((if s.torus then [0, 1] else [0]).filter fun r => s.ringState r != ringBYPASSED).filter fun r => !s.red.skipRings.contains r

/-! Additions. -/

/-- The sums of a slice (R302, R312): partial plus contribution, element by element, +0 for a zero result. -/
def addSlice (v c : List Nat) : List Nat := List.zipWith (fun a b => noNegZero (add32 a b)) v c

/-- The first element at which an addition made a NaN of a partial that was none (R321). -/
def newNaN (v sum : List Nat) : Option Nat := (v.zip sum).findIdx? fun p => isNaN32 p.2 && !isNaN32 p.1

/-- The contribution of a slice of a segment, read in whole sectors by requester 272 (R310): none when poisoned (R320). -/
def State.contribution (s : State) (seg f : Nat) : State × Option (List Nat) :=
  let a := 480 * f / 64 * 64
  let len := (480 * f + 4 * sliceLen f - a + 63) / 64 * 64
  let (s, l, c) := s.readPart rqRED s.ring.redPart (65536 * seg + a) len
  (s, if c ≠ 0 then none else some (wordsOf (sliceBytes l (480 * f - a) (4 * sliceLen f))))

/-- What the owner writes for the sums of a slice, and how they count (R322, R323, R490). -/
def ownerValues (nanMode : Nat) (l : List Nat) : List Nat × List Tally :=
  if nanMode = 1 then (l.map fun v => if isNaN32 v then 0 else v, l.map fun v => if isNaN32 v || finite32 v then .none else .nonFinite)
  else (l, l.map fun v => if finite32 v then .none else .nonFinite)

/-- Owner's bookkeeping for a written slice: the watch and its trap, then NaN under the job's mode (R322, R323). -/
def State.ownerNote (s : State) (j seg f : Nat) (b : Job) (sums : List Nat) : State :=
  let gi := b.group
  let layer := (s.group gi).elim 0 (·.layer)
  let oper := (s.numOf gi).elim 0 (·.oper)
  let (w, t) := ownerValues b.nanMode sums
  let nan := sums.any isNaN32
  let s := if nan && b.nanMode == 0 then (s.logRed 0x0502 0 j).recordFail 0x0502 0xFFFF else s
  let e := 120 * f + (firstNonFinite t).getD 0
  let tr : Option Trap := (firstNonFinite t).map fun i =>
    ⟨3, 0, 0, 4, 0, layer, oper, e / 128, e % 128, 2, seg, w.getD i 0⟩
  let s := s.counted layer oper t tr
  if nan && b.nanMode == 1 then s.recordSkip j [] else s

/-- Digest-log entry of a job whose owned segments are all reduced (R503). -/
def State.jobEntry (s : State) (j : Nat) (b : Job) : State :=
  let own := s.ownedOfJob b
  if !own.isEmpty && own.all s.red.reduced.contains then
    s.logEntry ⟨crcOfCrcs (own.map fun k => (s.red.crcs.lookup k).getD 0), (s.group b.group).elim 0 (·.layer),
      (s.numOf b.group).elim 0 (·.oper), 3, 0, j, 0, own.length, 0⟩
  else s

/-- A segment reduced at its owner (R308): the update units may begin on it. -/
def State.segReduced (s : State) (j seg : Nat) (b : Job) : State :=
  let s := { s with red := { s.red with reduced := s.red.reduced ++ [seg] } }
  let s := (s.inc (F.RED_JOB_STATUS_REDUCED j)).inc F.RED_SEGS_REDUCED_COUNT
  ((s.jobEntry j b).refreshJob j).refreshJobs

/-- A slice's sums written at the owner of a phase (R308, R315): the last phase's values by NAN_MODE. -/
def State.ownerWrite (s : State) (j seg f : Nat) (b : Job) (w : Way) (sums : List Nat) : State :=
  let final := w.ring == b.lastRing
  let vals := (ownerValues b.nanMode sums).1
  let s := s.ownerNote j seg f b sums
  let bytes := wordBytes vals
  let (s, before, whole) := s.takeTail w.ring seg f bytes
  let s := (s.writePart rqRED s.ring.redPart (65536 * seg + 480 * f - before) whole).1
  let s := if final then { s with red := { s.red with
      crcs := (seg, crc64From (if f = 0 then 0 else (s.red.crcs.lookup seg).getD 0) bytes) :: s.red.crcs.filter (·.1 != seg) } } else s
  if f = 136 then
    (if final then s.segReduced j seg b else { s with red := { s.red with phaseA := s.red.phaseA ++ [seg] } })
  else s

/-- A slice sent on: a forwarded flit, or one that begins here (R311). -/
def State.goOn (s : State) (forwarded : Bool) (ring dir : Nat) (f : Flit) : State :=
  if forwarded then s.passFlit ring dir f else s.sendFlit ring dir f

/-- One slice at this device (R307, R308): its contribution is added to what came, or to +0 at the origin, and the sums go on in
the direction of travel or are written by the owner. A poisoned contribution halts the job (R320); at the origin no port has received
anything. -/
def State.doSlice (s : State) (p j seg f : Nat) (b : Job) (w : Way) (incoming : Option Flit) : State :=
  match s.contribution seg f with
  | (s, none) => s.haltJob j (if incoming.isSome then p else 0) 0x0507
  | (s, some c) =>
    let dir := if w.east then 0 else 1
    let h : Header := match incoming with
      | some g => g.hdr
      | none => { s.header w.ring j with srcPos := w.c, last := f == 136, offset := (seg - b.firstSeg) * 16384 + 120 * f }
    let v := match incoming with
      | some g => g.payload.take (sliceLen f)
      | none => List.replicate (sliceLen f) 0
    let sums := addSlice v c
    let s := s.inc F.RED_FLITS_ADDED_COUNT
    let s := if incoming.isSome then s.count 0x0041 p 1 else s
    let s := match newNaN v sums with
      | some i => s.nanLatch true h w.c (h.offset + i)
      | none => s
    let h := { h with added := h.added + 1, nan := h.nan || (newNaN v sums).isSome, epoch := s.ringEpoch w.ring }
    if w.c = w.o then
      let s := if (incoming.elim false fun g => g.hdr.nan) then s.nanLatch false h h.srcPos (h.offset + (sums.findIdx? isNaN32).getD 0) else s
      s.ownerWrite j seg f b w sums
    else s.goOn incoming.isSome w.ring dir ⟨h, sums ++ List.replicate (120 - sums.length) 0⟩

/-- Whether the device may add to a segment's slices on a ring: released here (R309), and phase A written for phase B (R315). -/
def State.mayAdd (s : State) (b : Job) (ring seg : Nat) : Bool :=
  s.red.released.contains seg && (b.dim != 2 || ring == 0 || s.red.phaseA.contains seg)

/-- The origin's coordinate (R307). -/
def Way.origin (w : Way) : Nat := if w.n = 1 then w.o else if w.east then (w.o + 1) % w.n else (w.o + w.n - 1) % w.n

/-! Rounds of a low-rank job (R328). -/

/-- Elements of a round's matrix. -/
def roundSize (b : Job) (r : Nat) : Nat := if r = 1 then b.segCount * b.rank else 16384 * b.rank
def roundSegs (b : Job) (r : Nat) : Nat := (roundSize b r + 16383) / 16384

def State.low (s : State) (j : Nat) : Option LowRank := s.red.low.find? fun e => e.job == j
def State.setLow (s : State) (e : LowRank) : State :=
  { s with red := { s.red with low := s.red.low.filter (·.job != e.job) ++ [e] } }
def State.round (s : State) (j : Nat) : Nat := s.g (F.RED_JOB_STATUS_ROUND j)

/-- The header of a round's flit. -/
def State.roundHeader (s : State) (ring j r v k phase : Nat) : Header :=
  { s.header ring j with phase := phase, last := k == 136, offset := r * 2 ^ 38 + v * 16384 + 120 * k }

/-- A virtual segment's sums are complete at their owner: they are gathered to every device (R316, R328). -/
def State.roundSummed (s : State) (j r v : Nat) (b : Job) (e : LowRank) : State :=
  let vals := (e.part.drop (16384 * v)).take 16384
  let s := (s.setLow { e with sums := e.sums ++ [(v, vals)] }).inc F.RED_SEGS_REDUCED_COUNT
  let fl (ring : Nat) : List Flit := (List.range 137).map fun k =>
    let l := (vals.drop (120 * k)).take 120
    ⟨{ s.roundHeader ring j r v k 1 with srcPos := s.coord ring, added := 1 }, l ++ List.replicate (120 - l.length) 0⟩
  b.rings.reverse.foldl (fun s g => s.sendAround g (fl g)) s

/-- One slice of a virtual segment at this device. -/
def State.doRound (s : State) (p j r v k : Nat) (b : Job) (w : Way) (e : LowRank) (incoming : Option Flit) : State :=
  let dir := if w.east then 0 else 1
  let at' := 16384 * v + 120 * k
  let c := (e.part.drop at').take (sliceLen k)
  let h : Header := match incoming with
    | some g => g.hdr
    | none => { s.roundHeader w.ring j r v k 0 with srcPos := w.c }
  let x := match incoming with
    | some g => g.payload.take (sliceLen k)
    | none => List.replicate (sliceLen k) 0
  let sums := addSlice x c
  let s := s.inc F.RED_FLITS_ADDED_COUNT
  let s := if incoming.isSome then s.count 0x0041 p 1 else s
  let s := match newNaN x sums with
    | some i => s.nanLatch true h w.c (h.offset + i)
    | none => s
  let h := { h with added := h.added + 1, nan := h.nan || (newNaN x sums).isSome, epoch := s.ringEpoch w.ring }
  if w.c = w.o then
    let s := if (incoming.elim false fun g => g.hdr.nan) then s.nanLatch false h h.srcPos (h.offset + (sums.findIdx? isNaN32).getD 0) else s
    let s := s.ownerNote j v k b sums
    let vals := (ownerValues b.nanMode sums).1
    let e := { e with part := e.part.take at' ++ vals ++ e.part.drop (at' + vals.length) }
    if k ≠ 136 then s.setLow e
    else if w.ring = b.lastRing then s.roundSummed j r v b e
    else s.setLow { e with phaseA := e.phaseA ++ [v] }
  else s.goOn incoming.isSome w.ring dir ⟨h, sums ++ List.replicate (120 - sums.length) 0⟩

/-- Virtual segments originated on a ring by this device, each once (R307, R328). -/
def State.originRound (s : State) (j r : Nat) (b : Job) (ring : Nat) : State :=
  (List.range (roundSegs b r)).foldl (fun s v =>
    match s.low j with
    | none => s
    | some e =>
      let w := s.way b.dim ring v
      if w.c = w.origin ∧ !e.origin.contains (ring, v) ∧ (b.dim ≠ 2 ∨ ring = 0 ∨ e.phaseA.contains v) then
        let s := s.setLow { e with origin := e.origin ++ [(ring, v)] }
        (List.range 137).foldl (fun s k => match s.low j with
          | some e => s.doRound (portOf ring (if w.east then 1 else 0)) j r v k b w e none
          | none => s) s
      else s) s

/-- Round `r` begins with this device's matrix (R326). -/
def State.beginRound (s : State) (j r : Nat) (b : Job) (e : LowRank) (l : List Nat) : State :=
  let part := l ++ List.replicate (16384 * roundSegs b r - l.length) 0
  let s := (s.setLow { e with part := part, origin := [], phaseA := [], sums := [] }).set (F.RED_JOB_STATUS_ROUND j) r
  b.rings.foldl (fun s g => s.originRound j r b g) s

/-- A gathered flit of a round (R316, R328): its values kept, and the flit passed on. -/
def State.roundTake (s : State) (p : Nat) (f : Flit) (b : Job) (e : LowRank) : State :=
  let h := f.hdr
  let o := h.offset % 2 ^ 38
  let v := o / 16384
  let k := o % 16384 / 120
  let old := (e.sums.lookup v).getD []
  let vals := old.take (120 * k) ++ f.payload.take (sliceLen k)
  let s := s.setLow { e with sums := e.sums.filter (·.1 != v) ++ [(v, vals)] }
  let ring := portRing p
  let dir := 1 - p % 2
  let n := s.g (ringSizeF ring)
  let reach := if dir = 0 then n / 2 else (n - 1) / 2
  let s := if h.added < reach then s.passFlit ring dir { f with hdr := { h with added := h.added + 1, epoch := s.ringEpoch ring } } else s
  if b.dim = 2 ∧ ring = 1
  then s.sendAround 0 [{ f with hdr := { h with ring := 0, added := 1, srcPos := s.coord 0, epoch := s.ringEpoch 0 } }] else s

/-- Whether every virtual segment of the running round is held. -/
def LowRank.full (e : LowRank) (b : Job) (r : Nat) : Bool :=
  (List.range (roundSegs b r)).all fun v => ((e.sums.lookup v).getD []).length == 16384

/-! Checks (R313, R315, R316, R318). -/

/-- ADDED, SRC_POS and port of a reduce-scatter flit (R313). -/
def wayOk (w : Way) (p : Nat) (h : Header) : Bool :=
  decide (1 ≤ h.added) && decide (h.added < w.n)
    && h.srcPos == (if w.east then (w.c + w.n - h.added % w.n) % w.n else (w.c + h.added) % w.n)
    && p % 2 == (if w.east then 1 else 0)

/-- ADDED, SRC_POS and port of a gather flit: the owner is ADDED places behind in the direction of travel (R313, R316). -/
def gatherWayOk (n c : Nat) (p : Nat) (h : Header) : Bool :=
  let east := p % 2 == 1
  let reach := if east then n / 2 else (n - 1) / 2
  decide (1 ≤ h.added) && decide (h.added ≤ reach)
    && h.srcPos == (if east then (c + n - h.added % n) % n else (c + h.added) % n)

/-- R313 by the flit's kind, for a job of RINGPLAN: a flit's ring is that of its port (R315). -/
def State.placeOk (s : State) (p : Nat) (f : Flit) (b : Job) : Bool :=
  let h := f.hdr
  let ring := portRing p
  let n := max 1 (s.ringSize ring)
  match h.kind with
  | .slice =>
    let seg := b.firstSeg + h.offset / 16384
    ring == h.ring && b.rings.contains ring && decide (h.offset / 16384 < b.segCount) && h.offset % 16384 % 120 == 0 && b.mode == 0
      && wayOk (s.way b.dim ring seg) p h && (b.dim != 2 || ring == 0 || s.ownsPhase 2 0 seg)
  | .gather =>
    let seg := b.firstSeg + h.offset / 16384
    let len := (s.groupOf seg).elim 0 s.gatherLenOf
    ring == h.ring && b.rings.contains ring && decide (h.offset / 16384 < b.segCount) && h.offset % 16384 % 120 == 0
      && decide (4 * (h.offset % 16384) < len) && gatherWayOk n (s.coord ring) p h
      && h.srcPos == (s.way b.dim ring seg).o
  | .round r sum =>
    let o := h.offset % 2 ^ 38
    ring == h.ring && b.mode == 1 && b.rings.contains ring && decide (r ≤ 2) && decide (o / 16384 < roundSegs b r) && o % 16384 % 120 == 0
      && (if sum then wayOk (s.way b.dim ring (o / 16384)) p h && (b.dim != 2 || ring == 0 || s.ownsPhase 2 0 (o / 16384))
          else gatherWayOk n (s.coord ring) p h && h.srcPos == (s.way b.dim ring (o / 16384)).o)
  | .digest => ring == h.ring && decide (1 ≤ h.added) && decide (h.added < n)
      && h.srcPos == (s.coord ring + n - h.added % n) % n && p % 2 == 1 && h.offset % 2 ^ 38 == 0
  | .skip => decide (h.srcPos < n) && b.nanMode == 1

/-! Admission (R24, R241, R317, R318). -/

inductive Admit where
  | now
  | hold
  | drop
  deriving DecidableEq, Repr

/-- Where a flit's step and attempt place it. -/
def State.gate (s : State) (h : Header) : Admit :=
  let step := s.workStep % 2 ^ 32
  let att := s.workAttempt % 16
  let next := s.g F.STEP_NUMBER_NUMBER % 2 ^ 32
  if h.kind = .gather then
    if h.gkind = 1 then (if s.stepState = stREGATHER ∧ h.step = next then .now else if h.step = next then .hold else .drop)
    else if h.gkind = 2 then (if s.on F.UPD_STATUS_HEALING then .now else .hold)
    else if h.gkind = 3 then (if s.g F.DBG_REPLAY_STATUS_STATE = 1 then .now else .hold)
    else if h.step = next then .now
    else if h.step = (next + 1) % 2 ^ 32 then .hold else .drop
  else if s.tilesRun ∧ h.step = step ∧ h.attempt = att then .now
  else if s.g F.DBG_REPLAY_STATUS_STATE = 1 ∧ h.step = step ∧ h.attempt = att then .hold
  else if s.stepOpen then
    (if (h.step = (next + 1) % 2 ^ 32 ∧ h.attempt = 0) ∨ (h.step = next ∧ h.attempt = (att + 1) % 16) then .hold else .drop)
  else if h.step = next ∧ h.attempt = s.g F.STEP_STATUS_ATTEMPT % 16 then .hold
  else .drop

/-- A flit kept in the receive buffer, its credit with it (R270). -/
def State.holdFlit (s : State) (p : Nat) (f : Flit) : State := { s with red := { s.red with held := s.red.held ++ [⟨p, f⟩] } }

/-- Whether a held flit is of a flit's channel at its port: what comes later on the channel waits behind it (R268, R309). -/
def sameQueue (p : Nat) (f : Flit) (e : HeldFlit) : Bool := e.port == p && e.flit.hdr.channel == f.hdr.channel

/-- SKIP and the passing on of a notice (R323): one that has come back to its origin ends. -/
def State.takeNotice (s : State) (p : Nat) (f : Flit) : State :=
  let ring := portRing p
  let dir := 1 - p % 2
  if f.hdr.srcPos = s.coord ring then
    let s := { s with red := { s.red with noticeOut := s.red.noticeOut.filter (· != (ring, dir)) } }
    s.set F.RED_STATUS_NOTICE_OUT (if s.red.noticeOut.isEmpty then 0 else 1)
  else
    let s := s.recordSkip f.hdr.job [ring]
    s.passFlit ring dir { f with hdr := { f.hdr with epoch := s.ringEpoch ring } }

/-- What the digest comparison does with a flit is told by the caller; the rest of the kinds is dealt with here. The credit of
the flit returns unless it is held. -/
def State.deliver (s : State) (digest : Nat → Flit → State → State) (p : Nat) (f : Flit) : State :=
  let h := f.hdr
  let free (s : State) : State := s.freeCredit p h.channel
  if h.digest ≠ s.digest64 then free (s.mismatch h.job p h.digest)
  else
    match s.job h.job with
    | none => free (s.haltJob h.job p 0x0505)
    | some b =>
      if s.halted h.job then free s
      else if h.channel ≠ b.channel ∨ !s.placeOk p f b then free (s.haltJob h.job p 0x0505)
      else
        match h.kind with
        | .slice =>
          let seg := b.firstSeg + h.offset / 16384
          let ring := portRing p
          if s.mayAdd b ring seg then
            free ((s.doSlice p h.job seg (h.offset % 16384 / 120) b (s.way b.dim ring seg) (some f)).refreshJob h.job)
          else s.holdFlit p f
        | .gather => free (s.gatherTake p f)
        | .round r sum =>
          let o := h.offset % 2 ^ 38
          match s.low h.job with
          | none => s.holdFlit p f
          | some e =>
            if s.round h.job ≠ r
                ∨ (sum ∧ b.dim = 2 ∧ portRing p = 1 ∧ !e.phaseA.contains (o / 16384)) then s.holdFlit p f
            else if sum then
              let s := s.doRound p h.job r (o / 16384) (o % 16384 / 120) b (s.way b.dim (portRing p) (o / 16384)) e (some f)
              free (if b.dim = 2 then s.originRound h.job r b 1 else s)
            else free (s.roundTake p f b e)
        | .digest => free (digest p f s)
        | .skip => free (s.takeNotice p f)

/-- A flit past the link layer: it waits behind a held one of its channel (R268, R309); a device OUT_OF_STEP only forwards it, as it is
(R258, log entry 60); otherwise its step admits it, keeps it, or sends it away (R318). -/
def State.takeFlit (s : State) (digest : Nat → Flit → State → State) (p : Nat) (f : Flit) : State :=
  if s.red.held.any (sameQueue p f) then s.holdFlit p f
  else if s.stepState = stOUT then (s.passFlit (portRing p) (1 - p % 2) f).freeCredit p f.hdr.channel
  else match s.gate f.hdr with
  | .now => s.deliver digest p f
  | .hold => s.holdFlit p f
  | .drop => s.freeCredit p f.hdr.channel

/-- Every held flit looked at again, in order of arrival (R24, R241, R309). -/
def State.retryHeld (s : State) (digest : Nat → Flit → State → State) : State :=
  s.red.held.foldl (fun s e => s.takeFlit digest e.port e.flit) { s with red := { s.red with held := [] } }

/-- A data flit past the link layer (R285, R289, R291, R318). -/
def State.enterFlit (s : State) (digest : Nat → Flit → State → State) (p : Nat) (back : Bool) (f : Flit) : State :=
  if f.hdr.epoch ≠ s.ringEpoch (portRing p) then (s.discard p).freeCredit p f.hdr.channel
  else if s.ringState (portRing p) = ringRECOVERING then s.freeCredit p f.hdr.channel
  else
    match s.side p back with
    | some q => s.takeFlit digest q f
    | none => (s.portPass (oppositePort p) f).freeCredit p f.hdr.channel

/-- A sequenced data flit at a ring port (R267, R271, R498). -/
def State.dataFlit (s : State) (digest : Nat → Flit → State → State) (p : Nat) (back : Bool) (f : Flit) : State :=
  match s.arrive p f.hdr.seq with
  | (s, false) => s
  | (s, true) =>
    let s := s.holdCredit p f.hdr.channel
    if s.frozen then s.keepFrozen p back (.data f) else s.enterFlit digest p back f

end Sys2Proof.Machine
end

