-- ==== Sys2Proof/Machine/UpdOps.lean ====
section
/-!
DEFINITION. The update units' work (spec 11_update_units.md R333 to R361): programs, working copies, late groups, replica digests,
and the low-rank sequence of 10_gradient_reduction.md R325 to R328.
-/
namespace Sys2Proof.Machine

/-! Versions: a replay reads the inactive version and writes none (R243, R510). -/

def State.readVersion (s : State) : Nat := if s.replaying then 1 - s.version else s.version
def State.writeVersion (s : State) : Nat := 1 - s.version

/-- The code under which a failed access of an update unit is recorded (R353, R361): one of a host access, or a poisoned one. -/
def updCode (c : Nat) : Nat := if c = 0x0707 ∨ c = 0x0708 then 0x0603 else 0x0601

/-- A write of an update unit to the inactive version; the first one clears PREV_VALID (R244). Nothing is written in a replay
(R510). One that fails is recorded against the attempt (R353). -/
def State.unitStore (s : State) (u seg : Nat) (p : Place) (l : List Byte) : State :=
  if s.replaying then s
  else
    match s.unitWrite u p l with
    | (s, 0) => s.set F.STEP_VERSION_PREV_VALID 0
    | (s, c) => s.updFault (updCode c) u seg

def State.setBusy (s : State) (u : Nat) (b : Bool) : State := s.setBit F.UPD_STATUS_BUSY u b

/-! Instructions (R341 to R343). -/

/-- The operand an instruction reads, for each of the 16,384 elements. -/
def URun.operand (r : URun) (hyper consts : Nat → Nat) (sel : Nat) : List Nat :=
  let all (x : Nat) : List Nat := List.replicate 16384 x
  let rows (l : List Nat) : List Nat := l.flatMap (List.replicate 128)
  let cols (l : List Nat) : List Nat := (List.replicate 128 l).flatten
  if sel < 0x10 then Sparse.get (all 0) sel r.v
  else if sel < 0x20 then all (hyper (sel - 0x10))
  else if sel < 0x60 then all (consts (sel - 0x20))
  else if sel = 0x60 then r.inp.g
  else if sel = 0x61 then r.inp.w
  else if sel ≤ 0x65 then r.inp.m.getD (sel - 0x62) (all 0)
  else if sel = 0x66 then rows (r.inp.factors.take 128)
  else if sel = 0x67 then cols ((r.inp.factors.drop 128).take 128)
  else if sel = 0x68 then all (r.inp.factors.getD 256 0)
  else if sel = 0x69 then rows (r.prev.take 128)
  else if sel = 0x6A then cols ((r.prev.drop 128).take 128)
  else if sel = 0x6B then all (r.prev.getD 256 0)
  else if sel = 0x6C then all (r.prev.getD 257 0)
  else all r.inp.t

/-- The arithmetic of R342. -/
def uArith (op a b c : Nat) : Nat :=
  match op with
  | 0x10 => add32 a b
  | 0x11 => sub32 a b
  | 0x12 => mul32 a b
  | 0x13 => fma32 a b c
  | 0x14 => max32 a b
  | 0x15 => min32 a b
  | 0x16 => neg32 a
  | 0x17 => abs32 a
  | 0x18 => flag32 (lt32 a b)
  | 0x19 => if eq32 a 0 then c else b
  | 0x20 => exp2_32 a
  | 0x21 => log2_32 a
  | 0x22 => rcp32 a
  | 0x23 => rsqrt32 a
  | _ => sqrt32 a

def uIsArith (op : Nat) : Bool := (decide (0x10 ≤ op) && decide (op ≤ 0x19)) || (decide (0x20 ≤ op) && decide (op ≤ 0x24))

/-- Terms of a target in the pass, in the order of R339 for a given order of elements. -/
def accTerms (acc : List (Nat × List Nat)) (target : Nat) (elems : List Nat) : List Nat :=
  let vs := (acc.filter (·.1 == target)).map (·.2)
  elems.flatMap fun e => vs.map fun v => v.getD e 0

def finalOf (p : Option Pair) : Nat := (p.map Pair.final).getD 0

/-- The accumulators that a segment-scope pass leaves, finalised: rows, columns, totals (R339). -/
def URun.finals (r : URun) : List Nat :=
  (List.range 128).map (fun i => finalOf (Pair.ofList (accTerms r.acc 0 ((List.range 128).map fun c => 128 * i + c))))
    ++ (List.range 128).map (fun c => finalOf (Pair.ofList (accTerms r.acc 1 ((List.range 128).map fun i => 128 * i + c))))
    ++ [finalOf (Pair.ofList (accTerms r.acc 2 (List.range 16384))), finalOf (Pair.ofList (accTerms r.acc 3 (List.range 16384)))]

/-- The totals of a group-scope pass over all units (R339). -/
def State.groupTotals (s : State) (g pass : Nat) : List Nat :=
  let of (f : UTotals → Option Pair) : Nat :=
    let ps := (List.range 16).map fun u =>
      ((s.upd.totals.find? fun t => t.group == g && t.pass == pass && t.unit == u).bind f).getD ⟨0, 0⟩
    match ps with
    | [] => 0
    | p :: r => (r.foldl Pair.combine p).final
  List.replicate 256 0 ++ [of (·.tot0), of (·.tot1)]

/-- Values converted for a store (R343, R346): plane 0 is the master, 1 + k moment k. -/
def State.storeValues (s : State) (r : URun) (f : FloatFmt) (ovf : Nat) (stochastic : Bool) (plane : Nat) (l : List Nat) : List (Nat × Tally) :=
  let seed := s.plan.elim 0 (·.runSeed)
  if stochastic && f != binary32 then
    l.zipIdx.map fun e => toFloatStochastic f ovf (keyedWord seed r.inp.step (plane * 2 ^ 56 + r.seg * 16384 + e.2)) e.1
  else l.map (toFloat f ovf)

/-- A store counted under its group, and its trap (R343, R490, R492): `at'` gives the element of the segment that a value comes from. -/
def State.storeCount (s : State) (r : URun) (fmt dkind : Nat) (at' : Nat → Nat) (l : List (Nat × Tally)) : State :=
  let layer := (s.group r.group).elim 0 (·.layer)
  let oper := (s.numOf r.group).elim 0 (·.oper)
  let t := l.map (·.2)
  s.counted layer oper t ((firstNonFinite t).map fun e =>
    ⟨2, 0, 0, fmt, r.unit, layer, oper, at' e / 128, at' e % 128, dkind, r.seg, (l.getD e (0, .none)).1⟩)

/-- OUT_FMT code of a stored format. -/
def fmtCode (f : FloatFmt) : Nat := if f = fmtM24 then 7 else if f = fmtK16B then 5 else if f = fmtK16H then 6 else 4

/-- Where the planes of a run's output lie. -/
def State.outPlace (s : State) (r : URun) (off : Nat) : Option Place :=
  (s.partAt r.group (s.ownIndex r.group r.seg) s.writeVersion).map (·.plus off)

def State.storePlane (s : State) (r : URun) (off : Nat) (l : List Byte) : State :=
  match s.outPlace r off with
  | some p => s.unitStore r.unit r.seg p l
  | none => s

/-- A value followed by zeros to a whole sector. -/
def padSector (l : List Byte) : List Byte := l ++ List.replicate (64 - l.length) 0

/-- One instruction other than PASS and END on a run: the run after it, and its writes. -/
def State.uExec (s : State) (r : URun) (i : UInstr) : State × URun :=
  match s.group r.group with
  | none => (s, r)
  | some g =>
    let prog := s.progOf g
    let ovf := (s.numOf r.group).elim 0 fun e => modeOvfBit e.mode
    let get := r.operand (fun k => s.g (F.UPD_HYPER_VALUE k)) (fun k => prog.consts.getD k 0)
    let a := get i.a
    let r' := { r with pc := r.pc + 1 }
    if uIsArith i.op then
      let b := get i.b
      let c := get i.c
      let d := List.zipWith (fun p z => uArith i.op p.1 p.2 z) (a.zip b) c
      (s, { r' with v := Sparse.put [] i.dst d r.v })
    else if i.op = uACC then (s, { r' with acc := r.acc ++ [(i.md % 4, a)] })
    else if i.op = uSTW then
      let f := fmtOfMaster g
      let l := s.storeValues r f ovf (i.md % 2 == 1) 0 a
      let bytes := packPlane f (l.map (·.1))
      ((s.storePlane r 0 bytes).storeCount r (fmtCode f) 3 id l, { r' with out := Sparse.put [] 0 bytes r.out })
    else if i.op = uSTM then
      let f := fmtOfMoment g
      let k := i.md % 4
      let l := s.storeValues r f ovf (i.md / 4 % 2 == 1) (1 + k) a
      let bytes := packPlane f (l.map (·.1))
      ((s.storePlane r (momentOff g k) bytes).storeCount r (fmtCode f) 3 id l, { r' with out := Sparse.put [] (1 + k) bytes r.out })
    else if i.op = uSTF then
      let part := i.md % 4
      let at' (k : Nat) : Nat := if part = 0 then 128 * k else k
      let vals := (List.range (if part ≤ 1 then 128 else 1)).map fun k => a.getD (at' k) 0
      let l := vals.map (toFloat binary32 0)
      let off := factorOff g prog.instrs + 512 * part
      ((s.storePlane r off (padSector (wordBytes (l.map (·.1))))).storeCount r 4 3 at' l, r')
    else (s, r')
where
  modeOvfBit (m : Nat) : Nat := bitsOf m 4 4

/-! Runs (R337, R338). -/

/-- Index of the `p`-th PASS of a program. -/
def passPc (l : List UInstr) (p : Nat) : Nat :=
  (((l.zipIdx.filter fun e => e.1.op == uPASS).map (·.2)).getD p l.length)

/-- Number of passes. -/
def passCount (l : List UInstr) : Nat := l.countP fun i => i.op == uPASS

/-- The inputs of a run, read by the unit: none while host lines are awaited, or a failed read's code. -/
def State.uInputs (s : State) (u gi seg : Nat) (late : Option Nat) (ver : Nat) : State × Option (Except Nat UInputs) :=
  match s.group gi with
  | none => (s, none)
  | some g =>
    let prog := (s.progOf g).instrs
    let k := s.ownIndex gi seg
    let step := late.getD s.workStep
    let gsrc : State × Option (List Byte × Nat) := match late with
      | none =>
        let (s, l, c) := s.readPart (rqUPD + u) s.ring.redPart (65536 * seg) 65536
        (s, some (l, c))
      | some n => match s.pendingUnit gi (n % 5) k with
        | some p => s.unitRead u p 65536
        | none => (s, none)
    match gsrc, s.partAt gi k ver with
    | (s, some (gb, gc)), some p =>
      match s.unitRead u p (partBytes g prog) with
      | (s, some (rb, rc)) =>
        if gc ≠ 0 ∨ rc ≠ 0 then (s, some (.error (if gc ≠ 0 then gc else rc)))
        else
          let m := (List.range (momentCount prog)).map fun j =>
            unpackPlane (fmtOfMoment g) (sliceBytes rb (momentOff g j) (momentBytes g))
          (s, some (.ok ⟨wordsOf gb, unpackPlane (fmtOfMaster g) (sliceBytes rb 0 (masterBytes g)), m,
            if hasFactor prog then wordsOf (sliceBytes rb (factorOff g prog) 1028) else [], round32 (.fin false step 0), step⟩))
      | (s, none) => (s, none)
    | (s, _), _ => (s, none)

/-- The totals a unit adds at the end of a group-scope pass on a segment (R339). -/
def State.addTotals (s : State) (r : URun) : State :=
  let t := (s.upd.totals.find? fun t => t.group == r.group && t.pass == r.pass && t.unit == r.unit).getD
    ⟨r.group, r.pass, r.unit, none, none⟩
  let more (p : Option Pair) (l : List Nat) : Option Pair := match p with
    | none => Pair.ofList l
    | some p => some (l.foldl Pair.add p)
  let t := { t with tot0 := more t.tot0 (accTerms r.acc 2 (List.range 16384)), tot1 := more t.tot1 (accTerms r.acc 3 (List.range 16384)) }
  let rest := s.upd.totals.filter fun x => !(x.group == r.group && x.pass == r.pass && x.unit == r.unit)
  { s with upd := { s.upd with totals := rest ++ [t] } }

/-- Digest-log entry of a group whose owned segments have all been updated (R503). -/
def State.groupEntry (s : State) (gi : Nat) (g : Group) : State :=
  let own := s.ownedOf g
  let l := own.map fun k => (s.upd.crcs.find? fun e => e.1 == gi && e.2.1 == k).map (·.2.2)
  if !own.isEmpty && l.all Option.isSome then
    s.logEntry ⟨crcOfCrcs (l.map fun c => c.getD 0), g.layer, (s.numOf gi).elim 0 (·.oper), 2, 0, gi, 0, own.length, 0⟩
  else s

/-- A pass on a segment is over: totals, counts, its place in the step's work; after the last pass, the CRC of what it wrote. -/
def State.passEnd (s : State) (r : URun) (last : Bool) : State :=
  let s := (s.inc F.UPD_SEGS_UPDATED_COUNT).count 0x0050 r.unit 1
  let s := { s with upd := { s.upd with done := s.upd.done ++ [(r.group, r.seg, r.pass)] } }
  if last then
    let bytes : List Byte := r.out.foldr (fun e l => e.2 ++ l) []
    let s := { s with upd := { s.upd with crcs := s.upd.crcs ++ [(r.group, r.seg, crc64 bytes)] } }
    match s.group r.group with
    | some g => s.groupEntry r.group g
    | none => s
  else s

/-- A run's next instruction carried out: the run that goes on, or none when its pass (group scope) or program has ended. A
PASS starts the next pass with every V register +0 and the accumulators EMPTY (R343). -/
def State.uStep (s : State) (r : URun) : State × Option URun :=
  match s.group r.group with
  | none => (s, none)
  | some g =>
    let l := (s.progOf g).instrs
    match l[r.pc]? with
    | none => (s, none)
    | some i =>
      if i.op = uPASS then
        let p := ((l.take r.pc).countP fun i => i.op == uPASS)
        if groupScope l then
          if p = r.pass then (s, some { r with pc := r.pc + 1, v := [], acc := [] })
          else ((s.addTotals r).passEnd r false, none)
        else if p = 0 then (s, some { r with pc := r.pc + 1, v := [], acc := [] })
        else (s.passEnd r false, some { r with pc := r.pc + 1, pass := p, v := [], prev := r.finals, acc := [] })
      else if i.op = uEND then
        let s := if groupScope l then s.addTotals r else s
        (s.passEnd r true, none)
      else
        let (s, r) := s.uExec r i
        (s, some r)

/-- Steps of a run to the end of its pass or program; fuel is the number of instructions. -/
def State.uRun : Nat → URun → State → State
  | 0, _, s => s
  | n + 1, r, s => match s.uStep r with
    | (s, some r) => State.uRun n r s
    | (s, none) => s

/-- Whether a checkpoint has still to read a version (R411). -/
def State.ckptHolds (s : State) (v : Nat) : Bool :=
  s.host.queues.any fun e => e.2.cmd.elim false fun c => c.ckpt.reading == some v

/-- Whether pass `p` of a group's program may run on an owned segment of the open or replayed step (R337, R323, R411). -/
def State.passDue (s : State) (gi seg p : Nat) (g : Group) : Bool :=
  let l := (s.progOf g).instrs
  let own := s.ownedOf g
  let did (k q : Nat) : Bool := s.upd.done.contains (gi, k, q)
  s.working && s.tilesRun && !g.late && !s.on F.RED_STATUS_SKIP && own.contains seg && decide (p < passCount l) && !did seg p
    && !(s.upd.runs.any fun r => r.group == gi && r.seg == seg)
    && (s.replaying || !s.ckptHolds s.writeVersion)
    && (if groupScope l then
          own.all s.red.reduced.contains && (p == 0 || own.all fun k => did k (p - 1))
            && own.all fun k => !(decide (k < seg) && s.unitOf gi k == s.unitOf gi seg) || did k p
        else p == 0 && s.red.reduced.contains seg)

/-- A run made ready at a pass; a poisoned read records UPD_POISONED (R361), a failed host read UPD_HOST_ACCESS (R353). -/
def State.uStart (s : State) (gi seg p : Nat) (late : Option Nat) (ver : Nat) (g : Group) : State × Option URun :=
  let l := (s.progOf g).instrs
  let u := s.unitOf gi seg
  match s.uInputs u gi seg late ver with
  | (s, none) => (s, none)
  | (s, some (.error c)) => (s.updFault (updCode c) u seg, none)
  | (s, some (.ok inp)) =>
    (s, some ⟨u, gi, seg, p, late, if p = 0 then 0 else passPc l p, inp, [], [], if 0 < p then s.groupTotals gi (p - 1) else [], []⟩)

/-! Working copies (R347). -/

/-- The values of a master of a version, read by its unit; a failed read answers its code. -/
def State.masterValues (s : State) (gi seg ver : Nat) (g : Group) : State × Option (Except Nat (List Nat)) :=
  let k := s.ownIndex gi seg
  match s.partAt gi k ver with
  | none => (s, some (.error 0x0302))
  | some p =>
    match s.unitRead (s.unitOf gi seg) p (masterBytes g) with
    | (s, none) => (s, none)
    | (s, some (l, 0)) => (s, some (.ok (unpackPlane (fmtOfMaster g) l)))
    | (s, some (_, c)) => (s, some (.error c))

/-- A poisoned master being derived: recorded, and, but in a replay, held against every attempt until the shard is gathered again
(R361). -/
def State.spoilCopy (s : State) (kind c u seg : Nat) : State :=
  let s := s.updFault (updCode c) u seg
  if kind = 3 then s else { s with upd := { s.upd with spoiled := s.upd.spoiled <|> some (updCode c) } }

/-- A segment of a gather of some GKIND derived and sent, `pop` taking it from its queue (R347, R349); a poisoned master is sent as +0
(R361). -/
def State.derive (s : State) (kind seg : Nat) (pop : State → State) : State :=
  match (s.groupOf seg) with
  | none => s
  | some gi => match s.group gi with
    | none => s
    | some g =>
      match s.masterValues gi seg (if kind = 3 then 1 - s.version else s.version) g with
      | (s, none) => s
      | (s, some r) =>
        let s := pop s
        let (s, vals) : State × List Nat := match r with
          | .ok v => (s, v)
          | .error c => (s.spoilCopy kind c (s.unitOf gi seg) seg, List.replicate 16384 0)
        (s.dropLoose.sendCopy kind seg (deriveCopy (s.wcForm gi g) vals)).gatherEnd.regatherDone.refreshJobs

/-- The next own segment to derive and send (R317, R360): one of a heal, or the first of the gather whose job is not halted (R319). -/
def State.deriveDue (s : State) : Option (Nat × Nat × (State → State)) :=
  match s.upd.healQueue with
  | seg :: rest => some (2, seg, fun s => { s with upd := { s.upd with healQueue := rest } })
  | [] => (takeFirst (fun k => !(s.jobOf k).elim false s.halted) s.gather.queue).map fun e =>
    (s.gather.kind.getD 0, e.1, fun s => { s with gather := { s.gather with queue := e.2 } })

def State.deriveNext (s : State) : State :=
  match s.deriveDue with
  | some (kind, seg, pop) => s.derive kind seg pop
  | none => s

/-! Replica digests (R355 to R360). -/

/-- The working-copy bytes of a group. -/
def State.wcBytes (s : State) (gi : Nat) : List Byte :=
  match s.group gi with
  | none => []
  | some g => (List.range (g.segCount * s.gatherLenOf gi / 64)).flatMap fun i =>
    match s.partSector g.wcPart (s.wcBase gi / 64 + i) with
    | some a => s.mem.read a 64
    | none => List.replicate 64 0

def granulesOf (l : List Byte) : List Nat := (chunksOf 65536 (l.length / 65536 + 1) l).map crc64

/-- Members whose digests are awaited: (ring, members other than this device). -/
def State.digestRings (s : State) : List (Nat × Nat) :=
  (if s.torus then [0, 1] else [0]).map fun r => (r, max 1 (s.ringSize r) - 1)

def State.digestOf (s : State) (gi : Nat) : GroupDigest :=
  (s.upd.digests.find? fun d => d.group == gi).getD ⟨gi, none, [], [], [], false⟩
def State.setDigest (s : State) (d : GroupDigest) : State :=
  { s with upd := { s.upd with digests := s.upd.digests.filter (·.group != d.group) ++ [d] } }

def GroupDigest.differs (d : GroupDigest) : Bool := d.own.elim false fun o => d.received.any fun r => r.2.2 != o

/-- A group that is narrowed when it mismatches (R359). -/
def State.narrows (s : State) (gi : Nat) : Bool := s.on F.UPD_DIG_CTRL_NARROW_EN || (s.group gi).elim false (·.autoHeal)
/-- Mismatching groups in ascending order. -/
def State.mismatching (s : State) : List Nat :=
  (List.range s.ring.groups.length).filter fun g => (s.digestOf g).differs
/-- Those that are narrowed, with the groups that another device narrows: at most 64 for a comparison (R359). -/
def State.narrowSet (s : State) : List Nat :=
  ((List.range s.ring.groups.length).filter fun g => ((s.digestOf g).differs || !(s.digestOf g).heard.isEmpty) && s.narrows g).take 64

/-- A group found to mismatch: the first latches the report, and its error is logged (R358). -/
def State.digestNote (s : State) (gi pos : Nat) : State :=
  (s.latch F.UPD_DIG_REPORT_VALID F.UPD_DIG_REPORT_OVERFLOW
    [(F.UPD_DIG_REPORT_ORIGIN, pos), (F.UPD_DIG_REPORT_GROUP, gi), (F.UPD_DIG_REPORT_STEP, s.g F.STEP_NUMBER_NUMBER % 2 ^ 32),
      (F.UPD_DIG_REPORT_NARROWED, 0), (F.UPD_DIG_REPORT_HEALED, 0)]).logUpd 0x0602 0 0

/-- Segments of a group whose gather bytes overlap a granule of a set (R360). -/
def State.healSegs (s : State) (gi : Nat) (granules : List Nat) : List Nat :=
  match s.group gi with
  | none => []
  | some g =>
    let len := s.gatherLenOf gi
    g.segs.filter fun k => granules.any fun x => spansMeet ((k - g.firstSeg) * len) len (65536 * x) 65536

/-- Every group's digest is computed here, and those of every other member have come. -/
def State.digestCompared (s : State) : Bool :=
  (List.range s.ring.groups.length).all fun g =>
    let d := s.digestOf g
    d.own.isSome && s.digestRings.all fun r => decide (r.2 ≤ (d.received.filter (·.1 == r.1)).length)

/-- The comparison is over when every digest is here and every narrowing has been heard: it matched, which the commit boundary records
(R242), or the attempt fails (R358, R359). -/
def State.digestSettle (s : State) : State :=
  if !s.on F.UPD_STATUS_DIG_PENDING || !s.digestCompared then s
  else if s.mismatching.isEmpty then
    { s.set F.UPD_STATUS_DIG_PENDING 0 with upd := { s.upd with matched := true } }
  else
    let narrowed := s.narrowSet
    let total (g : Nat) : Nat := (granulesOf (s.wcBytes g)).length
    let heard := narrowed.all fun g =>
      let d := s.digestOf g
      d.sent && s.digestRings.all fun r =>
        decide (r.2 * total g ≤ ((d.heard.filter (·.1 == r.1)).map (·.2.2)).sum)
    if !heard then s
    else
      let rep := s.g F.UPD_DIG_REPORT_GROUP
      let gs := (s.digestOf rep).granules
      let s := if narrowed.contains rep && s.on F.UPD_DIG_REPORT_VALID then
        ((s.set F.UPD_DIG_REPORT_NARROWED 1).set F.UPD_DIG_GRANULES_FIRST (gs.foldl min (gs.headD 0))).set
          F.UPD_DIG_GRANULES_COUNT gs.length
        else s
      let heal := (narrowed.filter fun g => (s.group g).elim false (·.autoHeal)).map fun g => (g, s.healSegs g (s.digestOf g).granules)
      let s := { s with upd := { s.upd with heal := heal.filter fun e => !e.2.isEmpty } }
      (s.set F.UPD_STATUS_DIG_PENDING 0).recordFail 0x0602 0xFFFF

/-- The payload bytes of a digest flit (R357). -/
def comparePayload (gi crc : Nat) : List Byte :=
  bytesOf [1, 0, 0, 0] ++ leBytes 2 gi ++ leBytes 2 0 ++ leBytes 8 crc ++ List.replicate 464 0
def narrowPayload (gi first : Nat) (l : List Nat) : List Byte :=
  bytesOf [2, 0, 0, 0] ++ leBytes 2 gi ++ leBytes 2 0 ++ leBytes 8 0 ++ leBytes 4 first ++ leBytes 2 l.length
    ++ List.replicate 10 0 ++ l.flatMap (leBytes 8) ++ List.replicate (448 - 8 * l.length) 0

/-- A digest flit sent eastward on each ring (R356, R357). -/
def State.sendDigest (s : State) (gi : Nat) (payload : List Byte) : State :=
  match (s.group gi).bind fun g => s.jobOf g.firstSeg with
  | none => s
  | some j => s.digestRings.foldl (fun s r =>
      if r.2 = 0 then s
      else s.sendFlit r.1 0 ⟨{ s.header r.1 j with phase := 1, offset := 3 * 2 ^ 38, srcPos := s.coord r.1, added := 1 },
        wordsOf payload⟩) s

/-- A received digest flit (R357 to R359): compared with the device's own and forwarded eastward. -/
def State.takeDigest (p : Nat) (f : Flit) (s : State) : State :=
  let ring := portRing p
  let n := max 1 (s.ringSize ring)
  let l := wordBytes f.payload
  let gi := leAt l 4 2
  let pos := f.hdr.srcPos
  let d := s.digestOf gi
  let s := if f.hdr.added + 1 < n
    then s.passFlit ring 0 { f with hdr := { f.hdr with added := f.hdr.added + 1, epoch := s.ringEpoch ring } } else s
  if leAt l 0 1 = 1 then
    let crc := leAt l 8 8
    let s := s.setDigest { d with received := d.received ++ [(ring, pos, crc)] }
    (if d.own.isSome && d.own != some crc && !d.differs then s.digestNote gi pos else s).digestSettle
  else if leAt l 0 1 = 2 then
    let first := leAt l 16 4
    let count := leAt l 20 2
    let own := granulesOf (s.wcBytes gi)
    let diff := (List.range count).filterMap fun i =>
      if own.getD (first + i) 0 = leAt l (32 + 8 * i) 8 then none else some (first + i)
    let d := { d with granules := d.granules ++ diff.filter (fun x => !d.granules.contains x), heard := d.heard ++ [(ring, pos, count)] }
    (s.setDigest d).digestSettle
  else s

/-- The digests of every group computed, compared with what has come, and sent (R356). -/
def State.digestCompute (s : State) : State :=
  let s := (List.range s.ring.groups.length).foldl (fun s g =>
    let c := crc64 (s.wcBytes g)
    let d := s.digestOf g
    let s := (s.setDigest { d with own := some c }).sendDigest g (comparePayload g c)
    match d.received.find? fun r => r.2.2 != c with
    | some r => s.digestNote g r.2.1
    | none => s) s
  s.digestSettle

/-- Narrowing flits of every mismatching group that is narrowed and has not sent them (R359). -/
def State.narrowSend (s : State) : State :=
  let s := s.narrowSet.foldl (fun s g =>
    let d := s.digestOf g
    if d.sent then s
    else
      let gs := granulesOf (s.wcBytes g)
      let s := s.setDigest { d with sent := true }
      ((chunksOf 56 gs.length gs).zipIdx).foldl (fun s c => s.sendDigest g (narrowPayload g (56 * c.2) c.1)) s) s
  s.digestSettle

/-- Healing begins at the abort boundary after a narrowed mismatch (R360). -/
def State.healBegin (s : State) : State :=
  if s.upd.heal.isEmpty then s
  else
    let segs := s.upd.heal.flatMap (·.2)
    let s := { s with upd := { s.upd with healQueue := s.gatherOrder.filter segs.contains, healed := [] } }
    (s.set F.UPD_STATUS_HEALING 1).healDone

/-! Late groups (R350 to R352, R417, R418). -/

def State.pendingOf (s : State) (gi step : Nat) : Option Pending := s.upd.pending.find? fun p => p.group == gi && p.step == step
def State.setPending (s : State) (p : Pending) : State :=
  { s with upd := { s.upd with pending := s.upd.pending.filter (fun q => !(q.group == p.group && q.step == p.step)) ++ [p] } }

/-- Pods of a late group's set: count, own index, receiving partition (R417); one pod for SOURCE 0. -/
def State.podSet (s : State) (gi : Nat) : Nat × Nat × Nat :=
  match s.lateOf gi with
  | some e => if e.source = 0 then (1, 0, 0)
    else (s.g (F.ETH_PODS_COUNT e.podSet), s.g (F.ETH_PODS_SELF e.podSet), s.g (F.ETH_PODS_RX_PART e.podSet))
  | none => (1, 0, 0)

/-- The byte offset in RX_PART of a pod's copy (R417). -/
def State.podOffset (s : State) (gi step pod k : Nat) : Nat :=
  let e := s.lateOf gi
  let count := (s.podSet gi).1
  let before := ((List.range gi).map fun h =>
    if (s.lateOf h).elim false fun q => q.source == 1 && some q.podSet == e.map (·.podSet) then 5 * count * s.ring.maxOwn h else 0).sum
  65536 * (before + (step % 5 * count + pod) * s.ring.maxOwn gi + k)

/-- The delay of LATEGRP entry `k`, which UPD_LATE_ENTRY shows: 0 stands for the entry's own DELAY (R219, R351). It is held
under an offset past BAR0. -/
def F.UPD_LATE_DELAY (k : Nat) : Fld := ⟨0x4000000 + 4 * k, 0, 3, 0, .rwb, .dev⟩

/-- The delay of a late group in effect (R351). -/
def State.lateDelay (s : State) (gi : Nat) : Nat :=
  match (s.plan.elim [] fun p => p.late).findIdx? fun e => e.group == gi with
  | some k => if s.on (F.UPD_LATE_DELAY k) then s.g (F.UPD_LATE_DELAY k) else (s.lateOf gi).elim 1 (·.delay)
  | none => 1

/-- A segment's pending gradient written into its slot (R350). -/
def State.slotWrite (s : State) (gi step seg : Nat) (p : Pending) (l : List Byte) : State :=
  let u := s.unitOf gi seg
  match s.pendingUnit gi (step % 5) (s.ownIndex gi seg) with
  | none => s
  | some pl =>
    match s.unitWrite u pl l with
    | (s, 0) => s.setPending { p with summed := p.summed ++ [seg], own := p.own.filter (·.1 != seg) }
    | (s, c) => s.updFault (updCode c) u seg

/-- A segment's sum over the pods in ascending pod index (R354), formed once every other pod's copy has come, and copied into the slot
then (R350). -/
def State.podSum (s : State) (gi step seg : Nat) : State :=
  match s.pendingOf gi step with
  | none => s
  | some p =>
    match p.own.lookup seg with
    | none => s
    | some own =>
      let (count, self, part) := s.podSet gi
      if !((List.range count).all fun i => i == self || s.upd.podGot.contains (gi, step, seg, i)) then s
      else
        let u := s.unitOf gi seg
        let (s, vals, code) := (List.range count).foldl (fun (r : State × List Nat × Nat) i =>
          if i = self then (r.1, addSlice r.2.1 (wordsOf own), r.2.2)
          else
            let (s, l, c) := r.1.readPart (rqUPD + u) part (s.podOffset gi step i (s.ownIndex gi seg)) 65536
            (s, addSlice r.2.1 (wordsOf l), if c ≠ 0 then c else r.2.2)) (s, List.replicate 16384 0, 0)
        if code ≠ 0 then s.updFault 0x0601 u seg else s.slotWrite gi step seg p (wordBytes vals)

/-- Applications due when a step opens, in ascending step (R351). -/
def State.lateDue (s : State) : List (Nat × Nat) :=
  let m := s.g F.STEP_NUMBER_NUMBER
  (s.plan.elim [] fun p => p.late).flatMap fun e =>
    let l := (s.upd.pending.filter fun p => p.group == e.group && !p.applied && decide (p.step + s.lateDelay e.group ≤ m)).map (·.step)
    (l.foldr insertAsc []).map fun n => (e.group, n)

/-- Pending state at a commit boundary, or at an abort (a commit with SKIPPED counts as one, R352). -/
def State.lateBoundary (s : State) (commit : Bool) : State :=
  let l := if commit then (s.upd.pending.filter fun p => !p.applied).map fun p => { p with fresh := false }
    else (s.upd.pending.filter fun p => !p.fresh).map fun p => { p with applied := false }
  { s with upd := { s.upd with pending := l, due := [] } }

/-- PENDING of UPD_LATE_ENTRY. -/
def State.pendingCount (s : State) (gi : Nat) : Nat := (s.upd.pending.filter fun p => p.group == gi && !p.applied).length

/-! Low-rank mode (R325 to R327). -/

/-- Unit `k` of a MODE 1 job's low-rank state of a version: E rows, then Q (R335). -/
def State.lowPlace (s : State) (j ver k : Nat) (b : Job) : Option Place :=
  let before := ((s.ring.jobs.take j).filter fun x => x.group == b.group && x.mode == 1).map fun x => 2 * (x.segCount + x.rank)
  s.lowUnit b.group (before.sum + ver * (b.segCount + b.rank) + k)

/-- The values of a unit, read by its update unit: none while host lines are awaited, or a failed read's code. -/
def State.lowRead (s : State) (j ver k : Nat) (b : Job) : State × Option (Except Nat (List Nat)) :=
  match s.lowPlace j ver k b with
  | none => (s, some (.ok (List.replicate 16384 0)))
  | some p =>
    match s.unitRead (servingUnit p k) p 65536 with
    | (s, none) => (s, none)
    | (s, some (l, 0)) => (s, some (.ok (wordsOf l)))
    | (s, some (_, c)) => (s, some (.error c))

/-- Units `0` to `n - 1` of a job's version: all asked for, and their values once every one is here. -/
def State.lowUnits (s : State) (j ver : Nat) (b : Job) : Nat → State × Option (Except Nat (List (List Nat)))
  | 0 => (s, some (.ok []))
  | n + 1 =>
    match s.lowUnits j ver b n with
    | (s, r) =>
      match s.lowRead j ver n b, r with
      | (s, some (.ok x)), some (.ok l) => (s, some (.ok (l ++ [x])))
      | (s, some (.error c)), some (.ok _) => (s, some (.error c))
      | (s, some _), some (.error c) => (s, some (.error c))
      | (s, _), _ => (s, none)

def State.lowWrite (s : State) (j k : Nat) (b : Job) (l : List Nat) : State :=
  match s.lowPlace j s.writeVersion k b with
  | some p => s.unitStore (servingUnit p k) (b.firstSeg + k) p (wordBytes l)
  | none => s

/-- A sum of products by R74 in ascending index, finalised (R326). -/
def dot (xs ys : List Nat) : Nat := finalOf (Pair.ofList (List.zipWith mul32 xs ys))

/-- Columns of a row-major matrix of `r` columns. -/
def columnsOf (r : Nat) (l : List Nat) : List (List Nat) := (List.range r).map fun j => strided l r j
/-- Row-major values of columns. -/
def rowMajor (n : Nat) (cols : List (List Nat)) : List Nat := (List.range n).flatMap fun q => cols.map fun c => c.getD q 0

/-- Orthonormalised columns (R327). -/
def orthoCols : List (List Nat) → List (List Nat) → List (List Nat)
  | _, [] => []
  | hats, p :: r =>
    let p := hats.foldl (fun p h =>
      let d := dot h p
      List.zipWith (fun a x => fma32 (neg32 d) a x) h p) p
    let t := dot p p
    let hat := if lt32 0 t then p.map fun x => mul32 x (rsqrt32 t) else p.map fun _ => 0
    hat :: orthoCols (hats ++ [hat]) r

/-- The first value of Q (R325). -/
def qInit (seed j e k : Nat) : Nat :=
  let r := keyedWord seed 0 (j * 2 ^ 24 + e * 256 + k)
  round32 (.fin (decide ((r / 256 : Int) - 2 ^ 23 < 0)) (((r / 256 : Nat) : Int) - 2 ^ 23).natAbs (-23))

end Sys2Proof.Machine
end

