-- ==== Sys2Proof/Machine/StepOps.lean ====
section
/-!
DEFINITION. The opening of a step, its boundaries and the anchor's decision (spec 08_step_commit.md R237 to R261,
01_a_training_step.md R22, R23, 05_tile_instruction_streams.md R119, R120, R158, 16_debug_and_replay.md R485 to R507).
-/
namespace Sys2Proof.Machine

/-! Registers of a stream that the tile window shows. -/

def seqIDLE : Nat := 0
def seqISSUING : Nat := 1
def seqSTALLED : Nat := 2
def seqHALTED : Nat := 3

def State.seqState (s : State) (t n : Nat) : Nat := s.g (F.TILE_SEQ_STATUS_STATE t n)
def State.pc (s : State) (t n : Nat) : Nat := s.g (F.TILE_SEQ_STATUS_PC t n)

/-- The instruction at an index: indices past the program's count hold NOP (R207). -/
def State.wordAt (s : State) (t n i : Nat) : Nat := (s.plan.elim [] fun p => p.prog t n).getD i 0
/-- The instruction a stream issues next. -/
def State.nextWord (s : State) (t n : Nat) : Nat := s.wordAt t n (s.pc t n)

/-- The program counter moved, and the opcode there shown. -/
def State.setPc (s : State) (t n i : Nat) : State :=
  (s.set (F.TILE_SEQ_STATUS_PC t n) i).set (F.TILE_SEQ_STATUS_OPCODE t n) (opOf (s.wordAt t n i))

def State.stream (s : State) (t n : Nat) : Stream := (s.tile t).stream n
def State.setStream (s : State) (t n : Nat) (f : Stream → Stream) : State := s.setTile t fun x => x.setStream n f

/-- The stream in a state other than STALLED, whose STALL field means nothing. -/
def State.seqTo (s : State) (t n st : Nat) : State :=
  (s.set (F.TILE_SEQ_STATUS_STATE t n) st).set (F.TILE_SEQ_STATUS_STALL t n) 0

/-- The stream shown as stalled for a reason. -/
def State.stall (s : State) (t n reason : Nat) : State :=
  (s.set (F.TILE_SEQ_STATUS_STATE t n) seqSTALLED).set (F.TILE_SEQ_STATUS_STALL t n) reason

/-! Spans of the digest log. -/

/-- The open span of a stream, closed by a TAG or END or cut by a fault (R503). -/
def Stream.closeSpan (y : Stream) : Stream := { y with spans := y.spans.map fun p => { p with closed := true } }
def Stream.cutSpan (y : Stream) : Stream := { y with spans := y.spans.filter (·.closed) }
def Stream.openSpan (y : Stream) : Stream :=
  { y with spans := y.spans ++ [⟨y.seq, y.layer, y.oper, [], false⟩], seq := y.seq + 1 }


/-! Boundary-latched fields (R5, R487, R507). -/

/-- An RWB value that takes effect; a new counter selection clears its counter (R487). -/
def State.latchField (s : State) (f : Fld) (v : Nat) : State :=
  let s := s.set f v
  if 0xB1000 ≤ f.off ∧ f.off < 0xB1800 then
    let k := (f.off - 0xB1000) / 0x20
    ((s.set (F.DBG_CTR_STEP_COUNT k) 0).set (F.DBG_CTR_RUN_COUNT k) 0).set (F.DBG_CTR_ABORTED_COUNT k) 0
  else s

/-- Every shadow applied, the oldest first (R5, R22). -/
def State.applyShadow (s : State) : State :=
  s.shadow.foldl (fun s e => s.latchField e.1 e.2) { s with shadow := [] }

/-- Whether a key of the register file is that of an RWB field. -/
def rwbKey (k : Nat) : Bool :=
  decide (0x4000000 ≤ keyOff k)
    || (regAt (keyOff k)).elim false fun r => r.fields.any fun f => f.1 == k / 8 % 64 && f.2.2.2 == .rwb

/-- The RWB fields in effect, as what differs from reset (R507). -/
def State.rwbImage (s : State) : Sparse Nat := Sparse.keep rwbKey s.fld

/-- An image put into effect in place of the fields in effect. -/
def State.useImage (s : State) (image : Sparse Nat) : State :=
  { s with fld := image.foldl (fun l e => Sparse.ins e.1 e.2 l) (Sparse.keep (fun k => !rwbKey k) s.fld) }

/-! Counters (R485, R488, R489). -/

/-- The 64 counters closed at a boundary. -/
def closeCounters (commit : Bool) : Nat → State → State
  | 0, s => s
  | k + 1, s =>
    let s := closeCounters commit k s
    let v := s.g (F.DBG_CTR_STEP_COUNT k)
    let s := if commit then s.addTo (F.DBG_CTR_RUN_COUNT k) v else s.set (F.DBG_CTR_ABORTED_COUNT k) v
    s.set (F.DBG_CTR_STEP_COUNT k) 0

/-- The per-command counters of a scope closed: 0 to 3 a queue, 4 the step. -/
def closeCommand (scope : Nat) : Nat → State → State
  | 0, s => s
  | c + 1, s =>
    let s := closeCommand scope c s
    if s.g (F.DBG_CMD_SEL_SCOPE c) = scope then
      let q := s.g (F.DBG_CMD_LIVE_SEQ c)
      s.setAll [(F.DBG_CMD_LAST_COUNT c, s.g (F.DBG_CMD_LIVE_COUNT c)), (F.DBG_CMD_LAST_SEQ c, q),
        (F.DBG_CMD_LIVE_COUNT c, 0), (F.DBG_CMD_LIVE_SEQ c, q + 1)]
    else s

/-! The digest log and the numerics watch at a boundary (R491, R505). -/

def State.logBoundary (s : State) (commit : Bool) : State :=
  if !s.logOn then s
  else
    let s := { s with cap := { s.cap with fullLogged := false } }
    let open1 := s.on F.DBG_LOG_STATUS_OPEN_BANK
    let s := if commit then
        s.setAll [(F.DBG_LOG_STATUS_COMMITTED_COUNT, s.g F.DBG_LOG_STATUS_OPEN_COUNT),
          (F.DBG_LOG_STATUS_COMMITTED_FULL, s.g F.DBG_LOG_STATUS_OPEN_FULL), (F.DBG_LOG_STATUS_COMMITTED_VALID, 1),
          (F.DBG_LOG_STATUS_OPEN_BANK, bit (!open1)), (F.DBG_LOG_STEP_STEP, s.g F.STEP_NUMBER_NUMBER)]
      else s
    let s := (s.set F.DBG_LOG_STATUS_OPEN_COUNT 0).set F.DBG_LOG_STATUS_OPEN_FULL 0
    if open1 == commit then { s with cap := { s.cap with bank0 := [] } } else { s with cap := { s.cap with bank1 := [] } }

def State.watchBoundary (s : State) (kind : Nat) : State :=
  let w := s.num
  let s := { s with num := ⟨[], w.openKeys, w.openCounts, w.openKeys, false⟩ }
  s.setAll [(F.NUM_BANK_INFO_KIND, kind), (F.NUM_BANK_INFO_ATTEMPT, s.g F.STEP_STATUS_ATTEMPT),
    (F.NUM_BANK_INFO_STEP, s.g F.STEP_NUMBER_NUMBER)]

/-! Tiles. -/

/-- A tile register that an opening clears: sequencer status, event counters, busy and loading bits, bank, half and slot
states (R120). -/
def openingKey (k : Nat) : Bool :=
  let o := keyOff k
  let r := o % 0x10000
  keyDom k == Dom.tile.code && decide (0x1000000 ≤ o) && decide (o < 0x2000000)
    && (r == 0 || r == 8 || (decide (0x80 ≤ r) && decide (r < 0xC0)) || r == 0x440 || r == 0x448 || r == 0x450 || r == 0x460
        || ((r == 0x400 || r == 0x408) && (k / 8 % 64 == 31 || k / 8 % 64 == 24)))

/-- A tile at the opening of a step (R120): SRAM stays, and the arbiter's run of contested grants starts at 0 (log entry 80). -/
def Tile.opened (x : Tile) : Tile := { Tile.init with sram := x.sram, badSectors := x.badSectors, since := x.since }

/-- A stream with a program starts at its entry, in the first span of its digest log (R119, R503). -/
def State.startStream (s : State) (t n : Nat) : State :=
  if s.hasProgram t n then
    ((s.setStream t n Stream.openSpan).seqTo t n seqISSUING).setPc t n (s.plan.elim 0 fun p => p.entry t n)
  else s

/-- Every tile reset by R120 and its streams started (R119). -/
def State.startTiles (s : State) : State :=
  let s := { s with
    fld := Sparse.keep (fun k => !openingKey k) s.fld
    tiles := s.tiles.foldr (fun e l => Sparse.put Tile.init e.1 e.2.opened l) []
    mesh := [] }
  (List.range (s.plan.elim 0 fun p => p.tiles.length)).foldl (fun s t => (s.startStream t 0).startStream t 1) s

/-- Whether a stream stops where its tile stops issuing: not one that has ended, halted, or issued its END, which runs to completion (R158). -/
def State.mayStop (s : State) (t n : Nat) : Bool :=
  s.seqState t n == seqISSUING || (s.seqState t n == seqSTALLED && s.g (F.TILE_SEQ_STATUS_STALL t n) != 7)

/-- Both streams of a tile stop issuing, and what waits in them is cancelled (R158, R477). -/
def State.stopTile (s : State) (t : Nat) : State :=
  [0, 1].foldl (fun s n => if s.mayStop t n then s.seqTo t n seqIDLE else s) s

/-- Streams stop at an abort boundary (R158). -/
def State.stopTiles (s : State) : State :=
  (List.range (s.plan.elim 0 fun p => p.tiles.length)).foldl State.stopTile s

def Post.readsHalf (h : Nat) : Post → Bool
  | .halfRead k _ => k == h
  | _ => false

/-- Whether a flight may complete: its outside events have come and its blocks are in their halves; END after every earlier instruction of its stream (R135);
a releasing pass after every earlier pass on its half (R71). -/
def Tile.mayComplete (x : Tile) (f : Flight) : Bool :=
  f.ready && f.waiting.isEmpty && f.fills.isEmpty
    && !(f.post.contains .ending && x.flights.any fun g => g.stream == f.stream && decide (g.id < f.id))
    && f.post.all fun p =>
      match p with
      | .halfRead h true => !(x.flights.any fun g => decide (g.id < f.id) && g.post.any (Post.readsHalf h))
      | _ => true

/-- Whether a CHAININ of the tile is armed for a message. -/
def Tile.awaitsPair (x : Tile) (m : MeshMsg) : Bool :=
  x.flights.any fun f => f.op == 0x28 && !f.ready && (Sparse.get Bank.empty f.dst x.banks).chan == some m.chan

/-- R158 has run its course at every tile: nothing in flight can still complete, no host line is awaited, and every message that has a
place to go has been delivered. -/
def State.tilesSettled (s : State) : Bool :=
  (s.tiles.all fun e => e.2.flights.all fun f => f.waiting.isEmpty && !e.2.mayComplete f)
    && s.mesh.all fun m => m.chain && !(s.tile m.dstTile).awaitsPair m

/-- An armed loader goes on to install once the abort boundary's stops have run their course (R230). -/
def State.armSettle (s : State) : State :=
  if s.loader.due && s.tilesSettled then { s with loader := { s.loader with due := false } }.set F.CFG_STATUS_STATE 6 else s

/-! What belongs to one attempt. -/

/-- No job is halted any more (R319). -/
def State.clearHalts (s : State) : State :=
  s.jobs.foldl (fun s j => if s.halted j then s.set (F.RED_JOB_STATUS_STATE j) jobIDLE else s) s

/-- Jobs IDLE but for those that are halted, and the engines' work of the attempt forgotten (R331, R242): held flits and a gather in
progress stay. -/
def State.clearAttempt (s : State) : State :=
  let halts := s.jobs.filter s.halted
  let s := { s with
    red := { RedCtl.init with
      held := s.red.held, digestLatched := s.red.digestLatched, haltDue := s.red.haltDue, tails := s.red.tails.filter fun t => decide (2 ≤ t.kind) }
    upd := { s.upd with runs := [], done := [], totals := [], crcs := [], due := [], podSent := [], digests := [], matched := false }
    stp := { s.stp with failed := none, due := none, adone := [], segsNamed := [] } }
  let s := s.setAll [(F.RED_STATUS_SKIP, 0), (F.RED_STATUS_HALTED, bit (!halts.isEmpty)), (F.RED_STATUS_NOTICE_OUT, 0), (F.UPD_STATUS_BUSY, 0),
    (F.UPD_STATUS_DIG_PENDING, 0), (F.STEP_READY_MAP_READY, 0)]
  (s.jobs.foldl (fun s j => s.setAll [(F.RED_JOB_STATUS_STATE j, if halts.contains j then jobHALTED else jobIDLE),
    (F.RED_JOB_STATUS_ROUND j, 0), (F.RED_JOB_STATUS_REDUCED j, 0)]) s) |>.refreshJobs

/-! Opening (R237 to R241, R305, R351, R356, R409). -/

/-- The checks of R305, in its order: the code of the first case that holds. -/
def State.ringFault (s : State) : Option Nat :=
  let r := s.ring
  if r.jobs.isEmpty then none
  else if !s.on F.RED_COORD_VALID then some 0x0504
  else if r.topology = 0 ∧ s.g F.RED_COORD_A ≠ (if s.ringState 0 = ringBYPASSED then 0 else s.ringPos 0) then some 0x0504
  else if s.ringSize 0 ≠ r.sizeA ∨ (r.topology = 1 ∧ s.ringSize 1 ≠ r.sizeB) then some 0x0503
  else if r.topology = 0 ∧ r.jobs.any (fun j => j.dim == 1 || j.dim == 2) then some 0x0506
  else if s.ringSize 0 ≤ s.g F.RED_COORD_A ∨ (r.topology = 1 ∧ s.ringSize 1 ≤ s.g F.RED_COORD_B) then some 0x0504
  else none

/-- READY, FAIL or A_DONE of the open attempt, counted (R248, R250). -/
def State.countFrame (s : State) (f : StepFrame) : State :=
  if f.type = frameREADY then
    if f.originRing = 0 then s.setBit F.STEP_READY_MAP_READY f.originPos true else s
  else if f.type = frameFAIL then
    if s.isAnchor && s.stp.due.isNone then
      { s with stp := { s.stp with due := some (f.cause, f.detail, f.originPos, f.originRing) } }
    else s
  else if f.type = frameADONE then
    { s with stp := { s.stp with adone := if s.stp.adone.contains f.originPos then s.stp.adone else s.stp.adone ++ [f.originPos] } }
  else s

/-- Frames kept for the attempt that opens (R241, R252); those of an attempt that has ended go. -/
def State.countHeld (s : State) : State :=
  let n := s.g F.STEP_NUMBER_NUMBER
  let a := s.g F.STEP_STATUS_ATTEMPT
  let l := s.stp.held
  let s := { s with stp := { s.stp with held := l.filter fun e => decide (n < e.2.step) || (e.2.step == n && decide (a < e.2.attempt)) } }
  ((l.map (·.2)).filter fun f => f.step == n && f.attempt == a).foldl State.countFrame s

/-- The first block of the input of a step (R407). -/
def State.ingestLba (s : State) (n : Nat) : Nat :=
  s.g F.ETH_ING_BASE_LBA_BASE + n % max 1 (s.g F.ETH_ING_COUNT_COUNT) * s.g F.ETH_ING_CTRL_STEP_BLOCKS

/-- The reading of a step's input begun for a user (R407, R408): its half holds no step until the input is complete. -/
def State.ingestRead (s : State) (user n : Nat) : State :=
  let s := s.set (F.ETH_ING_HALF_STEP (n % 2)) 0
  s.issueNvme user (s.g F.ETH_ING_CTRL_CTRL) false (s.ingestLba n) (s.g F.ETH_ING_CTRL_STEP_BLOCKS) []

/-- An ingest read that fails (R409), on a queue pair. -/
def State.ingestFail (s : State) (qp : Nat) : State := ({ s with ingest := none }.logEth 0x0805 qp (s.qpPort qp)).recordFail 0x0805 0xFFFF

/-- The engine's reading of a step's input begun at an opening; a read that has not ended is given up. Without a namespace to read it
fails (R402, R409). -/
def State.ingestBegin (s : State) (n : Nat) : State :=
  let s : State := { s with ingest := some n, eth := { s.eth with ops := s.eth.ops.filter (·.user != 4) } }
  let ctrl := s.g F.ETH_ING_CTRL_CTRL
  if (s.space ctrl).isNone then s.ingestFail (ioPair ctrl) else s.ingestRead 4 n

/-- Ingest at an opening (R408, R409). -/
def State.ingestOpen (s : State) : State :=
  if !s.on F.ETH_ING_CTRL_EN then s
  else
    let n := s.g F.STEP_NUMBER_NUMBER
    let qp := ioPair (s.g F.ETH_ING_CTRL_CTRL)
    let s := s.ingestBegin (n + 1)
    if s.g (F.ETH_ING_HALF_STEP (n % 2)) = n then s else (s.logEth 0x0805 qp (s.qpPort qp)).recordFail 0x0805 0xFFFF

/-- What is recorded against an attempt from its first cycle: a host abort request (R254), the checks of R305, a job that halted while no
attempt was open (R319), an update error of the time before, and a working copy derived from a poisoned master (R361). -/
def State.openFaults (s : State) : State :=
  let s := if s.on F.STEP_STATUS_ABORT_PENDING then s.recordFail 0x0201 0xFFFF else s
  let s := match s.ringFault with
    | some c => (s.logRed c 0 0).recordFail c 0xFFFF
    | none => s
  let s := match s.red.haltDue with
    | some c => { s with red := { s.red with haltDue := none } }.recordFail c 0xFFFF
    | none => s
  let s := match s.upd.poison with
    | some (c, d) => { s with upd := { s.upd with poison := none } }.recordFail c d
    | none => s
  match s.upd.spoiled with
  | some c => s.recordFail c 0xFFFF
  | none => s

/-- A step opens (R240): the microbatch count latched, tiles started, and what is recorded against the attempt from its first
cycle. Flits that waited for it are not looked at yet. -/
def State.openNow (s : State) : State :=
  let s := { s.clearAttempt with num := { s.num with trapped := false } }
  let mb := s.g F.STEP_MB_COUNT_COUNT
  let s := { s with
    stp := { s.stp with mbCount := mb, openWaiting := false }
    images := { s.images with opening := s.rwbImage, openingMb := mb } }
  let s := ((s.set F.STEP_CTRL_OPEN 0).set F.STEP_STATUS_STATE stOPEN).startTiles
  let n := s.g F.STEP_NUMBER_NUMBER
  let s := { s with upd := { s.upd with due := s.lateDue } }
  let s := s.set F.UPD_STATUS_DIG_PENDING (bit (n % max 1 s.ring.digestInterval == 0 && !s.ring.groups.isEmpty))
  s.openFaults.ingestOpen.countHeld.refreshJobs

def State.openStep (s : State) : State := s.openNow.retryHeld State.takeDigest

/-! Boundaries (R22, R23, R251, R255). -/

/-- STEP_DECISION and what every boundary writes; `kind` 1 COMMIT, 2 ABORT. -/
def State.decision (s : State) (kind cause detail pos ring : Nat) (viaPoll : Bool) : State :=
  let a := s.g F.STEP_STATUS_ATTEMPT
  let s := s.setAll [(F.STEP_DECISION_KIND, kind), (F.STEP_DECISION_SKIPPED, if kind = 1 then s.g F.RED_STATUS_SKIP else 0),
    (F.STEP_DECISION_VIA_POLL, bit viaPoll), (F.STEP_DECISION_CAUSE_POS, pos), (F.STEP_DECISION_CAUSE_RING, ring),
    (F.STEP_DECISION_DETAIL, detail), (F.STEP_DECISION_CAUSE, cause), (F.STEP_DECISION_ATTEMPT, a),
    (F.STEP_BOUNDARY_TIME_TIME, s.time)]
  ((s.traceRec 0 0 (a + 256 * kind)).watchBoundary kind).raise 4

/-- The commit boundary in R22's order; no step opens after the commit that STEP_STOP_AT names or one reached through a poll
(R237). -/
def State.commitBoundary (s : State) (viaPoll : Bool) : State :=
  let n := s.g F.STEP_NUMBER_NUMBER
  let skipped := s.on F.RED_STATUS_SKIP
  let s := s.setAll [(F.STEP_VERSION_VERSION, 1 - s.version), (F.STEP_VERSION_PREV_VALID, 1)]
  let s := s.applyShadow
  let s := closeCommand 4 8 (closeCounters true 64 s)
  let s := (s.logBoundary true).decision 1 0 0 0 0 viaPoll
  let s := if s.upd.matched then s.set F.UPD_DIG_LAST_MATCH_STEP n else s
  let s := (s.lateBoundary (!skipped)).clearAttempt
  let s := { s with images := { s.images with committed := s.images.opening, committedMb := s.images.openingMb } }
  let s := s.setAll [(F.STEP_COMMITTED_NUMBER, n), (F.STEP_NUMBER_NUMBER, n + 1), (F.STEP_STATUS_ATTEMPT, 0), (F.STEP_STATUS_STATE, stCLOSED)]
  let s := s.inc F.STEP_COMMITS_COUNT
  let s := if viaPoll || n == s.g F.STEP_STOP_AT_STEP then s.refreshJobs else s.openNow
  (s.gatherBegin 0).retryHeld State.takeDigest

/-- All-gather flits kept for the boundary that an abort has replaced (R24). -/
def HeldFlit.nextGather (n : Nat) (e : HeldFlit) : Bool :=
  e.flit.hdr.kind == .gather && e.flit.hdr.gkind == 0 && e.flit.hdr.step == (n + 1) % 2 ^ 32

/-- The abort boundary (R23, R230, R239, R242, R251, R254); `poll` is the ATTEMPT that a poll's ABORT gives (R257). -/
def State.abortBoundary (s : State) (cause detail pos ring : Nat) (poll : Option Nat) : State :=
  let n := s.g F.STEP_NUMBER_NUMBER
  let wasOpen := s.stepOpen
  let s := { s with shadow := [] }
  let s := closeCommand 4 8 (closeCounters false 64 s)
  let s := (s.logBoundary false).decision 2 cause detail pos ring poll.isSome
  let drop := s.red.held.filter (HeldFlit.nextGather n)
  let s := drop.foldl (fun s e => s.freeCredit e.port e.flit.hdr.channel) s
  let s := { s with red := { s.red with held := s.red.held.filter fun e => !e.nextGather n } }
  let s := (if wasOpen then s.stopTiles else s : State).lateBoundary false
  let s := ({ s with red := { s.red with haltDue := none } } : State).clearHalts.clearAttempt
  let s := s.setAll [(F.STEP_STATUS_ATTEMPT, poll.getD (s.g F.STEP_STATUS_ATTEMPT + 1)), (F.STEP_STATUS_ABORT_PENDING, 0)]
  let s := (if wasOpen then s.set F.STEP_STATUS_STATE stCLOSED else s : State).inc F.STEP_ABORTS_COUNT
  let s := if s.g F.CFG_STATUS_STATE = 5 then { s with loader := { s.loader with due := true } } else s
  ((s.healBegin.refreshJobs).retryHeld State.takeDigest).armSettle

/-! The anchor (R250). -/

/-- The anchor's ABORT: decided, sent, and its own boundary reached. -/
def State.decideAbort (s : State) (cause detail pos ring : Nat) : State :=
  let s := s.sendAll { type := frameABORT, attempt := s.g F.STEP_STATUS_ATTEMPT, step := s.g F.STEP_NUMBER_NUMBER, cause := cause,
                       detail := detail, causePos := pos, causeRing := ring }
  s.abortBoundary cause detail pos ring none

/-- A FAIL that has come to the anchor in this command decides the attempt. -/
def State.settle (s : State) : State :=
  match s.stp.due with
  | some (c, d, p, r) => if s.stepOpen then s.decideAbort c d p r else { s with stp := { s.stp with due := none } }
  | none => s

/-- READY held from every position of ring A (R250). -/
def State.readyFull (s : State) : Bool :=
  (List.range (max 1 (s.ringSize 0))).all fun p => (s.g F.STEP_READY_MAP_READY).testBit p

/-- Under TOPOLOGY 1 a device that holds READY from its whole ring A says so on ring B, once (R248). -/
def State.noteAllReady (s : State) : State :=
  let p := if s.ringState 1 = ringBYPASSED then 0 else s.ringPos 1
  if s.torus && !s.alone && s.readyFull && s.stepOpen && !s.stp.adone.contains p then
    let f : StepFrame := { type := frameADONE, attempt := s.g F.STEP_STATUS_ATTEMPT, originPos := p, originRing := 1,
                           step := s.g F.STEP_NUMBER_NUMBER }
    (s.countFrame f).sendOn 1 f
  else s

/-- READY held from every member of the epoch, itself included (R248, R250). -/
def State.allReady (s : State) : Bool :=
  s.readyFull && (!s.torus || s.alone || (List.range (max 1 (s.ringSize 1))).all s.stp.adone.contains)

/-- The anchor's decision on what has come: a FAIL first, then COMMIT once every READY is held (R250). -/
def State.anchorDecide (s : State) : State :=
  let s := s.noteAllReady
  if s.stp.due.isSome then s.settle
  else if s.isAnchor && s.stepOpen && s.allReady && s.stepState != stFAIL then
    let s := s.sendAll { type := frameCOMMIT, attempt := s.g F.STEP_STATUS_ATTEMPT, step := s.g F.STEP_NUMBER_NUMBER }
    (s.commitBoundary false).settle
  else s

/-- The answer of a command that can record a failure against the attempt: as `doIf`, with the anchor's decision. -/
def act (c : Bool) (s : State) (k : State → State) : Res := doIf c s fun s => (k s).settle

/-- A flit at ring port `p` (R264 to R267, R271), where `up` says that the link carries such flits: its codewords are counted; one that is
lost draws a NAK, and one received whole goes to `k` as its 512 bytes. `fits` tells which flits are the row's. -/
def lineRow (up : Bool) (p : Nat) (rx : LineRx) (fits : List Byte → Bool) (s : State) (k : State → List Byte → State) : Res :=
  act (s.powered && decide (p < 4) && up && (s.heard p rx).all fits) s fun s =>
    match s.heard p rx with
    | none => (s.noteLine p rx).nak p
    | some b => k (s.noteLine p rx) b

end Sys2Proof.Machine
end

