-- ==== Sys2Proof/Machine/Steps.lean ====
section
/-!
DEFINITION. The commands of the step transaction controller: STEP_CTRL, READY, step frames, the anchor's timeout and the poll (spec
08_step_commit.md R237 to R261).
-/
namespace Sys2Proof.Machine

/-! STEP_CTRL (R238, R254, R258, R259, R261). -/

/-- A refused STEP_CTRL command (R261). -/
def State.stepRefuse (s : State) (code : Nat) : State := ((s.set F.STEP_CMD_RESULT_CODE code).raise 4).report code 0 0
/-- An accepted one. -/
def State.stepAccept (s : State) : State := s.set F.STEP_CMD_RESULT_CODE 0

/-- Whether some column is CRITICAL (R476, R477). -/
def State.anyCritical (s : State) : Bool := (List.range 5).any fun c => decide (3 ≤ s.g F.THM_STATUS_COLUMNS / 8 ^ c % 8)

/-- What an OPEN waits for: the loader's installation, a heal, a CRITICAL column (R238, R360, R477). -/
def State.openWaits (s : State) : Bool := !s.tilesSettled || s.g F.CFG_STATUS_STATE == 6 || s.on F.UPD_STATUS_HEALING || s.anyCritical

/-- The first case of R238's table that holds. -/
def State.openRefusal (s : State) : Option Nat :=
  let tiles := (List.range (s.plan.elim 0 fun p => p.tiles.length)).filter s.programmed
  if s.stepState = stOUT then some 0x0206
  else if s.stepState ≠ stCLOSED ∨ s.plan.isNone then some 0x0205
  else if tiles.any fun t => (s.g (F.STEP_FAILED_TILES_FAILED (t / 64))).testBit (t % 64) then some 0x0202
  else if tiles.any fun t => (s.g (F.CLU_STATUS_UNLOADED (t / 8))).testBit (t % 8) then some 0x0205
  else none

/-- An OPEN decided (R238). -/
def State.openDecided (s : State) : State :=
  let s := { s with stp := { s.stp with openWaiting := false } }.set F.STEP_CTRL_OPEN 0
  match s.openRefusal with
  | some c => s.stepRefuse c
  | none => s.stepAccept.openStep

def State.doOpen (s : State) : State :=
  if s.openWaits then { s with stp := { s.stp with openWaiting := true } }.set F.STEP_CTRL_OPEN 1 else s.openDecided

/-- ABORT_PENDING set; FAIL goes out for the open attempt, even after READY (R249, R254). -/
def State.doAbortReq (s : State) : State :=
  let s := s.stepAccept.set F.STEP_STATUS_ABORT_PENDING 1
  if s.stepState = stREADY then s.sendFail 0x0201 0xFFFF else if s.stepOpen then s.recordFail 0x0201 0xFFFF else s

/-- REGATHER (R259): every own segment is derived again, so what an earlier derivation found poisoned counts no more (R361). -/
def State.doRegather (s : State) : State :=
  if s.stepState ≠ stCLOSED then s.stepRefuse 0x0205
  else
    let s := (s.stepAccept.set F.STEP_STATUS_STATE stREGATHER).set F.STEP_CTRL_REGATHER 1
    let s := { s with upd := { s.upd with spoiled := none } }
    (s.gatherBegin 1).regatherDone.retryHeld State.takeDigest

/-- Whether ROLLBACK would be accepted (R258). -/
def State.rollbackOk (s : State) : Bool :=
  s.stepState == stOUT && s.on F.STEP_VERSION_PREV_VALID && s.stp.pollK.elim false fun k => s.g F.STEP_COMMITTED_NUMBER == k + 1

/-- ROLLBACK (R258). -/
def State.doRollback (s : State) : State :=
  if !s.rollbackOk then s.stepRefuse 0x0205
  else
    let k := s.g F.STEP_COMMITTED_NUMBER - 1
    s.stepAccept.forgetGathers.setAll [(F.STEP_VERSION_VERSION, 1 - s.version), (F.STEP_VERSION_PREV_VALID, 0),
      (F.STEP_COMMITTED_NUMBER, k), (F.STEP_NUMBER_NUMBER, k + 1), (F.STEP_STATUS_STATE, stCLOSED)]

/-- A write of one bit of STEP_CTRL by a master: masters other than 1 and 2 are ignored; during a freeze the write waits (R497). -/
def stepCtl (m value : Nat) (s : State) (k : State → State) : Res :=
  act (s.fromMaster m && (m == 1 || m == 2)) s fun s =>
    if s.frozen then { s with frozen' := { s.frozen' with writes := s.frozen'.writes ++ [(m, 0x10008, value)] } } else k s

def execOpenStep (m : Nat) (s : State) : Res := stepCtl m 1 s State.doOpen
def execAbortReq (m : Nat) (s : State) : Res := stepCtl m 2 s State.doAbortReq
def execRegather (m : Nat) (s : State) : Res := stepCtl m 4 s State.doRegather
def execRollback (m : Nat) (s : State) : Res := stepCtl m 8 s State.doRollback

/-- An OPEN that waited is decided once nothing holds it (R238). -/
def execDeferredOpen (s : State) : Res := act (s.working && s.stp.openWaiting && !s.openWaits) s State.openDecided

/-- A programmed tile that has not acknowledged the opening within 20 µs (R260). -/
def execTileOpenTimeout (t : Nat) (s : State) : Res :=
  act (s.working && s.stepOpen && s.programmed t && !(s.tile t).acked
    && !(s.g (F.STEP_FAILED_TILES_FAILED (t / 64))).testBit (t % 64)) s fun s => s.failTile t

/-! READY (R21, R121, R249, R324, R408). -/

/-- Every stream that has a program has executed END (R121). -/
def State.streamsEnded (s : State) : Bool :=
  (List.range (s.plan.elim 0 fun p => p.tiles.length)).all fun t =>
    [0, 1].all fun n => !s.hasProgram t n || (s.stream t n).ended

/-- Every job is REDUCED (R329). -/
def State.jobsReduced (s : State) : Bool := s.jobs.all fun j => (s.job j).elim true fun b => !s.halted j && s.jobDone j b

/-- The update programs of the step are finished: every pass on every owned segment, or the SKIP copy; the copies and
applications of late groups (R21, R323, R350, R351). -/
def State.updatesDone (s : State) : Bool :=
  (s.on F.RED_STATUS_SKIP && s.red.skipCopied || s.upd.due.isEmpty)
    && (s.ring.groups.zipIdx).all fun e =>
      let own := s.ownedOf e.1
      if e.1.late then own.all fun k => (s.pendingOf e.2 (s.g F.STEP_NUMBER_NUMBER)).elim false fun p => p.copied.contains k
      else s.on F.RED_STATUS_SKIP && s.red.skipCopied
        || own.all fun k => (List.range (passCount (s.progOf e.1).instrs)).all fun p => s.upd.done.contains (e.2, k, p)

/-- Skip notices sent have returned (R324). -/
def State.skipSettled (s : State) : Bool :=
  !s.on F.RED_STATUS_SKIP || (s.red.skipCopied && s.red.noticeOut.isEmpty && s.noticeRings.all s.red.noticeSent.contains)

/-- The next step's input is in place (R408). -/
def State.ingestDone (s : State) : Bool :=
  let n := s.g F.STEP_NUMBER_NUMBER
  !s.on F.ETH_ING_CTRL_EN || s.g (F.ETH_ING_HALF_STEP ((n + 1) % 2)) == n + 1

/-- Every condition of READY. -/
def State.readyDue (s : State) : Bool :=
  s.working && s.framesFlow && s.stepState == stOPEN && s.stp.failed.isNone && !s.on F.STEP_STATUS_ABORT_PENDING
    && s.streamsEnded && s.jobsReduced && s.updatesDone && !s.on F.UPD_STATUS_DIG_PENDING && s.skipSettled && s.ingestDone

/-- READY sent, on ring A (R248). -/
def State.sendReady (s : State) : State :=
  let pos := if s.ringState 0 = ringBYPASSED then 0 else s.ringPos 0
  let f : StepFrame := { type := frameREADY, attempt := s.g F.STEP_STATUS_ATTEMPT, originPos := pos, step := s.g F.STEP_NUMBER_NUMBER }
  (((s.set F.STEP_STATUS_STATE stREADY).sendOn 0 f).countFrame f).anchorDecide

def execSendReady (s : State) : Res := act s.readyDue s State.sendReady

/-- STEP_TIMEOUT milliseconds have passed at the anchor without a decision (R250). -/
def execStepTimeout (s : State) : Res :=
  act (s.working && s.isAnchor && s.stepOpen && s.on F.STEP_TIMEOUT_MS) s fun s => s.decideAbort 0x0203 0xFFFF 0 0

/-! The poll (R257, R258). -/

/-- A member's values, held once. -/
def State.pollValue (s : State) (pos committed attempt : Nat) (isOpen : Bool) : State :=
  if s.poll.values.any (·.1 == pos) then s
  else { s with poll := { s.poll with values := s.poll.values ++ [(pos, committed, attempt, isOpen)] } }

def State.sendPoll (s : State) : State :=
  s.sendOn s.poll.ring { type := framePOLL, attempt := s.g F.STEP_STATUS_ATTEMPT, originRing := s.poll.ring,
                         originPos := s.ringPos s.poll.ring, step := s.g F.STEP_NUMBER_NUMBER }

/-- Whether the device answers a poll: UP in its last epoch on the ring, and not OUT_OF_STEP. -/
def State.answers (s : State) (ring : Nat) : Bool := !(s.ringCtl ring).new && s.stepState != stOUT

/-- The step anchor of the new epoch begins the poll, its own values taken without a frame. -/
def State.pollBegin (s : State) (ring : Nat) : State :=
  let s := { s with poll := ⟨true, ring, []⟩ }
  let s := if s.answers ring
    then s.pollValue (s.ringPos ring) (s.g F.STEP_COMMITTED_NUMBER) (s.g F.STEP_STATUS_ATTEMPT) s.stepOpen else s
  s.sendPoll

/-- Positions of the answering members of a ring. -/
def State.answering (s : State) (ring : Nat) : List Nat :=
  (((s.ringCtl ring).members.zipIdx).filter fun e => !e.1.2).map (·.2)

/-- Every answering member's values are held. -/
def State.pollFull (s : State) : Bool := (s.answering s.poll.ring).all fun p => s.poll.values.any (·.1 == p)

/-- COMMIT for step K reached through a poll. -/
def State.pollCommit (s : State) (k : Nat) : State := if s.g F.STEP_COMMITTED_NUMBER + 1 = k then s.commitBoundary true else s

/-- OUT_OF_STEP (R258): a REGATHER that ran ends, and the device takes no part in its gather any more. -/
def State.goOut (s : State) : State :=
  let s := if s.gather.kind = some 1 then { s with gather := GatherCtl.init } else s
  (s.set F.STEP_CTRL_REGATHER 0).set F.STEP_STATUS_STATE stOUT

/-- What a poll settles at a member: ATTEMPT taken, an open step aborted, and STEP_COMMITTED compared with K (R257 items 5 and 6,
R258). -/
def State.pollSettle (s : State) (k attempt : Nat) : State :=
  let s := if s.stepOpen then s.abortBoundary 0x0204 0xFFFF 0 0 (some attempt) else s.set F.STEP_STATUS_ATTEMPT attempt
  let s := { s with stp := { s.stp with pollK := some k, polled := some (k, attempt) } }
  if s.g F.STEP_COMMITTED_NUMBER ≠ k then s.goOut
  else if s.stepState = stOUT then s.set F.STEP_STATUS_STATE stCLOSED else s

/-- The ABORT of a poll at a member: it settles the poll the first time it comes, from whichever direction, and the ring is UP (R288). -/
def State.pollAbort (s : State) (ring k attempt : Nat) : State :=
  let s := if s.stp.polled = some (k, attempt) then s else s.pollSettle k attempt
  if s.ringState ring = ringRECOVERING && (s.ringCtl ring).complete
  then (s.set (ringStateF ring) ringUP).setRingCtl ring (fun r => { r with new := s.stepState == stOUT }) else s

/-- The anchor closes the poll: K, A, COMMIT where some value is one step behind, then ABORT. -/
def State.doPollClose (s : State) : State :=
  let ring := s.poll.ring
  let l := s.poll.values
  let k := if l.isEmpty then s.g F.STEP_COMMITTED_NUMBER else (l.map (·.2.1)).foldl max 0
  let a := if l.isEmpty then s.g F.STEP_STATUS_ATTEMPT else ((l.filter (·.2.1 == k)).map (·.2.2.1)).foldl max 0
  let s := { s with poll := { s.poll with running := false } }
  let s := match l.find? fun v => v.2.1 + 1 == k with
    | some v => (s.sendBoth ring { type := frameCOMMIT, attempt := v.2.2.1, step := k }).pollCommit k
    | none => s
  let b := (a + 1) % 256
  (s.sendBoth ring { type := frameABORT, attempt := b, step := k + 1, cause := 0x0204, detail := 0xFFFF }).pollAbort ring k b

def execPollResend (s : State) : Res := act (s.working && s.poll.running && !s.pollFull) s State.sendPoll
/-- `timeout`: 150 µs have passed since the first POLL. -/
def execPollClose (timeout : Bool) (s : State) : Res := act (s.working && s.poll.running && (s.pollFull || timeout)) s State.doPollClose

/-! Step frames that arrive (R246 to R252). -/

/-- A frame on its way (R246, R248): in its direction of travel, and FAIL, COMMIT and ABORT of a torus once on each ring. -/
def State.passOn (s : State) (p : Nat) (f : StepFrame) : State :=
  let ring := portRing p
  let own := f.originRing == ring && f.originPos == s.ringPos ring
  let torusFrame := s.torus && (f.type == frameFAIL || f.type == frameCOMMIT || f.type == frameABORT)
  if !torusFrame then (if own then s else s.portSend (s.outPort (portOf ring (1 - p % 2))) (.step f))
  else
    let id (q : Nat) := (f.type, f.attempt, f.step, f.originRing, f.originPos, q)
    let other := 1 - ring
    if own || s.stp.seen.contains (id p) then s
    else
      let fresh := !([0, 1, 2, 3].any fun q => s.stp.seen.contains (id q))
      let ports := p :: (if fresh then [portOf other 0, portOf other 1] else [])
      let keep := s.stp.seen.filter fun e => decide (s.g F.STEP_NUMBER_NUMBER ≤ e.2.2.1 + 1)
      let s := { s with stp := { s.stp with seen := keep ++ ports.map id } }
      let s := s.portSend (s.outPort (portOf ring (1 - p % 2))) (.step f)
      if fresh then s.sendOn other f else s

/-- Whether a frame concerns the attempt open, or next to open, here. -/
def State.thisAttempt (s : State) (f : StepFrame) : Bool :=
  f.step == s.g F.STEP_NUMBER_NUMBER && f.attempt == s.g F.STEP_STATUS_ATTEMPT
def State.nextAttempt (s : State) (f : StepFrame) : Bool :=
  (f.step == s.g F.STEP_NUMBER_NUMBER + 1 && f.attempt == 0)
    || (f.step == s.g F.STEP_NUMBER_NUMBER && f.attempt == (s.g F.STEP_STATUS_ATTEMPT + 1) % 256)

/-- READY, FAIL or A_DONE from a ring: counted for the open attempt, kept for the next, discarded otherwise (R241, R250, R252). -/
def State.attemptFrame (s : State) (ring : Nat) (f : StepFrame) : State :=
  if s.stepOpen && s.thisAttempt f then (s.countFrame f).anchorDecide
  else if (!s.stepOpen && s.thisAttempt f) || (s.stepOpen && s.nextAttempt f) then { s with stp := { s.stp with held := s.stp.held ++ [(ring, f)] } }
  else s

/-- A READY or FAIL whose DIGEST64 differs counts as a FAIL with CONFIG_MISMATCH (R246). -/
def State.checkDigest (s : State) (p : Nat) (f : StepFrame) : State × StepFrame :=
  if f.digest = s.digest64 then (s, f)
  else (s.logRed 0x0501 p 0, { f with type := frameFAIL, cause := 0x0501, detail := 0xFFFF })

/-- A step frame that the logical ring brings to port `p`. A POLL_REPLY stops at the ring's anchor (R246). While a ring of the device
recovers, only its poll settles the open attempt (R285). A device alone is the only member of its attempts (R248). -/
def State.doFrame (s : State) (p : Nat) (f : StepFrame) : State :=
  let ring := portRing p
  if f.type = framePOLLREPLY then
    if s.g (ringAnchorF ring) ≠ s.serial then s.passOn p f
    else if s.poll.running && s.poll.ring == ring then s.pollValue f.originPos f.committed f.attempt f.isOpen else s
  else
    let own := f.originRing == ring && f.originPos == s.ringPos ring
    let s := s.passOn p f
    if own || (s.alone && s.ringUp ring && f.cause != 0x0204 && f.type != framePOLL) then s
    else if f.type = frameREADY ∨ f.type = frameFAIL then
      let (s, f) := s.checkDigest p f
      s.attemptFrame ring f
    else if f.type = frameADONE then (if ring = 1 then s.attemptFrame ring f else s)
    else if f.type = frameCOMMIT then
      if [0, 1].any fun r => s.ringState r == ringRECOVERING then s.pollCommit f.step
      else if s.stepOpen && s.thisAttempt f then s.commitBoundary false else s
    else if f.type = frameABORT then
      if f.cause = 0x0204 then s.pollAbort ring (f.step - 1) f.attempt
      else if s.thisAttempt f then s.abortBoundary f.cause f.detail f.causePos f.causeRing none else s
    else if s.answers ring then
      s.sendOn ring { type := framePOLLREPLY, attempt := s.g F.STEP_STATUS_ATTEMPT, originRing := ring, originPos := s.ringPos ring,
                      step := s.g F.STEP_NUMBER_NUMBER, committed := s.g F.STEP_COMMITTED_NUMBER, isOpen := s.stepOpen }
    else s

/-- A step frame past the link layer (R246, R285, R291). -/
def State.takeFrame (s : State) (p : Nat) (back : Bool) (f : StepFrame) : State :=
  let ring := portRing p
  if f.epoch ≠ s.ringEpoch ring then s.discard p
  else if !s.frameRing ring then s
  else
    match s.side p back with
    | some q => s.doFrame q f
    | none => s.portSend (oppositePort p) (.step f)

/-- A step frame at a ring port (R271, R498); `back` tells that it is on the return leg of a wrapped ring. -/
def State.frameArrives (s : State) (p seq : Nat) (back : Bool) (f : StepFrame) : State :=
  match s.arrive p seq with
  | (s, false) => s
  | (s, true) =>
    let s := s.freeFrame p
    if s.frozen then s.keepFrozen p back (.step f) else s.takeFrame p back f

/-- The frame row of one TYPE (R245). -/
def frameRow (type p : Nat) (back : Bool) (rx : LineRx) (s : State) : Res :=
  lineRow (s.lineUp p) p rx (fun b => (headerOf b).type == 1 && (StepFrame.ofBytes b).type == type) s fun s b =>
    s.frameArrives p (headerOf b).seq back (StepFrame.ofBytes b)

def execReadyFrame (p : Nat) (back : Bool) (rx : LineRx) (s : State) : Res := frameRow frameREADY p back rx s
def execFailFrame (p : Nat) (back : Bool) (rx : LineRx) (s : State) : Res := frameRow frameFAIL p back rx s
def execCommitFrame (p : Nat) (back : Bool) (rx : LineRx) (s : State) : Res := frameRow frameCOMMIT p back rx s
def execAbortFrame (p : Nat) (back : Bool) (rx : LineRx) (s : State) : Res := frameRow frameABORT p back rx s
def execADone (p : Nat) (back : Bool) (rx : LineRx) (s : State) : Res := frameRow frameADONE p back rx s
def execPoll (p : Nat) (back : Bool) (rx : LineRx) (s : State) : Res := frameRow framePOLL p back rx s
def execPollReply (p : Nat) (back : Bool) (rx : LineRx) (s : State) : Res := frameRow framePOLLREPLY p back rx s

end Sys2Proof.Machine
end

