-- ==== Sys2Proof/Machine/Loader.lean ====
section
/-!
DEFINITION. The configuration loader: staging, checks, arming, installation, claims (spec 07_configuration_bitstream.md R214, R222
to R235).
-/
namespace Sys2Proof.Machine

/-! Loader states (R226). -/

def ldEMPTY : Nat := 0
def ldSTAGING : Nat := 1
def ldSTAGED : Nat := 2
def ldCHECKING : Nat := 3
def ldREADY : Nat := 4
def ldARMED : Nat := 5
def ldINSTALLING : Nat := 6
def ldREJECTED : Nat := 7

def State.loaderState (s : State) : Nat := s.g F.CFG_STATUS_STATE
def State.loadState (s : State) (n : Nat) : State := s.set F.CFG_STATUS_STATE n
def State.setLoader (s : State) (f : LoaderCtl → LoaderCtl) : State := { s with loader := f s.loader }

/-- Boot states (SEC_STATUS.BOOT). -/
def bootROM : Nat := 0
def bootRUNNING : Nat := 1
def bootRECOVERY : Nat := 2
def State.boot (s : State) : Nat := s.g F.SEC_STATUS_BOOT

/-- A command not accepted: its code, and nothing else (R226, R236). -/
def State.cfgRefuse (s : State) (code : Nat) : State := (s.set F.CFG_STATUS_LAST_CODE code).report code 0 0

/-- A STAGE or CHECK that fails (R229). -/
def State.cfgReject (s : State) (e : ImgErr) : State :=
  (((s.setAll [(F.CFG_STATUS_LAST_CODE, e.code), (F.CFG_ERROR_CODE, e.code), (F.CFG_ERROR_TYPE, e.type), (F.CFG_ERROR_OFFSET, e.offset),
    (F.CFG_CMD_STAGE, 0), (F.CFG_CMD_CHECK, 0)]).loadState ldREJECTED).report e.code 0 (e.type * 2 ^ 32 + e.offset)).raise 5

/-- The device physical address of byte `k` of the shadow store (R214). -/
def shadowAddr (k : Nat) : Nat := mkDpa 4 7 (k / 2 ^ 23) (0x5800000 + k % 2 ^ 23)

/-- An image put into the shadow store, region after region. -/
def shadowWrite : Nat → Nat → List Byte → State → State
  | 0, _, _, s => s
  | _, _, [], s => s
  | n + 1, k, l, s => shadowWrite n (k + 2 ^ 23) (l.drop (2 ^ 23)) ((s.writeMem rqLOAD (shadowAddr k) (l.take (2 ^ 23))).1)

/-- The staged image as the shadow store holds it. -/
def State.shadowImage (s : State) : List Byte :=
  (List.range 64).flatMap fun r => s.mem.read (shadowAddr (r * 2 ^ 23)) (min (2 ^ 23) (s.loader.len - r * 2 ^ 23))

/-- A write of one bit of CFG_CMD by a master: masters other than 1 and 2 are ignored; the write waits during a freeze (R497). -/
def cfgCmd (m value : Nat) (s : State) (k : State → State) : Res :=
  act (s.fromMaster m && (m == 1 || m == 2)) s fun s =>
    if s.frozen then { s with frozen' := { s.frozen' with writes := s.frozen'.writes ++ [(m, 0x20008, value)] } } else k s

/-- STAGE (R227). -/
def State.doStage (s : State) : State :=
  let n := s.g F.CFG_SRC_LEN_LEN
  if !([ldEMPTY, ldSTAGED, ldREADY, ldREJECTED].contains s.loaderState) then s.cfgRefuse 0x0119
  else if n < 128 ∨ n % 64 ≠ 0 ∨ 536870912 < n then s.cfgRefuse 0x0103
  else
    let s := ((s.setAll [(F.CFG_STATUS_LAST_CODE, 0), (F.CFG_CMD_STAGE, 1)]).loadState ldSTAGING).setLoader fun _ => ⟨n, none, false⟩
    s.readHost (s.g F.CFG_SRC_ADDR_ADDR * 4096) n

/-- CHECK begins (R228); in RECOVERY it is not accepted (R436). -/
def State.doCheck (s : State) : State :=
  if s.loaderState ≠ ldSTAGED ∨ s.boot = bootRECOVERY then s.cfgRefuse 0x0119
  else (s.setAll [(F.CFG_STATUS_LAST_CODE, 0), (F.CFG_CMD_CHECK, 1)]).loadState ldCHECKING

/-- Whether a run-time holder holds what an OWNER table assigns to another function (R230). -/
def claimConflict (owners : List OwnerEntry) (c : OwnerEntry) : Bool :=
  owners.any fun e => e.res == c.res && e.inst == c.inst && !(e.owner == c.owner && e.arg == c.arg)

/-- ARM (R230). -/
def State.doArm (s : State) : State :=
  if s.loaderState ≠ ldREADY ∨ s.boot = bootRECOVERY then s.cfgRefuse 0x0119
  else if s.claims.any (claimConflict (s.loader.plan.elim [] fun p => p.owners)) then s.cfgRefuse 0x0118
  else (s.set F.CFG_STATUS_LAST_CODE 0).loadState (if s.stepOpen then ldARMED else ldINSTALLING)

def State.doDisarm (s : State) : State :=
  if s.loaderState ≠ ldARMED then s.cfgRefuse 0x0119 else ((s.set F.CFG_STATUS_LAST_CODE 0).loadState ldREADY).setLoader fun l => { l with due := false }

def State.doDiscard (s : State) : State :=
  if !([ldSTAGED, ldREADY, ldREJECTED].contains s.loaderState) then s.cfgRefuse 0x0119
  else ((s.set F.CFG_STATUS_LAST_CODE 0).loadState ldEMPTY).setLoader fun _ => LoaderCtl.init

def execStage (m : Nat) (s : State) : Res := cfgCmd m 1 s State.doStage
def execCheck (m : Nat) (s : State) : Res := cfgCmd m 2 s State.doCheck
def execArm (m : Nat) (s : State) : Res := cfgCmd m 4 s State.doArm
def execDisarm (m : Nat) (s : State) : Res := cfgCmd m 8 s State.doDisarm
def execDiscard (m : Nat) (s : State) : Res := cfgCmd m 16 s State.doDiscard

/-- The copy ends (R227): the bytes the host returned, or the offset of the first byte of a read that failed. -/
def State.stageEnd (s : State) (bytes : List Byte) (failed : Option Nat) : State :=
  match failed with
  | some off => s.cfgReject ⟨0x011A, 0, off⟩
  | none =>
    let img := sliceBytes bytes 0 s.loader.len
    let s := shadowWrite 64 0 img s
    ((s.setAll ((F.CFG_CMD_STAGE, 0) :: (List.range 4).map fun k => (F.CFG_STAGED_DIGEST_DIGEST k, leAt img (16 + 8 * k) 8))).loadState
      ldSTAGED).raise 5

def execStageComplete (bytes : List Byte) (failed : Option Nat) (s : State) : Res :=
  act (s.working && s.loaderState == ldSTAGING) s fun s => s.stageEnd bytes failed

/-- A mailbox binding as SENDER + 256 × RECEIVER. -/
def State.binding (s : State) (n : Nat) : Nat := s.g (F.MBX_BIND_SENDER n) + 256 * s.g (F.MBX_BIND_RECEIVER n)

/-- The checks end (R228, R229). A CHECK that waited for the ROM and then finds RECOVERY is not accepted. -/
def State.checkEnd (s : State) : State :=
  if s.boot = bootRECOVERY then ((s.set F.CFG_CMD_CHECK 0).loadState ldSTAGED).cfgRefuse 0x0119
  else
    match checkImage (s.sec.keys.filterMap id) (s.on F.MBX_BIND_LOCK_LOCKED) s.binding s.shadowImage with
    | .error e => s.cfgReject e
    | .ok p => (((s.set F.CFG_CMD_CHECK 0).loadState ldREADY).setLoader fun l => { l with plan := some p }).raise 5

def execCheckComplete (s : State) : Res :=
  act (s.working && s.loaderState == ldCHECKING && s.boot != bootROM) s State.checkEnd

/-! Installation (R232 to R234). -/

/-- No column reset is in progress. -/
def State.columnsQuiet (s : State) : Bool :=
  (List.range 5).all fun c => !s.on (F.REG_COLCTRL_COL_RESET c) && !s.on (F.REG_COLSTATUS_IN_RESET c)

/-- What installation waits for (R232). -/
def State.installReady (s : State) : Bool :=
  s.tiles.all (fun t => t.2.flights.isEmpty) && s.gather.kind.isNone && !s.on F.UPD_STATUS_BUSY
    && (s.jobs.all fun j => !s.unacked j) && s.columnsQuiet

/-- Zero in every byte outside the shadow store. -/
def Memory.zeroed (m : Memory) : Memory :=
  { cells := m.cells.filter fun c => shadowByte c.1, bad := m.bad.filter fun k => shadowByte (64 * k), weak := m.weak.filter fun e => shadowByte (64 * e.1) }

/-- Bonded memory zeroed and the far cache invalidated (R234, R443). -/
def State.zeroMemory (s : State) : State := { s with mem := s.mem.zeroed, far := FarCache.init }

def State.runId (s : State) : Nat := s.g (F.CFG_RUN_ID_RUN_ID 0) + 2 ^ 64 * s.g (F.CFG_RUN_ID_RUN_ID 1)

/-- E and Q of a MODE 1 job in both versions before the group's first step (R325): E is +0. -/
def State.startLow (s : State) (j : Nat) (b : Job) : State :=
  let rows := (List.range 16384).flatMap fun e => (List.range b.rank).map fun k => qInit (s.plan.elim 0 (·.runSeed)) j e k
  let put (s : State) (v u : Nat) (l : List Byte) : State :=
    match s.lowPlace j v u b with
    | some p => (s.unitWrite (servingUnit p u) p l).1
    | none => s
  [0, 1].foldl (fun s v =>
    let s := (List.range b.segCount).foldl (fun s u => put s v u (List.replicate 65536 0)) s
    (List.range b.rank).foldl (fun s u => put s v (b.segCount + u) (wordBytes ((rows.drop (16384 * u)).take 16384))) s) s

/-- Whether the group of a MODE 1 job is new under a plan: the plan before it, where one was in effect, reduced no such group by that
job at that place (R325; log entry 39). -/
def newGroup (old : Option Plan) (p : Plan) (j : Nat) (b : Job) : Bool :=
  old.elim false fun o => !(o.ring.jobs[j]? == some b && o.ring.groups[b.group]? == p.ring.groups[b.group]?)

/-- The measurement register M extended: M = SHA3-256(M ‖ v) (R438). -/
def State.extend (s : State) (i : Nat) (v : List Byte) : State :=
  let h := sha3 ((List.range 4).flatMap (fun k => leBytes 8 (s.g (F.SEC_MEAS_VALUE i k))) ++ v)
  s.setAll ((List.range 4).map fun k => (F.SEC_MEAS_VALUE i k, leAt h (8 * k) 8))

/-- Far-cache lines of partitions whose owner changes: written back and dropped (R232, R233). -/
def State.farHandover (s : State) (old new : List OwnerEntry) : State :=
  let owner (l : List OwnerEntry) (i : Nat) : Option (Nat × Nat) := (l.find? fun e => e.res == 3 && e.inst == i).map fun e => (e.owner, e.arg)
  let moved (i : Nat) : Bool := owner old i != owner new i
  let s := (s.far.lines.filter fun e => moved e.part && e.dirty).foldl State.writeBack s
  s.setFar fun c => { c with lines := c.lines.filter fun e => !moved e.part }

/-- Everything of the TILE domain at its reset value (R11, R232). -/
def State.resetTiles (s : State) : State :=
  { s with fld := s.fld.filter fun e => keyDom e.1 != Dom.tile.code, tiles := [], mesh := [] }

/-- SRAM images loaded and every tile awake (R232 step 4). -/
def State.loadTiles (s : State) (p : Plan) : State :=
  let l := (p.tiles.zipIdx.filter fun e => !e.1.image.isEmpty).map fun e => (e.2, { Tile.init with sram := putBytes [] 0 e.1.image })
  let s := { s with tiles := l.foldl (fun a e => Sparse.put Tile.init e.1 e.2 a) [] }
  (p.clocks.zipIdx).foldl (fun s e =>
    s.setAll [(F.PWR_CLU_PLL e.2, 0), (F.PWR_CLU_FREQ e.2, max e.1.fmin (min e.1.fmax (s.g (F.PWR_CLU_FREQ e.2)))),
      (F.PWR_CLU_TILES e.2, 0x5555), (F.CLU_STATUS_UNLOADED e.2, 0)]) s

/-- BANK_QUOTA of every region controller from MEMPLAN, 0 standing for 8, and the modes of the layer-1 regions (R172, R179, R211). -/
def State.loadQuotas (s : State) (m : MemPlan) : State :=
  let s := (m.quotas.zipIdx).foldl (fun s e => s.set (F.REG_LCTRL_BANK_QUOTA (e.2 / 8) (e.2 % 8)) (if e.1 = 0 then 8 else e.1)) s
  (m.modes.zipIdx).foldl (fun s e => s.set (F.REG_LSTATUS_MODE e.2 0) e.1) s

/-- The mailbox bindings that OWNER names, while the table is unlocked (R225, R428). -/
def State.bindAs (s : State) (n arg : Nat) : State :=
  if s.binding n = arg then s
  else s.setAll [(F.MBX_BIND_SENDER n, arg % 256), (F.MBX_BIND_RECEIVER n, arg / 256), (F.MBX_CH_STATUS_FULL n, 0), (F.MBX_CH_DATA_WORD n, 0)]
def State.loadBindings (s : State) (l : List OwnerEntry) : State :=
  if s.on F.MBX_BIND_LOCK_LOCKED then s else (l.filter (·.res == 5)).foldl (fun s e => s.bindAs e.inst e.arg) s

/-- The job table's registers and the late groups' delays at their first values. -/
def State.clearJobs (s : State) : State :=
  { s with fld := s.fld.filter fun e => !((decide (0x68000 ≤ keyOff e.1) && decide (keyOff e.1 < 0x70000)) || decide (0x4000000 ≤ keyOff e.1)) }

/-- Step 6 and 7: what the plan's other sections set, and the engines' work under them begun anew. -/
def State.takePlan (s : State) (p : Plan) : State :=
  let s := { s with
    plan := some p,
    claims := s.claims.filter fun c => !(p.owners.any fun e => e.res == c.res && e.inst == c.inst),
    red := { RedCtl.init with held := s.red.held, digestLatched := s.red.digestLatched },
    upd := { UpdCtl.init with poison := s.upd.poison, spoiled := s.upd.spoiled },
    num := { s.num with openCounts := [], openKeys := p.nums.map fun (e : NumPlan) => (e.layer, e.oper) } }
  ((s.loadBindings p.owners).fillGathers p.ring.layers).setAll
    ((F.CFG_STATUS_ACTIVE, 1) :: (List.range 4).map fun k => (F.CFG_ACTIVE_DIGEST_DIGEST k, leAt p.digest (8 * k) 8))

/-- Installation, in the order of R232. -/
def State.install (s : State) (p : Plan) : State :=
  let retain := s.g F.CFG_RUN_STATE_RETAIN
  let old := s.plan
  let keep := retain == 2 || (retain == 1 && s.runId == p.mem.runId)
  let s := if keep then s else { s.zeroMemory with upd := { s.upd with spoiled := none } }
  let s := s.setAll [(F.CFG_RUN_ID_RUN_ID 0, p.mem.runId), (F.CFG_RUN_ID_RUN_ID 1, p.mem.runId / 2 ^ 64), (F.CFG_RUN_STATE_RETAIN, 2)]
  let s := ((s.farHandover s.owners (p.owners ++ s.claims)).resetTiles.loadTiles p).loadQuotas p.mem
  let s := (s.clearJobs.takePlan p).extend 3 p.digest
  let s := (p.ring.jobs.zipIdx).foldl (fun s e => if e.1.mode = 1 ∧ (!keep ∨ newGroup old p e.2 e.1) then s.startLow e.2 e.1 else s) s
  (((s.inc F.CFG_INSTALLS_COUNT).set F.CFG_STATUS_LAST_CODE 0).loadState ldEMPTY).setLoader (fun _ => LoaderCtl.init) |>.raise 5

def execInstallation (s : State) : Res :=
  act (s.working && s.loaderState == ldINSTALLING && s.installReady) s fun s => s.loader.plan.elim s s.install

/-- A run-time request for a shared resource by a function, or, with `release`, what it holds given back (R224). -/
def execResourceClaim (res inst owner arg : Nat) (release : Bool) (s : State) : Res :=
  act (s.powered && ownerAllowed ⟨res, inst, owner, arg⟩) s fun s =>
    if release then { s with claims := s.claims.filter (· != ⟨res, inst, owner, arg⟩) }
    else match s.claim res inst owner arg with
    | (s, true) => s
    | (s, false) => s.report 0x0118 0 (res * 65536 + inst)

end Sys2Proof.Machine
end

