-- ==== Sys2Proof/Machine/Memory.lean ====
section
/-!
DEFINITION. The region controllers: requests and slots, refresh, check symbols and scrubbing, hops, and the two resets of the bonded
memory (spec 06_calderas.md R164, R177 to R197). They keep running through a freeze (R497).
-/
namespace Sys2Proof.Machine

def State.setRegions (s : State) (f : RegionCtl → RegionCtl) : State := { s with regions := f s.regions }

/-! Requests (R177 to R183). -/

/-- A request of R177, of an identity that issues requests: 1 to 128 sectors of one row, a write of as many bytes, a mask only on a host write of one sector (R183). -/
def MemReq.ok (r : MemReq) : Bool :=
  decide (r.req ≤ 278) && r.req != rqSCRUB && r.addr % 64 == 0 && decide (1 ≤ r.sectors) && decide (dpaSector r.addr + r.sectors ≤ 128)
    && (r.data.elim true fun d => d.length == 64 * r.sectors)
    && (r.mask.elim true fun m => r.req == rqHOST && r.sectors == 1 && m.length == 64 && r.data.isSome)

/-- SLOTS_USED of the controller of a request. -/
def State.countSlots (s : State) (r : MemReq) : State :=
  s.set (F.REG_LSTATUS_SLOTS_USED r.win r.layer) (s.regions.held.filter (·.sameCtl r)).length

/-- A request taken into a slot; an accepted write stands against an earlier read's writeback (R189). -/
def State.holdReq (s : State) (r : MemReq) : State :=
  let s := if r.data.isSome then s.dropFixes r.addr r.sectors else s
  (s.setRegions fun c => { c with held := c.held ++ [r] }).countSlots r

def State.endReq (s : State) (r : MemReq) (code : Nat) (l : List Byte) : State := s.emit (.memDone r.id code l)

/-- A request that arrives: refused with a code, accepted, or waiting (R168 to R170, R178, R195, R197). -/
def State.newReq (s : State) (r : MemReq) : State :=
  let c := s.memGate r.req r.addr
  if c ≠ 0 then (s.report c r.req r.addr).endReq r c []
  else
    let held := s.biasHolds r
    let s := s.snoop (s.snoopsFor r)
    if s.slotFree r && !behind s.regions.waiting r && !held then s.holdReq r
    else s.setRegions fun c => { c with waiting := c.waiting ++ [r] }

def execMemRequest (req a n : Nat) (data : Option (List Byte)) (mask : Option (List Bool)) (s : State) : Res :=
  let r : MemReq := ⟨s.regions.nextId, req, a, n, data, mask⟩
  act (s.powered && r.ok) s fun s => (s.setRegions fun c => { c with nextId := c.nextId + 1 }).newReq r

/-- Memory cycles in which a request waited only because of a quota or a ceiling (R180). -/
def State.bankStall (s : State) (r : MemReq) (cycles : Nat) : State :=
  (s.addTo (F.REG_LBANKSTALL_CYCLES r.win r.layer) cycles).count 0x0030 r.win cycles

/-- A waiting request whose turn it is: refused when its layer no longer serves, else accepted. `cycles` are the memory cycles
counted by R180 since the controller last accepted a waiting request. -/
def execMemRequestAccept (id cycles : Nat) (s : State) : Res :=
  match takeFirst (·.id == id) s.regions.waiting with
  | none => .next s
  | some (r, rest) =>
    let c := s.memGate r.req r.addr
    let before := s.regions.waiting.takeWhile (·.id != id)
    act (s.powered && (c != 0 || (s.slotFree r && !behind before r && !s.biasHolds r))) s fun s =>
      let s := (s.setRegions fun x => { x with waiting := rest }).bankStall r cycles
      if c ≠ 0 then (s.report c r.req r.addr).endReq r c [] else s.holdReq r

/-! Check symbols (R188 to R193). -/

/-- Sectors that read as uncorrectable from now on. -/
def Memory.spoil (m : Memory) (l : List Nat) : Memory :=
  { m with bad := m.bad ++ l.filter (fun k => !m.bad.contains k), weak := m.weak.filter fun e => !l.contains e.1 }
def State.spoil (s : State) (l : List Nat) : State := { s with mem := s.mem.spoil l }

/-- Sectors in which one symbol reads wrong from now on; of an uncorrectable one nothing more is said. -/
def Memory.weaken (m : Memory) (l : List (Nat × Nat)) : Memory :=
  { m with weak := m.weak ++ l.filter fun e => decide (e.2 ≤ 66) && !m.bad.contains e.1 && !m.weak.any (·.1 == e.1) }
def State.weaken (s : State) (l : List (Nat × Nat)) : State := { s with mem := s.mem.weaken l }

/-- What a request does when its last sector is read out or written. -/
def State.serve (s : State) (r : MemReq) : State :=
  match r.data, r.mask with
  | some d, none => ({ s with mem := s.mem.write r.addr d }).endReq r 0 []
  | some d, some m => let (s, c) := s.mergeWrite r d m
    s.endReq r c []
  | none, _ =>
    match s.readOut r.req r.addr r.sectors with
    | (s, .ok l) => s.endReq r 0 l
    | (s, .error c) => s.endReq r c []

/-- A request leaves its slot, in the order of acceptance where sectors are shared (R181, R182); one that must cross a hop that has failed
since ends without effect (R164). The environment tells which sectors of its span have become uncorrectable, and in which, by symbol,
one symbol has gone wrong (log entry 33). -/
def execMemRequestDone (id : Nat) (bad : List Nat) (weak : List (Nat × Nat)) (s : State) : Res :=
  match takeFirst (·.id == id) s.regions.held with
  | none => .next s
  | some (r, rest) =>
    act (s.powered && !((s.regions.held.takeWhile (·.id != id)).any fun q => q.clashes r)) s fun s =>
      let s := (s.setRegions fun x => { x with held := rest }).countSlots r
      let s := s.spoil ((bad.filter fun i => decide (i < r.sectors)).map fun i => r.addr / 64 + i)
      let s := s.weaken ((weak.filter fun e => decide (e.1 < r.sectors)).map fun e => (r.addr / 64 + e.1, e.2))
      if s.hopFailed r.addr then (s.report 0x0308 r.req r.addr).endReq r 0x0308 [] else s.serve r

/-- The corrected sector is written back: it reads right again (R189). -/
def execCorrectedWriteback (a : Nat) (s : State) : Res :=
  act (s.powered && s.regions.fixes.contains a) s fun s =>
    { s.setRegions fun c => { c with fixes := c.fixes.filter (· != a) } with mem := { s.mem with weak := s.mem.weak.filter (·.1 != a / 64) } }

/-- Rows of a region, as the scrubber counts them (REG_LSCRUB.POSITION). -/
def scrubRows : Nat := 16 * 768
/-- The device physical address of a sector of scrub row `p` of a layer's region. -/
def scrubAddr (w l p k : Nat) : Nat := mkDpa (w / 64) (l + 1) (w % 64) (p % 768 * 2 ^ 17 + p / 768 * 2 ^ 13 + k * 64)

def layerThere (w l : Nat) : Bool := decide (w < 320) && decide (l < layersOf (w / 64))

/-- The scrubber reads its next sector (R192): `weak` is a symbol of it that has gone wrong, `bad` that it has become uncorrectable. -/
def execScrubRead (w l : Nat) (weak : Option Nat) (bad : Bool) (s : State) : Res :=
  act (s.powered && layerThere w l && s.on (F.REG_LCTRL_SCRUB_EN w l) && !s.on (F.REG_LSTATUS_RESET_ACTIVE w l)) s fun s =>
    let p := s.g (F.REG_LSCRUB_POSITION w l)
    let k := Sparse.get 0 (w * 8 + l) s.regions.scrub
    let a := scrubAddr w l p k
    let s := if bad then s.spoil [a / 64] else s
    let s :=
      if s.mem.bad.contains (a / 64) then
        (((s.inc (F.REG_LUE_COUNT_COUNT w l)).logMem 2 rqSCRUB a 127).report 0x0309 w a)
      else (s.weaken (weak.toList.map fun y => (a / 64, y))).correctAll rqSCRUB a 1
    let s := s.setRegions fun c => { c with scrub := Sparse.put 0 (w * 8 + l) ((k + 1) % 128) c.scrub }
    if k = 127 then s.set (F.REG_LSCRUB_POSITION w l) ((p + 1) % scrubRows) else s

/-! Refresh (R184 to R187). -/

/-- The band of a thermal estimate in units of 0.25 °C, and its interval in microseconds. -/
def bandOf (x : Int) : Nat := if x ≤ 220 then 0 else if x ≤ 280 then 1 else if x ≤ 340 then 2 else if x ≤ 380 then 3 else 4
def bandUs (b : Nat) : Nat := 32000 / 2 ^ b
/-- The lower bound of a band. -/
def bandLow (b : Nat) : Int := if b = 1 then 220 else if b = 2 then 280 else if b = 3 then 340 else 380

def nodeKey (col region node : Nat) : Nat := (col * 64 + region) * 16 + node
def State.node (s : State) (col region node : Nat) : ThmNode := Sparse.get ThmNode.init (nodeKey col region node) s.thm
/-- The thermal estimate of a layer at a region (R474). -/
def State.layerEst (s : State) (w l : Nat) : Int := (s.node (w / 64) (w % 64) (l + 1)).est

def State.setBand (s : State) (w l b : Nat) : State :=
  s.setAll [(F.REG_LSTATUS_REFRESH_BAND w l, b), (F.REG_LREFRESH_INTERVAL_US w l, bandUs b)]

/-- A row's refresh: the estimate in use, in whole degrees rounded down, and a higher band at once (R184 to R186). -/
def State.refresh (s : State) (w l : Nat) : State :=
  let x := s.layerEst w l
  let s := s.set (F.REG_LREFRESH_TEMP w l) ((x / 4) % 256).toNat
  let old := s.g (F.REG_LSTATUS_REFRESH_BAND w l)
  let b := bandOf x
  if b ≤ old then s
  else
    let s := s.setBand w l b
    if b = 4 then s.report 0x0304 w l else s

/-- A row is refreshed, unless its layer's regulator is off (R187, R457). The environment tells which sectors of the region, counted from
its first, have become uncorrectable or lost one symbol since the row before (log entry 33). -/
def execRefreshRow (w l : Nat) (bad : List Nat) (weak : List (Nat × Nat)) (s : State) : Res :=
  act (s.powered && layerThere w l && !s.power.offLayers.contains (w / 64 * 8 + l)) s fun s =>
    let k (i : Nat) : Nat := mkDpa (w / 64) (l + 1) (w % 64) (64 * i) / 64
    let here (i : Nat) : Bool := decide (64 * i < regionBytes)
    ((s.spoil ((bad.filter here).map k)).weaken ((weak.filter fun e => here e.1).map fun e => (k e.1, e.2))).refresh w l

/-- 100 ms at least 2 °C below the lower bound of the band have passed (R185). -/
def execRefreshBandRelax (w l : Nat) (s : State) : Res :=
  let old := s.g (F.REG_LSTATUS_REFRESH_BAND w l)
  act (s.powered && layerThere w l && old != 0 && decide (s.layerEst w l + 8 ≤ bandLow old)) s fun s =>
    s.setBand w l (bandOf (s.layerEst w l))

/-! Hops (R164). -/

/-- A frame on the hop into layer `l + 1` of a column fails its check, or a resent one passes: a fifth failure marks the hop. -/
def execHopFrameResend (c l : Nat) (fails : Bool) (s : State) : Res :=
  let k := c * 8 + l
  let n := Sparse.get 0 k s.regions.hops
  act (s.powered && decide (c ≤ 4) && decide (l < layersOf c) && !(s.g (F.REG_COLSTATUS_HOP_FAILED c)).testBit l) s fun s =>
    let set (v : Nat) (s : State) : State := s.setRegions fun x => { x with hops := Sparse.put 0 k v x.hops }
    if !fails then set 0 s
    else if n + 1 = 5 then set 0 (s.setBit (F.REG_COLSTATUS_HOP_FAILED c) l true)
    else set (n + 1) s

/-! Resets (R195 to R197). -/

/-- Requests holding slots that end with a code. -/
def State.dropHeld (s : State) (p : MemReq → Bool) (code : Nat) : State :=
  let l := s.regions.held.filter p
  let s := s.setRegions fun c => { c with held := c.held.filter fun r => !p r }
  l.foldl (fun s r => ((s.countSlots r).report code r.req r.addr).endReq r code []) s

/-- Fields of the given domains between two offsets at their reset values, their shadows discarded (R5, R11). -/
def State.resetRange (s : State) (doms : List Dom) (a b : Nat) : State :=
  let here (off d : Nat) : Bool := decide (a ≤ off) && decide (off < b) && doms.any fun x => x.code == d
  { s with fld := s.fld.filter fun e => !here (keyOff e.1) (keyDom e.1), shadow := s.shadow.filter fun e => !here e.1.off e.1.dom.code }

/-- Offset of the register block of a layer in a window. -/
def layerOff (w l : Nat) : Nat := 0x2400000 + w * 0x1000 + l * 0x100

/-- BANK_QUOTA as MEMPLAN gives it, or 8; a layer-1 region's mode as MEMPLAN gives it, or 0. -/
def State.planQuota (s : State) (w l : Nat) : State :=
  let q := s.plan.elim 0 fun p => p.mem.quotas.getD (w * 8 + l) 0
  let s := s.set (F.REG_LCTRL_BANK_QUOTA w l) (if q = 0 then 8 else q)
  if l = 0 then s.set (F.REG_LSTATUS_MODE w 0) (s.plan.elim 0 fun p => p.mem.modes.getD w 0) else s

/-- LAY registers of one layer in one window reset (R195). -/
def State.resetLayer (s : State) (w l : Nat) : State := (s.resetRange [.lay] (layerOff w l) (layerOff w l + 0x100)).planQuota w l

/-- The windows of a column. -/
def winsOf (c : Nat) : List Nat := (List.range 64).map (c * 64 + ·)

/-- A layer-array reset begins; writable by masters 1 and 2 (R195). -/
def execLayReset (m w l : Nat) (s : State) : Res :=
  let c := w / 64
  act (s.fromMaster m && (m == 1 || m == 2) && layerThere w l && !s.on (F.REG_LSTATUS_RESET_ACTIVE w l)) s fun s =>
    let s := s.set (F.REG_LCTRL_LAY_RESET w l) 1
    let s := (winsOf c).foldl (fun s v => s.set (F.REG_LSTATUS_RESET_ACTIVE v l) 1) s
    s.dropHeld (fun r => r.win / 64 == c && r.layer == l) 0x0305

/-- It ends 2 µs later. -/
def execLayResetEnd (c l : Nat) (s : State) : Res :=
  act (s.powered && layerThere (c * 64) l && s.on (F.REG_LSTATUS_RESET_ACTIVE (c * 64) l) && !s.on (F.REG_COLSTATUS_IN_RESET c)) s fun s =>
    (winsOf c).foldl (fun s w => s.resetLayer w l) s

/-- Whether a column reset is accepted (R196). -/
def State.colResetOk (s : State) (c : Nat) : Bool := !s.stepOpen && (c != 4 || !(s.far.lines.any (·.dirty)))

/-- A column reset is requested, by masters 1 and 2; one in progress goes on. -/
def execColReset (m c : Nat) (s : State) : Res :=
  act (s.fromMaster m && (m == 1 || m == 2) && decide (c ≤ 4) && !s.on (F.REG_COLSTATUS_IN_RESET c)) s fun s =>
    if s.colResetOk c then
      let s := s.setAll [(F.REG_COLRESULT_CODE c, 0), (F.REG_COLCTRL_COL_RESET c, 1), (F.REG_COLSTATUS_IN_RESET c, 1)]
      (winsOf c).foldl (fun s w => (List.range (layersOf c)).foldl (fun s l => s.set (F.REG_LSTATUS_RESET_ACTIVE w l) 1) s) s
    else (s.set (F.REG_COLRESULT_CODE c) 0x0307).report 0x0307 c 0

def State.colHeld (s : State) (c : Nat) : Bool := s.regions.held.any fun r => r.win / 64 == c
def State.draining (s : State) (c : Nat) : Bool :=
  s.powered && s.on (F.REG_COLSTATUS_IN_RESET c) && !s.regions.resetting.contains c

/-- Every slot of the column is free (R197). -/
def execColResetDrained (c : Nat) (s : State) : Res :=
  act (s.draining c && !s.colHeld c) s fun s => s.setRegions fun x => { x with resetting := x.resetting ++ [c] }

/-- 100 µs of draining have passed: what remains completes with MEM_COLUMN_RESET. -/
def execColResetDrainTimeout (c : Nat) (s : State) : Res :=
  act (s.draining c && s.colHeld c) s fun s =>
    (s.dropHeld (fun r => r.win / 64 == c) 0x0306).setRegions fun x => { x with resetting := x.resetting ++ [c] }

/-- COL and LAY registers of a column at their reset values (R197). -/
def State.resetColumn (s : State) (c : Nat) : State :=
  let a := 0x2400000 + c * 0x40000
  let s := s.resetRange [.lay, .col] a (a + 0x40000)
  let s := s.setRegions fun x => { x with resetting := x.resetting.filter (· != c), hops := x.hops.filter fun e => e.1 / 8 != c }
  (winsOf c).foldl (fun s w => (List.range (layersOf c)).foldl (fun s l => s.planQuota w l) s) s

def execColResetEnd (c : Nat) (s : State) : Res :=
  act (s.powered && s.regions.resetting.contains c) s fun s => s.resetColumn c

end Sys2Proof.Machine
end

