-- ==== Sys2Proof/Machine/Reset.lean ====
section
/-!
DEFINITION. The DEV reset (spec 00_scope.md R11, 07_configuration_bitstream.md R234, R542, 12_host_interface.md R398, R543,
13_ethernet_ports.md R423, 16_debug_and_replay.md R501, R512, 17_register_map.md R517, 09_ring_ports.md R278), shared by every cause.
-/
namespace Sys2Proof.Machine

/-- Causes of ID_RESET_CAUSE. -/
def rcHOT : Nat := 1
def rcPERST : Nat := 2
def rcLINK : Nat := 3
def rcMC : Nat := 4
def rcTRIP : Nat := 5
def rcREG : Nat := 6
def rcRELEASE : Nat := 7

/-- Running commands end with HIF_LINK_LOST; their records are not written (R398). -/
def State.loseCommands (s : State) : State :=
  s.host.queues.foldl (fun s e => match e.2.cmd with
    | some c => s.logHif 0x070A e.1 (leAt c.desc 2 2)
    | none => s) s

/-- A self-reset of the host link is reported as HIF_LINK_LOST, by the commands it ends or by itself (R398, R399). -/
def State.lostHost (s : State) (cause : Nat) : State :=
  if decide (cause ≤ rcLINK) && !s.host.queues.any (fun e => e.2.cmd.isSome) then s.logHif 0x070A 0 0 else s.loseCommands

/-- A freeze that ends broken (R501). -/
def State.breakFreeze (s : State) : State :=
  if s.frozen then ((s.set F.DBG_FREEZE_CTRL_STATE 0).set F.DBG_FREEZE_CTRL_BROKEN 1).logDbg 0x0C03 else s

/-- Whether a replay has begun and not ended (R510). -/
def State.replayLive (s : State) : Bool := [1, 2, 3].contains (s.g F.DBG_REPLAY_STATUS_STATE)

/-- The switch of a ring, and its closing: whether it gets there is sensed later (R278, R281). -/
def ringClosedF (ring : Nat) : Fld := if ring = 0 then F.RING_STATUS_A_BYPASS_CLOSED else F.RING_STATUS_B_BYPASS_CLOSED
def State.closeBypass (s : State) (ring : Nat) : State :=
  if s.on (ringClosedF ring) then (if (s.ringCtl ring).moving = some true then s.setRingCtl ring fun r => { r with moving := some false } else s)
  else ((s.setRingCtl ring fun r => { r with moving := some false }).set (ringClosedF ring) 1).inc F.RING_BYPASS_OPS_COUNT

/-- The cause and the count of a DEV reset (R517). -/
def State.resetCause (s : State) (cause : Nat) : State :=
  let n := s.g F.ID_RESET_CAUSE_COUNT
  s.setAll [(F.ID_RESET_CAUSE_COUNT, if n = 65535 then n else n + 1), (F.ID_RESET_CAUSE_CAUSE, cause)]

/-- Registers of the DEV domain and of the domains below it at their reset values (R11), and their locks (R7); every shadow is discarded,
because the open step aborts (R5, R398). -/
def State.resetRegs (s : State) : State :=
  let kept (k : Nat) : Bool := decide (keyDom k < Dom.dev.code)
  { s with
    fld := Sparse.keep kept s.fld
    shadow := []
    locked := s.locked.filter kept }

/-- The region controllers keep what they have accepted; what waits, and every host request, is dropped (R398, R543). -/
def State.dropRequests (s : State) : State :=
  let gone := s.regions.held.filter fun r => r.req == rqHOST
  let s := s.setRegions fun c => { c with waiting := [], held := c.held.filter fun r => r.req != rqHOST }
  gone.foldl State.countSlots s

/-- Everything in the DEV domain and below it that no register shows. -/
def State.resetUnits (s : State) : State :=
  { s with
    plan := none, loader := LoaderCtl.init, claims := [], stp := StepCtl.init, images := Images.init, tiles := [], mesh := []
    far := FarCache.init, ports := [], lines := [], lanes := [], ringA := { RingCtl.init with moving := s.ringA.moving },
    ringB := { RingCtl.init with moving := s.ringB.moving }
    poll := PollCtl.init, red := RedCtl.init, upd := UpdCtl.init, gather := GatherCtl.init, ingest := none
    num := ⟨[], [], [], [], false⟩, cap := ⟨[], [], [], [], false⟩, msi := MsiCtl.init, frozen' := Frozen.init
    host := HostCtl.init, eth := EthCtl.init
    sec := { s.sec with writing := false, waits := false, held := [], asked := [] }
    power := { PowerCtl.init with
      offLayers := s.power.offLayers, faulted := s.power.faulted, dead := s.power.dead, wear := s.power.wear } }

/-- A DEV reset for a cause; `keep` is false where CFG_RUN_STATE becomes NONE (R457). No host path exists any more (R396, R398): what it
has to tell the host waits for the link, and is lost. -/
def State.devReset (s : State) (cause : Nat) (keep : Bool) : State :=
  let s := ((s.set F.HIF_STATUS_LINK_UP 0).lostHost cause).breakFreeze
  let s := if s.replayLive then s.logDbg 0x0C06 else s
  let s := ((s.closeBypass 0).closeBypass 1).resetCause cause
  let r := s.g F.CFG_RUN_STATE_RETAIN
  let s := s.set F.CFG_RUN_STATE_RETAIN (if !keep then 0 else if r = 2 then 1 else r)
  (s.dropRequests.resetRegs).resetUnits

end Sys2Proof.Machine
end

