-- ==== Sys2Proof/Machine/TileControl.lean ====
section
/-!
DEFINITION. Issue, completion and fault of tile instructions (spec 05_tile_instruction_streams.md R119 to R136, R155 to R159)
and the control instructions.
-/
namespace Sys2Proof.Machine

/-! The digest log. -/

/-- Entries of a stream's closed spans, none of whose instructions are still in flight, in order (R503). -/
def flushSpans (t n : Nat) : List SpanLog → State → State
  | [], s => s
  | p :: r, s =>
    let x := s.tile t
    if p.closed && !(x.flights.any fun f => f.stream == n && f.seq == p.seq) then
      let s := s.setStream t n fun y => { y with spans := y.spans.filter fun q => q.seq != p.seq }
      let s := if p.crcs.isEmpty then s
        else s.logEntry ⟨crcOfCrcs (p.crcs.map (·.2)), p.layer, p.oper, n, 0, t, p.seq, p.crcs.length, 0⟩
      flushSpans t n r s
    else flushSpans t n r s

def State.flush (s : State) (t n : Nat) : State := flushSpans t n (s.stream t n).spans s

/-! Faults. -/

/-- An instruction faults (R157): its stream halts at it, the record latches under the identifiers current at its issue (R130), and the
attempt fails; an uncorrectable SRAM sector is a failed tile (R260). -/
def State.faultAt (s : State) (t n code pc op layer oper : Nat) : State :=
  let s := (s.setPc t n pc).seqTo t n seqHALTED
  let s := s.latch (F.TILE_FAULT_INFO_VALID t n) (F.TILE_FAULT_INFO_OVERFLOW t n)
    [(F.TILE_FAULT_INFO_PC t n, pc), (F.TILE_FAULT_INFO_OPCODE t n, op), (F.TILE_FAULT_INFO_CODE t n, code),
      (F.TILE_FAULT_TAG_STEP t n, s.workStep), (F.TILE_FAULT_TAG_LAYER t n, layer), (F.TILE_FAULT_TAG_OPER t n, oper)]
  let s := s.setStream t n Stream.cutSpan
  let s := s.report code t pc
  if code = cSRAM then s.failTile t else s.recordFail code t

/-- The instruction before a stream faults. -/
def State.tileFault (s : State) (t n code : Nat) : State :=
  s.faultAt t n code (s.pc t n) (opOf (s.nextWord t n)) (s.stream t n).layer (s.stream t n).oper

/-! Issue. -/

/-- What an issued instruction leaves in flight. -/
structure Job' where
  rd : List Span := []
  wr : List Span := []
  post : List Post := []
  ready : Bool := true
  waiting : List Nat := []
  dst : Nat := 0
  src : Nat := 0
  fills : List HalfFill := []
  /-- The bytes it writes, in ascending destination address, when it writes any (R503). -/
  written : Option (List Byte) := none

/-- The outcome of an attempt to issue. -/
inductive Verdict where
  | fault (code : Nat)
  | wait (reason : Nat)
  /-- Issued and complete at issue. -/
  | done (s : State)
  /-- Issued, and the next instruction is at `pc`. -/
  | jump (s : State) (pc : Nat)
  /-- Issued and in flight. -/
  | flies (s : State) (j : Job')
  /-- Issued, effects in part, and faulted during its transfer (R157 items 6 and 7). -/
  | broke (s : State) (code : Nat)

/-- Whether an opcode is in the table of R135. -/
def opKnown (op : Nat) : Bool :=
  decide (op ≤ 8) || (decide (0x10 ≤ op) && decide (op ≤ 0x1A) && op != 0x17) || (decide (0x20 ≤ op) && decide (op ≤ 0x29))
    || op == 0x30 || (decide (0x40 ≤ op) && decide (op ≤ 0x4D))

/-- Resources an instruction claims (R123): 0 and 1 the arrays, 2 the vector unit, 3 and 4 the output units, 5 the transfer
engine. -/
def resources (w : Nat) : List Nat :=
  let op := opOf w
  if op = 0x20 then [bitsOf w 16 16]
  else if op = 0x22 then (if bitsOf w 17 16 = 2 then [0, 1] else [bitsOf w 17 16])
  else if op = 0x30 ∨ (0x40 ≤ op ∧ op ≤ 0x4D) then [2]
  else if op = 0x23 ∨ (0x24 ≤ op ∧ op ≤ 0x29) then [3 + bitsOf w 16 16]
  else if (0x10 ≤ op ∧ op ≤ 0x16) ∨ op = 0x18 ∨ op = 0x21 then [5]
  else []

/-- Whether the tile may issue: its units run, it is in RUN (R462), a step or replay runs, its column is not CRITICAL (R477). -/
def State.tileMayIssue (s : State) (t : Nat) : Bool :=
  s.working && s.tilePower t == tpRUN && s.tilesRun && decide (s.g F.THM_STATUS_COLUMNS / 8 ^ (t / 64) % 8 < 3)
    && s.on F.CFG_STATUS_ACTIVE

/-- An instruction's event counter plus 1 at completion (R131). -/
def State.event (s : State) (t : Nat) (evt : Option Nat) : State :=
  match evt with
  | some c => s.inc (F.TILE_EVT_COUNT t c)
  | none => s

/-- A flight added with the spans it reserves; its CRC enters the stream's open span when the digest log is on. -/
def State.launch (s : State) (t n w : Nat) (j : Job') : State :=
  let x := s.tile t
  let y := x.stream n
  let f : Flight := ⟨x.nextId, n, s.pc t n, opOf w, evtOf w, y.seq - 1, j.rd, j.wr, j.post, j.ready, j.waiting, j.dst, j.src,
    y.layer, y.oper, j.fills⟩
  let s := s.setTile t fun x => { x with flights := x.flights ++ [f], nextId := x.nextId + 1 }
  match j.written with
  | some b =>
    if s.logOn then
      s.setStream t n fun y => { y with spans := y.spans.map fun p =>
        if p.closed then p else { p with crcs := p.crcs ++ [(f.id, crc64 b)] } }
    else s
  | none => s

/-- The stream moves past an issued instruction; issue past index 8,191 faults the stream, under the identifiers with which the
instruction there issued (R130, R136). -/
def State.advance (s : State) (t n layer oper : Nat) : State :=
  let s := (s.inc (F.TILE_SEQ_ISSUED_ISSUED t n)).seqTo t n seqISSUING
  if s.pc t n = 8191 then s.faultAt t n cBRANCH 8191 (opOf (s.nextWord t n)) layer oper else s.setPc t n (s.pc t n + 1)

/-- One instruction's rule: tile, stream, word, state. -/
abbrev Rule := Nat → Nat → Nat → State → Verdict

/-- A tile that acts on its program has acknowledged the opening (R260); and SRAM sectors found uncorrectable since the last command. -/
def State.upset (s : State) (t : Nat) (bad : List Nat) : State :=
  s.setTile t fun x => { x with badSectors := x.badSectors ++ bad, acked := true }

/-! Control instructions (R136). -/

/-- NOP: nothing, complete at issue. -/
def ruleNop : Rule := fun _ _ w s => if !onlyBits [] w then .fault cFIELD else .done s

/-- TAG (R130): the span of the digest log closes and the next one opens under the new identifiers. -/
def ruleTag : Rule := fun t n w s =>
  if !onlyBits [(47, 16)] w then .fault cFIELD
  else
    let s := s.setStream t n fun y => Stream.openSpan { y.closeSpan with layer := bitsOf w 31 16, oper := bitsOf w 47 32 }
    .done ((s.flush t n).traceRec 2 (2 * t + n) (bitsOf w 31 16 * 65536 + bitsOf w 47 32))

/-- Gather count of a layer identifier, none when RINGPLAN does not name it (R132). -/
def State.gatherCount (s : State) (layer : Nat) : Option Nat :=
  if (s.plan.elim [] fun p => p.ring.layers).any fun e => e.1 == layer then some (Sparse.get 0 layer s.stp.gather) else none

/-- Whether WAIT's condition holds (R132). -/
def waitHolds (t w : Nat) (s : State) : Bool :=
  let v := bitsOf w 127 64
  match bitsOf w 17 16 with
  | 0 => decide (v ≤ s.g (F.TILE_EVT_COUNT t (bitsOf w 21 18)))
  | 1 => decide (v ≤ (s.gatherCount (bitsOf w 37 22)).getD 0)
  | _ => decide (v ≤ s.time)

/-- WAIT (R132): stalls with reason 2 until its condition holds; SRC 3 and an unnamed layer fault. -/
def ruleWait : Rule := fun t _ w s =>
  let src := bitsOf w 17 16
  if !onlyBits [(37, 16), (127, 64)] w || src == 3 || (decide (src < 2) && bitsOf w 127 96 != 0) then .fault cFIELD
  else if src == 1 && (s.gatherCount (bitsOf w 37 22)).isNone then .fault cFIELD
  else if waitHolds t w s then .done s
  else .wait 2

/-- SIGNAL (R131). -/
def ruleSignal : Rule := fun t _ w s =>
  if !onlyBits [(35, 16)] w then .fault cFIELD
  else .done (s.addTo (F.TILE_EVT_COUNT t (bitsOf w 19 16)) (bitsOf w 35 20))

/-- XADD (R128, R136). -/
def ruleXadd : Rule := fun t n w s =>
  if !onlyBits [(23, 16), (63, 32)] w then .fault cFIELD
  else .done (s.setStream t n fun y => y.setX (bitsOf w 19 16) (y.xr (bitsOf w 23 20) + bitsOf w 63 32))

/-- XGET (R136): microbatch count of the open step, step number, or tile number. -/
def ruleXget : Rule := fun t n w s =>
  let src := bitsOf w 23 20
  if !onlyBits [(23, 16)] w || decide (3 ≤ src) then .fault cFIELD
  else
    let v := if src = 0 then s.stp.mbCount else if src = 1 then s.workStep % 2 ^ 32 else t
    .done (s.setStream t n fun y => y.setX (bitsOf w 19 16) v)

/-- BNZ (R136). -/
def ruleBnz : Rule := fun t n w s =>
  let xr := bitsOf w 19 16
  let target := bitsOf w 44 32
  if !onlyBits [(19, 16), (44, 32)] w then .fault cFIELD
  else if (s.plan.elim [] fun p => p.prog t n).length ≤ target then .fault cBRANCH
  else
    let v := ((s.stream t n).xr xr + 2 ^ 32 - 1) % 2 ^ 32
    let s := s.setStream t n fun y => y.setX xr v
    if xr = 0 ∨ v ≠ 0 then .jump s target else .done s

/-- KSET (R136). -/
def ruleKset : Rule := fun t n w s =>
  let en2 := bitOf w 72
  if !onlyBits [(23, 16), (72, 32), (127, 96)] w || (en2 && bitsOf w 19 16 == bitsOf w 67 64) then .fault cFIELD
  else .done (s.setStream t n fun y =>
    let y' := y.setK (bitsOf w 19 16) (bitsOf w 63 32 + y.xr (bitsOf w 23 20))
    if en2 then y'.setK (bitsOf w 67 64) (bitsOf w 127 96 + y.xr (bitsOf w 71 68)) else y')

/-- END (R135): issues at once; the stream stalls with reason 7 until END completes. PC names the index after END, or stays
at the last index. -/
def State.endIssue (s : State) (t n w : Nat) : State :=
  let s := (s.setStream t n Stream.closeSpan).flush t n
  let s := (s.launch t n w { post := [.ending] }).inc (F.TILE_SEQ_ISSUED_ISSUED t n)
  (s.setPc t n (min 8191 (s.pc t n + 1))).stall t n 7

/-! Completion. -/

/-- A register bit of two, one per slot of an output unit's score buffer: SSEL order less 1 (R94, TILE_VEC_STATUS). -/
def scoreFull (s : State) (t i : Nat) : Bool :=
  (s.g (if i < 2 then F.TILE_VEC_STATUS_SB0_FULL t else F.TILE_VEC_STATUS_SB1_FULL t)).testBit (i % 2)
def setScoreFull (s : State) (t i : Nat) (b : Bool) : State :=
  s.setBit (if i < 2 then F.TILE_VEC_STATUS_SB0_FULL t else F.TILE_VEC_STATUS_SB1_FULL t) (i % 2) b

/-- State and owner of accumulator bank `b` of output unit `ou` (R74, R77). -/
def bankStateF (t ou b : Nat) : Fld := if b = 0 then F.TILE_OU_STATUS_BANK0_STATE t ou else F.TILE_OU_STATUS_BANK1_STATE t ou
def bankStreamF (t ou b : Nat) : Fld := if b = 0 then F.TILE_OU_STATUS_BANK0_STREAM t ou else F.TILE_OU_STATUS_BANK1_STREAM t ou
def bkEMPTY : Nat := 0
def bkLIVE : Nat := 1
def bkFINALISING : Nat := 2
def bkWAITCHAIN : Nat := 3
def State.bankState (s : State) (t ou b : Nat) : Nat := s.g (bankStateF t ou b)
def State.bank (s : State) (t ou b : Nat) : Bank := Sparse.get Bank.empty (2 * ou + b) (s.tile t).banks
/-- A bank's contents and state set, owned by stream `n`. -/
def State.setBank (s : State) (t n ou b st : Nat) (v : Bank) : State :=
  ((s.setTile t fun x => { x with banks := Sparse.put Bank.empty (2 * ou + b) v x.banks }).set (bankStateF t ou b) st).set
    (bankStreamF t ou b) n

/-- State and form of a shared-gradient-buffer half (R71). -/
def halfStateF (t h : Nat) : Fld := if h = 0 then F.TILE_SGB_STATUS_HALF0_STATE t else F.TILE_SGB_STATUS_HALF1_STATE t
def halfFormF (t h : Nat) : Fld := if h = 0 then F.TILE_SGB_STATUS_HALF0_FORM t else F.TILE_SGB_STATUS_HALF1_FORM t
def Tile.half (x : Tile) (h : Nat) : Half := if h = 0 then x.half0 else x.half1
def Tile.setHalf (x : Tile) (h : Nat) (v : Half) : Tile := if h = 0 then { x with half0 := v } else { x with half1 := v }

/-- A block put into a free half: counted as it is written, and loading until the instruction completes (R114). -/
def State.fillHalf (s : State) (t n layer oper : Nat) (f : HalfFill) : State :=
  let s := s.setTile t fun x => x.setHalf f.half ⟨some n, f.block⟩
  ((s.set (halfStateF t f.half) 1).set (halfFormF t f.half) f.block.form).counted layer oper f.tally f.trap

/-- Whether a block waits for the half. -/
def Tile.halfAwaited (x : Tile) (h : Nat) : Bool := x.flights.any fun f => f.fills.any fun e => e.half == h

/-- The block that has waited longest for a half goes into it (R114). -/
def State.fillFreed (s : State) (t h : Nat) : State :=
  match (s.tile t).flights.findSome? fun f => (f.fills.find? fun e => e.half == h).map fun e => (f, e) with
  | none => s
  | some (f, e) =>
    let s := s.setTile t fun x => { x with flights := x.flights.map fun g =>
      if g.id = f.id then { g with fills := g.fills.filter fun k => k.half != h } else g }
    s.fillHalf t f.stream f.layer f.oper e

/-- A half becomes free (R71), and takes the block that waits for it. -/
def State.freeHalf (s : State) (t h : Nat) : State :=
  (((s.setTile t fun x => x.setHalf h Half.free).set (halfStateF t h) 0).set (halfFormF t h) 0).fillFreed t h

def Tile.stat' (x : Tile) (arr sb : Nat) : StatBank := Sparse.get StatBank.free (2 * arr + sb) x.stat
def Tile.setStat (x : Tile) (arr sb : Nat) (v : StatBank) : Tile :=
  { x with stat := Sparse.put StatBank.free (2 * arr + sb) v x.stat }

/-- Whether a flight other than `id` carries a post that `p` accepts. -/
def Tile.others (x : Tile) (id : Nat) (p : Post → Bool) : Bool := x.flights.any fun f => f.id != id && f.post.any p

def Post.loads (arr : Nat) : Post → Bool
  | .statLoaded a _ => a == arr
  | _ => false
def Post.passes (arr : Nat) : Post → Bool
  | .passDone a _ _ _ => a == arr
  | _ => false
/-- A segment released to its ring job (R19); nothing is released once the attempt has ended (R158). -/
def State.releaseSegment (s : State) (seg attempt : Nat) : State :=
  if s.tilesRun && s.workAttempt == attempt && !(s.red.released.contains seg)
  then { s with red := { s.red with released := s.red.released ++ [seg] } } else s

/-- A stream's stationary banks and gradient-buffer halves given back (R71, R124). -/
def State.releaseAll (s : State) (t n : Nat) : State :=
  let s := s.setTile t fun x => { x with stat := x.stat.filter fun e => e.2.owner != some n }
  let s := if (s.tile t).half0.owner == some n then s.freeHalf t 0 else s
  if (s.tile t).half1.owner == some n then s.freeHalf t 1 else s

/-- What completes with a flight. -/
def State.post (s : State) (t n id : Nat) : Post → State
  | .statLoaded arr sb =>
    let s := s.setTile t fun x => x.setStat arr sb { x.stat' arr sb with loading := false }
    s.set (F.TILE_ARR_STATUS_LOADING t arr) (bit ((s.tile t).others id (Post.loads arr)))
  | .passDone arr sb passes release =>
    let s := (s.addTo (F.TILE_ARR_PASSES_PASSES t arr) passes).count 0x0001 t passes
    let s := s.set (F.TILE_ARR_STATUS_BUSY t arr) (bit ((s.tile t).others id (Post.passes arr)))
    if release then s.setTile t fun x => x.setStat arr sb StatBank.free else s
  | .halfLoaded h => s.set (halfStateF t h) 2
  | .halfRead h release => if release then s.freeHalf t h else s
  | .bankEmpty ou b => s.setBank t 0 ou b bkEMPTY Bank.empty
  | .bankLive ou b => s.set (bankStateF t ou b) bkLIVE
  | .vectorDone slots sfu =>
    let s := ((s.set (F.TILE_VEC_STATUS_BUSY t) 0).set (F.TILE_VEC_STATUS_SFU_BUSY t) 0).addTo (F.TILE_SFU_RESULTS_RESULTS t) sfu
    let s := s.count 0x0003 t 1
    slots.foldl (fun s i =>
      (setScoreFull s t i false).setTile t fun x =>
        { x with score := Sparse.put [] i [] x.score, scoreOwner := Sparse.put none i none x.scoreOwner }) s
  | .segmentRelease seg attempt => s.releaseSegment seg attempt
  | .ending =>
    let s := s.releaseAll t n
    (s.seqTo t n seqIDLE).setStream t n fun y => { y with ended := true }

/-- The CRC of a HOSTLD is known once its last line has come (R503). -/
def State.lateCrc (s : State) (t : Nat) (f : Flight) : State :=
  if f.op = 0x14 && s.logOn then
    let b := (f.wr.filter (·.space == .sram)).flatMap fun p => (s.tile t).readSram (64 * p.start) (64 * p.len)
    s.setStream t f.stream fun y => { y with spans := y.spans.map fun p =>
      { p with crcs := p.crcs.map fun c => if c.1 = f.id then (f.id, crc64 b) else c } }
  else s

/-- An instruction in flight completes (R131, R135): its effects of completion, its event counter, its reservations. -/
def execInstructionComplete (t id : Nat) (s : State) : Res :=
  match (s.tile t).flights.find? fun f => f.id == id with
  | none => .next s
  | some f =>
    act (s.working && s.tileAwake t && (s.tile t).mayComplete f) s fun s =>
      let s := s.lateCrc t f
      let s := f.post.foldl (fun s p => s.post t f.stream id p) s
      let s := s.setTile t fun x => { x with flights := x.flights.filter fun g => g.id != id }
      ((s.event t f.evt).flush t f.stream).armSettle

end Sys2Proof.Machine
end

