-- ==== Sys2Proof/Machine/HostMem.lean ====
section
/-!
DEFINITION. What the host reaches by BAR2 and CXL.mem, the far cache's answers, and the state of the host link (spec
12_host_interface.md R362 to R370, R376 to R381, R396 to R398, R543).
-/
namespace Sys2Proof.Machine

/-- Bytes of host device address space in use (R366). -/
def hdaEnd : Nat := 192 * 2 ^ 30

/-- Whether host requests are answered now: the link is up and not in Recovery, which holds them (R397, R543). -/
def State.hostLive (s : State) : Bool := s.powered && s.on F.HIF_STATUS_LINK_UP

def State.setHost (s : State) (f : HostCtl → HostCtl) : State := { s with host := f s.host }

/-- A host request (R543): in Recovery the link layers hold it; while the link is in training a memory request finds a function whose BARs
are not programmed, to which it is an Unsupported Request; otherwise it is served. -/
def hostRow (r : HostReq) (training : State → State) (s : State) (serve : Res) : Res :=
  if s.powered && s.host.recovery then .next (s.setHost fun h => { h with coming := h.coming ++ [r] })
  else if s.powered && !s.on F.HIF_STATUS_LINK_UP && !s.pins.perst then .next (training s)
  else serve

/-- A read that finds no BAR programmed; a posted write that does leaves nothing. -/
def State.refuseRead (s : State) : State := s.emit .unsupported

/-! Bonded memory (R366 to R370). -/

def State.retained (s : State) : Bool := s.g F.CFG_RUN_STATE_RETAIN == 1

/-- The first access while CFG_RUN_STATE is PENDING is logged (R370). -/
def State.noteRetained (s : State) : State :=
  if s.host.retainedLogged then s else (s.setHost fun h => { h with retainedLogged := true }).logHif 0x070C 0 0

/-- What a sector of host device addresses is to the host: 0 memory, 1 reserved bytes (R369), 2 beyond memory (R366). -/
def hostSector (h : Nat) : Nat :=
  if hdaEnd ≤ h then 2 else if farCacheByte (dpaOfHda h) || shadowByte (dpaOfHda h) then 1 else 0

/-- A sector read by the host: its bytes, and whether they are poisoned (R369, R370). -/
def State.hostReadSector (s : State) (h : Nat) : State × List Byte × Bool :=
  let zero := List.replicate 64 (0 : Byte)
  if hostSector h ≠ 0 then (s, zero, false)
  else
    match s.readRow rqHOST (dpaOfHda h) 1 with
    | (s, .ok l) => (s, l, false)
    | (s, .error _) => (s, zero, true)

/-- A sector, or part of one, written by the host (R183, R368). -/
def State.hostWriteSector (s : State) (h : Nat) (d : List Byte) (m : List Bool) : State :=
  if hostSector h ≠ 0 then s
  else
    let a := dpaOfHda h
    (s.mergeRow rqHOST a d m).1

/-- Sectors from byte `x` to byte `x + n - 1`. -/
def sectorsOf (x n : Nat) : List Nat := (List.range ((x + n + 63) / 64 - x / 64)).map fun i => (x / 64 + i) * 64

/-- One access to reserved bytes is counted once (R369). -/
def State.noteReserved (s : State) (x n : Nat) : State :=
  if (sectorsOf x n).any fun h => hostSector h == 1 then s.logHif 0x070B 0 0 else s

def readSectors : List Nat → State → State × List Byte × Bool
  | [], s => (s, [], false)
  | h :: r, s =>
    let (s, l, p) := s.hostReadSector h
    let (s, l', p') := readSectors r s
    (s, l ++ l', p || p')

/-- A host read of `n` bytes at host device address `x`. -/
def State.hostRead (s : State) (x n : Nat) : State :=
  if s.retained then s.noteRetained.emit (.hostReply (List.replicate n 0) false)
  else
    let (s, l, p) := readSectors (sectorsOf x n) (s.noteReserved x n)
    s.emit (.hostReply ((l.drop (x % 64)).take n) p)

/-- A host write of the bytes that `mask` enables. -/
def State.hostWrite (s : State) (x : Nat) (data : List Byte) (mask : List Bool) : State :=
  if s.retained then s.noteRetained
  else
    let d := List.replicate (x % 64) (0 : Byte) ++ data
    let m := List.replicate (x % 64) false ++ mask
    ((sectorsOf x data.length).zipIdx).foldl (fun s e =>
      let off := 64 * e.2
      let dm := (d.drop off).take 64
      let mm := (m.drop off).take 64
      if mm.any id then s.hostWriteSector e.1 (dm ++ List.replicate (64 - dm.length) 0) (mm ++ List.replicate (64 - mm.length) false)
      else s) (s.noteReserved x data.length)

def barEnd : Nat := 256 * 2 ^ 30

def State.barRead (x n : Nat) (s : State) : Res := doIf (s.hostLive && decide (x + n ≤ barEnd)) s fun s => s.hostRead x n
def execBar2Read (x n : Nat) (s : State) : Res := hostRow (.barRead x n) State.refuseRead s (s.barRead x n)

def State.barWrite (x : Nat) (data : List Byte) (mask : List Bool) (s : State) : Res :=
  doIf (s.hostLive && decide (x + data.length ≤ barEnd) && mask.length == data.length) s fun s => s.hostWrite x data mask
def execBar2Write (x : Nat) (data : List Byte) (mask : List Bool) (s : State) : Res :=
  hostRow (.barWrite x data mask) id s (s.barWrite x data mask)

/-- A BAR0 access that is no aligned read or write of 4 or 8 bytes (R365). -/
def State.badAccess (off len : Nat) (s : State) : Res :=
  doIf (s.hostLive && !((len == 4 || len == 8) && off % len == 0)) s fun s => s.emit .unsupported
def execBar0Unsupported (off len : Nat) (s : State) : Res := hostRow (.badAccess off len) State.refuseRead s (s.badAccess off len)

def biasF (h : Nat) : Fld := F.PAGE_BIAS_BIAS (h / pageBytes)
def changingF (h : Nat) : Fld := F.PAGE_BIAS_CHANGING (h / pageBytes)

/-- Whether the host may take a copy of a line: its page is SHARED, is not changing, and answers (R370 to R372). -/
def State.mayGrant (s : State) (x : Nat) : Bool :=
  s.on (biasF x) && !s.on (changingF x) && hostSector x == 0 && !s.retained

/-- A CXL.mem read of a line; `share` asks for no copy, a shared copy or an owned one (R367, R371). -/
def State.cxlRead (hpa share : Nat) (s : State) : Res :=
  let x := hpa - s.host.hdmBase
  doIf (s.hostLive && s.cxl && decide (s.host.hdmBase ≤ hpa) && decide (x < hdaEnd) && hpa % 64 == 0) s fun s =>
    let s := s.hostRead x 64
    if share ≠ 0 ∧ s.mayGrant x then
      s.setHost fun h => { h with lines := Sparse.put 0 (x / 64) (if Sparse.get 0 (x / 64) h.lines = 2 then 2 else min share 2) h.lines }
    else s
def execCxlMemRead (hpa share : Nat) (s : State) : Res := hostRow (.cxlRead hpa share) State.refuseRead s (s.cxlRead hpa share)

/-- A CXL.mem write of a line (R367, R368). -/
def State.cxlWrite (hpa : Nat) (data : List Byte) (mask : List Bool) (s : State) : Res :=
  let x := hpa - s.host.hdmBase
  doIf (s.hostLive && s.cxl && decide (s.host.hdmBase ≤ hpa) && decide (x < hdaEnd) && hpa % 64 == 0
      && data.length == 64 && mask.length == 64) s fun s => s.hostWrite x data mask
def execCxlMemWrite (hpa : Nat) (data : List Byte) (mask : List Bool) (s : State) : Res :=
  hostRow (.cxlWrite hpa data mask) id s (s.cxlWrite hpa data mask)

/-! The far cache (R376 to R381). -/

/-- A line that has come for the tiles that await it: it lands in their SRAM (R379). -/
def State.landLine (s : State) (e : FarFill) (data : List Byte) : State :=
  s.tiles.foldl (fun s e' =>
    let t := e'.1
    if s.farPart (.tile t) e.line != (if e.cached then some e.part else none) then s
    else
      s.setTile t fun x => x.flights.foldl (fun x f =>
        if f.op = 0x14 && f.waiting.contains e.line then
          let x := x.writeSram (64 * (f.dst + (e.line - f.src))) data
          { x with flights := x.flights.map fun g => if g.id = f.id then { g with waiting := g.waiting.filter (· != e.line) } else g }
        else x) x) s

/-- The unit and the segment whose late-update state holds a host line. -/
def State.unitOfLine (s : State) (line : Nat) : Option (Nat × Nat) :=
  (s.ring.groups.zipIdx).findSome? fun e =>
    let bytes := 2 * partBytes e.1 (s.progOf e.1).instrs
    let holds (n : Nat) (p : Option Place) : Bool :=
      p.elim false fun p => p.host && decide (p.addr ≤ 64 * line) && decide (64 * line < p.addr + n)
    ((s.ownedOf e.1).find? fun seg =>
      let k := s.ownIndex e.2 seg
      holds bytes (s.recordAt e.2 k) || (List.range 5).any fun i => holds 65536 (s.pendingUnit e.2 i k)).map fun seg => (s.unitOf e.2 seg, seg)

/-- Instructions whose host access has failed fault with TRANSFER_ERROR (R381); nothing of them is in flight any more, and an END that has
issued behind one never completes (R135, R157). -/
def State.failFlights (s : State) (t : Nat) (hit : Flight → Bool) : State :=
  let l := (s.tile t).flights.filter hit
  let s := s.setTile t fun x => { x with flights := x.flights.filter fun f =>
    !(hit f || (f.post.contains .ending && l.any fun g => g.stream == f.stream)) }
  (l.foldl (fun s f => s.faultAt t f.stream cTRANSFER f.pc f.op f.layer f.oper) s).armSettle

/-- An access of the update units to a host line that has failed: UPD_HOST_ACCESS (R353, R381). -/
def State.failUnits (s : State) (line : Nat) : State :=
  let u := (s.unitOfLine line).getD (0, 0)
  s.updFault 0x0603 u.1 u.2

/-- A fill that fails (R381). -/
def State.failLine (s : State) (e : FarFill) (code : Nat) : State :=
  let s := s.tiles.foldl (fun s e' =>
    let t := e'.1
    if s.farPart (.tile t) e.line != (if e.cached then some e.part else none) then s
    else s.failFlights t fun f => f.op == 0x14 && f.waiting.contains e.line) (s.logHif code 0 0)
  if e.units then s.failUnits e.line else s

/-- A fill, or an uncached read, returns from the host: a line that a write has taken Modified meanwhile stays as it is, and a copy in
another partition is the newer one (R378). -/
def State.fillReturns (s : State) (e : FarFill) (data : List Byte) : State :=
  let data := (s.farCopy e.line).elim data (·.data)
  let s := if e.cached && (s.farLine e.part e.line).isNone then s.farInstall e.part e.line data false e.pf else s
  let s := if e.units && !e.cached then s.setFar fun c => { c with loose := c.loose ++ [(e.line, data)] } else s
  s.landLine e data

/-- The host answers a CXL.cache write: the line is globally observed (R380), or the access has failed, whoever made it (R381, R399). -/
def State.writeReturns (s : State) (w : FarWrite) (code : Nat) : State :=
  let mine (f : Flight) : Bool := w.flight.elim false fun e => f.id == e.2
  let t := w.flight.elim 0 (·.1)
  if code = 0 then
    let seen (f : Flight) : Flight := if mine f then { f with waiting := f.waiting.filter (· != w.line) } else f
    if w.flight.isNone then s else s.setTile t fun x => { x with flights := x.flights.map seen }
  else
    let s := s.logHif code 0 0
    let s := if w.flight.isNone then s else s.failFlights t mine
    if w.units then s.failUnits w.line else s

/-- A CXL.cache access of the far-cache controller ends: a fill or an uncached read with its line, or, with `write`, a write; `err` is 0, or
1 for an error and 2 for poisoned data (R379 to R381). -/
def execFarCacheFillDone (part line : Nat) (cached write : Bool) (data : List Byte) (err : Nat) (s : State) : Res :=
  let code := if err = 0 then 0 else if err = 1 then 0x0707 else 0x0708
  if write then
    match takeFirst (fun w => w.line == line) s.far.writes with
    | none => .next s
    | some (w, rest) => act s.hostLive s fun s => (s.setFar fun c => { c with writes := rest }).writeReturns w code
  else
    match takeFirst (fun e => e.part == part && e.line == line && e.cached == cached) s.far.fills with
    | none => .next s
    | some (e, rest) =>
      act (s.hostLive && (err != 0 || data.length == 64)) s fun s =>
        let s := s.setFar fun c => { c with fills := rest }
        if err ≠ 0 then s.failLine e code else s.fillReturns e data

/-- A host snoop (R378): 0 for the current value, 1 for the data to stay clean, 2 to invalidate. The line answered is whole, and a
dirty one has gone to the host afterwards. -/
def execHostSnoop (line kind : Nat) (s : State) : Res :=
  doIf (s.hostLive && s.cxl) s fun s =>
    let l := s.far.lines.filter fun e => e.line == line
    let s := s.emit (.snoopReply line ((l.find? (·.dirty) <|> l.head?).map (·.data)))
    s.setFar fun c => { c with lines :=
      if kind = 2 then c.lines.filter fun e => e.line != line
      else if kind = 1 then c.lines.map fun e => if e.line = line then { e with dirty := false } else e
      else c.lines }

/-! The link (R396 to R398, R543). -/

/-- The link enters Recovery (R397). -/
def execLinkRecovery (s : State) : Res :=
  doIf (s.powered && s.on F.HIF_STATUS_LINK_UP) s fun s =>
    (s.set F.HIF_STATUS_LINK_UP 0).setHost fun h => { h with recovery := true }

/-- What waited for the link leaves, in its order (R396, R397). -/
def State.sendWaiting (s : State) : State := (s.setHost fun h => { h with leaving := [] }).emitAll s.host.leaving

/-- Whether the link has come up and not gone down. -/
def State.linked (s : State) : Bool := s.on F.HIF_STATUS_LINK_UP || s.host.recovery

/-- A DEV reset where the module is powered. -/
def devResetRow (c : Bool) (cause : Nat) (s : State) : Res := doIf (s.powered && c) s fun s => s.devReset cause true

/-- The link has stayed out of L0, L0p and L1 for more than 2 ms. -/
def execLinkOutTimeout (s : State) : Res := devResetRow s.host.recovery rcLINK s
def execHotReset (s : State) : Res := devResetRow s.linked rcHOT s
def execFunctionLevelReset (s : State) : Res := devResetRow s.hostLive rcHOT s
def execDlDown (s : State) : Res := devResetRow s.linked rcLINK s

/-- PERST# asserted (R398); asserted already, it changes nothing more. -/
def State.assertPerst (s : State) : State := { s with pins := { s.pins with perst := true } }.devReset rcPERST true
def execPerst (s : State) : Res := doIf (s.powered && !s.pins.perst) s State.assertPerst

/-- PERST# deasserted with SB_VREF at 1.5 V or more, and PWR_OK released: link training begins (R526, R538). -/
def execPerstDeassert (s : State) : Res :=
  doIf (s.powered && s.pins.perst && s.pins.pwrOk) s fun s => { s with pins := { s.pins with perst := false, vrefLow := false } }

/-- A configuration request (R543); the host may program with it the HDM decoder's base (R367) and the maximum payload and read request
sizes, within what R362 supports. -/
def State.configure (hdmBase maxPayload maxRead : Option Nat) (s : State) : Res :=
  doIf (s.powered && !s.pins.perst) s fun s =>
    let s := s.emit (.configReply (!s.host.ready))
    if s.host.ready then s.setHost fun h => { h with
      hdmBase := hdmBase.getD h.hdmBase
      maxPayload := (maxPayload.filter [128, 256, 512].contains).getD h.maxPayload
      maxRead := (maxRead.filter [128, 256, 512, 1024, 2048, 4096].contains).getD h.maxRead }
    else s
def execConfigRequest (hdmBase maxPayload maxRead : Option Nat) (s : State) : Res :=
  if s.powered && s.host.recovery
  then .next (s.setHost fun h => { h with coming := h.coming ++ [.config hdmBase maxPayload maxRead] })
  else s.configure hdmBase maxPayload maxRead

end Sys2Proof.Machine
end

