-- ==== Sys2Proof/Machine/HostQueue.lean ====
section
/-!
DEFINITION. The four command queues: doorbells, fetch, checks, the commands that need no storage, completion (spec
12_host_interface.md R371 to R374, R382 to R393). Host data that a command reads are operands of its row.
-/
namespace Sys2Proof.Machine

def State.queue (s : State) (q : Nat) : HostQueue := Sparse.get HostQueue.init q s.host.queues
def State.setQueue (s : State) (q : Nat) (f : HostQueue → HostQueue) : State :=
  s.setHost fun h => { h with queues := Sparse.put HostQueue.init q (f (s.queue q)) h.queues }
def State.setCmd (s : State) (q : Nat) (f : HostCmd → HostCmd) : State := s.setQueue q fun x => { x with cmd := x.cmd.map f }

/-! Doorbells (R382, R383, R393). -/

/-- Entries of a queue. -/
def HostQueue.entries (x : HostQueue) : Nat := 2 ^ x.size

/-- A queue stopped (R383). -/
def State.stopQueue (s : State) (q : Nat) : State :=
  ((s.setQueue q fun x => { x with live := false }).set (F.HIF_Q_STATUS_STOPPED q) 1).logHif 0x0709 q 0

/-- Whether the CQ has no released entry: the one after the tail is the head (R393). -/
def State.cqFull (s : State) (q : Nat) : Bool :=
  let x := s.queue q
  (x.cqTail + 1) % x.entries == s.g (F.HIF_Q_CQ_HEAD_INDEX q)

/-- Masters 1 and 2 write the queue registers. -/
def qMaster (m q : Nat) (s : State) : Bool := s.fromMaster m && (m == 1 || m == 2) && decide (q < 4)

/-- ENABLE set with a SIZE; a set ENABLE stays as it is, and SIZE waits for the next start. -/
def execQueueEnable (m q size : Nat) (s : State) : Res :=
  doIf (qMaster m q s) s fun s =>
    let was := s.on (F.HIF_Q_CFG_ENABLE q)
    let s := s.setAll [(F.HIF_Q_CFG_ENABLE q, 1), (F.HIF_Q_CFG_SIZE q, size)]
    if was then s
    else
      let n := size % 32
      let s := s.setAll [(F.HIF_Q_STATUS_SQ_HEAD q, 0), (F.HIF_Q_SQ_TAIL_INDEX q, 0), (F.HIF_Q_CQ_HEAD_INDEX q, 0),
        (F.HIF_Q_STATUS_STOPPED q, 0), (F.HIF_Q_STATUS_CQ_FULL q, 0)]
      let s := s.setQueue q fun x => { x with
        live := true, sqBase := s.g (F.HIF_Q_SQ_BASE_ADDR q) * 4096, cqBase := s.g (F.HIF_Q_CQ_BASE_ADDR q) * 4096, size := n,
        cqTail := 0, phase := true }
      if n < 4 ∨ 16 < n then s.stopQueue q else s

def execQueueDisable (m q : Nat) (s : State) : Res :=
  doIf (qMaster m q s) s fun s => (s.set (F.HIF_Q_CFG_ENABLE q) 0).setQueue q fun x => { x with live := false }

/-- Entries against which a doorbell value is held: the size read at ENABLE, or the one CFG holds. -/
def State.qEntries (s : State) (q : Nat) : Nat :=
  if s.on (F.HIF_Q_CFG_ENABLE q) then (s.queue q).entries else 2 ^ s.g (F.HIF_Q_CFG_SIZE q)

def State.doorbell (s : State) (q : Nat) (f : Fld) (v : Nat) : State :=
  let n := s.qEntries q
  let s := s.set f v
  if n ≤ v then s.stopQueue q else s

def execSqTailDoorbell (m q v : Nat) (s : State) : Res := doIf (qMaster m q s) s fun s => s.doorbell q (F.HIF_Q_SQ_TAIL_INDEX q) v

def execCqHeadDoorbell (m q v : Nat) (s : State) : Res :=
  doIf (qMaster m q s) s fun s =>
    let s := s.doorbell q (F.HIF_Q_CQ_HEAD_INDEX q) v
    if s.cqFull q then s else s.set (F.HIF_Q_STATUS_CQ_FULL q) 0

/-- A descriptor is fetched (R382). -/
def execDescriptorFetch (q : Nat) (bytes : List Byte) (s : State) : Res :=
  let x := s.queue q
  let head := s.g (F.HIF_Q_STATUS_SQ_HEAD q)
  doIf (s.working && s.hostLive && x.live && bytes.length == 64 && head != s.g (F.HIF_Q_SQ_TAIL_INDEX q)) s fun s =>
    let s := s.toHost [.hostRead (x.sqBase + 64 * head) 64]
    let s := s.set (F.HIF_Q_STATUS_SQ_HEAD q) ((head + 1) % x.entries)
    let s := s.setQueue q fun x => { x with fetched := x.fetched ++ [⟨s.host.nextNum, bytes⟩] }
    s.setHost fun h => { h with nextNum := h.nextNum + 1 }

/-! Descriptors (R384, R385). -/

def dOp (d : List Byte) : Nat := leAt d 0 1
def dFlags (d : List Byte) : Nat := leAt d 1 1
def dCid (d : List Byte) : Nat := leAt d 2 2
def dLen (d : List Byte) : Nat := leAt d 4 4
def dSrcOff (d : List Byte) : Nat := leAt d 16 8
def dDstOff (d : List Byte) : Nat := leAt d 24 8
def dFlagOff (d : List Byte) : Nat := leAt d 32 8
def dFlagValue (d : List Byte) : Nat := leAt d 40 8
def dArg (d : List Byte) : Nat := leAt d 48 8

def opUsesSrc (o : Nat) : Bool := o == 0x01 || o == 0x41
def opUsesDst (o : Nat) : Bool := o == 0x01 || o == 0x02 || o == 0x03 || o == 0x40
def opUsesLen (o : Nat) : Bool := opUsesSrc o || opUsesDst o
/-- Values of ARG that an opcode takes (R385, R405). -/
def argOk (o a : Nat) : Bool :=
  if o = 0x02 then true
  else if o = 0x03 then decide (a ≤ 1)
  else if o = 0x04 then decide (a < 2 ^ 17)
  else if o = 0x40 ∨ o = 0x41 ∨ o = 0x48 then bitsOf a 59 48 == 0
  else if o = 0x49 then bitsOf a 59 49 == 0
  else a == 0

def State.readBuf (s : State) (k : Nat) : Buf :=
  let kind := s.g (F.HIF_BUF_ATTR_KIND k)
  ⟨if kind = 3 then 0 else kind, s.g (F.HIF_BUF_ATTR_ACC k), s.g (F.HIF_BUF_BASE_ADDR k) * 64, s.g (F.HIF_BUF_ATTR_SIZE k)⟩

/-! Checks (R388 to R390). -/

/-- The first byte of the reserved bytes of a region of hub layer 7 or 8, as a host device address. -/
def reservedAt (layer r : Nat) : Nat := hdaOfDpa (mkDpa 4 layer r 0x5800000)
/-- Whether a span of host device addresses touches a byte of R369. -/
def spanReserved (h n : Nat) : Bool :=
  (List.range 64).any fun r => spansMeet h n (reservedAt 7 r) 0x800000 || spansMeet h n (reservedAt 8 r) 0x800000

/-- R389. The pages of R374 hold reserved bytes only. -/
def Buf.spanOk (b : Buf) : Bool :=
  if b.kind = 2 then decide (b.base + 64 * b.size ≤ hdaEnd) && !spanReserved b.base (64 * b.size)
  else decide (b.base + 64 * b.size ≤ 2 ^ 57)

/-- Pages of a span of host device addresses. -/
def pagesOf (h n : Nat) : List Nat := (List.range ((h + n + pageBytes - 1) / pageBytes - h / pageBytes)).map (h / pageBytes + ·)

/-- Whether a step, or an installation, holds memory against commands (R390). -/
def State.stepHolds (s : State) : Bool := s.replaying || (decide (1 ≤ s.stepState) && decide (s.stepState ≤ 4)) || s.loaderState == ldINSTALLING

/-- Whether a span of host device addresses lies in a working-copy, reduction or shard-state partition. -/
def State.heldSpan (s : State) (h n : Nat) : Bool :=
  (pagesOf h n).any fun p => s.extents.any fun e => [2, 4, 5].contains e.kind && e.holds pageBytes (dpaOfHda (p * pageBytes))

def bufWrites (o : Nat) : Bool := o == 0x01 || o == 0x02 || o == 0x40

/-- The checks of R388 in their order: 0, or the code of the first that fails. `space` is the size of the namespace of the controller
that a storage command names; where none is attached, every block lies beyond it (R402). -/
def State.cmdCode (s : State) (d : List Byte) (src dst fl : Buf) (space : Option Nat) : Nat :=
  let o := dOp d
  let n := dLen d
  let flag := (dFlags d).testBit 1
  let lba := dArg d % 2 ^ 48
  let useSrc := opUsesSrc o && n != 0
  let useDst := opUsesDst o && n != 0
  if !([0x00, 0x01, 0x02, 0x03, 0x04, 0x40, 0x41, 0x48, 0x49, 0x4A].contains o) then 0x0701
  else if !allZero (sliceBytes d 11 5) || !allZero (sliceBytes d 56 8) || 8 ≤ dFlags d || dFlagOff d % 8 != 0 || !argOk o (dArg d)
      || (!opUsesLen o && n != 0) || (!opUsesSrc o && (leAt d 8 1 != 0 || dSrcOff d != 0))
      || (!opUsesDst o && (leAt d 9 1 != 0 || dDstOff d != 0)) || (o == 0x03 && (dDstOff d % 16384 != 0 || n % 16384 != 0))
      || ((o == 0x40 || o == 0x41) && n % 64 != 0) || (o == 0x01 && src.kind == 1 && dst.kind == 1) then 0x0702
  else if (useSrc && (src.kind == 0 || !src.acc.testBit 0)) || (useDst && (dst.kind == 0 || (bufWrites o && !dst.acc.testBit 1)
      || (o == 0x03 && dst.kind != 2))) || (flag && (fl.kind == 0 || !fl.acc.testBit 1)) then 0x0703
  else if (useSrc && src.size < dSrcOff d + n) || (useDst && dst.size < dDstOff d + n) || (flag && fl.size * 64 < dFlagOff d + 8)
      || ([0x40, 0x41, 0x48, 0x49].contains o && space.elim true fun b => b < lba + n / 64) then 0x0704
  else if (useSrc && !src.spanOk) || (useDst && !dst.spanOk) || (flag && !fl.spanOk) then 0x0705
  else if s.stepHolds && ((useDst && bufWrites o && dst.kind == 2 && s.heldSpan (dst.base + 64 * dDstOff d) (64 * n))
      || (flag && fl.kind == 2 && s.heldSpan (fl.base + dFlagOff d) 8)) then 0x0706
  else if o = 0x49 ∧ s.stepState ≠ stCLOSED ∧ s.stepState ≠ stOUT then 0x0706
  else 0

/-- The queue's command, when it runs `op` and has got to `stage`. -/
def State.cmdAt (s : State) (q op stage : Nat) : Option HostCmd :=
  match (s.queue q).cmd with
  | some c => if dOp c.desc = op ∧ c.stage = stage then some c else none
  | none => none

/-- A command over: its status, logged where it is one of the host interface, and its RESULT. -/
def State.endCmd (s : State) (q stage status result : Nat) : State :=
  let cid := (s.queue q).cmd.elim 0 fun c => dCid c.desc
  let s := s.setCmd q fun c => { c with stage := stage, status := status, result := result, pages := [], ckpt := { c.ckpt with phase := 0, reading := none } }
  if status / 256 = 7 then s.logHif status q cid else s

/-- Whether a command fetched before the one numbered `n` has not completed on any queue (BARRIER). -/
def State.earlierRuns (s : State) (n : Nat) : Bool :=
  s.host.queues.any fun e => (e.2.fetched.any fun f => decide (f.num < n)) || e.2.cmd.elim false fun c => decide (c.num < n)

/-- The end of a restore for `restoreBad`: a failure counts until the next FINAL (R416). -/
def State.noteRestore (s : State) (d : List Byte) (bad : Bool) : State :=
  { s with eth := { s.eth with restoreBad := (s.eth.restoreBad || bad) && !(dArg d).testBit 48 } }

def State.startCmd (s : State) (q : Nat) (f : Fetched) (rest : List Fetched) : State :=
  let d := f.bytes
  let src := s.readBuf (leAt d 8 1)
  let dst := s.readBuf (leAt d 9 1)
  let fl := s.readBuf (leAt d 10 1)
  let c := s.cmdCode d src dst fl (s.space (bitsOf (dArg d) 63 60))
  let cmd : HostCmd := ⟨f.num, d, 0, 0, 0, src, dst, fl, [], CkptRun.init⟩
  let s := (s.setQueue q fun x => { x with fetched := rest, cmd := some cmd }).set (F.HIF_Q_STATUS_RUNNING q) 1
  if c ≠ 0 then (if dOp d = 0x49 then s.noteRestore d true else s : State).endCmd q 3 c 0
  else if [0x01, 0x02, 0x03].contains (dOp d) && dLen d == 0 then s.endCmd q 2 0 0
  else s

/-- A fetched command starts, after any BARRIER wait, and is checked (R384, R387, R388). -/
def execCommandStart (q : Nat) (s : State) : Res :=
  let x := s.queue q
  match x.fetched with
  | [] => .next s
  | f :: rest =>
    doIf (s.working && x.live && x.cmd.isNone && !((dFlags f.bytes).testBit 2 && s.earlierRuns f.num)) s fun s => s.startCmd q f rest

/-! Effects (R385). -/

def execCmdNop (q : Nat) (s : State) : Res := doIf (s.working && (s.cmdAt q 0x00 0).isSome) s fun s => s.endCmd q 2 0 0

/-- The code with which a command stops at a failed access to bonded memory: poisoned data, or the region controller's code. -/
def cmdMemCode (c : Nat) : Nat := if c = 0x0301 then 0x0708 else c

/-- A host line that a command reads: as the far cache holds it, else as the host returned it (R377, R378). -/
def State.hostLine (s : State) (line : Nat) (data : List Byte) : State × Except Nat (List Byte) :=
  let data := (s.farCopy line).elim data (·.data)
  match s.farPart .host line with
  | none => (s, .ok data)
  | some p => match s.farLine p line with
    | some e => ((s.farTouch p line).count 0x0060 p 1).farGet e
    | none => (s.count 0x0061 p 1, .ok data)

/-- Data of a command posted to host memory with Relaxed Ordering, each packet of at most the maximum payload size, and the read of the last
64 bytes that follows them (R362, R391). -/
def State.postHost (s : State) (addr : Nat) (l : List Byte) : State :=
  s.toHost (((packets s.host.maxPayload (l.length / 128 + 2) addr l.length).map fun e => .postedWrite e.1 (sliceBytes l (e.1 - addr) e.2))
    ++ [.hostRead (addr + l.length - 64) 64])

/-- Host lines that a command has written, confirmed (R391): through the host's partition of the far cache, where they stand written back,
or posted. -/
def State.cmdHostWrite (s : State) (addr : Nat) (l : List Byte) : State :=
  if l.isEmpty then s
  else
    let lines := (List.range (l.length / 64)).map fun i => (addr / 64 + i, sliceBytes l (64 * i) 64)
    let s := lines.foldl (fun s e => s.farOwn (s.farPart .host e.1) e.1) s
    if (s.farParts .host).isEmpty then s.postHost addr l
    else lines.foldl (fun s e => match s.farPart .host e.1 with
      | some p =>
        let s := s.count (if (s.farLine p e.1).isSome then 0x0060 else 0x0061) p 1
        ((s.farTouch p e.1).farInstall p e.1 e.2 false false).cacheWrite ⟨e.1, none, false⟩ e.2
      | none => s) s

/-- Where a host access of a command fails: the sector, and 1 for an error or 2 for poisoned data. -/
def hostCode (err : Option (Nat × Nat)) (i : Nat) : Nat :=
  err.elim 0 fun e => if e.1 = i then (if e.2 = 2 then 0x0708 else 0x0707) else 0

/-- Sectors moved one by one in ascending order: how many, the code that stopped them, bytes for the host (R390). -/
def moveSectors (src dst : Buf) (so dof : Nat) (host : List Byte) (err : Option (Nat × Nat)) : List Nat → State → State × Nat × List (List Byte)
  | [], s => (s, 0, [])
  | i :: r, s =>
    let c := hostCode err i
    if c ≠ 0 then (s, c, [])
    else
      let (s, d) : State × Except Nat (List Byte) :=
        if src.kind = 1 then s.hostLine (src.base / 64 + so + i) (sliceBytes host (64 * i) 64)
        else s.readRow rqHOST (dpaOfHda (src.base + 64 * (so + i))) 1
      match d with
      | .error c => (s, cmdMemCode c, [])
      | .ok d =>
        let (s, c) := if dst.kind = 1 then (s, 0) else s.writeRow rqHOST (dpaOfHda (dst.base + 64 * (dof + i))) d
        if c ≠ 0 then (s, c, [])
        else
          let (s, c, l) := moveSectors src dst so dof host err r s
          (s, c, d :: l)

/-- COPY (R385, R390): `host` are the bytes the host returns for a HOST source, `err` where a host access fails. -/
def State.doCopy (s : State) (q : Nat) (c : HostCmd) (host : List Byte) (err : Option (Nat × Nat)) : State :=
  let d := c.desc
  let (s, code, l) := moveSectors c.src c.dst (dSrcOff d) (dDstOff d) host err (List.range (dLen d)) s
  let s := if c.src.kind = 1 then s.readHost (c.src.base + 64 * dSrcOff d) (64 * dLen d) else s
  let s := if c.dst.kind = 1 then s.cmdHostWrite (c.dst.base + 64 * dDstOff d) l.flatten else s
  s.endCmd q 2 code l.length

/-- What a running command does while the host link is up. -/
def cmdRow (q op : Nat) (s : State) (k : HostCmd → State → State) : Res :=
  match s.cmdAt q op 0 with
  | none => .next s
  | some c => doIf (s.working && s.hostLive) s (k c)

def execCopy (q : Nat) (host : List Byte) (err : Option (Nat × Nat)) (s : State) : Res :=
  cmdRow q 0x01 s fun c s => s.doCopy q c host err

/-- FILL (R385). -/
def State.doFill (s : State) (q : Nat) (c : HostCmd) (err : Option (Nat × Nat)) : State :=
  let sector := (List.replicate 8 (leBytes 8 (dArg c.desc))).flatten
  let off := dDstOff c.desc
  let (s, code, n) := (List.range (dLen c.desc)).foldl (fun (r : State × Nat × Nat) i =>
    if r.2.1 ≠ 0 then r
    else if hostCode err i ≠ 0 then (r.1, hostCode err i, r.2.2)
    else if c.dst.kind = 1 then (r.1, 0, r.2.2 + 1)
    else
      let (s, e) := r.1.writeRow rqHOST (dpaOfHda (c.dst.base + 64 * (off + i))) sector
      (s, e, if e = 0 then r.2.2 + 1 else r.2.2)) (s, 0, 0)
  let s := if c.dst.kind = 1 then s.cmdHostWrite (c.dst.base + 64 * off) (List.replicate n sector).flatten else s
  s.endCmd q 2 code n

def execFill (q : Nat) (err : Option (Nat × Nat)) (s : State) : Res := cmdRow q 0x02 s fun c s => s.doFill q c err

/-- FC_FLUSH (R385): `err` names the first dirty line whose writeback ends with an error, at which the command stops (R390); it stays
dirty, and so do the lines behind it. -/
def State.doFlush (s : State) (q : Nat) (c : HostCmd) (err : Option Nat) : State :=
  let marked (e : FarLine) : Bool := (dArg c.desc).testBit e.part
  let drop := (dArg c.desc).testBit 16
  let dirty := s.far.lines.filter fun e => marked e && e.dirty
  let done := err.elim dirty dirty.take
  let stops := decide (done.length < dirty.length)
  let gone (e : FarLine) : Bool := marked e && (!e.dirty || done.contains e)
  let s := s.toHost (done.map fun e => .hostWrite (64 * e.line) e.data)
  let lost := if drop then s.far.lines.filter fun e => gone e && e.pf else []
  let s := lost.foldl (fun s e => s.inc (F.DBG_PF_EVICTED_COUNT e.part)) s
  let left (l : List FarLine) : List FarLine :=
    if drop then l.filter fun e => !gone e else l.map fun e => if gone e then { e with dirty := false } else e
  let s := s.setFar fun x => { x with lines := left x.lines }
  s.endCmd q 2 (if stops then 0x0707 else 0) done.length

def execFcFlush (q : Nat) (err : Option Nat) (s : State) : Res := cmdRow q 0x04 s fun c s => s.doFlush q c err

/-! BIAS (R371 to R374). -/

/-- The lines of a page. -/
def linesOf (p : Nat) : List Nat := (List.range (pageBytes / 64)).map (p * (pageBytes / 64) + ·)
/-- Whether a snoop of a page is unanswered. -/
def State.pageSnooped (s : State) (p : Nat) : Bool := s.host.snoops.any fun e => e.1 / (pageBytes / 64) == p
/-- Whether an accepted device access to a page is not complete. -/
def State.pageBusy (s : State) (p : Nat) : Bool := s.regions.held.any fun r => r.req != rqHOST && hdaOfDpa r.addr / pageBytes == p

/-- Pages whose change can take effect take it: accepted accesses are complete, and for a change to DEVICE the host has answered for every
line. RESULT counts those whose bias has changed; the command is over when none is left (R372). -/
def State.biasSettle (s : State) (q : Nat) (c : HostCmd) : State :=
  let new := dArg c.desc
  let ready := c.pages.filter fun p => !s.pageBusy p && (new = 1 || !s.pageSnooped p)
  let n := c.result + (ready.filter fun p => s.g (F.PAGE_BIAS_BIAS p) != new).length
  let s := ready.foldl (fun s p => s.setAll [(F.PAGE_BIAS_BIAS p, new), (F.PAGE_BIAS_CHANGING p, 0)]) s
  let left := c.pages.filter fun p => !ready.contains p
  if left.isEmpty then s.endCmd q 2 c.status n else s.setCmd q fun c => { c with pages := left, result := n }

/-- A BIAS command marks every page of its span and, for a change to DEVICE, asks the host for every line of the pages that change. -/
def State.biasBegin (s : State) (q : Nat) (c : HostCmd) : State :=
  let new := dArg c.desc
  if new = 1 ∧ !s.cxl then s.endCmd q 2 0x0707 0
  else
    let pages := pagesOf (c.dst.base + 64 * dDstOff c.desc) (64 * dLen c.desc)
    let lines := if new = 0 then (pages.filter fun p => s.g (F.PAGE_BIAS_BIAS p) != 0).flatMap linesOf else []
    let s := pages.foldl (fun s p => s.setAll [(F.PAGE_BIAS_CHANGING p, 1), (F.PAGE_BIAS_TIMEOUT p, 0)]) s
    let s := (s.setHost fun h => { h with snoops := h.snoops ++ lines.map fun l => (l, true) }).toHost (lines.map fun l => .biSnoop l true)
    let c := { c with stage := 1, pages := pages }
    (s.setCmd q fun _ => c).biasSettle q c

def execBias (q : Nat) (s : State) : Res :=
  match s.cmdAt q 0x03 0, s.cmdAt q 0x03 1 with
  | some c, _ => doIf s.working s fun s => s.biasBegin q c
  | none, some c => doIf s.working s fun s => s.biasSettle q c
  | none, none => .next s

/-- Every BIAS command that awaits answers looks again. -/
def State.biasAll (s : State) : State :=
  [0, 1, 2, 3].foldl (fun s q => match s.cmdAt q 0x03 1 with
    | some c => s.biasSettle q c
    | none => s) s

/-- The host answers a snoop, with the line when its copy is dirty (R371, R372). -/
def execBisnpResponse (line : Nat) (inv : Bool) (data : Option (List Byte)) (s : State) : Res :=
  doIf (s.hostLive && s.host.snoops.contains (line, inv)) s fun s =>
    let s := match data with
      | some d => s.hostWriteSector (64 * line) (sliceBytes d 0 64) (List.replicate 64 true)
      | none => s
    (s.setHost fun h => { h with
      snoops := h.snoops.filter (· != (line, inv))
      lines := Sparse.put 0 line (if inv ∨ Sparse.get 0 line h.lines = 0 then 0 else 3) h.lines }).biasAll

/-- A page whose snoops are unanswered for 10 ms stays SHARED (R373). -/
def execBiasSnoopTimeout (p : Nat) (s : State) : Res :=
  doIf (s.powered && s.on (F.PAGE_BIAS_CHANGING p) && s.pageSnooped p) s fun s =>
    let s := s.setAll [(F.PAGE_BIAS_CHANGING p, 0), (F.PAGE_BIAS_TIMEOUT p, 1)]
    let s := s.setHost fun h => { h with snoops := h.snoops.filter fun e => e.1 / (pageBytes / 64) != p }
    let s := [0, 1, 2, 3].foldl (fun s q => s.setCmd q fun c =>
      if c.stage = 1 ∧ c.pages.contains p then { c with pages := c.pages.filter (· != p), status := 0x070D } else c) s
    s.biasAll

/-! Completion (R391 to R393). -/

/-- The completion record (R392). -/
def State.cqRecord (s : State) (q : Nat) (c : HostCmd) : List Byte :=
  leBytes 2 (dCid c.desc) ++ leBytes 2 c.status ++ leBytes 2 (s.g (F.HIF_Q_STATUS_SQ_HEAD q)) ++ leBytes 1 q
    ++ leBytes 1 (bit (s.queue q).phase) ++ leBytes 8 c.result ++ leBytes 8 s.time ++ List.replicate 8 0

/-- The flag, for a command that passed its checks (R388, R391). -/
def State.writeFlag (s : State) (c : HostCmd) : State :=
  if !((dFlags c.desc).testBit 1 && c.stage == 2) then s
  else
    let a := c.flag.base + dFlagOff c.desc
    let v := leBytes 8 (dFlagValue c.desc)
    if c.flag.kind = 1 then s.toHost [.hostWrite a v]
    else
      let off := a % 64
      s.hostWriteSector (a - off) (List.replicate off 0 ++ v ++ List.replicate (56 - off) 0)
        (List.replicate off false ++ List.replicate 8 true ++ List.replicate (56 - off) false)

def State.completeCmd (s : State) (q : Nat) (c : HostCmd) : State :=
  let s := s.writeFlag c
  let x := s.queue q
  let s := (s.toHost [.hostWrite (x.cqBase + 32 * x.cqTail) (s.cqRecord q c)]).count 0x0080 q 1
  let s := closeCommand q 8 s
  let t := (x.cqTail + 1) % x.entries
  let s := s.setQueue q fun x => { x with cmd := none, cqTail := t, phase := if t = 0 then !x.phase else x.phase }
  let s := s.set (F.HIF_Q_STATUS_RUNNING q) 0
  if (dFlags c.desc).testBit 0 then s.raise q else s

/-- Every write of the command is confirmed: flag, record, interrupt; a full CQ makes the queue wait (R391, R393). -/
def execCommandComplete (q : Nat) (s : State) : Res :=
  match (s.queue q).cmd with
  | none => .next s
  | some c =>
    doIf (s.working && s.hostLive && decide (2 ≤ c.stage)) s fun s =>
      if s.cqFull q then s.set (F.HIF_Q_STATUS_CQ_FULL q) 1 else s.completeCmd q c

end Sys2Proof.Machine
end

