-- ==== Sys2Proof/Machine/Update.lean ====
section
/-!
DEFINITION. The update units' commands: programs run whole and instruction by instruction, working copies, late groups and the
exchange between pods (spec 11_update_units.md, 13_ethernet_ports.md R417 to R419).
-/
namespace Sys2Proof.Machine

/-! Whole passes (R337). -/

/-- A pass, or a whole segment-scope program, run on a segment. -/
def State.runPass (s : State) (gi seg p : Nat) (late : Option Nat) (ver : Nat) (g : Group) : State :=
  match s.uStart gi seg p late ver g with
  | (s, some r) => State.uRun ((s.progOf g).instrs.length + 1) r s
  | (s, none) => s

/-- A pass that is due runs on its segment. -/
def State.duePass (s : State) (gi seg p : Nat) (scope : Bool) : Res :=
  match s.group gi with
  | none => .next s
  | some g => act (groupScope (s.progOf g).instrs == scope && s.passDue gi seg p g) s fun s => s.runPass gi seg p none s.readVersion g

def execUpdateProgramSegment (g seg : Nat) (s : State) : Res := s.duePass g seg 0 false
def execUpdateProgramPass (g p seg : Nat) (s : State) : Res := s.duePass g seg p true

/-! Instruction by instruction (R342, R343). -/

def State.setRuns (s : State) (f : List URun → List URun) : State := { s with upd := { s.upd with runs := f s.upd.runs } }

/-- The run of a unit. -/
def State.runOf (s : State) (u : Nat) : Option URun := s.upd.runs.find? (·.unit == u)

/-- The opcode of a run's next instruction. -/
def State.nextOp (s : State) (r : URun) : Option Nat := (s.group r.group).bind fun g => ((s.progOf g).instrs[r.pc]?).map (·.op)

/-- A run's next instruction carried out; a run that ends leaves its unit. -/
def State.runNext (s : State) (r : URun) : State :=
  match s.uStep r with
  | (s, some r') => s.setRuns fun l => l.map fun x => if x.unit = r.unit then r' else x
  | (s, none) => (s.setRuns fun l => l.filter fun x => !(x.unit == r.unit)).setBusy r.unit false

/-- A run placed in its unit at the start of a pass, and its first instruction carried out. -/
def State.runBegin (s : State) (gi seg p : Nat) (g : Group) : State :=
  match s.uStart gi seg p none s.readVersion g with
  | (s, some r) => ((s.setRuns fun l => l ++ [r]).setBusy r.unit true).runNext r
  | (s, none) => s

/-- One update instruction of opcode `op` at unit `u`. -/
def unitOp (op u : Nat) (s : State) : Res :=
  match s.runOf u with
  | none => .next s
  | some r => act (s.working && s.tilesRun && s.nextOp r == some op) s fun s => s.runNext r

/-- The instruction with which a run of pass `p` begins: the program's first, or the pass's PASS. -/
def passFirst (l : List UInstr) (p : Nat) : Option Nat := (l[if p = 0 then 0 else passPc l p]?).map (·.op)

/-- A run begun at an idle unit that serves the segment, when its first instruction is `op`. -/
def unitBegin (op u gi seg p : Nat) (s : State) : Res :=
  match s.group gi with
  | none => .next s
  | some g =>
    act (s.passDue gi seg p g && s.unitOf gi seg == u && passFirst (s.progOf g).instrs p == some op) s fun s =>
      s.runBegin gi seg p g

def execUpdPass (u g seg p : Nat) (s : State) : Res := if (s.runOf u).isSome then unitOp uPASS u s else unitBegin uPASS u g seg p s
def execUpdWcf (u g seg : Nat) (s : State) : Res := if (s.runOf u).isSome then unitOp uWCF u s else unitBegin uWCF u g seg 0 s
def execUpdEnd (u : Nat) (s : State) : Res := unitOp uEND u s
def execUpdAdd (u : Nat) (s : State) : Res := unitOp 0x10 u s
def execUpdSub (u : Nat) (s : State) : Res := unitOp 0x11 u s
def execUpdMul (u : Nat) (s : State) : Res := unitOp 0x12 u s
def execUpdFma (u : Nat) (s : State) : Res := unitOp 0x13 u s
def execUpdMax (u : Nat) (s : State) : Res := unitOp 0x14 u s
def execUpdMin (u : Nat) (s : State) : Res := unitOp 0x15 u s
def execUpdNeg (u : Nat) (s : State) : Res := unitOp 0x16 u s
def execUpdAbs (u : Nat) (s : State) : Res := unitOp 0x17 u s
def execUpdCmplt (u : Nat) (s : State) : Res := unitOp 0x18 u s
def execUpdSel (u : Nat) (s : State) : Res := unitOp 0x19 u s
def execUpdExp2 (u : Nat) (s : State) : Res := unitOp 0x20 u s
def execUpdLog2 (u : Nat) (s : State) : Res := unitOp 0x21 u s
def execUpdRcp (u : Nat) (s : State) : Res := unitOp 0x22 u s
def execUpdRsqrt (u : Nat) (s : State) : Res := unitOp 0x23 u s
def execUpdSqrt (u : Nat) (s : State) : Res := unitOp 0x24 u s
def execUpdAcc (u : Nat) (s : State) : Res := unitOp uACC u s
def execUpdStw (u : Nat) (s : State) : Res := unitOp uSTW u s
def execUpdStm (u : Nat) (s : State) : Res := unitOp uSTM u s
def execUpdStf (u : Nat) (s : State) : Res := unitOp uSTF u s

/-! Working copies (R347, R349). -/

/-- Whether every ring that the jobs use carries data. -/
def State.ringsCarry (s : State) : Bool :=
  (if s.torus then [0, 1] else [0]).all fun r => s.ringUp r || s.ringState r == ringBYPASSED

def execWcDerive (s : State) : Res := act (s.working && s.ringsCarry && s.deriveDue.isSome) s State.deriveNext

/-! Late groups (R350, R351). -/

/-- The gradient of a late segment copied into pending slot N mod 5; one that is exchanged between pods is held until its sum over the pods
can be formed (R350, R354, log entry 57). -/
def State.lateCopy (s : State) (gi seg : Nat) : State :=
  let n := s.workStep
  let u := s.unitOf gi seg
  let (s, l, c) := s.readPart (rqUPD + u) s.ring.redPart (65536 * seg) 65536
  if c ≠ 0 then s.updFault 0x0601 u seg
  else
    let p := (s.pendingOf gi n).getD ⟨gi, n, [], [], [], true, false⟩
    let p := { p with copied := p.copied ++ [seg] }
    if (s.lateOf gi).elim false fun e => e.source == 1
    then (s.setPending { p with own := p.own ++ [(seg, l)] }).podSum gi n seg
    else s.slotWrite gi n seg p l

def execLatePendingCopy (g seg : Nat) (s : State) : Res :=
  match s.group g with
  | none => .next s
  | some b =>
    let own := s.ownedOf b
    act (s.working && s.stepOpen && !s.replaying && b.late && own.contains seg && own.all s.red.reduced.contains
      && !(s.pendingOf g s.workStep).elim false fun p => p.copied.contains seg) s fun s => s.lateCopy g seg

/-- Whether every read that an application starts with can be answered at once. -/
def State.lateReady (s : State) (gi n ver : Nat) (own : List Nat) : Bool :=
  own.all fun k => (s.uInputs (s.unitOf gi k) gi k (some n) ver).2.isSome

/-- One application: the group's program on every owned segment, with G from the pending slot. -/
def State.lateApply (s : State) (gi n ver : Nat) (g : Group) (own : List Nat) : State :=
  let drop (l : List (Nat × Nat × Nat)) : List (Nat × Nat × Nat) := l.filter fun e => e.1 != gi
  let s := { s with upd := { s.upd with
    done := drop s.upd.done, crcs := drop s.upd.crcs, totals := s.upd.totals.filter fun t => t.group != gi } }
  let passes := if groupScope (s.progOf g).instrs then passCount (s.progOf g).instrs else 1
  let s := (List.range passes).foldl (fun s p => own.foldl (fun s k => s.runPass gi k p (some n) ver g) s) s
  let s := match s.pendingOf gi n with
    | some p => s.setPending { p with applied := true }
    | none => s
  { s with upd := { s.upd with due := s.upd.due.filter fun e => !(e == (gi, n)) } }.dropLoose

/-- The version that an application reads (R351): the one in use, then what the application before it wrote. -/
def State.lateVersion (s : State) (gi : Nat) : Nat :=
  if s.upd.pending.any fun p => p.group == gi && p.applied then s.writeVersion else s.readVersion

/-- The oldest application of a group still due in the open step. -/
def State.lateFirst (s : State) (gi : Nat) : Option Nat := (s.upd.due.find? fun e => e.1 == gi).map (·.2)

def execLateApplication (g n : Nat) (s : State) : Res :=
  match s.group g with
  | none => .next s
  | some b =>
    let own := s.ownedOf b
    act (s.working && s.stepOpen && !s.replaying && s.lateFirst g == some n && !s.on F.RED_STATUS_SKIP
        && !s.ckptHolds s.writeVersion
        && (s.pendingOf g n).elim false fun p => own.all p.summed.contains) s fun s =>
      let ver := s.lateVersion g
      if s.lateReady g n ver own then s.lateApply g n ver b own
      else own.foldl (fun s k => (s.uInputs (s.unitOf g k) g k (some n) ver).1) s

/-! Between pods (R417 to R419). -/

/-- Bytes of the SEND that follows a pod copy (R417). -/
def podMessage (step group pod attempt seg crc : Nat) : List Byte :=
  leBytes 8 step ++ leBytes 2 group ++ leBytes 1 pod ++ leBytes 1 attempt ++ leBytes 4 seg ++ leBytes 8 crc ++ List.replicate 8 0

/-- The pod set of a SOURCE 1 group. -/
def State.podSetOf (s : State) (gi : Nat) : Option Nat := (s.lateOf gi).bind fun e => if e.source = 1 then some e.podSet else none

/-- A reduced late segment sent to one other pod of its set. -/
def State.podSend (s : State) (gi seg pod k : Nat) : State :=
  let n := s.workStep
  let self := s.g (F.ETH_PODS_SELF k)
  let qp := s.g (F.ETH_PODS_QP_BASE k) + pod
  let (s, l, c) := s.readPart rqETH s.ring.redPart (65536 * seg) 65536
  if c ≠ 0 then s.updFault 0x0601 (s.unitOf gi seg) seg
  else
    let s := (s.emit (.rdmaWrite qp (s.podOffset gi n self (s.ownIndex gi seg)) l)).emit
      (.rdmaSend qp (podMessage n gi self s.workAttempt seg (crc64 l)))
    { s with upd := { s.upd with podSent := s.upd.podSent ++ [(gi, n, seg, pod)] } }

/-- Traffic goes out while the queue pair is RTS on a port that is up (R403, R424). -/
def execPodExchangeSend (g seg pod : Nat) (s : State) : Res :=
  match s.podSetOf g with
  | none => .next s
  | some k =>
    act (s.working && s.stepOpen && !s.replaying && (s.group g).elim false (fun b => (s.ownedOf b).contains seg)
      && s.red.reduced.contains seg && decide (pod < s.g (F.ETH_PODS_COUNT k)) && pod != s.g (F.ETH_PODS_SELF k)
      && s.qpReady (s.g (F.ETH_PODS_QP_BASE k) + pod)
      && !s.upd.podSent.contains (g, s.workStep, seg, pod)) s fun s => s.podSend g seg pod k

/-- The SEND of a pod copy, whose bytes the WRITE before it has put in place: the first copy whose CRC is right is kept (R418).
A slot taken for a later step forgets the copy it held. -/
def State.podReceive (s : State) (gi pod n seg crc : Nat) : State :=
  let (_, _, part) := s.podSet gi
  let (s, l, c) := s.readPart rqETH part (s.podOffset gi n pod (s.ownIndex gi seg)) 65536
  if c ≠ 0 ∨ crc64 l ≠ crc then s
  else
    let kept := s.upd.podGot.filter fun e => !(e.1 == gi && e.2.1 % 5 == n % 5 && e.2.2.1 == seg && e.2.2.2 == pod)
    let s := { s with upd := { s.upd with podGot := kept ++ [(gi, n, seg, pod)] } }
    s.podSum gi n seg

def execPodCopyReceive (qp : Nat) (msg : List Byte) (s : State) : Res :=
  let n := leAt msg 0 8
  let g := leAt msg 8 2
  let pod := leAt msg 10 1
  let seg := leAt msg 12 4
  match s.podSetOf g with
  | none => .next s
  | some k =>
    act (s.working && msg.length == 32 && qp == s.g (F.ETH_PODS_QP_BASE k) + pod && s.qpReady qp
        && decide (pod < s.g (F.ETH_PODS_COUNT k)) && pod != s.g (F.ETH_PODS_SELF k)
        && (s.group g).elim false (fun b => (s.ownedOf b).contains seg) && !s.upd.podGot.contains (g, n, seg, pod)) s fun s =>
      s.podReceive g pod n seg (leAt msg 16 8)

/-- An application has waited TIMEOUT_MS for its pending gradient (R419). -/
def execPodTimeout (g n : Nat) (s : State) : Res :=
  match s.podSetOf g, s.group g with
  | some k, some b =>
    act (s.working && s.stepOpen && s.on (F.ETH_PODS_TIMEOUT_MS k) && s.upd.due.contains (g, n)
        && !(s.pendingOf g n).elim false fun p => (s.ownedOf b).all p.summed.contains) s fun s =>
      let q := s.g (F.ETH_PODS_QP_BASE k)
      (s.logEth 0x080A q (s.qpPort q)).recordFail 0x080A 0xFFFF
  | _, _ => .next s

end Sys2Proof.Machine
end

