-- ==== Sys2Proof/Machine/Storage.lean ====
section
/-!
DEFINITION. Storage over NVMe: the storage commands, checkpoints, ingest (spec 13_ethernet_ports.md R402, R405 to R416).
-/
namespace Sys2Proof.Machine

def State.setEth (s : State) (f : EthCtl → EthCtl) : State := { s with eth := f s.eth }

def blockBytes' : Nat := 4096
/-- Bytes padded with zeros to whole blocks. -/
def padBlocks (l : List Byte) : List Byte := l ++ List.replicate (roundUp l.length blockBytes' - l.length) 0
def blocksOf (n : Nat) : Nat := (n + blockBytes' - 1) / blockBytes'

def cmdCtrl (d : List Byte) : Nat := bitsOf (dArg d) 63 60
def cmdLba (d : List Byte) : Nat := dArg d % 2 ^ 48

/-- A storage command that has failed with a code of the Ethernet block, on a queue pair. -/
def State.failStorage (s : State) (q code qp : Nat) : State :=
  (s.logEth code qp (s.qpPort qp)).endCmd q 2 code 0

/-! NVME_READ and NVME_WRITE (R405, R406). -/

def execNvmeRead (q : Nat) (s : State) : Res :=
  match s.cmdAt q 0x40 0 with
  | none => .next s
  | some c =>
    doIf s.working s fun s =>
      if dLen c.desc = 0 then s.endCmd q 2 0 0
      else (s.setCmd q fun c => { c with stage := 1 }).issueNvme q (cmdCtrl c.desc) false (cmdLba c.desc) (dLen c.desc / 64) []

/-- Sectors of a command's source read in ascending order: the bytes, and the code of a failure. -/
def readSource (req : Nat) (src : Buf) (off : Nat) (host : List Byte) (err : Option (Nat × Nat)) : List Nat → State → State × List Byte × Nat
  | [], s => (s, [], 0)
  | i :: r, s =>
    let c := hostCode err i
    if c ≠ 0 then (s, [], c)
    else
      let (s, d) : State × Except Nat (List Byte) :=
        if src.kind = 1 then s.hostLine (src.base / 64 + off + i) (sliceBytes host (64 * i) 64)
        else s.readRow req (dpaOfHda (src.base + 64 * (off + i))) 1
      match d with
      | .error c => (s, [], cmdMemCode c)
      | .ok d =>
        let (s, l, c) := readSource req src off host err r s
        (s, d ++ l, c)

/-- NVME_WRITE: `host` are the bytes of a HOST source. A source that cannot be read whole is not written. -/
def execNvmeWrite (q : Nat) (host : List Byte) (err : Option (Nat × Nat)) (s : State) : Res :=
  match s.cmdAt q 0x41 0 with
  | none => .next s
  | some c =>
    doIf (s.working && (c.src.kind != 1 || s.hostLive)) s fun s =>
      let (s, l, e) := readSource rqETH c.src (dSrcOff c.desc) host err (List.range (dLen c.desc)) s
      if e ≠ 0 then s.endCmd q 2 e 0
      else if l.isEmpty then s.endCmd q 2 0 0
      else (s.setCmd q fun c => { c with stage := 1 }).issueNvme q (cmdCtrl c.desc) true (cmdLba c.desc) (l.length / blockBytes') l

/-- Data read from storage written to a command's destination: sectors moved, and the code of a failure. -/
def State.landRead (s : State) (dst : Buf) (off : Nat) (data : List Byte) : State × Nat × Nat :=
  if dst.kind = 1 then (s.cmdHostWrite (dst.base + 64 * off) data, data.length / 64, 0)
  else
    (List.range (data.length / 64)).foldl (fun (r : State × Nat × Nat) i =>
      if r.2.2 ≠ 0 then r
      else
        let (s, e) := r.1.writeRow rqETH (dpaOfHda (dst.base + 64 * (off + i))) (sliceBytes data (64 * i) 64)
        (s, if e = 0 then r.2.1 + 1 else r.2.1, e)) (s, 0, 0)

/-! Checkpoints: writing (R410 to R414). -/

/-- Pieces in ascending index, and of one index in the order they had. -/
def putPart (p : CkptPart) : List CkptPart → List CkptPart
  | [] => [p]
  | q :: r => if p.index < q.index then p :: q :: r else q :: putPart p r
def sortParts (l : List CkptPart) : List CkptPart := l.foldl (fun a p => putPart p a) []

/-- What a checkpoint of the version in use holds, in ascending group and then ascending index (R410). -/
def State.ckptParts (s : State) : List CkptPart :=
  let v := s.version
  (s.ring.groups.zipIdx).flatMap fun e =>
    let gi := e.2
    let own := s.ownedOf e.1
    let recs := own.filterMap fun seg => (s.partAt gi (s.ownIndex gi seg) v).map fun p =>
      (⟨0, gi, seg, 0, p.host, p.addr, partBytes e.1 (s.progOf e.1).instrs⟩ : CkptPart)
    let low := ((s.ring.jobs.zipIdx).filter fun j => j.1.group == gi && j.1.mode == 1).flatMap fun j =>
      (List.range (j.1.segCount + j.1.rank)).filterMap fun u => (s.lowPlace j.2 v u j.1).map fun p => (j.2, u, p)
    let low := (low.zipIdx).map fun u => (⟨1, gi, u.2, 0, u.1.2.2.host, u.1.2.2.addr, 65536⟩ : CkptPart)
    let pend := (s.upd.pending.filter fun p => p.group == gi && !p.fresh).flatMap fun p =>
      (own.filter p.summed.contains).filterMap fun seg => (s.pendingUnit gi (p.step % 5) (s.ownIndex gi seg)).map fun pl =>
        (⟨2, gi, seg, p.step, pl.host, pl.addr, 65536⟩ : CkptPart)
    sortParts (recs ++ low ++ pend)

/-- The manifest's header (R412). -/
def State.manifestHead (s : State) (k entries : Nat) : List Byte :=
  bytesOf [0x5A, 0x4B, 0x43, 0x4D] ++ leBytes 2 1 ++ leBytes 2 0 ++ leBytes 4 entries ++ leBytes 4 0 ++ leBytes 8 k ++ leBytes 16 s.runId
    ++ leBytes 8 s.digest64 ++ leBytes 2 (s.ringSize 0) ++ leBytes 2 (s.ringSize 1) ++ leBytes 1 (s.g F.RED_COORD_A)
    ++ leBytes 1 (s.g F.RED_COORD_B) ++ List.replicate 10 0

/-- CKPT_WRITE begins: K and the version in use are taken, and block 0 is zeroed. -/
def execCkptWrite (q : Nat) (s : State) : Res :=
  match s.cmdAt q 0x48 0 with
  | none => .next s
  | some c =>
    doIf s.working s fun s =>
      let parts := s.ckptParts
      let k := s.g F.STEP_COMMITTED_NUMBER
      let run : CkptRun := ⟨1, k, some s.version, parts, [], s.manifestHead k parts.length⟩
      (s.setCmd q fun c => { c with stage := 1, ckpt := run }).issueNvme q (cmdCtrl c.desc) true (cmdLba c.desc) 1
        (List.replicate blockBytes' 0)

/-- The extents' bytes, those in host memory as the host returns them, with the code of a failure. -/
def readParts : List CkptPart → List Byte → State → State × List (List Byte) × Nat
  | [], _, s => (s, [], 0)
  | p :: r, host, s =>
    if p.host then
      let (s, l, c) := readParts r (host.drop p.len) s
      (s, sliceBytes host 0 p.len :: l, c)
    else
      let (s, b, c) := s.readMem rqETH p.addr (p.len / 64)
      if c ≠ 0 then (s, [], cmdMemCode c)
      else
        let (s, l, c) := readParts r host s
        (s, b :: l, c)

/-- The manifest's entries, from a first block on. -/
def ckptEntries : Nat → List (CkptPart × List Byte) → List Byte
  | _, [] => []
  | b, (p, l) :: r =>
    leBytes 1 p.kind ++ leBytes 1 0 ++ leBytes 2 p.group ++ leBytes 4 p.index ++ leBytes 4 b ++ leBytes 4 (blocksOf l.length)
      ++ leBytes 8 p.step ++ leBytes 8 (crc64 l) ++ ckptEntries (b + blocksOf l.length) r

/-- The checkpoint has read all its data (R411): `host` are the bytes of extents in host memory, in order. Their writing
begins. -/
def execCkptReadComplete (q : Nat) (host : List Byte) (err : Nat) (s : State) : Res :=
  match s.cmdAt q 0x48 1 with
  | none => .next s
  | some c =>
    doIf (s.working && c.ckpt.phase == 2 && c.ckpt.reading.isSome) s fun s =>
      let first := 1 + blocksOf (64 + 32 * c.ckpt.parts.length)
      let (s, l, e) := readParts c.ckpt.parts host s
      if e ≠ 0 ∨ err ≠ 0 then s.endCmd q 2 (if e ≠ 0 then e else if err = 2 then 0x0708 else 0x0707) 0
      else
        let data := l.flatMap padBlocks
        let m := c.ckpt.manifest ++ ckptEntries first (c.ckpt.parts.zip l)
        let s := s.setCmd q fun c => { c with ckpt := { c.ckpt with reading := none, manifest := m } }
        if data.isEmpty then (s.setCmd q fun c => { c with ckpt := { c.ckpt with phase := 3 } }).issueNvme q (cmdCtrl c.desc) true
          (cmdLba c.desc + 1) (blocksOf m.length) (padBlocks m)
        else s.issueNvme q (cmdCtrl c.desc) true (cmdLba c.desc + first) (data.length / blockBytes') data

/-- The commit record (R413); the checkpoint's blocks are those before the end of its last extent. -/
def commitRecord (c : CkptRun) (blocks : Nat) : List Byte :=
  let r := bytesOf [0x5A, 0x4B, 0x43, 0x43] ++ leBytes 2 1 ++ leBytes 2 0 ++ leBytes 8 c.step ++ sliceBytes c.manifest 24 16
    ++ leBytes 4 (blocksOf c.manifest.length) ++ leBytes 4 0 ++ leBytes 8 (crc64 c.manifest) ++ leBytes 8 blocks
  r ++ leBytes 8 (crc64 r)

def CkptRun.blocks (c : CkptRun) : Nat := 1 + blocksOf c.manifest.length + (c.parts.map fun p => blocksOf p.len).sum

/-- A part of a checkpoint is confirmed, and the next begins (R410). -/
def State.ckptNext (s : State) (q : Nat) (c : HostCmd) : State :=
  let set (n : Nat) (s : State) : State := s.setCmd q fun c => { c with ckpt := { c.ckpt with phase := n } }
  let ctrl := cmdCtrl c.desc
  let lba := cmdLba c.desc
  let m := c.ckpt.manifest
  if c.ckpt.phase = 1 then set 2 s
  else if c.ckpt.phase = 2 then (set 3 s).issueNvme q ctrl true (lba + 1) (blocksOf m.length) (padBlocks m)
  else if c.ckpt.phase = 3 then (set 4 s).issueNvme q ctrl true lba 1 (padBlocks (commitRecord c.ckpt c.ckpt.blocks))
  else s.endCmd q 2 0 c.ckpt.parts.length

/-! Checkpoints: restoring (R414 to R416). -/

/-- CKPT_RESTORE begins with block 0 of the slot. -/
def execCkptRestore (q : Nat) (s : State) : Res :=
  match s.cmdAt q 0x49 0 with
  | none => .next s
  | some c =>
    doIf s.working s fun s =>
      (s.setCmd q fun c => { c with stage := 1, ckpt := { CkptRun.init with phase := 5 } }).issueNvme q (cmdCtrl c.desc) false
        (cmdLba c.desc) 1 []

/-- A restore ends (R416): FINAL inverts VERSION when every restore since the last FINAL has gone well. -/
def State.restoreEnd (s : State) (q code written : Nat) (c : HostCmd) : State :=
  let bad := s.eth.restoreBad || code != 0
  let final := (dArg c.desc).testBit 48
  let k := c.ckpt.step
  let s := s.noteRestore c.desc (code != 0)
  let s := if final && !bad then
      s.forgetGathers.setAll [(F.STEP_VERSION_VERSION, 1 - s.version), (F.STEP_VERSION_PREV_VALID, 0),
        (F.STEP_COMMITTED_NUMBER, k), (F.STEP_NUMBER_NUMBER, k + 1), (F.STEP_STATUS_STATE, stCLOSED)]
    else s
  if code / 256 = 8 then s.failStorage q code (ioPair (cmdCtrl c.desc)) else s.endCmd q 2 code written

/-- The checks of a commit record, and of a manifest against it (R414). -/
def recordOk (r : List Byte) : Bool :=
  r.take 4 == bytesOf [0x5A, 0x4B, 0x43, 0x43] && leAt r 56 8 == crc64 (sliceBytes r 0 56)
def manifestOf (data : List Byte) : List Byte := sliceBytes data 0 (min data.length (64 + 32 * leAt data 8 4))
def manifestOk (r m : List Byte) : Bool :=
  leAt r 40 8 == crc64 m && m.length == 64 + 32 * leAt m 8 4 && m.take 4 == bytesOf [0x5A, 0x4B, 0x43, 0x4D]
    && leAt m 16 8 == leAt r 8 8 && leAt m 24 16 == leAt r 16 16

/-- An entry of a manifest: KIND, GROUP, INDEX, STEP, first block, CRC. -/
structure CkptEntry where
  kind : Nat
  group : Nat
  index : Nat
  step : Nat
  block : Nat
  crc : Nat
  deriving DecidableEq, Repr

def entriesOf (m : List Byte) : List CkptEntry :=
  (chunksOf 32 (m.length / 32) (m.drop 64)).map fun e => ⟨leAt e 0 1, leAt e 2 2, leAt e 4 4, leAt e 16 8, leAt e 8 4, leAt e 24 8⟩

/-- Unpadded bytes of an entry's extent: those of its group's records now, or a unit. -/
def State.entryLen (s : State) (e : CkptEntry) : Nat :=
  if e.kind = 0 then (s.group e.group).elim 0 fun g => partBytes g (s.progOf g).instrs else 65536

/-- An entry's bytes among the data, which begin at block `first` of the slot. -/
def State.entryBytes (s : State) (first : Nat) (data : List Byte) (e : CkptEntry) : List Byte :=
  sliceBytes data (blockBytes' * (e.block - first)) (s.entryLen e)

/-- Where low-rank unit `u` of a group lies in a version. -/
def State.lowAt (s : State) (gi v u : Nat) : Option (Place × Nat) :=
  (((s.ring.jobs.zipIdx).filter fun j => j.1.group == gi && j.1.mode == 1).flatMap fun j =>
    (List.range (j.1.segCount + j.1.rank)).filterMap fun u => (s.lowPlace j.2 v u j.1).map fun p => (p, u))[u]?

/-- An entry written into the inactive version; the number of segments written grows for a shard record. -/
def State.restoreEntry (s : State) (same : Bool) (e : CkptEntry) (l : List Byte) (n : Nat) : State × Nat :=
  match s.group e.group with
  | none => (s, n)
  | some g =>
    let own := (s.ownedOf g).contains e.index
    let k := s.ownIndex e.group e.index
    if e.kind = 0 then
      match own, s.partAt e.group k s.writeVersion with
      | true, some p => (s.unitStore (s.unitOf e.group e.index) e.index p l, n + 1)
      | _, _ => (s, n)
    else if e.kind = 1 then
      match same, s.lowAt e.group s.writeVersion e.index with
      | true, some (p, u) => (s.unitStore (servingUnit p u) e.index p l, n)
      | _, _ => (s, n)
    else
      match own, s.pendingUnit e.group (e.step % 5) k with
      | true, some p =>
        let s := (s.unitWrite (s.unitOf e.group e.index) p l).1
        let old := (s.pendingOf e.group e.step).getD ⟨e.group, e.step, [], [], [], false, false⟩
        let add (x : List Nat) : List Nat := if x.contains e.index then x else x ++ [e.index]
        (s.setPending { old with copied := add old.copied, summed := add old.summed }, n)
      | _, _ => (s, n)

/-- Whether an extent's length is known here: that of a shard record is its group's. -/
def State.lenKnown (s : State) (e : CkptEntry) : Bool := e.kind != 0 || (s.group e.group).isSome

/-- The data of a slot checked (R414), every extent whether this device owns its segment or not, and written (R415). -/
def State.restoreData (s : State) (q : Nat) (c : HostCmd) (data : List Byte) : State :=
  let m := c.ckpt.manifest
  let first := 1 + blocksOf m.length
  let es := entriesOf m
  if (es.filter s.lenKnown).any fun e => crc64 (s.entryBytes first data e) != e.crc then s.restoreEnd q 0x0808 0 c
  else
    let same := leAt m 48 2 == s.ringSize 0 && leAt m 50 2 == s.ringSize 1 && leAt m 52 1 == s.g F.RED_COORD_A
      && leAt m 53 1 == s.g F.RED_COORD_B
    let (s, n) := es.foldl (fun (r : State × Nat) e => r.1.restoreEntry same e (s.entryBytes first data e) r.2) (s, 0)
    s.restoreEnd q 0 n c

/-- What a read of a restore has returned: the record, the manifest, the data. -/
def State.restoreNext (s : State) (q : Nat) (c : HostCmd) (data : List Byte) : State :=
  let ctrl := cmdCtrl c.desc
  let lba := cmdLba c.desc
  let r := c.ckpt.record
  if c.ckpt.phase = 5 then
    let r := sliceBytes data 0 64
    if !recordOk r then s.restoreEnd q 0x0808 0 c
    else (s.setCmd q fun c => { c with ckpt := { c.ckpt with phase := 6, record := r, step := leAt r 8 8 } }).issueNvme q ctrl false (lba + 1)
      (leAt r 32 4) []
  else if c.ckpt.phase = 6 then
    let m := manifestOf data
    if !manifestOk r m then s.restoreEnd q 0x0808 0 c
    else if leAt m 24 16 ≠ s.runId then s.restoreEnd q 0x0809 0 c
    else
      let c := { c with ckpt := { c.ckpt with phase := 7, manifest := m } }
      let s := s.setCmd q fun _ => c
      let first := 1 + blocksOf m.length
      if leAt r 48 8 ≤ first then s.restoreData q c []
      else s.issueNvme q ctrl false (lba + first) (leAt r 48 8 - first) []
  else s.restoreData q c data

/-! Ingest (R405, R407 to R409). -/

/-- Bytes of an INGEST partition that MEMPLAN lists. -/
def State.kindBytes (s : State) (part kind : Nat) : Nat := ((s.partExtents part).map fun e => if e.kind = kind then e.bytes else 0).sum

/-- Setting ETH_ING_CTRL.EN (R407): the other fields are written whether or not EN is refused. -/
def execIngestEnable (m ctrl part blocks : Nat) (s : State) : Res :=
  doIf (s.fromMaster m && (m == 1 || m == 2)) s fun s =>
    let s := s.setAll [(F.ETH_ING_CTRL_CTRL, ctrl), (F.ETH_ING_CTRL_PART, part), (F.ETH_ING_CTRL_STEP_BLOCKS, blocks)]
    let n := s.g F.ETH_ING_CTRL_STEP_BLOCKS
    if n = 0 ∨ s.kindBytes (s.g F.ETH_ING_CTRL_PART) 3 < 2 * n * 64 * 64 then (s.set F.ETH_ING_CTRL_EN 0).logEth 0x0807 0 0
    else s.set F.ETH_ING_CTRL_EN 1

/-- INGEST_PREFILL begins (R405, R409). -/
def execIngestPrefill (q : Nat) (s : State) : Res :=
  match s.cmdAt q 0x4A 0 with
  | none => .next s
  | some _ =>
    doIf s.working s fun s =>
      if !s.on F.ETH_ING_CTRL_EN then s.failStorage q 0x0807 (ioPair (s.g F.ETH_ING_CTRL_CTRL))
      else if (s.space (s.g F.ETH_ING_CTRL_CTRL)).isNone then s.failStorage q 0x0805 (ioPair (s.g F.ETH_ING_CTRL_CTRL))
      else
        let n := s.g F.STEP_NUMBER_NUMBER
        (s.setCmd q fun c => { c with stage := 1, ckpt := { CkptRun.init with step := n } }).ingestRead q n

/-- Input written into the half of its step (R407). -/
def State.ingestLand (s : State) (n : Nat) (data : List Byte) : State × Nat :=
  s.writePart rqETH (s.g F.ETH_ING_CTRL_PART) (n % 2 * s.g F.ETH_ING_CTRL_STEP_BLOCKS * blockBytes') data

/-- The input of the next step stands whole in its half (R408). -/
def execIngestComplete (s : State) : Res :=
  match s.ingest with
  | none => .next s
  | some n =>
    act (s.working && !s.eth.ops.any (·.user == 4)) s fun s => { s with ingest := none }.set (F.ETH_ING_HALF_STEP (n % 2)) n

/-! Completions (R406). -/

/-- What a successful NVMe command brings its user. -/
def State.nvmeDone (s : State) (op : NvmeOp) (data : List Byte) : State :=
  if op.user = 4 then
    match s.ingest with
    | none => s
    | some n =>
      let (s, e) := s.ingestLand n data
      if e ≠ 0 then s.ingestFail (op.pair.getD 0) else s
  else
    match (s.queue op.user).cmd with
    | none => s
    | some c =>
      let o := dOp c.desc
      if o = 0x40 then
        let (s, n, e) := s.landRead c.dst (dDstOff c.desc) data
        s.endCmd op.user 2 e n
      else if o = 0x41 then s.endCmd op.user 2 0 (dLen c.desc)
      else if o = 0x48 then s.ckptNext op.user c
      else if o = 0x49 then s.restoreNext op.user c data
      else
        let n := c.ckpt.step
        let (s, e) := s.ingestLand n data
        (if e = 0 then s.set (F.ETH_ING_HALF_STEP (n % 2)) n else s : State).endCmd op.user 2 e (data.length / 64)

/-- An NVMe command that has failed (R404, R406). -/
def State.nvmeFail (s : State) (op : NvmeOp) (code : Nat) : State :=
  let qp := op.pair.getD (ioPair op.ctrl)
  if op.user = 4 then (s.logEth code qp (s.qpPort qp)).ingestFail qp
  else
    match (s.queue op.user).cmd with
    | none => s
    | some c => (if dOp c.desc = 0x49 then s.noteRestore c.desc true else s : State).failStorage op.user code qp

/-- An NVMe completion: its status (0 for success), and what a Read returned. -/
def execNvmeCompletion (id status : Nat) (data : List Byte) (s : State) : Res :=
  match takeFirst (fun o => o.id == id && o.pair.isSome) s.eth.ops with
  | none => .next s
  | some (op, rest) =>
    act (s.working && (op.write || status != 0 || data.length == blockBytes' * op.blocks)) s fun s =>
      let s := (s.setEth fun e => { e with ops := rest }).pumpNvme
      if status = 0 then (s.count 0x0090 op.ctrl op.blocks).nvmeDone op data else s.nvmeFail op 0x0803

/-- No completion has come within the controller's timeout. -/
def execNvmeTimeout (id : Nat) (s : State) : Res :=
  match takeFirst (fun o => o.id == id && o.pair.isSome) s.eth.ops with
  | none => .next s
  | some (op, rest) => act s.working s fun s => ((s.setEth fun e => { e with ops := rest }).pumpNvme).nvmeFail op 0x0804

/-- A controller reports a namespace: attached with its size in blocks, or refused (R402). -/
def execNamespaceReport (ctrl block : Nat) (metadata : Bool) (blocks : Nat) (s : State) : Res :=
  doIf (s.working && decide (ctrl < 16)) s fun s =>
    if block ≠ blockBytes' ∨ metadata then
      (s.setEth fun e => { e with spaces := Sparse.put none ctrl none e.spaces }).logEth 0x0806 (9 * ctrl) (s.qpPort (9 * ctrl))
    else s.setEth fun e => { e with spaces := Sparse.put none ctrl (some blocks) e.spaces }

end Sys2Proof.Machine
end

