-- ==== Sys2Proof/Machine/Ethernet.lean ====
section
/-!
DEFINITION. The Ethernet ports beside storage: pod sets, timestamp units, peer requests, queue pairs, links (spec
13_ethernet_ports.md R400, R403, R404, R417, R420, R424).
-/
namespace Sys2Proof.Machine

/-- Bytes that the areas of a pod set take in its receiving partition (R417). -/
def State.podBytes (s : State) (k count : Nat) : Nat :=
  65536 * ((s.plan.elim [] fun p => p.late).map fun e =>
    if e.source = 1 ∧ e.podSet = k then 5 * count * s.ring.maxOwn e.group else 0).sum

/-- A write of ETH_PODSk (R417). -/
def execPodSetWrite (m k timeout part base self count : Nat) (s : State) : Res :=
  doIf (s.fromMaster m && (m == 1 || m == 2) && decide (1 ≤ k) && decide (k ≤ 15)) s fun s =>
    let bytes := s.kindBytes part 5
    if count ≠ 0 ∧ (64 < count ∨ base < 144 ∨ 1024 < base + count ∨ bytes = 0 ∨ bytes < s.podBytes k count) then s.logEth 0x0807 0 0
    else
      s.setAll [(F.ETH_PODS_TIMEOUT_MS k, timeout), (F.ETH_PODS_RX_PART k, part), (F.ETH_PODS_QP_BASE k, base),
        (F.ETH_PODS_SELF k, self), (F.ETH_PODS_COUNT k, count)]

def ptpEnF (p : Nat) : Fld := if p = 0 then F.ETH_PTP_CTRL_EN0 else F.ETH_PTP_CTRL_EN1

/-- Setting EN for a port claims its two timestamp units, or returns RESOURCE_BUSY (R420, R224). -/
def execPtpEnable (m p : Nat) (s : State) : Res :=
  doIf (s.fromMaster m && (m == 1 || m == 2) && decide (p < 2) && !s.on (ptpEnF p)) s fun s =>
    match s.claim 2 (2 * p) 5 p with
    | (_, false) => s.report 0x0118 0 (2 * 65536 + 2 * p)
    | (t, true) =>
      match t.claim 2 (2 * p + 1) 5 p with
      | (_, false) => s.report 0x0118 0 (2 * 65536 + 2 * p + 1)
      | (t, true) => t.set (ptpEnF p) 1

/-! Peers (R403). -/

def State.mrAt (s : State) (k off len : Nat) : Nat := leNat ((List.range len).map fun i => Sparse.get 0 (16 * k + off + i) s.eth.mr)

/-- Whether a span of host device addresses lies wholly in the region that an rkey names, with the access allowed. -/
def State.mrAllows (s : State) (rkey addr len : Nat) (write : Bool) : Bool :=
  let k := rkey / 65536
  decide (k < 64) && s.mrAt k 14 2 == rkey % 65536 && s.mrAt k 8 4 != 0 && (s.mrAt k 12 1).testBit (bit write)
    && decide (s.mrAt k 0 8 ≤ addr) && decide (addr + len ≤ s.mrAt k 0 8 + 64 * s.mrAt k 8 4) && decide (s.mrAt k 0 8 + 64 * s.mrAt k 8 4 ≤ hdaEnd)

/-- Bytes stored by a peer, sector by sector; 0 or the code of a failure. -/
def State.peerWrite (s : State) (addr : Nat) (data : List Byte) : State × Nat :=
  let d := List.replicate (addr % 64) (0 : Byte) ++ data
  let m := List.replicate (addr % 64) false ++ data.map fun _ => true
  ((sectorsOf addr data.length).zipIdx).foldl (fun r e =>
    if r.2 ≠ 0 then r
    else
      let a := dpaOfHda e.1
      let off := 64 * e.2
      let dm := sliceBytes d off 64
      let mm := (m.drop off).take 64
      r.1.mergeRow rqETH a dm (mm ++ List.replicate (64 - mm.length) false)) (s, 0)

/-- Bytes that a peer reads, and the code of a failure. -/
def State.peerRead (s : State) (addr len : Nat) : State × List Byte × Nat :=
  let (s, l, c) := (sectorsOf addr len).foldl (fun (r : State × List Byte × Nat) h =>
    if r.2.2 ≠ 0 then r
    else match r.1.readRow rqETH (dpaOfHda h) 1 with
      | (s, .ok b) => (s, r.2.1 ++ b, 0)
      | (s, .error c) => (s, r.2.1, c)) (s, [], 0)
  (s, (l.drop (addr % 64)).take len, c)

/-- A peer's RDMA READ or WRITE of at most 2 GiB at a queue pair that receives (R400, R403): inside one region that allows it, or a remote-access NAK. -/
def execPeerRdmaRequest (qp : Nat) (write : Bool) (rkey addr len : Nat) (data : List Byte) (s : State) : Res :=
  doIf (s.working && (s.qpState qp == 2 || s.qpState qp == 3) && s.on (F.ETH_PORT_STATUS_LINK_UP (s.qpPort qp))
      && (!write || data.length == len)) s fun s =>
    if !s.mrAllows rkey addr len write || decide (2 ^ 31 < len) then s.emit (.rdmaReply qp true [])
    else if write then
      let (s, c) := s.peerWrite addr data
      s.emit (.rdmaReply qp (c != 0) [])
    else
      let (s, l, c) := s.peerRead addr len
      s.emit (.rdmaReply qp (c != 0) (if c = 0 then l else []))

/-! Queue pairs and links (R404, R424). -/

/-- Whether a queue pair serves a step: a pod set's, or the ingest controller's while ingest runs. -/
def State.servesStep (s : State) (qp : Nat) : Bool :=
  ((s.plan.elim [] fun p => p.late).any fun e => e.source == 1 && decide (s.g (F.ETH_PODS_QP_BASE e.podSet) ≤ qp)
      && decide (qp < s.g (F.ETH_PODS_QP_BASE e.podSet) + s.g (F.ETH_PODS_COUNT e.podSet)))
    || (s.on F.ETH_ING_CTRL_EN && qp / 9 == s.g F.ETH_ING_CTRL_CTRL && decide (qp < 144))

/-- A queue pair goes to ERROR, and its outstanding work ends with ETH_QP_ERROR (R404). -/
def execQpError (qp : Nat) (s : State) : Res :=
  act (s.working && decide (qp < 1024) && s.qpState qp == 3) s fun s =>
    let s := s.setEth fun e => { e with qp := Sparse.put 0 (64 * qp) 4 e.qp }
    let s := s.logEth 0x0802 qp (s.qpPort qp)
    let lost := s.eth.ops.filter fun o => o.pair == some qp
    let s := s.setEth fun e => { e with ops := e.ops.filter fun o => o.pair != some qp }
    let s := if s.servesStep qp then s.recordFail 0x0802 0xFFFF else s
    lost.foldl (fun s o =>
      if o.user = 4 then s.ingestFail qp
      else match (s.queue o.user).cmd with
        | some c => (if dOp c.desc = 0x49 then s.noteRestore c.desc true else s : State).endCmd o.user 2 0x0802 0
        | none => s) s

def execEthLinkDown (p : Nat) (s : State) : Res :=
  doIf (s.powered && decide (p < 2) && s.on (F.ETH_PORT_STATUS_LINK_UP p)) s fun s =>
    (s.setAll [(F.ETH_PORT_STATUS_LINK_UP p, 0), (F.ETH_PORT_STATUS_LANES p, 0)]).logEth 0x0801 0 p

def execEthLinkUp (p lanes : Nat) (s : State) : Res :=
  doIf (s.powered && decide (p < 2) && decide (1 ≤ lanes) && decide (lanes ≤ 4)) s fun s =>
    (s.setAll [(F.ETH_PORT_STATUS_LINK_UP p, 1), (F.ETH_PORT_STATUS_LANES p, lanes)]).pumpNvme

/-- A request for a port's own address, answered by the management core (R400). -/
def execArpRequest (p : Nat) (s : State) : Res :=
  doIf (s.powered && decide (p < 2) && s.on (F.ETH_PORT_STATUS_LINK_UP p)) s fun s => s.emit (.arp p)

end Sys2Proof.Machine
end

