-- ==== Sys2Proof/Machine/Reduce.lean ====
section
/-!
DEFINITION. The reduction engine's commands: data flits at the ring ports, slices originated and added, skip notices, the low-rank
sequence and the replica digests (spec 10_gradient_reduction.md, 11_update_units.md R355 to R359).
-/
namespace Sys2Proof.Machine

/-! Data flits (R266, R318). -/

/-- A data flit of some kinds at ring port `p`; `back` tells that it is on the return leg of a wrapped ring (R291). -/
def flitRow (kinds : FlitKind → Bool) (p : Nat) (back : Bool) (rx : LineRx) (s : State) : Res :=
  lineRow (s.lineUp p) p rx (fun b => (headerOf b).type == 0 && kinds (headerOf b).kind) s fun s b =>
    s.dataFlit State.takeDigest p back (Flit.ofBytes b)

def isSum : FlitKind → Bool
  | .slice => true
  | .round _ sum => sum
  | _ => false
def isGather : FlitKind → Bool
  | .gather => true
  | .round _ sum => !sum
  | _ => false

def execReduceFlit (p : Nat) (back : Bool) (rx : LineRx) (s : State) : Res := flitRow isSum p back rx s
def execGatherFlit (p : Nat) (back : Bool) (rx : LineRx) (s : State) : Res := flitRow isGather p back rx s
def execSkipNotice (p : Nat) (back : Bool) (rx : LineRx) (s : State) : Res := flitRow (· == .skip) p back rx s
def execDigestFlit (p : Nat) (back : Bool) (rx : LineRx) (s : State) : Res := flitRow (· == .digest) p back rx s

/-! Slices (R307, R309, R315). -/

/-- Whether a ring carries data: UP, or BYPASSED and so a ring of one. -/
def State.dataRing (s : State) (ring : Nat) : Bool := s.ringUp ring || s.ringState ring == ringBYPASSED

/-- The origin may send a segment's slices on a ring. -/
def State.originDue (s : State) (seg ring : Nat) (b : Job) : Bool :=
  s.mayAdd b ring seg && b.mode == 0 && b.rings.contains ring && s.dataRing ring && !s.red.originated.contains (ring, seg)
    && (s.way b.dim ring seg).c == (s.way b.dim ring seg).origin && (b.dim != 2 || ring == 0 || s.ownsPhase 2 0 seg)

/-- The 137 slices of a segment begun here; a job that halts sends no more (R307, R319). -/
def State.originate (s : State) (j seg ring : Nat) (b : Job) : State :=
  let w := s.way b.dim ring seg
  let s := { s with red := { s.red with originated := s.red.originated ++ [(ring, seg)] } }
  ((List.range 137).foldl (fun s f => if s.halted j then s else s.doSlice (portOf ring (if w.east then 1 else 0)) j seg f b w none) s).refreshJob j

def execOriginateSegment (seg ring : Nat) (s : State) : Res :=
  match s.jobOf seg with
  | none => .next s
  | some j =>
    match s.job j with
    | none => .next s
    | some b => act (s.working && s.tilesRun && !s.halted j && s.originDue seg ring b) s fun s => s.originate j seg ring b

/-- The first flit held on a port and channel, looked at again (R309): it stays where it is while it must still wait, and the flits
behind it wait on. -/
def State.heldAgain (s : State) (e : HeldFlit) (rest : List HeldFlit) : State :=
  let behind := rest.filter (sameQueue e.port e.flit)
  let others := rest.filter fun x => !sameQueue e.port e.flit x
  let s' := ({ s with red := { s.red with held := others } } : State).takeFlit State.takeDigest e.port e.flit
  if others.length < s'.red.held.length then s
  else { s' with red := { s'.red with held := s'.red.held ++ behind } }

def execHeldSliceAdd (p c : Nat) (s : State) : Res :=
  match takeFirst (fun e => e.port == p && e.flit.hdr.channel == c) s.red.held with
  | none => .next s
  | some (e, rest) => act (s.working && s.sendsData (portRing p)) s fun s => s.heldAgain e rest

/-! SKIP (R323, R324). -/

/-- One place copied from the version in use to the inactive one: none while host lines are awaited. -/
def State.copyPlace (s : State) (u seg : Nat) (src dst : Option Place) (len : Nat) : State × Bool :=
  match src, dst with
  | some a, some b =>
    match s.unitRead u a len with
    | (s, none) => (s, false)
    | (s, some (l, c)) => if c ≠ 0 then (s.updFault (updCode c) u seg, true) else (s.unitStore u seg b l, true)
  | _, _ => (s, true)

/-- The whole shard copied into the inactive version: records, and E and Q of MODE 1 groups. -/
def State.skipCopy (s : State) : State :=
  let v := s.readVersion
  let recs := (s.ring.groups.zipIdx).flatMap fun e =>
    (s.ownedOf e.1).zipIdx.map fun (seg, k) =>
      ((s.recordAt e.2 k).elim 0 (servingUnit · k), seg, s.partAt e.2 k v, s.partAt e.2 k (1 - v), partBytes e.1 (s.progOf e.1).instrs)
  let low := (s.ring.jobs.zipIdx).flatMap fun e =>
    if e.1.mode = 1 then (List.range (e.1.segCount + e.1.rank)).map fun k =>
      ((s.lowPlace e.2 v k e.1).elim 0 (servingUnit · k), e.1.firstSeg + k, s.lowPlace e.2 v k e.1, s.lowPlace e.2 (1 - v) k e.1, 65536)
    else []
  let r := (recs ++ low).foldl (fun r q =>
    let (s, ok) := r.1.copyPlace q.1 q.2.1 q.2.2.1 q.2.2.2.1 q.2.2.2.2
    (s, r.2 && ok)) (s, true)
  if r.2 then { r.1 with red := { r.1.red with skipCopied := true } } else r.1

/-- Programs running when SKIP was recorded end without effect: the copy overwrites what they wrote. -/
def State.endRuns (s : State) : State := { s.set F.UPD_STATUS_BUSY 0 with upd := { s.upd with runs := [] } }

def execSkipCopy (s : State) : Res :=
  act (s.working && s.tilesRun && s.on F.RED_STATUS_SKIP && !s.red.skipCopied
    && (s.replaying || !s.ckptHolds s.writeVersion)) s fun s => s.endRuns.skipCopy

/-- A notice sent both ways round a ring (R323). -/
def State.sendNotice (s : State) (ring : Nat) : State :=
  let h : Header := { s.header ring s.red.skipJob with nan := true, srcPos := s.coord ring, offset := 0xFFFFFFFFFF }
  let f : Flit := ⟨h, List.replicate 120 0⟩
  let s := { s with red := { s.red with noticeSent := s.red.noticeSent ++ [ring], noticeOut := s.red.noticeOut ++ [(ring, 0), (ring, 1)] } }
  ((s.set F.RED_STATUS_NOTICE_OUT 1).sendFlit ring 0 f).sendFlit ring 1 f

def execSkipNoticeSend (ring : Nat) (s : State) : Res :=
  act (s.working && s.tilesRun && s.on F.RED_STATUS_SKIP && s.red.skipCopied && s.ringUp ring && s.noticeRings.contains ring
    && !s.red.noticeSent.contains ring) s fun s => s.sendNotice ring

/-! Low-rank mode (R326 to R328). -/

/-- The update unit beside the region that holds the first byte of a reduction segment. -/
def State.segUnit (s : State) (seg : Nat) : Nat := (s.partSector s.ring.redPart (1024 * seg)).elim 0 fun a => dpaRegion a / 4

/-- The local gradient of a job's segments by row: none when a read is poisoned (R320). -/
def State.localRows (s : State) : List Nat → State × Option (List (List Nat))
  | [] => (s, some [])
  | seg :: r =>
    let (s, l, c) := s.readPart (rqUPD + s.segUnit seg) s.ring.redPart (65536 * seg) 65536
    if c ≠ 0 then (s, none)
    else
      let (s, rest) := s.localRows r
      (s, rest.map fun x => wordsOf l :: x)

/-- Steps 1 to 3 with the rows of G and the units of E and Q: M, P, and round 1 (R326). -/
def State.lowFirst (s : State) (j : Nat) (b : Job) (g units : List (List Nat)) : State :=
  let m := List.zipWith (List.zipWith add32) g (units.take b.segCount)
  let q := columnsOf b.rank (((units.drop b.segCount).flatten).take (16384 * b.rank))
  let p := m.flatMap fun row => q.map fun col => dot row col
  (s.dropLoose.beginRound j 1 b ⟨j, m, [], [], [], [], [], []⟩ p).retryHeld State.takeDigest

/-- The sequence begun once E and Q of the version in use are here: a poisoned gradient halts the job (R320), and a failed read of E or Q is
recorded against the attempt (R361). -/
def State.lowBegin (s : State) (j : Nat) (b : Job) : State :=
  match s.localRows b.segs with
  | (s, none) => s.haltJob j 0 0x0507
  | (s, some g) =>
    match s.lowUnits j s.readVersion b (b.segCount + b.rank) with
    | (s, none) => s
    | (s, some (.error c)) => s.updFault (updCode c) ((s.lowPlace j s.readVersion 0 b).elim 0 (servingUnit · 0)) b.firstSeg
    | (s, some (.ok units)) => s.lowFirst j b g units

/-- Whether every ring of a job carries data. -/
def State.jobRings (s : State) (b : Job) : Bool := b.rings.all s.dataRing

def execLowRankSequence (j : Nat) (s : State) : Res :=
  match s.job j with
  | none => .next s
  | some b =>
    act (s.working && s.tilesRun && b.mode == 1 && !s.halted j && (s.low j).isNone && b.segs.all s.red.released.contains && s.jobRings b) s
      fun s => s.lowBegin j b

/-- The summed matrix of the running round, row-major. -/
def LowRank.matrix (e : LowRank) (b : Job) (r : Nat) : List Nat :=
  ((List.range (roundSegs b r)).flatMap fun v => (e.sums.lookup v).getD []).take (roundSize b r)

/-- Steps 4 to 6: P̂, Q′loc, and round 2. -/
def State.lowSecond (s : State) (j : Nat) (b : Job) (e : LowRank) : State :=
  let hat := orthoCols [] (columnsOf b.rank (e.matrix b 1))
  let q := (List.range 16384).flatMap fun x =>
    let col := e.m.map fun row => row.getD x 0
    hat.map fun h => dot col h
  (s.beginRound j 2 b { e with pHat := rowMajor b.segCount hat, qLoc := q } q).retryHeld State.takeDigest

def lowRow (j r : Nat) (s : State) (k : Job → LowRank → State → State) : Res :=
  match s.job j, s.low j with
  | some b, some e =>
    act (s.working && s.tilesRun && !s.halted j && s.round j == r && e.full b r && s.jobRings b) s (k b e)
  | _, _ => .next s

def execLowRankRound1Done (j : Nat) (s : State) : Res := lowRow j 1 s fun b e s => s.lowSecond j b e

/-- Step 7: E_new and Q′ to the inactive version; under SKIP that version holds the copies of R323. -/
def State.lowStore (s : State) (j : Nat) (b : Job) (e : LowRank) (q : List Nat) : State :=
  if s.on F.RED_STATUS_SKIP then s else
  let s := (e.m.zipIdx).foldl (fun s row =>
    let p := (e.pHat.drop (row.2 * b.rank)).take b.rank
    s.lowWrite j row.2 b (row.1.zipIdx.map fun x => sub32 x.1 (dot p ((e.qLoc.drop (x.2 * b.rank)).take b.rank)))) s
  (List.range b.rank).foldl (fun s u => s.lowWrite j (b.segCount + u) b ((q.drop (16384 * u)).take 16384)) s

/-- Step 8 on one owned segment: Ĝ rebuilt, counted, and the segment reduced. -/
def State.lowRebuild (s : State) (j seg : Nat) (b : Job) (e : LowRank) (q : List Nat) : State :=
  let p := (e.pHat.drop ((seg - b.firstSeg) * b.rank)).take b.rank
  let g := (List.range 16384).map fun x => dot p ((q.drop (x * b.rank)).take b.rank)
  let bytes := wordBytes (ownerValues b.nanMode g).1
  let s := s.ownerNote j seg 0 b g
  let s := (s.writePart (rqUPD + s.segUnit seg) s.ring.redPart (65536 * seg) bytes).1
  { s with red := { s.red with crcs := (seg, crc64 bytes) :: s.red.crcs.filter (·.1 != seg) } }.segReduced j seg b

def execLowRankRound2Done (j : Nat) (s : State) : Res :=
  if !s.replaying && s.ckptHolds s.writeVersion then .next s else
  lowRow j 2 s fun b e s =>
    let q := e.matrix b 2
    let s := (s.lowStore j b e q).set (F.RED_JOB_STATUS_ROUND j) 3
    (s.ownedOfJob b).foldl (fun s seg => s.lowRebuild j seg b e q) s

/-! Replica digests (R356, R359). -/

/-- A comparison is due and the device's own digests are still to compute, every gather count being at its total. -/
def State.digestDue (s : State) : Bool :=
  s.working && s.stepOpen && s.on F.UPD_STATUS_DIG_PENDING && s.gatherFull && s.gather.kind.isNone
    && (List.range s.ring.groups.length).any fun g => (s.digestOf g).own.isNone

def execDigestCompute (s : State) : Res := act s.digestDue s State.digestCompute

def execNarrowingSend (s : State) : Res :=
  act (s.working && s.stepOpen && s.digestCompared && s.narrowSet.any fun g => !(s.digestOf g).sent) s
    State.narrowSend

end Sys2Proof.Machine
end

