-- ==== Sys2Proof/Machine/Debug.lean ====
section
/-!
DEFINITION. Event counters' selection, freeze, the capture buffer and replay (spec 16_debug_and_replay.md R484 to R513).
-/
namespace Sys2Proof.Machine

/-! Counters (R484, R487, R488). -/

/-- Instances of an event of R484's table; none for a reserved code. -/
def eventRange (e : Nat) : Option Nat :=
  if e = 0 then some 0x200
  else if (1 ≤ e ∧ e ≤ 3) ∨ (0x10 ≤ e ∧ e ≤ 0x16) ∨ (0x20 ≤ e ∧ e ≤ 0x22) then some 256
  else if e = 0x30 ∨ e = 0x31 then some 320
  else if 0x40 ≤ e ∧ e ≤ 0x42 then some 4
  else if e = 0x50 ∨ e = 0x51 ∨ e = 0x60 ∨ e = 0x61 ∨ e = 0x90 then some 16
  else if e = 0x70 then some 5
  else if e = 0x80 then some 4
  else none

def eventOk (e inst : Nat) : Bool := inst == 0x1FF || (eventRange e).elim false fun n => decide (inst < n)

/-- A software write of a boundary-latched field: shadowed while a step is open, in effect at once otherwise (R5, R6). What is written
during a replay stays in effect after it (R507). -/
def State.writeRwb (s : State) (f : Fld) (v : Nat) : State :=
  let v := lowBits f.w v
  if s.stepOpen then { s with shadow := s.shadow.filter (fun e => e.1 != f) ++ [(f, v)] }
  else
    let keep (o : Sparse Nat × Nat) : Sparse Nat × Nat := (Sparse.put f.rst f.key v o.1, o.2)
    { s with images := { s.images with saved := s.images.saved.map keep } }.latchField f v

/-- A selection of counter `k`, or of per-command counter `k`; a write that names a reserved event, an instance out of range or a
scope of 5 to 7 is ignored. -/
def execCounterSelect (cmd : Bool) (k scope inst event : Nat) (s : State) : Res :=
  act (s.powered && decide (k < if cmd then 8 else 64)) s fun s =>
    if !eventOk event inst || (cmd && decide (4 < scope)) then s.logDbg 0x0C01
    else if cmd then
      ((s.writeRwb (F.DBG_CMD_SEL_SCOPE k) scope).writeRwb (F.DBG_CMD_SEL_INSTANCE k) inst).writeRwb (F.DBG_CMD_SEL_EVENT k) event
    else (s.writeRwb (F.DBG_CTR_SEL_INSTANCE k) inst).writeRwb (F.DBG_CTR_SEL_EVENT k) event

/-! Freeze (R495 to R501). -/

def fzIDLE : Nat := 0
def fzARMED : Nat := 1
def fzFROZEN : Nat := 2
def State.freezeState (s : State) : Nat := s.g F.DBG_FREEZE_CTRL_STATE

/-- A flit or frame that was kept through the freeze. -/
def State.thawItem (s : State) (e : Nat × Bool × PortItem) : State :=
  match e.2.2 with
  | .data f => s.enterFlit State.takeDigest e.1 e.2.1 f
  | .step f => s.takeFrame e.1 e.2.1 f
  | .member _ => s

/-- A register write that waited for a stopped unit: STEP_CTRL or CFG_CMD. -/
def State.thawWrite (s : State) (w : Nat × Nat × Nat) : State :=
  if w.2.1 = 0x10008 then
    (if w.2.2 = 1 then s.doOpen else if w.2.2 = 2 then s.doAbortReq else if w.2.2 = 4 then s.doRegather
     else if w.2.2 = 8 then s.doRollback else s.stepRefuse 0x0205).settle
  else if w.2.2 = 1 then s.doStage
  else if w.2.2 = 2 then s.doCheck
  else if w.2.2 = 4 then s.doArm
  else if w.2.2 = 8 then s.doDisarm
  else if w.2.2 = 16 then s.doDiscard
  else s.cfgRefuse 0x0119

/-- The units run again from where they stopped: held flits first, in the order of their arrival, then held writes (R497, R499). -/
def State.thaw (s : State) : State :=
  let z := s.frozen'
  let s := { s with frozen' := Frozen.init }
  let s := z.flits.foldl (fun s e => (s.thawItem e).settle) s
  z.writes.foldl State.thawWrite s

/-- Masters that may write the debug block's commands (R495, R508). -/
def dbgMaster (m : Nat) : Bool := m == 1 || m == 2

def execFreezeArm (m : Nat) (s : State) : Res :=
  act (s.fromMaster m && dbgMaster m) s fun s =>
    if s.freezeState = fzIDLE ∧ s.time + 10000 ≤ s.g F.DBG_FREEZE_AT_TIME then s.set F.DBG_FREEZE_CTRL_STATE fzARMED
    else s.logDbg 0x0C02

def execFreezeDisarm (m : Nat) (s : State) : Res :=
  act (s.fromMaster m && dbgMaster m && s.freezeState == fzARMED) s fun s => s.set F.DBG_FREEZE_CTRL_STATE fzIDLE

/-- T is reached at a hub edge (R496); vector 14 tells of a freeze and of its end (R395, log entry 62). -/
def execFreezeEdge (s : State) : Res :=
  act (s.powered && s.freezeState == fzARMED && decide (s.g F.DBG_FREEZE_AT_TIME ≤ s.time)) s fun s =>
    let s := (s.set F.DBG_FREEZE_CTRL_STATE fzFROZEN).set F.DBG_FROZEN_AT_TIME s.time
    (s.setAll ((List.range 4).map fun p => (F.DBG_CUT_FLITS_COUNT p, 0))).raise 14

def execResumeAtWrite (t : Nat) (s : State) : Res :=
  act s.powered s fun s =>
    if s.frozen && decide (t % 2 ^ 64 < s.time + 10000) then s.logDbg 0x0C02 else s.set F.DBG_RESUME_AT_TIME t

/-- DBG_RESUME_AT is not 0, later than T, and reached (R499). -/
def execResume (s : State) : Res :=
  act (s.powered && s.frozen && s.on F.DBG_RESUME_AT_TIME
    && decide (s.g F.DBG_FREEZE_AT_TIME < s.g F.DBG_RESUME_AT_TIME) && decide (s.g F.DBG_RESUME_AT_TIME ≤ s.time)) s fun s =>
    (s.set F.DBG_FREEZE_CTRL_STATE fzIDLE).thaw.raise 14

/-! The capture buffer (R502). -/

/-- A function takes the capture buffer, or its enable bit stays 0 (R502): `owner` 2 DIGEST_LOG, 3 TRACE_CAPTURE. -/
def State.claimBuffer (s : State) (owner : Nat) (en : Fld) (k : State → State) : State :=
  if s.on en then s
  else
    match s.claim 1 0 owner 0 with
    | (s, true) => k (s.set en 1)
    | (s, false) => s.logDbg 0x0118

def emptyLog (s : State) : State :=
  { s with cap := { s.cap with bank0 := [], bank1 := [], fullLogged := false } }.setAll
    [(F.DBG_LOG_STATUS_OPEN_BANK, 0), (F.DBG_LOG_STATUS_OPEN_FULL, 0), (F.DBG_LOG_STATUS_COMMITTED_FULL, 0),
      (F.DBG_LOG_STATUS_COMMITTED_VALID, 0), (F.DBG_LOG_STATUS_OPEN_COUNT, 0), (F.DBG_LOG_STATUS_COMMITTED_COUNT, 0)]

def execDigestLogEnable (s : State) : Res := act s.powered s fun s => s.claimBuffer 2 F.DBG_CAP_CTRL_LOG_EN emptyLog

def execTraceEnable (s : State) : Res :=
  act s.powered s fun s => s.claimBuffer 3 F.DBG_CAP_CTRL_TRACE_EN fun s => { s with cap := { s.cap with trace := [] } }

/-! Replay (R507 to R512). -/

def rpIDLE : Nat := 0
def rpGATHER : Nat := 1
def rpRUNNING : Nat := 2
def rpCOMPARING : Nat := 3
def rpDONE : Nat := 4
def rpCANCELLED : Nat := 5
def State.replayState (s : State) : Nat := s.g F.DBG_REPLAY_STATUS_STATE

/-- R508. A replay that has not ended refuses another. -/
def State.replayMay (s : State) : Bool :=
  s.stepState == stCLOSED && s.on F.STEP_VERSION_PREV_VALID && s.g F.STEP_DECISION_KIND == 1 && s.loaderState == ldEMPTY
    && !s.frozen && s.logOn && !s.on F.DBG_LOG_STATUS_COMMITTED_FULL
    && s.g F.DBG_LOG_STEP_STEP == s.g F.STEP_COMMITTED_NUMBER && !s.replayLive

/-- The committed and the open bank of the digest log (R505). -/
def State.logBank (s : State) (committed : Bool) : List LogEntry :=
  if s.on F.DBG_LOG_STATUS_OPEN_BANK == committed then s.cap.bank0 else s.cap.bank1
def State.setLogBank (s : State) (committed : Bool) (l : List LogEntry) : State :=
  if s.on F.DBG_LOG_STATUS_OPEN_BANK == committed then { s with cap := { s.cap with bank0 := l } }
  else { s with cap := { s.cap with bank1 := l } }

/-- What a replay put aside is in effect again (R507). -/
def State.restoreImage (s : State) : State :=
  match s.images.saved with
  | none => s
  | some (i, mb) =>
    let s := s.useImage i
    { s with images := { s.images with saved := none }, stp := { s.stp with mbCount := mb } }

/-- The end of a replay's work: streams stop, jobs and units are idle. -/
def State.replayStop (s : State) : State :=
  ({ s.stopTiles.clearHalts.clearAttempt with num := { s.num with trapped := false } } : State).restoreImage

/-- A replay begins (R509 items 1 and 2). -/
def State.replayBegin (s : State) : State :=
  let n := s.g F.STEP_COMMITTED_NUMBER
  let s := { s with images := { s.images with saved := some (s.rwbImage, s.stp.mbCount) } }
  let s := s.useImage s.images.committed
  let s := { s with stp := { s.stp with mbCount := s.images.committedMb } }.clearAttempt
  let s := s.setAll [(F.DBG_REPLAY_STATUS_STATE, rpGATHER), (F.DBG_REPLAY_STATUS_INCOMPLETE, 0), (F.DBG_REPLAY_STATUS_CODE, 0),
    (F.DBG_REPLAY_STATUS_MISMATCHES, 0), (F.DBG_DIVERGE_VALID, 0), (F.DBG_DIVERGE_ENTRY, 0),
    (F.DBG_LOG_STATUS_OPEN_COUNT, 0), (F.DBG_LOG_STATUS_OPEN_FULL, 0)]
  let s := (s.setLogBank false []).gatherBegin 3
  let s := if s.on F.ETH_ING_CTRL_EN && s.g (F.ETH_ING_HALF_STEP (n % 2)) != n then s.ingestBegin n else s
  s.retryHeld State.takeDigest

def execReplayStart (m : Nat) (s : State) : Res :=
  act (s.fromMaster m && dbgMaster m) s fun s =>
    if s.replayMay then s.replayBegin else (s.set F.DBG_REPLAY_STATUS_CODE 0x0C05).logDbg 0x0C05

/-- The gather is complete and the input in place: the tiles start (R509 item 3). -/
def execReplayGatherDone (s : State) : Res :=
  let n := s.g F.STEP_COMMITTED_NUMBER
  act (s.working && s.replayState == rpGATHER && s.gather.kind.isNone && s.tilesSettled
    && (!s.on F.ETH_ING_CTRL_EN || s.g (F.ETH_ING_HALF_STEP (n % 2)) == n)) s fun s =>
    let s := { s with num := { s.num with trapped := false } }
    ((s.set F.DBG_REPLAY_STATUS_STATE rpRUNNING).startTiles.refreshJobs).retryHeld State.takeDigest

/-- Every update program of the replayed step has finished; late groups run none (R510). -/
def State.replayUpdated (s : State) : Bool :=
  (s.ring.groups.zipIdx).all fun e => e.1.late || (s.on F.RED_STATUS_SKIP && s.red.skipCopied)
    || (s.ownedOf e.1).all fun k => (List.range (passCount (s.progOf e.1).instrs)).all fun p => s.upd.done.contains (e.2, k, p)

/-- A replay that ends before its comparison (R512). -/
def State.replayEnd (s : State) (state code : Nat) : State :=
  ((s.setAll [(F.DBG_REPLAY_STATUS_STATE, state), (F.DBG_REPLAY_STATUS_CODE, code)]).replayStop).logDbg code

/-- The replay ends locally, or, after a fault or trap, early (R509 item 4, R512). -/
def execReplayRunDone (s : State) : Res :=
  act (s.working && s.replaying && (s.on F.DBG_REPLAY_STATUS_INCOMPLETE
      || (s.replayState == rpRUNNING && s.streamsEnded && s.jobsReduced && s.replayUpdated))) s fun s =>
    if s.on F.DBG_REPLAY_STATUS_INCOMPLETE then (s.replayEnd rpDONE 0x0C08).raise 14
    else s.set F.DBG_REPLAY_STATUS_STATE rpCOMPARING

/-- Entries of one replay and of the step it replays that R511 matches. -/
def LogEntry.sameAs (a b : LogEntry) : Bool :=
  a.source == b.source && a.unit == b.unit && a.seq == b.seq && a.layer == b.layer && a.oper == b.oper

/-- FLAGS of an entry after the comparison with the entries of the other bank: 2 for a late group's, 1 for a mismatch, where an entry
that differs from its partner is marked on the replay's side and one without a partner on its own. -/
def markEntry (late : Nat → Bool) (differs : Bool) (other : List LogEntry) (e : LogEntry) : LogEntry :=
  if e.source = 2 ∧ late e.unit then { e with flags := 2 }
  else
    let bad := match other.find? e.sameAs with
      | none => true
      | some o => differs && (o.crc != e.crc || o.count != e.count)
    { e with flags := bit bad }

/-- R511. -/
def State.compareLogs (s : State) : State :=
  let late (g : Nat) : Bool := (s.group g).elim false fun b => b.late
  let old := s.logBank true
  let new := s.logBank false
  let new' := new.map (markEntry late true old)
  let old' := old.map (markEntry late false new)
  let n := ((new' ++ old').filter fun e => e.flags == 1).length
  let s := ((s.setLogBank true old').setLogBank false new').set F.DBG_REPLAY_STATUS_MISMATCHES n
  let s := match new'.findIdx? fun e => e.flags == 1 with
    | some i => (s.set F.DBG_DIVERGE_VALID 1).set F.DBG_DIVERGE_ENTRY i
    | none => s
  if n = 0 then s else (s.set F.DBG_REPLAY_STATUS_CODE 0x0C07).logDbg 0x0C07

def execReplayCompareDone (s : State) : Res :=
  act (s.working && s.replayState == rpCOMPARING) s fun s =>
    (s.compareLogs.set F.DBG_REPLAY_STATUS_STATE rpDONE).replayStop.raise 14

/-- CANCELLED (R512); a gather of its own ends with it. -/
def State.cancelReplay (s : State) : State :=
  if !s.replayLive then s
  else
    let s := if s.gather.kind = some 3 then { s with gather := GatherCtl.init } else s
    (s.replayEnd rpCANCELLED 0x0C06).refreshJobs

def execReplayCancel (m : Nat) (s : State) : Res := act (s.fromMaster m && dbgMaster m) s State.cancelReplay

end Sys2Proof.Machine
end

