-- ==== Sys2Proof/Machine/Ring.lean ====
section
/-!
DEFINITION. Ring ports, lanes, the optical bypass, membership and wrapped rings (spec 09_ring_ports.md R262 to R295, R300).
-/
namespace Sys2Proof.Machine

/-! Error log (R300). -/

/-- A ring error: latched with its time, passed to the error history, vector 7. -/
def State.logRing (s : State) (code port lane : Nat) : State :=
  ((s.latch F.RING_ERRLOG_VALID F.RING_ERRLOG_OVERFLOW [(F.RING_ERRLOG_PORT, port), (F.RING_ERRLOG_LANE, lane),
    (F.RING_ERRLOG_CODE, code), (F.RING_ERRTIME_TIME, s.time)]).report code port 0).raise 7

/-! Registers of a ring. -/

def ringWrappedF (ring : Nat) : Fld := if ring = 0 then F.RING_STATUS_A_WRAPPED else F.RING_STATUS_B_WRAPPED
def ringFaultF (ring : Nat) : Fld := if ring = 0 then F.RING_STATUS_A_SWITCH_FAULT else F.RING_STATUS_B_SWITCH_FAULT
def ringJoinF (ring : Nat) : Fld := if ring = 0 then F.RING_CTRL_JOIN_A else F.RING_CTRL_JOIN_B
def ringLeaveF (ring : Nat) : Fld := if ring = 0 then F.RING_CTRL_LEAVE_A else F.RING_CTRL_LEAVE_B
def rosterF (ring k : Nat) : Fld := if ring = 0 then F.RING_A_ROSTER_SERIAL k else F.RING_B_ROSTER_SERIAL k

def linkDOWN : Nat := 0
def linkTRAINING : Nat := 1
def linkUP : Nat := 2
def State.link (s : State) (p : Nat) : Nat := s.g (F.RING_P_STATUS_LINK p)
def State.line (s : State) (p : Nat) : Line := Sparse.get Line.init p s.lines
def State.setLine (s : State) (p : Nat) (f : Line → Line) : State := { s with lines := Sparse.put Line.init p (f (s.line p)) s.lines }

/-- Whether a ring's ports can carry a link: the switch is open and has not failed. -/
def State.ringLit (s : State) (ring : Nat) : Bool := !s.on (ringClosedF ring) && !s.on (ringFaultF ring)

/-! Lanes (R263, R274 to R277). -/

def laneKey (p dir lane : Nat) : Nat := 64 * p + 32 * dir + lane
def State.lane (s : State) (p dir lane : Nat) : Lane := Sparse.get Lane.off (laneKey p dir lane) s.lanes
def State.setLane (s : State) (p dir lane : Nat) (f : Lane → Lane) : State :=
  { s with lanes := Sparse.put Lane.off (laneKey p dir lane) (f (s.lane p dir lane)) s.lanes }

def bitCount (n : Nat) : Nat := ((List.range 32).filter n.testBit).length

/-- An active-lane map put into use in a direction (0 receive, 1 transmit): a lane that it leaves out keeps its state. -/
def State.useMap (s : State) (p dir map : Nat) : State :=
  let s := s.setAll (if dir = 0 then [(F.RING_P_LANEMAP_RX_MAP p, map), (F.RING_P_STATUS_RX_LANES p, bitCount map)]
    else [(F.RING_P_LANEMAP_TX_MAP p, map), (F.RING_P_STATUS_TX_LANES p, bitCount map)])
  (List.range 32).foldl (fun s l => if map.testBit l then s.setLane p dir l fun x => { x with state := 1 }
    else if (s.lane p dir l).state = 1 then s.setLane p dir l fun x => { x with state := 0 } else s) s

/-- A link that is gone: no partner, no lanes, no usable time from it. -/
def State.linkLost (s : State) (p : Nat) (state : Nat) : State :=
  let s := (s.useMap p 0 0).useMap p 1 0
  (s.setAll [(F.RING_P_STATUS_LINK p, state), (F.RING_P_STATUS_MARGIN p, 0), (F.RING_P_PARTNER_SERIAL p, 0)]).setLine p fun x =>
    { Line.init with lastPartner := x.lastPartner }

/-! Membership (R285 to R290). -/

/-- NEW: not UP on the ring in the last epoch, or OUT_OF_STEP. -/
def State.isNew (s : State) (ring : Nat) : Bool := (s.ringCtl ring).new || s.stepState == stOUT

/-- Whether the ring is wrapped at one of this device's ports (R291). -/
def State.wrapEnd (s : State) (ring : Nat) : Bool := s.on (F.RING_P_STATUS_WRAP (2 * ring)) || s.on (F.RING_P_STATUS_WRAP (2 * ring + 1))

/-- A membership flit of this device. -/
def State.memberOf (s : State) (ring subtype : Nat) : Member :=
  ⟨subtype, 0, s.isNew ring, s.wrapEnd ring, (s.ringCtl ring).round, s.serial, s.ringEpoch ring⟩

/-- Whether a port can send, itself or, the ring being wrapped there, by the other port. -/
def State.portServes (s : State) (p : Nat) : Bool := s.lineUp (s.outPort p)

def higherRound (mine r : Nat) : Bool := let d := (r + 256 - mine) % 256; decide (1 ≤ d) && decide (d ≤ 127)
def lowerRound (mine r : Nat) : Bool := mine != r && !higherRound mine r

/-- Members in ring order from the anchor, as (serial, NEW), for `n` members of which this one has position `pos`. -/
def ringOrder (n pos : Nat) (own : Nat × Bool) (found : List Found) : List (Nat × Bool) :=
  (List.range n).map fun k =>
    if k = pos then own
    else ((found.find? fun f => (pos + n - (f.hops + 1) % n) % n == k).elim (0, true) fun f => (f.serial, f.new))

/-! Rosters (R283, R284). -/

def State.roster (s : State) (ring : Nat) : List Nat := ((List.range 64).map fun k => s.g (rosterF ring k)).filter (· != 0)
def State.setRoster (s : State) (ring : Nat) (l : List Nat) : State :=
  s.setAll ((List.range 64).map fun k => (rosterF ring k, l.getD k 0))

/-- A serial put in behind another one. -/
def insertAfter (prev x : Nat) : List Nat → List Nat
  | [] => [x]
  | y :: r => if y = prev then y :: x :: r else y :: insertAfter prev x r

/-- A roster that begins with another of its entries, the order around the ring being the same. -/
def rotateTo (x : Nat) (l : List Nat) : List Nat := let k := l.findIdx (· == x); l.drop k ++ l.take k

/-- The roster after a discovery: written when it is empty; otherwise each member it lacks is put in behind its neighbour. It begins at the
anchor where the members' positions would not ascend in it otherwise. -/
def newRoster (old members : List Nat) : List Nat :=
  if old.isEmpty then members
  else
    let k := (members.findIdx? old.contains).getD 0
    let l := members.drop k ++ members.take k
    let r := ((l.drop 1).zip l).foldl (fun r e => if r.contains e.1 then r else insertAfter e.2 e.1 r) old
    if r.filter members.contains = members then r else rotateTo (members.headD 0) r

/-- Members that the roster places between this device and a partner at a port. -/
def State.between (s : State) (p partner : Nat) : Nat :=
  let l := s.roster (portRing p)
  match l.findIdx? (· == s.serial), l.findIdx? (· == partner) with
  | some i, some j => let n := l.length; if p % 2 = 0 then (j + n - i - 1) % n else (i + n - j - 1) % n
  | _, _ => 0

/-! Discovery. -/

/-- What is left of a ring's old epoch: its replay buffers, its held flits, with their credits, and its held frames (R289). -/
def State.dropEpoch (s : State) (ring : Nat) : State :=
  let s := [2 * ring, 2 * ring + 1].foldl (fun s p => s.setPort p fun x => { x with replay := [] }) s
  let s := (s.red.held.filter fun e => portRing e.port == ring).foldl (fun s e => s.freeCredit e.port e.flit.hdr.channel) s
  { s with
    red := { s.red with held := s.red.held.filter fun e => portRing e.port != ring }
    stp := { s.stp with held := s.stp.held.filter fun e => e.1 != ring } }

/-- The time master of the connected rings (R296): the anchor of every ring that the device is on, while no partner names a lower
serial. -/
def State.isMaster (s : State) : Bool :=
  let rings := [0, 1].filter fun r => s.g (ringAnchorF r) != 0
  !rings.isEmpty && rings.all (fun r => s.g (ringAnchorF r) == s.serial)
    && [0, 1, 2, 3].all fun p => (s.line p).sync.elim true fun y => decide (s.serial ≤ y.2.1)

/-- The device takes or leaves the part of the time master (R296, R297): the master's own DEPTH is 0. -/
def State.refreshMaster (s : State) : State :=
  if s.isMaster then
    s.setAll [(F.RING_TIME_STATUS_MASTER, 1), (F.RING_TIME_STATUS_STATE, 1), (F.RING_TIME_STATUS_SOURCE, 7),
      (F.RING_TIME_STATUS_DEPTH, 0), (F.RING_TIME_MASTER_SERIAL, s.serial)]
  else if s.on F.RING_TIME_STATUS_MASTER then
    { s with slew := Slew.init }.setAll [(F.RING_TIME_STATUS_MASTER, 0), (F.RING_TIME_STATUS_PTP, 0)]
  else s

/-- Discovery has completed (R286): size, anchor, position, epoch, roster, and the poll at the anchor (R288). -/
def State.discovered (s : State) (ring n : Nat) (found : List Found) : State :=
  let anchor := (found.map (·.serial)).foldl min s.serial
  let pos := ((found.find? fun f => f.serial == anchor && anchor != s.serial).elim 0 fun f => f.hops + 1) % max 1 n
  let epoch := ((found.map (·.lastEpoch)).foldl max (s.ringEpoch ring) + 1) % 65536
  let order := ringOrder n pos (s.serial, s.isNew ring) found
  let s := s.setAll [(ringSizeF ring, n), (ringAnchorF ring, anchor), (ringPosF ring, pos), (ringEpochF ring, epoch),
    (ringWrappedF ring, bit (s.wrapEnd ring || found.any (·.wrapEnd)))]
  let s := (s.setRingCtl ring fun r => { r with complete := true, members := order }).dropEpoch ring
  let s := s.setRoster ring (newRoster (s.roster ring) (order.map (·.1)))
  let s := ((s.inc F.RING_MEMBER_CHANGES_COUNT).logRing 0x040A (2 * ring) 0).refreshMaster
  if anchor = s.serial then s.pollBegin ring else s

/-- Discovery completes once the own DISCOVER is back and every other member's is recorded. -/
def State.tryComplete (s : State) (ring : Nat) : State :=
  let r := s.ringCtl ring
  match r.ownHops with
  | none => s
  | some h => if r.complete || decide (r.found.length < h) then s else s.discovered ring (h + 1) (r.found.drop (r.found.length - h))

/-- HOLD where it is owed and can be sent, and DISCOVER eastward once both ports are up or wrapped (R285, R286). A device with no link at
all is a ring of its own. -/
def State.ringWork (s : State) (ring : Nat) : State :=
  if s.ringState ring ≠ ringRECOVERING then s
  else
    let s := (s.ringCtl ring).holdDue.foldl (fun s p =>
      if s.portServes p then
        (s.portSend (s.outPort p) (.member (s.memberOf ring 1))).setRingCtl ring fun r => { r with holdDue := r.holdDue.filter (· != p) }
      else s) s
    let ready (p : Nat) : Bool := s.lineUp p || s.on (F.RING_P_STATUS_WRAP p)
    if (s.ringCtl ring).sent || !ready (2 * ring) || !ready (2 * ring + 1) then s
    else
      let s := s.setRingCtl ring fun r => { r with sent := true }
      if s.lineUp (2 * ring) || s.lineUp (2 * ring + 1) then s.portSend (s.outPort (2 * ring)) (.member (s.memberOf ring 2))
      else (s.setRingCtl ring fun r => { r with ownHops := some 0 }).tryComplete ring

/-- Work that waits at the ports of a ring, dropped but for membership flits (R285). -/
def State.flushPorts (s : State) (ring : Nat) : State :=
  let stays : PortItem → Bool := fun i => match i with
    | .member _ => true
    | _ => false
  [2 * ring, 2 * ring + 1].foldl (fun s p => s.setPort p fun x => { x with waiting := x.waiting.filter stays, passing := [] }) s

/-- A membership change begins, or begins again in another round (R285, R290): `round` is that of the flit that caused it. A freeze
ends broken and a replay is cancelled (R501, R512). -/
def State.beginChange (s : State) (ring : Nat) (round : Option Nat) : State :=
  let first := s.ringState ring ≠ ringRECOVERING
  let old := s.ringCtl ring
  let r := if first then round.getD 0 else round.getD ((old.round + 1) % 256)
  let isNew := if first then s.ringState ring != ringUP || s.stepState == stOUT else old.new
  let wasFrozen := s.frozen
  let s := s.breakFreeze.cancelReplay
  let s := (s.set (ringStateF ring) ringRECOVERING).flushPorts ring
  let s := { s with stp := { s.stp with polled := none } }
  let s := [2 * ring, 2 * ring + 1].foldl (fun s p => if s.lineUp p then s.set (F.RING_P_STATUS_WRAP p) 0 else s) s
  let s := if s.poll.running && s.poll.ring == ring then { s with poll := PollCtl.init } else s
  let s := s.setRingCtl ring fun x => { x with
    round := r, holdDue := [2 * ring, 2 * ring + 1], holds := if first then [] else x.holds, sent := false, found := [],
    ownHops := none, complete := false, new := isNew }
  let s := s.ringWork ring
  if wasFrozen then s.thaw else s

/-! Links (R273, R284, R285, R291). -/

/-- The ring wrapped at a port (R291). -/
def State.wrapAt (s : State) (p : Nat) : State :=
  ((s.set (F.RING_P_STATUS_WRAP p) 1).set (ringWrappedF (portRing p)) 1).logRing 0x0404 p 0

/-- Flits of a replay buffer sent again in order (R271, R273). -/
def State.resendAll (s : State) (p : Nat) : State := (s.port p).replay.foldl (fun s e => s.sendItem p e.seq e.item) s

/-- A link that begins, its streams at their first words (log entry 64). -/
def State.firstWords (s : State) (p : Nat) : State := s.setPort p fun x => { x with txWord := 0, rxWord := 0 }

/-- A port's link comes up with a partner on the receive and transmit lanes given, at a margin in 0.1 dB. A partner other than the
one before begins a membership change; the same one takes up where the link was lost. -/
def execLinkUp (p serial rx tx margin : Nat) (s : State) : Res :=
  let ring := portRing p
  act (s.powered && decide (p < 4) && s.ringLit ring && decide (2 ≤ s.ringState ring) && s.link p != linkUP && serial != 0
    && decide (8 ≤ bitCount rx) && decide (8 ≤ bitCount tx)) s fun s =>
    let differs := serial ≠ (s.line p).lastPartner
    let refused := decide (3 < s.between p serial)
    let s := ((s.useMap p 0 (rx % 2 ^ 32)).useMap p 1 (tx % 2 ^ 32)).setAll [(F.RING_P_STATUS_LINK p, linkUP),
      (F.RING_P_STATUS_MARGIN p, margin), (F.RING_P_PARTNER_SERIAL p, serial)]
    let s := s.setLine p fun _ => { Line.init with lastPartner := serial, refused := refused }
    let s := if refused then (s.logRing 0x0405 p 0).wrapAt p else s
    let s := if differs then s.setPort p fun x => { Port.init with waiting := x.waiting } else (s.firstWords p).resendAll p
    ((if differs then s.beginChange ring none else s : State).ringWork ring).pump p

/-- A port has been without its link for 300 µs. -/
def execLinkDownTimeout (p : Nat) (s : State) : Res :=
  let ring := portRing p
  act (s.powered && decide (p < 4) && s.ringLit ring && decide (2 ≤ s.ringState ring) && s.link p != linkUP
    && !s.on (F.RING_P_STATUS_WRAP p)) s fun s => (s.logRing 0x0401 p 0).beginChange ring none

/-- A port's link has stayed down for 600 µs. -/
def execRingWrap (p : Nat) (s : State) : Res :=
  let ring := portRing p
  act (s.powered && decide (p < 4) && s.ringState ring == ringRECOVERING && s.link p != linkUP && !s.on (F.RING_P_STATUS_WRAP p)) s
    fun s => (s.wrapAt p).ringWork ring

/-- The receive map that a port has proposed last, or that is agreed on, or in use (R275). -/
def State.rxPlan (s : State) (p : Nat) : Nat :=
  ((s.line p).proposed <|> (s.line p).rxNext.map (·.1)).getD (s.g (F.RING_P_LANEMAP_RX_MAP p))

/-- A receive map proposed to the partner (R275). -/
def State.propose (s : State) (p map : Nat) : State := (s.setLine p fun x => { x with proposed := some map }).sendControl p false 1 map 0

/-- Fewer than 8 lanes are left: the link goes down (R276). -/
def State.lanesGone (s : State) (p : Nat) : State := (s.linkLost p linkDOWN).logRing 0x0403 p 0

/-- A receive lane marked failed (R274). -/
def State.markLane (s : State) (p lane : Nat) (f : Lane → Lane) : State :=
  (s.setLane p 0 lane fun x => { f x with state := 2, fails := min 65535 (x.fails + 1) }).logRing 0x0402 p lane

/-- Retraining has restored the link to the same partner; the receive lanes of `bad` had uncorrectable codewords, and are left out as
failed, with those that failed meanwhile (R273, R275). -/
def execLinkRetrainDone (p bad : Nat) (s : State) : Res :=
  act (s.powered && decide (p < 4) && s.link p == linkTRAINING && s.on (F.RING_P_PARTNER_SERIAL p)) s fun s =>
    let old := s.rxPlan p
    let gone := (mapLanes old).filter bad.testBit
    let s := gone.foldl (fun s l => s.markLane p l id) s
    let map := gone.foldl (fun m l => m - 2 ^ l) old
    if bitCount map < 8 then s.lanesGone p
    else
      let s := (s.set (F.RING_P_STATUS_LINK p) linkUP).firstWords p
      let s := s.setPort p fun x => { x with replay := x.replay.map fun e => { e with resent := 0 } }
      let s := if map = s.g (F.RING_P_LANEMAP_RX_MAP p) then s else s.propose p map
      (s.resendAll p).pump p

/-! Membership flits that arrive. -/

/-- A HOLD brought to port `p` by the logical ring: passed on once, and a change begun by it (R285, R290). -/
def State.takeHold (s : State) (p : Nat) (m : Member) : State :=
  let ring := portRing p
  let mine := (s.ringCtl ring).round
  let rec' := s.ringState ring == ringRECOVERING
  if m.serial = s.serial ∨ (rec' ∧ lowerRound mine m.round) then s
  else
    let begins := s.ringUp ring || (rec' && higherRound mine m.round)
    let seen := rec' && (s.ringCtl ring).holds.contains (m.serial, m.round, p)
    let s := if begins then s.beginChange ring (some m.round) else s
    if seen then s
    else
      let s := s.setRingCtl ring fun r => { r with holds := r.holds ++ [(m.serial, m.round, p)] }
      s.portSend (s.outPort (oppositePort p)) (.member m)

/-- A DISCOVER brought to port `p` by the logical ring: recorded the first time and passed on with HOPS one more; the own one, back
again, ends its journey (R286, R290). -/
def State.takeDiscover (s : State) (p : Nat) (m : Member) : State :=
  let ring := portRing p
  let rec' := s.ringState ring == ringRECOVERING
  if rec' && lowerRound (s.ringCtl ring).round m.round then s
  else
    let s := if rec' && higherRound (s.ringCtl ring).round m.round then s.beginChange ring (some m.round) else s
    let r := s.ringCtl ring
    if m.serial = s.serial then
      if rec' && r.sent && r.ownHops.isNone && r.round == m.round then
        (s.setRingCtl ring fun r => { r with ownHops := some m.hops }).tryComplete ring
      else s
    else
      let s := if rec' && !r.complete && !(r.found.any (·.serial == m.serial)) then
          s.setRingCtl ring fun r => { r with found := r.found ++ [⟨m.serial, m.lastEpoch, m.hops, m.new, m.wrapEnd⟩] }
        else s
      (s.portSend (s.outPort (oppositePort p)) (.member { m with hops := m.hops + 1 })).tryComplete ring

/-- A membership flit past its codewords (R271, R291). -/
def State.memberArrives (s : State) (p seq : Nat) (back : Bool) (m : Member) (k : State → Nat → Member → State) : State :=
  match s.arrive p seq with
  | (s, false) => s
  | (s, true) =>
    let s := s.freeFrame p
    if !s.ringLit (portRing p) then s
    else
      match s.side p back with
      | some q => k s q m
      | none => s.portSend (oppositePort p) (.member m)

/-- A membership flit of a SUBTYPE at a ring port (R266, R285). -/
def memberRow (subtype p : Nat) (back : Bool) (rx : LineRx) (s : State) (k : State → Nat → Member → State) : Res :=
  lineRow (s.lineUp p) p rx (fun b => (headerOf b).type == 3 && (Member.ofBytes b).subtype == subtype) s fun s b =>
    s.memberArrives p (headerOf b).seq back (Member.ofBytes b) k

def execHold (p : Nat) (back : Bool) (rx : LineRx) (s : State) : Res := memberRow 1 p back rx s State.takeHold
def execDiscover (p : Nat) (back : Bool) (rx : LineRx) (s : State) : Res := memberRow 2 p back rx s State.takeDiscover

/-- 100 µs have passed since the own DISCOVER without completion (R290). -/
def execDiscoveryTimeout (ring : Nat) (s : State) : Res :=
  act (s.powered && decide (ring < 2) && s.ringState ring == ringRECOVERING && (s.ringCtl ring).sent && !(s.ringCtl ring).complete) s
    fun s => s.beginChange ring none

/-! The bypass (R278 to R281). -/

/-- A ring left: nothing of it is shown, and its ports are dark. -/
def State.ringOut (s : State) (ring : Nat) : State :=
  let s := s.setAll [(ringStateF ring, ringBYPASSED), (ringSizeF ring, 0), (ringPosF ring, 0), (ringAnchorF ring, 0),
    (ringWrappedF ring, 0), (ringJoinF ring, 0)]
  let s := [2 * ring, 2 * ring + 1].foldl (fun s p =>
    (((s.linkLost p linkDOWN).set (F.RING_P_STATUS_WRAP p) 0).setPort p fun _ => Port.init).setLine p fun _ => Line.init) s
  let s := if s.poll.running && s.poll.ring == ring then { s with poll := PollCtl.init } else s
  (s.setRingCtl ring fun r => { RingCtl.init with moving := r.moving }).refreshMaster

def ringMaster (m : Nat) : Bool := m == 1 || m == 2

/-- JOIN of a ring that is not open yet; `selftest` tells that every lane trained through the closed switch. -/
def execJoin (m ring : Nat) (selftest : Bool) (s : State) : Res :=
  act (s.fromMaster m && ringMaster m && decide (ring < 2) && s.ringState ring == ringBYPASSED) s fun s =>
    if !selftest || s.on (ringLeaveF ring) || s.on (ringFaultF ring) then s.logRing 0x040B (2 * ring) 0
    else
      ((s.set (ringStateF ring) ringJOINING).set (ringJoinF ring) 1).setRingCtl ring fun r => { r with moving := some true }

/-- The switch has reached OPEN: the membership change begins (R279, R285). -/
def execSwitchOpenReached (ring : Nat) (s : State) : Res :=
  act (s.powered && decide (ring < 2) && s.ringState ring == ringJOINING && (s.ringCtl ring).moving == some true) s fun s =>
    let s := ((s.set (ringClosedF ring) 0).inc F.RING_BYPASS_OPS_COUNT).set (ringJoinF ring) 0
    (s.setRingCtl ring fun r => { r with moving := none }).beginChange ring none

/-- LEAVE set: HOLD goes out, the switch closes, and the device, alone now, aborts an open step (R280, R285, R290). -/
def execLeave (m ring : Nat) (s : State) : Res :=
  act (s.fromMaster m && ringMaster m && decide (ring < 2)) s fun s =>
    let s := s.set (ringLeaveF ring) 1
    if s.ringState ring = ringBYPASSED then s
    else
      let joined := decide (ringRECOVERING ≤ s.ringState ring)
      let s := if joined then s.beginChange ring none else s
      let s := (s.closeBypass ring).setRingCtl ring fun r => { r with moving := some false }
      let s := s.ringOut ring
      if joined && s.stepOpen then s.abortBoundary 0x0204 0xFFFF 0 0 none else s

/-- The switch is not where it was told to move within 400 µs (R281). -/
def execBypassFault (ring : Nat) (s : State) : Res :=
  act (s.powered && decide (ring < 2) && (s.ringCtl ring).moving.isSome) s fun s =>
    let s := if (s.ringCtl ring).moving = some false then s.set (ringClosedF ring) 0 else s
    ((s.set (ringFaultF ring) 1).logRing 0x0407 (2 * ring) 0).ringOut ring

def execRosterReset (m : Nat) (s : State) : Res :=
  act (s.fromMaster m && ringMaster m) s fun s => (s.setRoster 0 []).setRoster 1 []

/-! Link control and lanes (R269 to R277). -/

/-- Whether a SEQ is acknowledged by the one named. -/
def ackedBy (ack seq : Nat) : Bool := decide ((ack + 65536 - seq) % 65536 < 32768)

/-- A NAK: the flits from the named SEQ on go again in order, unless one has been resent eight times (R271, R273). -/
def State.resend (s : State) (p : Nat) : State :=
  let x := s.port p
  if x.replay.any fun e => decide (8 ≤ e.resent) then (s.set (F.RING_P_STATUS_LINK p) linkTRAINING).logRing 0x0406 p 0
  else (s.setPort p fun x => { x with replay := x.replay.map fun e => { e with resent := e.resent + 1 } }).resendAll p

/-- Credits that the partner returns (R269): what it returns for a channel beyond the reserved credits in use there was taken from the pool
(log entry 64). -/
def Port.refund (x : Port) (c : LinkControl) : Port :=
  (c.credits.zipIdx).foldl (fun x e =>
    let u := Sparse.get 0 e.2 x.used
    { x with used := Sparse.put 0 e.2 (u - e.1) x.used, poolUsed := x.poolUsed - (e.1 - u) })
    { x with poolUsed := x.poolUsed - c.pool, ctrlUsed := x.ctrlUsed - c.ctrlCredits }

/-- A map proposed for this end's transmit lanes: accepted from codeword `mapAt` on, or, below 8 lanes, the link goes down (R275, R276). -/
def State.acceptMap (s : State) (p map mapAt : Nat) : State :=
  if bitCount map < 8 then s.lanesGone p
  else (s.setLine p fun x => { x with txNext := some (map, mapAt) }).sendControl p false 2 map mapAt

/-- What a link-control flit tells (R269, R271, R272, R275). -/
def State.takeControl (s : State) (p : Nat) (c : LinkControl) (mapAt : Nat) : State :=
  let s := s.setPort p fun x => ({ x with replay := x.replay.filter fun e => !ackedBy c.ackSeq e.seq }).refund c
  let s := if c.nak then s.resend p else s
  let s := if c.laneOp = 1 then s.acceptMap p c.laneMap mapAt
    else if c.laneOp = 2 && (s.line p).proposed == some c.laneMap then
      s.setLine p fun x => { x with proposed := none, rxNext := some (c.laneMap, c.mapAt) }
    else s
  (s.pump p).refreshJobs

/-- A link-control flit. A proposed map is accepted for a codeword count that this end names, `mapAt`. -/
def execLinkControlFlit (p : Nat) (rx : LineRx) (mapAt : Nat) (s : State) : Res :=
  lineRow (s.link p == linkUP) p rx (fun b => (headerOf b).type == 4) s fun s b => s.takeControl p (LinkControl.ofBytes b) mapAt

/-- An acknowledgement at least every microsecond (R271). -/
def execAckTimer (p : Nat) (s : State) : Res :=
  act (s.powered && decide (p < 4) && s.link p == linkUP) s fun s => s.sendControl p false 0 0 0

/-- A receive lane, active or under retest, fails (R274 to R277), with its power, its error exponent and the uncorrectable codewords that it
delivered outside flits. The map without it is proposed at once, or once the link has been retrained. -/
def execLaneFailed (p lane power ser uncorr : Nat) (s : State) : Res :=
  let st := (s.lane p 0 lane).state
  act (s.powered && decide (p < 4) && decide (lane < 32) && (s.link p == linkUP || s.link p == linkTRAINING) && (st == 1 || st == 3)) s
    fun s =>
      let base := s.rxPlan p
      let s := (s.markLane p lane fun x => { x with power := power, ser := ser }).addTo (F.RING_P_FEC_UNCORR_COUNT p) uncorr
      if !base.testBit lane then s
      else if bitCount (base - 2 ^ lane) < 8 then s.lanesGone p
      else if s.link p = linkUP then s.propose p (base - 2 ^ lane)
      else s.setLine p fun x => { x with proposed := some (base - 2 ^ lane) }

/-- The agreed codeword is reached in a direction: 0 receive, 1 transmit (R275). -/
def execLaneMapSwitch (p dir : Nat) (s : State) : Res :=
  match (if dir = 0 then (s.line p).rxNext else (s.line p).txNext) with
  | none => .next s
  | some (map, _) =>
    act (s.powered && decide (p < 4) && s.link p == linkUP) s fun s =>
      (s.useMap p dir map).setLine p fun x => if dir = 0 then { x with rxNext := none } else { x with txNext := none }

/-- A failed lane is tested alone (R277). -/
def execLaneRetest (p lane : Nat) (s : State) : Res :=
  act (s.powered && decide (p < 4) && decide (lane < 32) && s.link p == linkUP && (s.lane p 0 lane).state == 2) s fun s =>
    s.setLane p 0 lane fun x => { x with state := 3 }

/-- A lane under retest has run 10 ms without a fault: it is proposed again (R277). -/
def execLaneRejoin (p lane power ser : Nat) (s : State) : Res :=
  act (s.powered && decide (p < 4) && decide (lane < 32) && s.link p == linkUP && (s.lane p 0 lane).state == 3) s fun s =>
    let s := s.setLane p 0 lane fun x => { x with power := power, ser := ser }
    let base := s.rxPlan p
    s.propose p (if base.testBit lane then base else base + 2 ^ lane)

/-- Whether a flit is of a reserved kind: a TYPE of R266, a step frame's TYPE of R245 or a SUBTYPE of R285. -/
def reservedFlit (b : List Byte) : Bool :=
  let h := headerOf b
  decide (5 ≤ h.type) || (h.type == 1 && ((StepFrame.ofBytes b).type == 0 || decide (7 < (StepFrame.ofBytes b).type)))
    || (h.type == 3 && (Member.ofBytes b).subtype != 1 && (Member.ofBytes b).subtype != 2)

/-- A reserved flit past its codewords: one of a reserved TYPE is discarded and counted (R266); a frame of a reserved kind has taken its place
in the sequence and its buffer space, and is discarded (R245, R285). -/
def State.takeReserved (s : State) (p : Nat) (h : Header) : State :=
  if 5 ≤ h.type then s.inc (F.RING_P_DISCARDS_COUNT p)
  else
    match s.arrive p h.seq with
    | (s, false) => s
    | (s, true) => s.freeFrame p

def execReservedTypeFlit (p : Nat) (rx : LineRx) (s : State) : Res :=
  lineRow (s.link p == linkUP) p rx reservedFlit s fun s b => s.takeReserved p (headerOf b)

end Sys2Proof.Machine
end

