-- ==== Sys2Proof/Machine/TimeSync.lean ====
section
/-!
DEFINITION. Fabric time: synchronisation flits, source selection, slewing and stepping, holdover, PTP at the time master, and the tick
(spec 09_ring_ports.md R296 to R299, 13_ethernet_ports.md R421, R422).
-/
namespace Sys2Proof.Machine

/-! Times are in units of 2^-16 ns; `frac` is the part of a nanosecond at which a flit's first word meets the port. -/

/-- The fabric time of an event in the running nanosecond. -/
def State.stamp (s : State) (frac : Nat) : Nat := s.time * 65536 + frac % 65536

/-- The difference of two times, modulo 2^64 ns, as a signed number. -/
def timeDiff (a b : Nat) : Int := signedOf 80 (a + 2 ^ 80 - b % 2 ^ 80)

/-- 1 µs. -/
def microsecond : Nat := 1000 * 65536

/-- Fabric time moved by whole nanoseconds. -/
def State.moveTime (s : State) (n : Int) : State := { s with time := patternOf 64 ((s.time : Int) + n) }

/-- Steering by an offset of the source's time from the device's own (R297, R299): slewed, or stepped when the device locks with
an offset of 1 µs or more. -/
def State.steer (s : State) (offset : Int) : State :=
  let ns := offset / 65536
  if s.g F.RING_TIME_STATUS_STATE ≠ 1 ∧ microsecond ≤ offset.natAbs then
    (({ s with slew := Slew.init }.moveTime ns).set F.RING_TIME_STATUS_STEPPED 1).logRing 0x0409 0 0
  else { s with slew := { s.slew with left := ns } }

/-- Ports in the order of R297. -/
def sourceOrder : List Nat := [1, 0, 3, 2]

/-- A port's last SYNC, where it can be used: it does not name this device as master. -/
def State.usable (s : State) (p : Nat) : Option (Nat × Nat × Int) := (s.line p).sync.bind fun y => if y.2.1 = s.serial then none else some y

/-- The source port (R297): the lowest MASTER, then the lowest DEPTH, then the order of the ports. -/
def State.timeSource (s : State) : Option Nat :=
  sourceOrder.foldl (fun o p =>
    match s.usable p, o.bind s.usable with
    | some y, some z => if y.2.1 < z.2.1 ∨ (y.2.1 = z.2.1 ∧ y.1 < z.1) then some p else o
    | some _, none => some p
    | none, _ => o) none

/-- The device locked onto its source with the SYNC that has just come. -/
def State.lockOn (s : State) (p : Nat) (y : Nat × Nat × Int) : State :=
  (s.steer y.2.2).setAll [(F.RING_TIME_STATUS_STATE, 1), (F.RING_TIME_STATUS_SOURCE, p), (F.RING_TIME_STATUS_DEPTH, min 255 (y.1 + 1)),
    (F.RING_TIME_MASTER_SERIAL, y.2.1), (F.RING_TIME_OFFSET_OFFSET, patternOf 64 y.2.2)]

/-- A time-synchronisation flit sent (R296). -/
def State.sendTime (s : State) (p : Nat) (f : TimeFlit) : State := (s.emit (.time p f)).shine p (f.bytes (portRing p))

/-- SYNC sent (R296). -/
def execSyncSend (p frac : Nat) (s : State) : Res :=
  doIf (s.powered && decide (p < 4) && s.lineUp p) s fun s =>
    s.sendTime p ⟨1, s.g F.RING_TIME_STATUS_DEPTH, s.g F.RING_TIME_MASTER_SERIAL, s.stamp frac⟩

/-- A delay exchange begun (R296). -/
def execDelayExchange (p frac : Nat) (s : State) : Res :=
  doIf (s.powered && decide (p < 4) && s.lineUp p) s fun s =>
    let t := s.stamp frac
    (s.setLine p fun x => { x with asked := some t }).sendTime p ⟨2, 0, 0, t⟩

/-- A time-synchronisation flit of a KIND at a ring port (R266, R296). -/
def timeRow (kind p : Nat) (rx : LineRx) (s : State) (k : State → TimeFlit → State) : Res :=
  lineRow (s.lineUp p) p rx (fun b => (headerOf b).type == 2 && (TimeFlit.ofBytes b).kind == kind) s fun s b => k s (TimeFlit.ofBytes b)

/-- A SYNC: the partner's offset, the source, and steering where this port is the source (R297). -/
def State.takeSync (p frac : Nat) (s : State) (f : TimeFlit) : State :=
  let offset (d : Int) : Int := timeDiff f.t (s.stamp frac) + d
  let s := s.setLine p fun x => { x with sync := if f.depth = 255 then none else x.delay.map fun d => (f.depth, f.master, offset d) }
  let s := s.refreshMaster
  if s.on F.RING_TIME_STATUS_MASTER then s
  else
    match s.timeSource, s.usable p with
    | some q, some y => if q = p then s.lockOn p y else s
    | _, _ => s

def execSync (p frac : Nat) (rx : LineRx) (s : State) : Res := timeRow 1 p rx s (State.takeSync p frac)

/-- A DELAY_REQ is answered with the time of its arrival (R296). -/
def execDelayReq (p frac : Nat) (rx : LineRx) (s : State) : Res := timeRow 2 p rx s fun s _ => s.sendTime p ⟨3, 0, 0, s.stamp frac⟩

/-- A DELAY_RESP to the request that is out gives the link delay; `left` is the time at which it departed, t3 (R296). -/
def State.takeDelay (p frac left : Nat) (s : State) (f : TimeFlit) : State :=
  match (s.line p).asked with
  | none => s
  | some t1 =>
    let d := (timeDiff f.t t1 + timeDiff (s.stamp frac) left) / 2
    s.setLine p fun x => { x with asked := none, delay := some d }

def execDelayResp (p frac left : Nat) (rx : LineRx) (s : State) : Res := timeRow 3 p rx s (State.takeDelay p frac left)

/-- No usable SYNC for 1 ms (R299). -/
def execTimeHoldover (s : State) : Res :=
  doIf (s.powered && s.g F.RING_TIME_STATUS_STATE == 1) s fun s =>
    let s := s.refreshMaster
    if s.on F.RING_TIME_STATUS_MASTER then s
    else ({ s with slew := Slew.init }.set F.RING_TIME_STATUS_STATE 2).logRing 0x0408 (s.g F.RING_TIME_STATUS_SOURCE % 4) 0

/-- The difference of two times in nanoseconds, modulo 2^64, as a signed number. -/
def nsDiff (a b : Nat) : Int := signedOf 64 (a + 2 ^ 64 - b % 2 ^ 64)

def State.ptpPort (s : State) (p : Nat) : PtpPort := Sparse.get PtpPort.init p s.eth.ptp
def State.setPtp (s : State) (p : Nat) (f : PtpPort → PtpPort) : State :=
  { s with eth := { s.eth with ptp := Sparse.put PtpPort.init p (f (s.ptpPort p)) s.eth.ptp } }

/-- The device's offset from the grandmaster is known: only the time master steers fabric time by it (R421, R422). -/
def State.ptpOffset (s : State) (o : Int) : State :=
  let s := s.set F.ETH_PTP_OFFSET_OFFSET (patternOf 64 o)
  if !s.on F.RING_TIME_STATUS_MASTER then s
  else if s.on F.RING_TIME_STATUS_PTP ∨ o.natAbs < 1000 then
    { s with slew := { s.slew with left := -o } }.set F.RING_TIME_STATUS_PTP 1
  else
    ((({ s with slew := Slew.init }.moveTime (-o)).set F.RING_TIME_STATUS_STEPPED 1).set F.RING_TIME_STATUS_PTP 1).logRing 0x0409 0 0

/-- A PTP message of a type of IEEE 1588 reaches a port, carrying a time in nanoseconds, and is stamped with fabric time (R400, R421; log
entry 45): Sync 0 and its Follow_Up 8, upon which the device asks for the delay; Delay_Resp 9, which ends an end-to-end exchange; Pdelay_Req 2,
which is answered by Pdelay_Resp 3 and its follow-up 10; those two from the peer, which give the path delay. -/
def State.ptpTake (s : State) (p kind t : Nat) : State :=
  let now := s.time
  let x := s.ptpPort p
  if kind = 0 then s.setPtp p fun x => { x with sync := some now }
  else if kind = 8 then
    match x.sync with
    | none => s
    | some t2 =>
      if s.on F.ETH_PTP_CTRL_P2P then
        ((s.setPtp p fun x => { x with sync := none, peerAsked := some now }).emit (.ptp p 2 now)).ptpOffset (nsDiff t2 t - x.delay)
      else (s.setPtp p fun x => { x with sync := none, asked := some (t, t2, now) }).emit (.ptp p 1 now)
  else if kind = 9 then
    match x.asked with
    | none => s
    | some (t1, t2, t3) => (s.setPtp p fun x => { x with asked := none }).ptpOffset ((nsDiff t2 t1 - nsDiff t t3) / 2)
  else if kind = 2 then (if s.on F.ETH_PTP_CTRL_P2P then (s.emit (.ptp p 3 now)).emit (.ptp p 10 now) else s)
  else if kind = 3 then
    match x.peerAsked with
    | none => s
    | some t1 => s.setPtp p fun x => { x with peerAsked := none, peerTold := some (t1, t, now) }
  else if kind = 10 then
    match x.peerTold with
    | none => s
    | some (t1, t2, t4) => s.setPtp p fun x => { x with peerTold := none, delay := (nsDiff t4 t1 - nsDiff t t2) / 2 }
  else s

def execPtpMessage (p kind t : Nat) (s : State) : Res :=
  doIf (s.working && decide (p < 2) && s.on (ptpEnF p) && s.on (F.ETH_PORT_STATUS_LINK_UP p)) s fun s => s.ptpTake p kind t

/-- One nanosecond of fabric time, with the slewing that is due: 1 ns in every 5,000, so at most 200 ns in a millisecond (R297). -/
def State.tick (s : State) : State :=
  let y := s.slew
  if 0 < y.wait then { s with time := (s.time + 1) % 2 ^ 64, slew := { y with wait := y.wait - 1 } }
  else if y.left = 0 then { s with time := (s.time + 1) % 2 ^ 64 }
  else if 0 < y.left then { s with time := (s.time + 2) % 2 ^ 64, slew := ⟨y.left - 1, 4999⟩ }
  else { s with slew := ⟨y.left + 1, 4999⟩ }

end Sys2Proof.Machine
end

