-- ==== Sys2Proof/Machine/Security.lean ====
section
/-!
DEFINITION. Mailboxes, firmware, owner keys, attestation and the error history (spec 14_management_and_security.md R425 to R453).
-/
namespace Sys2Proof.Machine

/-- A security error: latched with the master concerned, passed to the error history, vector 12 (R453). -/
def State.logSec (s : State) (code master : Nat) : State :=
  ((s.latch F.SEC_ERRLOG_VALID F.SEC_ERRLOG_OVERFLOW [(F.SEC_ERRLOG_MASTER, master), (F.SEC_ERRLOG_CODE, code)]).report code master 0).raise 12

/-- A power or thermal error: latched with its place and time, passed to the error history, vector 11 (R483). -/
def State.logPwr (s : State) (code location : Nat) : State :=
  ((s.latch F.PWR_ERRLOG_VALID F.PWR_ERRLOG_OVERFLOW [(F.PWR_ERRLOG_LOCATION, location), (F.PWR_ERRLOG_CODE, code),
    (F.PWR_ERRTIME_TIME, s.time)]).report code location 0).raise 11

/-- Limits of R476 in units of 0.25 °C: a logic node, a memory node. -/
def nodeLimit (j : Nat) : Int := if j = 0 then 420 else 380
/-- Nodes of the stack at a region of a column, the coolant left out (R473). -/
def nodesOf (c : Nat) : List Nat := List.range (layersOf c + 1)

/-- Whether some node of a column is at its limit plus `d` or above. -/
def State.nodeAt (s : State) (c : Nat) (d : Int) : Bool :=
  (List.range 64).any fun r => (nodesOf c).any fun j => decide (nodeLimit j + d ≤ (s.node c r j).est)

/-- THERM_TRIP# released once THM_TRIP is logged and every node lies below its limit (R528). -/
def State.releaseTrip (s : State) : State :=
  if s.pins.thermTrip && !s.pins.tripDue && !((List.range 5).any fun c => s.nodeAt c 0) then
    { s with pins := { s.pins with thermTrip := false } }
  else s

/-- THM_TRIP logged when the management core next runs (R478). -/
def State.reportTrip (s : State) : State :=
  if s.pins.tripDue then ({ s with pins := { s.pins with tripDue := false } }.logPwr 0x0907 0).releaseTrip else s

/-! Mailboxes (R428 to R433). -/

/-- A sleeping or switched-off tile asks for admission, and its cluster's PLL relocks (R463 to R465). -/
def State.wakeTile (s : State) (t : Nat) : State :=
  if s.tileAwake t || s.power.waiting.contains t || s.power.admitted.contains t then s
  else { s with power := { s.power with waiting := s.power.waiting ++ [t] } }.set (F.PWR_CLU_PLL (t / 8)) 0

/-- Whether a receiver's domain is in reset: a cluster's (R521), or the management core's until Jeoft or the recovery ROM runs
(R427, R436). -/
def State.receiverReset (s : State) (r : Nat) : Bool :=
  (decide (4 ≤ r) && decide (r ≤ 35) && s.on (F.CLU_CTRL_CLU_RESET (r - 4))) || (r == 2 && s.boot == bootROM)

/-- The management core's fast clock is started (R426). -/
def State.wakeCore (s : State) : State := { s with sec := { s.sec with rested := false } }

/-- Jeoft is idle: it runs, no SEC command is in progress, no error report waits, and no message waits for the core (R426, log entry
69). -/
def State.jeoftIdle (s : State) : Bool :=
  s.boot == bootRUNNING && !s.on F.SEC_CMD_BUSY && s.reports.isEmpty
    && !(List.range 32).any fun n => s.g (F.MBX_BIND_RECEIVER n) == 2 && s.on (F.MBX_CH_STATUS_FULL n)

/-- The core stops its fast clock while Jeoft is idle. -/
def State.coreRest (s : State) : State := if s.jeoftIdle then { s with sec := { s.sec with rested := true } } else s

/-- Whether the core sleeps: an error report wakes it (R426). -/
def State.asleep (s : State) : Bool := s.sec.rested && s.jeoftIdle

/-- A step without a command: a nanosecond passes while the block is powered (log entry 2), and an idle core goes to sleep. -/
def State.idle (s : State) : State := if s.powered then s.tick.coreRest else s

/-- The wake event of a message for a receiver (R432). The board controller's ALERT is asserted while one of its channels is full. -/
def State.wakeReceiver (s : State) (n r : Nat) : State :=
  if r = 1 then s.raise (16 + n)
  else if r = 2 then s.wakeCore
  else if 4 ≤ r ∧ r ≤ 35 then
    let k := r - 4
    let s := ((s.set (F.CLU_STATUS_CTRL_AWAKE k) 1).inc (F.CLU_WAKES_COUNT k)).set (F.PWR_CLU_PLL k) 0
    if s.plan.isSome then (List.range 8).foldl (fun s j => s.wakeTile (8 * k + j)) s else s
  else s

/-- Whether ALERT is asserted on the sideband. -/
def State.alert (s : State) : Bool :=
  (List.range 32).any fun n => s.g (F.MBX_BIND_RECEIVER n) == 3 && s.on (F.MBX_CH_STATUS_FULL n)

/-- Whether a master may send on a channel: its bound sender, or on a shared channel the holder of the lock. -/
def State.maySend (s : State) (m n : Nat) : Bool :=
  let b := s.g (F.MBX_BIND_SENDER n)
  if b = 0xFF then m != 0 && s.g (F.MBX_CH_LOCK_HOLDER n) == m else b == m

/-- A message put into its empty channel. -/
def State.putMessage (s : State) (m n word : Nat) : State :=
  ((s.setAll [(F.MBX_CH_DATA_WORD n, word), (F.MBX_CH_STATUS_FULL n, 1), (F.MBX_CH_STATUS_LAST_SENDER n, m)]).traceRec 3 n (word % 2 ^ 32)).wakeReceiver
    n (s.g (F.MBX_BIND_RECEIVER n))

/-- A write of MBX_CHn_DATA. -/
def State.mailboxSend (s : State) (m n word : Nat) : State :=
  if !s.maySend m n then (s.set (F.MBX_CH_STATUS_NOT_BOUND n) 1).logSec 0x0A0A m
  else if s.g (F.MBX_BIND_RECEIVER n) = 0 then s
  else if s.on (F.MBX_CH_STATUS_FULL n) || s.receiverReset (s.g (F.MBX_BIND_RECEIVER n)) then
    (if 4 ≤ m ∨ s.receiverReset (s.g (F.MBX_BIND_RECEIVER n)) then { s with sec := { s.sec with held := s.sec.held ++ [(n, m, word)] } }
     else (s.set (F.MBX_CH_STATUS_OVERRUN n) 1).logSec 0x0A0B m)
  else s.putMessage m n word

/-- Masters that carry accesses (R425). -/
def masterOk (m : Nat) : Bool := decide (1 ≤ m) && decide (m ≤ 36)

def execMailboxWrite (m n word : Nat) (s : State) : Res :=
  doIf (s.fromMaster m && masterOk m && decide (n < 32)) s fun s => s.mailboxSend m n (word % 2 ^ 64)

/-- The first message held back for a channel is sent once the channel is empty. -/
def execHeldMessageSend (n : Nat) (s : State) : Res :=
  match takeFirst (fun e => e.1 == n) s.sec.held with
  | none => .next s
  | some ((_, m, w), rest) =>
    doIf (s.powered && decide (n < 32) && !s.on (F.MBX_CH_STATUS_FULL n) && !s.receiverReset (s.g (F.MBX_BIND_RECEIVER n))) s fun s =>
      ({ s with sec := { s.sec with held := rest } } : State).mailboxSend m n w

/-- A channel emptied. -/
def State.emptyChannel (s : State) (n : Nat) : State := (s.set (F.MBX_CH_STATUS_FULL n) 0).set (F.MBX_CH_DATA_WORD n) 0

/-- A cluster controller with no message left rests. -/
def State.controllerRest (s : State) (r : Nat) : State :=
  if 4 ≤ r ∧ r ≤ 35 then
    (if (List.range 32).any fun n => s.g (F.MBX_BIND_RECEIVER n) == r && s.on (F.MBX_CH_STATUS_FULL n) then s
     else s.set (F.CLU_STATUS_CTRL_AWAKE (r - 4)) 0)
  else s

/-- An 8-byte read of MBX_CHn_TAKE. -/
def execMailboxTake (m n : Nat) (s : State) : Res :=
  doIf (s.fromMaster m && masterOk m && decide (n < 32)) s fun s =>
    if s.g (F.MBX_BIND_RECEIVER n) = m then
      let w := s.g (F.MBX_CH_DATA_WORD n)
      ((s.emptyChannel n).controllerRest m).emit (.regData m (0x30008 + 0x40 * n) w)
    else s.emit (.regData m (0x30008 + 0x40 * n) 0)

/-- CLEAR, by the management core only. -/
def execMailboxClear (m n : Nat) (s : State) : Res :=
  doIf (s.powered && m == 2 && decide (n < 32)) s fun s =>
    ((s.emptyChannel n).set (F.MBX_CH_LOCK_HOLDER n) 0).controllerRest (s.g (F.MBX_BIND_RECEIVER n))

/-- A read of MBX_CHn_LOCK. -/
def execMailboxLockClaim (m n : Nat) (s : State) : Res :=
  doIf (s.fromMaster m && masterOk m && decide (n < 32)) s fun s =>
    let b := s.g (F.MBX_BIND_SENDER n)
    let h := s.g (F.MBX_CH_LOCK_HOLDER n)
    let out (s : State) (v : Nat) : State := s.emit (.regData m (0x30018 + 0x40 * n) v)
    if b ≠ 0xFF then out s b
    else if h = 0 ∧ s.g (F.MBX_BIND_RECEIVER n) ≠ m then out (s.set (F.MBX_CH_LOCK_HOLDER n) m) 0
    else out s h

/-- A write of 0 to MBX_CHn_LOCK. -/
def execMailboxLockRelease (m n : Nat) (s : State) : Res :=
  doIf (s.fromMaster m && masterOk m && decide (n < 32)) s fun s =>
    if s.g (F.MBX_CH_LOCK_HOLDER n) = m then s.set (F.MBX_CH_LOCK_HOLDER n) 0 else s.logSec 0x0A0F m

/-- The run-time holding of a mailbox channel follows its binding (R224, R433). -/
def State.holdChannel (s : State) (n arg : Nat) : State :=
  let s := s.unclaim 5 n 8
  if arg % 256 = 0 ∨ arg / 256 = 0 then s else (s.claim 5 n 8 arg).1

/-- A write of MBX_BINDn: a claim on the channel for a pair, which conflicts with what OWNER binds (R224, R433). -/
def execMbxBindWrite (m n sender receiver : Nat) (s : State) : Res :=
  doIf (s.fromMaster m && (m == 1 || m == 2) && decide (n < 32) && !s.on F.MBX_BIND_LOCK_LOCKED) s fun s =>
    let arg := sender % 256 + 256 * (receiver % 256)
    if (s.plan.elim [] fun p => p.owners).any fun e => e.res == 5 && e.inst == n && e.arg != arg then s.report 0x0118 0 (5 * 65536 + n)
    else if s.g (F.MBX_BIND_SENDER n) = sender % 256 ∧ s.g (F.MBX_BIND_RECEIVER n) = receiver % 256 then s
    else
      let r := s.g (F.MBX_BIND_RECEIVER n)
      ((((s.emptyChannel n).set (F.MBX_BIND_SENDER n) sender).set (F.MBX_BIND_RECEIVER n) receiver).holdChannel n arg).controllerRest r

/-- The first write of LOCKED since the DEV reset (R7). -/
def execMbxBindLock (m : Nat) (s : State) : Res :=
  doIf (s.fromMaster m && (m == 1 || m == 2) && !s.locked.contains F.MBX_BIND_LOCK_LOCKED.key) s fun s =>
    { s.set F.MBX_BIND_LOCK_LOCKED 1 with locked := s.locked ++ [F.MBX_BIND_LOCK_LOCKED.key] }

/-- What a reset of a receiver's domain clears: its messages and its locks (R430, R433). -/
def State.resetReceiver (s : State) (r : Nat) : State :=
  (List.range 32).foldl (fun s n =>
    let s := if s.g (F.MBX_BIND_RECEIVER n) = r then s.emptyChannel n else s
    if s.g (F.MBX_CH_LOCK_HOLDER n) = r then s.set (F.MBX_CH_LOCK_HOLDER n) 0 else s) s

/-! Firmware (R434 to R437). -/

def fwValidF (slot : Nat) : Fld := if slot = 0 then F.SEC_STATUS_SLOT_A_VALID else F.SEC_STATUS_SLOT_B_VALID
def State.fwSlot (s : State) (slot : Nat) : List Byte := if slot = 0 then s.sec.slotA else s.sec.slotB
def State.setFwSlot (s : State) (slot : Nat) (l : List Byte) : State :=
  if slot = 0 then { s with sec := { s.sec with slotA := l } } else { s with sec := { s.sec with slotB := l } }

/-- A SIG block whose fixed fields are as R205 says. -/
def sigForm (g : List Byte) : Bool := leAt g 0 2 == 1 && allZero (sliceBytes g 2 6) && allZero (sliceBytes g 3445 11)
/-- Whether both signatures of a SIG block over a header verify under a key pair. -/
def sigVerifies (k : KeyPair) (header g : List Byte) : Bool :=
  Config.edVerify k.ed header (sliceBytes g 72 64) && Config.mlVerify k.ml header (sliceBytes g 136 3309)

/-- R435: 0, or the code of the first check that an image fails. -/
def State.fwCheck (s : State) (img : List Byte) : Nat :=
  let h := img.take 128
  let k := leAt h 12 1
  let len := leAt h 16 8
  let g := sliceBytes img (128 + len) 3456
  let v : KeyPair := ⟨Config.vendorEd k, Config.vendorMl k⟩
  if !(sliceBytes h 0 4 == bytesOf [0x5A, 0x4B, 0x46, 0x57] && leAt h 4 2 == 1 && leAt h 6 2 == 0 && decide (k ≤ 3) && leAt h 13 3 == 0
      && len % 64 == 0 && decide (64 ≤ len) && decide (len ≤ 16773632) && allZero (sliceBytes h 72 56) && sigForm g
      && !(s.g F.SEC_STATUS_REVOKED).testBit k) then 0x0A03
  else if leAt h 8 4 < s.g F.SEC_SVN_MIN_SVN then 0x0A02
  else if !(sha3 v.ed == sliceBytes g 8 32 && sha3 v.ml == sliceBytes g 40 32) then 0x0A03
  else if sha3 (sliceBytes img 128 len) != sliceBytes h 24 32 || !sigVerifies v h g then 0x0A01
  else 0

/-- A SEC command ends with a result. -/
def State.secResult (s : State) (code : Nat) : State :=
  let s := ({ s with sec := { s.sec with writing := false, waits := false } }.set F.SEC_CMD_BUSY 0).set F.SEC_CMD_RESULT_CODE code
  if code = 0 then s else s.logSec code 1

/-- A management-core reset (R427, R438): the ROM runs again, and the measurements begin anew. -/
def State.mcReset (s : State) : State :=
  let s := if s.on F.SEC_CMD_BUSY then s.secResult 0x0A09 else s
  let s := (s.wakeCore.set F.SEC_STATUS_BOOT 0).resetReceiver 2
  s.setAll ((List.range 8).flatMap fun i => (List.range 4).map fun k => (F.SEC_MEAS_VALUE i k, 0))

/-- MEAS2 and MEAS4 (R438). -/
def State.measOwners (s : State) : State := s.extend 2 (sha3 ((s.sec.keys.filterMap id).flatMap fun k => sha3 k.ed ++ sha3 k.ml))
def State.measSvn (s : State) : State :=
  s.extend 4 (leBytes 4 (s.g F.SEC_SVN_MIN_SVN) ++ leBytes 1 (s.g F.SEC_STATUS_REVOKED) ++ leBytes 3 0)

/-- What may run (R436, R437): in RECOVERY only FW_WRITE and FW_ACTIVATE. -/
def State.secMay (s : State) (op : Nat) : Bool := s.boot == bootRUNNING || (s.boot == bootRECOVERY && (op == 1 || op == 2))

/-- A command written to SEC_CMD by the host: refused while one runs; it waits while the ROM runs. -/
def secCmd (m op : Nat) (s : State) (k : State → State) : Res :=
  act (s.fromMaster m && m == 1) s fun s =>
    if s.on F.SEC_CMD_BUSY then (s.set F.SEC_CMD_RESULT_CODE 0x0A09).logSec 0x0A09 1
    else
      let s := (s.wakeCore.set F.SEC_CMD_OP op).set F.SEC_CMD_BUSY 1
      if s.boot = bootROM then { s with sec := { s.sec with waits := true } }
      else if s.secMay op then k s
      else s.secResult 0x0A09

/-- The slot that is not booted. -/
def State.otherSlot (s : State) : Nat := 1 - s.g F.SEC_STATUS_SLOT

/-- FW_WRITE begins: the slot holds no image until the new one is there, and none that is valid until its checks pass. -/
def State.doFwWrite (s : State) : State :=
  let len := s.g F.SEC_CMD_LEN_LEN
  if len < 3648 ∨ 16777216 < len then s.secResult 0x0A03
  else
    (({ s with sec := { s.sec with writing := true } }.set (fwValidF s.otherSlot) 0).setFwSlot s.otherSlot []).readHost (64 * s.g F.SEC_CMD_ADDR_ADDR) len

def State.doFwActivate (s : State) : State :=
  let o := s.otherSlot
  if !s.on (fwValidF o) then s.secResult 0x0A09
  else
    ((s.secResult 0).setAll [(F.SEC_STATUS_PREF, o), (F.SEC_STATUS_TRIAL, 1), (F.SEC_STATUS_TRIED, 0)]).mcReset

def State.doFwConfirm (s : State) : State :=
  let k := leAt (s.fwSlot (s.g F.SEC_STATUS_SLOT)) 12 1
  let s := (s.set F.SEC_STATUS_TRIAL 0).set F.SEC_STATUS_TRIED 0
  let s := s.set F.SEC_SVN_MIN_SVN (max (s.g F.SEC_SVN_MIN_SVN) (s.g F.SEC_SVN_FW_SVN))
  let s := (List.range 4).foldl (fun s i => if i < k then s.setBit F.SEC_STATUS_REVOKED i true else s) s
  (s.measSvn).secResult 0

/-- DEV_RESET by the management core (R11). -/
def State.doDevReset (s : State) : State := (s.secResult 0).devReset rcMC true

def execFwWrite (m : Nat) (s : State) : Res := secCmd m 1 s State.doFwWrite
def execFwActivate (m : Nat) (s : State) : Res := secCmd m 2 s State.doFwActivate
def execFwConfirm (m : Nat) (s : State) : Res := secCmd m 3 s State.doFwConfirm
def execDevReset (m : Nat) (s : State) : Res := secCmd m 5 s State.doDevReset

/-- The image has come and is in its slot; it is checked (R437). -/
def execFwWriteDone (bytes : List Byte) (s : State) : Res :=
  act (s.powered && s.sec.writing) s fun s =>
    let o := s.otherSlot
    let l := bytes.take (s.g F.SEC_CMD_LEN_LEN)
    let s := s.setFwSlot o (l ++ (s.fwSlot o).drop l.length)
    let c := s.fwCheck (s.fwSlot o)
    (if c = 0 then s.set (fwValidF o) 1 else s : State).secResult c

/-! Owner requests (R439 to R443). -/

/-- Whether every owner slot is EMPTY. -/
def State.noOwner (s : State) : Bool := s.sec.keys.all Option.isNone

/-- An owner slot filled or emptied. -/
def State.setOwner (s : State) (k : Nat) (v : Option KeyPair) : State :=
  let s := { s with sec := { s.sec with keys := modifyAt (fun _ => v) k s.sec.keys } }
  s.setAll [(F.SEC_OWNER_SLOT_ACTIVE k, bit v.isSome), (F.SEC_OWNER_SLOT_ED_ID k, v.elim 0 fun p => leAt (sha3 p.ed) 0 4)]

/-- R441: 0, or the code of the first check that a request fails. -/
def State.ownerCheck (s : State) (r : List Byte) : Nat :=
  let kind := leAt r 6 1
  let slot := leAt r 7 1
  let body := if kind = 1 then sliceBytes r 128 1984 else []
  let g := sliceBytes r (128 + body.length) 3456
  let len := if kind = 1 then 5568 else 3584
  let active (k : Nat) : Bool := (s.sec.keys.getD k none).isSome
  if !(s.g F.SEC_CMD_LEN_LEN == len && r.length == len && sliceBytes r 0 4 == bytesOf [0x5A, 0x4B, 0x4F, 0x52] && leAt r 4 2 == 1
      && decide (1 ≤ kind) && decide (kind ≤ 3) && decide (slot ≤ 3) && (kind != 3 || slot == 0) && leAt r 8 8 == s.serial
      && sliceBytes r 24 32 == (if kind = 1 then sha3 body else List.replicate 32 0) && allZero (sliceBytes r 56 72)) then 0x0A03
  else if leAt r 16 8 ≠ (s.g F.SEC_OWNER_COUNTER_COUNT + 1) % 2 ^ 64 then 0x0A07
  else if !(if kind = 1 then !active slot
      else if kind = 2 then active slot && (List.range 4).any (fun k => k != slot && active k)
      else s.stepState == stCLOSED && s.loaderState == ldEMPTY) then 0x0A08
  else if kind = 1 && allZero g then (if s.noOwner && s.on F.SEC_ENROL_ENABLE then 0 else 0x0A06)
  else if !sigForm g then 0x0A06
  else match sigKeys (s.sec.keys.filterMap id) g with
    | some p => if sigVerifies p (r.take 128) g then 0 else 0x0A06
    | none => 0x0A06

/-- An owner request that has passed its checks. -/
def State.ownerApply (s : State) (r : List Byte) : State :=
  let kind := leAt r 6 1
  let slot := leAt r 7 1
  let s := (s.inc F.SEC_OWNER_COUNTER_COUNT).secResult 0
  if kind = 1 then
    ((s.setOwner slot (some ⟨sliceBytes r 128 32, sliceBytes r 160 1952⟩)).set F.SEC_ENROL_ENABLE 0).measOwners
  else if kind = 2 then (s.setOwner slot none).measOwners
  else
    let s := ((List.range 4).foldl (fun s k => s.setOwner k none) s).measOwners
    s.zeroMemory.devReset rcRELEASE true

def State.doOwner (s : State) (r : List Byte) : State :=
  let s := s.readHost (64 * s.g F.SEC_CMD_ADDR_ADDR) (s.g F.SEC_CMD_LEN_LEN)
  match s.ownerCheck r with
  | 0 => s.ownerApply r
  | c => s.secResult c

/-- OWNER_REQUEST, with the request that the host returns: written to SEC_CMD, or waiting there since the ROM ran. -/
def execOwnerRequest (m : Nat) (request : List Byte) (s : State) : Res :=
  if s.on F.SEC_CMD_BUSY && s.sec.waits && s.g F.SEC_CMD_OP == 4 && s.boot == bootRUNNING then
    act (s.powered && m == 1) s fun s => s.doOwner request
  else secCmd m 4 s fun s => s.doOwner request

def execEnrolEnable (m : Nat) (s : State) : Res :=
  doIf (s.powered && m == 3) s fun s => { s with sec := { s.sec with enrolAt := s.time } }.set F.SEC_ENROL_ENABLE 1

/-- 600 s have passed. -/
def execEnrolEnableExpiry (s : State) : Res :=
  doIf (s.powered && s.on F.SEC_ENROL_ENABLE && decide (s.sec.enrolAt + 600000000000 ≤ s.time)) s fun s => s.set F.SEC_ENROL_ENABLE 0

def execSbDevReset (m : Nat) (s : State) : Res := act (s.powered && m == 3) s fun s => s.devReset rcMC true
def execMcReset (m : Nat) (s : State) : Res := act (s.powered && m == 3) s State.mcReset
def execWatchdogExpiry (s : State) : Res := act (s.powered && s.boot == bootRUNNING) s State.mcReset

/-! Boot (R436, R438). -/

/-- A slot that the ROM tries: its VALID bit says whether it passed R435, and a failure is logged. -/
def State.trySlot (s : State) (slot : Nat) : State × Bool :=
  match s.fwCheck (s.fwSlot slot) with
  | 0 => (s.set (fwValidF slot) 1, true)
  | c => ((s.set (fwValidF slot) 0).logSec c 2, false)

/-- A slot boots: Jeoft runs. -/
def State.boots (s : State) (slot : Nat) : State :=
  let h := (s.fwSlot slot).take 128
  (s.setAll [(F.SEC_STATUS_BOOT, bootRUNNING), (F.SEC_STATUS_SLOT, slot), (F.SEC_SVN_FW_SVN, leAt h 8 4)]).extend 1 (sha3 h)

/-- The ROM's choice. -/
def State.romBoot (s : State) : State :=
  let trial := s.on F.SEC_STATUS_TRIAL
  let fell := trial && s.on F.SEC_STATUS_TRIED
  let pref := s.g F.SEC_STATUS_PREF
  let first := if fell then 1 - pref else pref
  let s := if fell then
      (s.setAll [(F.SEC_STATUS_PREF, first), (F.SEC_STATUS_TRIAL, 0), (F.SEC_STATUS_TRIED, 0)]).logSec 0x0A04 2
    else if trial then s.set F.SEC_STATUS_TRIED 1 else s
  match s.trySlot first with
  | (s, true) => s.boots first
  | (s, false) =>
    match (s.logSec 0x0A04 2).trySlot (1 - first) with
    | (s, true) => (s.setAll [(F.SEC_STATUS_PREF, 1 - first), (F.SEC_STATUS_TRIAL, 0), (F.SEC_STATUS_TRIED, 0)]).boots (1 - first)
    | (s, false) => (s.set F.SEC_STATUS_BOOT bootRECOVERY).logSec 0x0A05 2

/-- A command that waited for Jeoft; an owner request still waits for its bytes. -/
def State.releaseCmd (s : State) : State :=
  if !s.sec.waits then s
  else
    let op := s.g F.SEC_CMD_OP
    if !s.secMay op then s.secResult 0x0A09
    else if op = 4 then s
    else
      let s := { s with sec := { s.sec with waits := false } }
      if op = 1 then s.doFwWrite
      else if op = 2 then s.doFwActivate
      else if op = 3 then s.doFwConfirm
      else if op = 5 then s.doDevReset
      else s.secResult 0x0A09

/-! DOE (R445, R446). -/

/-- Bytes padded with zeros to whole doublewords. -/
def padDwords (l : List Byte) : List Byte := l ++ List.replicate (roundUp l.length 4 - l.length) 0

/-- A malformed request (0x0A0E). -/
def State.doeRefuse (s : State) : State := (s.logSec 0x0A0E 1).emit (.doe (padDwords (leBytes 2 0x0A0E)))

/-- A request of 40 bytes whose reserved bytes are 0. -/
def doeForm (op : Nat) (r : List Byte) : Bool := r.length == 40 && leAt r 0 1 == op && leAt r 2 2 == 0 && leAt r 36 4 == 0

/-- Bytes 0 to 383 of the report. -/
def State.reportBody (s : State) (nonce : List Byte) : List Byte :=
  let run := s.boot == bootRUNNING
  bytesOf [0x5A, 0x4B, 0x41, 0x52] ++ leBytes 2 1 ++ leBytes 2 0 ++ leBytes 8 s.serial ++ nonce ++ leBytes 8 s.time
    ++ leBytes 8 (s.g F.STEP_COMMITTED_NUMBER) ++ leBytes 8 (s.g (F.CFG_RUN_ID_RUN_ID 0)) ++ leBytes 8 (s.g (F.CFG_RUN_ID_RUN_ID 1))
    ++ ((List.range 4).flatMap fun k => leBytes 8 (s.g (F.CFG_ACTIVE_DIGEST_DIGEST k)))
    ++ leBytes 4 (if run then s.g F.SEC_SVN_FW_SVN else 0) ++ leBytes 4 (s.g F.SEC_SVN_MIN_SVN)
    ++ leBytes 4 (s.g F.SEC_STATUS_TRIAL + 2 * bit (s.boot == bootRECOVERY) + 16 * s.g F.SEC_STATUS_REVOKED)
    ++ leBytes 4 ((s.sec.keys.zipIdx).foldl (fun n e => if e.1.isSome then n + 2 ^ e.2 else n) 0)
    ++ ((List.range 8).flatMap fun i => (List.range 4).flatMap fun k => leBytes 8 (s.g (F.SEC_MEAS_VALUE i k)))

/-- The answer to a DOE request. Of Discovery, index 0 is Discovery itself and index 1 the device's own type. -/
def State.doeAnswer (s : State) : DoeReq → State
  | .discovery index =>
    s.emit (.doe (if index = 0 then leBytes 2 1 ++ leBytes 1 0 ++ leBytes 1 1
      else if index = 1 then leBytes 2 Config.vendorId.toNat ++ leBytes 1 1 ++ leBytes 1 0
      else leBytes 2 0xFFFF ++ leBytes 1 0 ++ leBytes 1 0))
  | .cert r =>
    if !doeForm 1 r || decide (1 < leAt r 1 1) then s.doeRefuse
    else s.emit (.doe (padDwords (leBytes 2 0 ++ leBytes 2 0 ++ Config.certificate s.serial (leAt r 1 1))))
  | .attest r =>
    if !doeForm 2 r then s.doeRefuse
    else
      let b := s.reportBody (sliceBytes r 4 32)
      s.emit (.doe (b ++ sliceBytes (Config.edSign b) 0 64 ++ sliceBytes (Config.mlSign b) 0 3309 ++ List.replicate 3 0))

/-- A DOE request of the host (R426, R427): it wakes the core, and it waits while the ROM runs. -/
def doeRow (r : DoeReq) (s : State) : Res :=
  act s.hostLive s fun s =>
    if s.boot = bootROM then { s with sec := { s.sec with asked := s.sec.asked ++ [r] } } else s.wakeCore.doeAnswer r

def execDoeDiscovery (index : Nat) (s : State) : Res := doeRow (.discovery index) s
/-- GET_CERT; a request with a reserved OP is answered here as well. -/
def execGetCert (request : List Byte) (s : State) : Res := if leAt request 0 1 = 2 then .next s else doeRow (.cert request) s
def execAttest (request : List Byte) (s : State) : Res := if leAt request 0 1 = 2 then doeRow (.attest request) s else .next s

/-- Requests that waited for Jeoft, or for the recovery ROM, answered in their order (R427). -/
def State.releaseDoe (s : State) : State := s.sec.asked.foldl State.doeAnswer { s with sec := { s.sec with asked := [] } }

/-- The ROM has chosen, and Jeoft runs, or the recovery ROM (R436, R438). -/
def execJeoftStart (s : State) : Res :=
  act (s.powered && s.boot == bootROM) s fun s =>
    let s := (s.extend 0 Config.romDigest).romBoot
    let s := (s.measOwners).measSvn
    let s := if s.plan.isSome then s.extend 3 ((List.range 4).flatMap fun k => leBytes 8 (s.g (F.CFG_ACTIVE_DIGEST_DIGEST k))) else s
    s.reportTrip.releaseCmd.releaseDoe

/-! The store (R447 to R451). -/

/-- Records that the error-history area holds. -/
def historyMax : Nat := 262144

/-- A record of the store (R448). -/
def recordBytes (type seq : Nat) (body : List Byte) : List Byte :=
  let h := leBytes 2 type ++ leBytes 2 0 ++ leBytes 4 body.length ++ leBytes 8 seq
  h ++ leBytes 8 (crc64 (h ++ body)) ++ leBytes 4 0 ++ leBytes 4 0x5A4BC0DE ++ body

/-- An error-history record's 64 bytes (R451). -/
def HistRecord.bytes (r : HistRecord) : List Byte :=
  recordBytes 0x0010 r.seq (leBytes 8 r.report.time ++ leBytes 2 r.report.code ++ leBytes 2 r.report.unit ++ leBytes 4 0
    ++ leBytes 8 r.report.step ++ leBytes 8 r.report.detail)

/-- A record with the bytes that align the next one (R448). -/
def recordRoom (r : List Byte) : List Byte := r ++ List.replicate (roundUp r.length 64 - r.length) 0

/-- The records of the identity area (R444, R447). -/
def State.identityArea (s : State) : List Byte :=
  [0, 1].flatMap fun k => recordRoom (recordBytes (Config.certificateType k) (k + 1) (Config.certificate s.serial k))

/-- Register fields that the store, a fuse or the device's identity keeps (R283, R437, R439, R447, R451, R514). -/
def keptKey (k : Nat) : Bool :=
  let o := keyOff k
  let lo := k / 8 % 64
  decide (o < 0x10) || o == 0x50018 || (o == 0xA0000 && (lo == 28 || lo == 27 || lo == 26 || lo == 25 || lo == 20 || lo == 19)) || (o == 0xA0028 && lo == 0) || o == 0xA0030
    || (decide (0xA0040 ≤ o) && decide (o < 0xA0060)) || o == 0xA0208 || (decide (0x50400 ≤ o) && decide (o < 0x50800))

/-- What the areas of MRAM hold whose records the spec does not lay out (R447): owner keys, and register fields by key. -/
def State.mramHolds (s : State) : List (List Byte) × List (Nat × Nat) :=
  (s.sec.keys.map fun k => k.elim [] fun k => k.ed ++ k.ml, Sparse.keep keptKey s.fld ++ s.sec.stored)

/-- A byte of MRAM (R447). -/
def State.mram (s : State) (a : Nat) : Byte :=
  if a < 0x1000000 then s.sec.slotA.getD a 0
  else if a < 0x2000000 then s.sec.slotB.getD (a - 0x1000000) 0
  else if 0x2100000 ≤ a ∧ a < 0x2200000 then s.identityArea.getD (a - 0x2100000) 0
  else if a < 0x3000000 then Config.mramByte s.mramHolds.1 s.mramHolds.2 a
  else
    let k := (a - 0x3000000) / 64
    match s.sec.history.find? fun r => (r.seq + historyMax - 1) % historyMax == k with
    | some r => r.bytes.getD (a % 64) 0
    | none => 0

/-- The oldest report becomes a record of the error history, and one of a memory error raises the memory-error interrupt (R194,
R451); `bad` tells that its first writing failed the read-back (R449). -/
def execErrorReport (bad : Bool) (s : State) : Res :=
  match s.reports with
  | [] => .next s
  | r :: rest =>
    doIf (s.powered && s.boot != bootROM) s fun s =>
      let s := ({ s with reports := rest }.wakeCore.inc F.NVS_HIST_SEQ_COUNT).traceRec 1 r.unit r.code
      let l := s.sec.history ++ [⟨s.g F.NVS_HIST_SEQ_COUNT, r⟩]
      let s := { s with sec := { s.sec with history := l.drop (l.length - historyMax) } }
      let s := if r.code / 256 = 3 then s.raise 6 else s
      if bad then s.logSec 0x0A0C 2 else s

/-- Registers whose values the store keeps (R450, R481): roster and ring counts, bins and damage. -/
def storedKey (k : Nat) : Bool :=
  let o := keyOff k
  (decide (0x50400 ≤ o) && decide (o < 0x50800)) || o == 0x50030 || o == 0x50038 || (decide (0x91100 ≤ o) && decide (o < 0x91200))

/-- The hourly record (R450, R481). -/
def execHourlyWearRecord (s : State) : Res :=
  doIf s.powered s fun s => { s with sec := { s.sec with stored := Sparse.keep storedKey s.fld, rested := false } }

end Sys2Proof.Machine
end

