-- ==== Sys2Proof/Machine/TileMove.lean ====
section
/-!
DEFINITION. Data movement and mesh messages of a tile (spec 05_tile_instruction_streams.md R138 to R147, R157, R171, R174,
R377 to R380).
-/
namespace Sys2Proof.Machine

/-- A descriptor operand: the descriptor, its effective offset in the instruction's unit, and the length (R141). -/
structure Access' where
  d : Desc
  off : Nat
  sram : Nat
  len : Nat

/-- The operands of LD, ST, HOSTLD, HOSTST; the offset is a sum that does not wrap (log entry 80). -/
def sectorAccess (t n w : Nat) (s : State) : Access' :=
  let y := s.stream t n
  ⟨s.plan.elim Desc.invalid fun p => p.desc t (bitsOf w 23 16), bitsOf w 59 28 + y.xr (bitsOf w 27 24), sramOp y w 60, bitsOf w 97 81⟩

/-- The checks of a descriptor instruction after its fields and zero length: kind, SRAM spans and lengths, alignment, page
access (R138 to R140, R156 steps 4 to 6). Lengths are in sectors here. -/
def accessChecks (t : Nat) (s : State) (a : Access') (kinds : List Nat) (sram : List (Nat × Nat)) (off len : Nat) (aligned write : Bool) : Nat :=
  if !kinds.contains a.d.kind then cDESC
  else
    let c := addrCode sram (decide (off + len ≤ a.d.size))
    if c ≠ 0 then c
    else if !aligned then cALIGN
    else accessCode s.extents t a.d write

/-- A transfer's sectors in the event counters: vent or remote, or geyser rows (R484). -/
def countMove (t kind sectors : Nat) (s : State) : State :=
  if kind = dkVENT then s.count 0x0020 t sectors
  else if kind = dkREMOTE then s.count 0x0022 t sectors
  else s.count 0x0021 t (sectors / 128)

/-- Sectors read from bonded memory into SRAM; a request that fails leaves the bytes already written and faults the
instruction with TRANSFER_ERROR (R157 item 6). -/
def moveIn (t kind dpa sram len : Nat) (rd wr : List Span) (s : State) : Verdict :=
  let (s, bytes, code) := s.readMem t dpa len
  let s := countMove t kind (bytes.length / 64) (s.setTile t fun x => x.writeSram (64 * sram) bytes)
  if code ≠ 0 then .broke s cTRANSFER
  else .flies s { rd := rd, wr := wr, written := some bytes }

/-- Sectors of SRAM stored in bonded memory in ascending order, up to the first uncorrectable one (R157 item 7). -/
def moveOut (t kind dpa sram len : Nat) (rd wr : List Span) (s : State) : Verdict :=
  let x := s.tile t
  let good := (firstBad x.badSectors sram len).getD len
  let bytes := x.readSram (64 * sram) (64 * good)
  let (s, code) := s.writeMem t dpa bytes
  let s := countMove t kind good s
  if code ≠ 0 then .broke s cTRANSFER
  else if good < len then .broke s cSRAM
  else .flies s { rd := rd, wr := wr, written := some bytes }

/-- A transfer that goes ahead only when its reservations are free. -/
def reserved (t n : Nat) (rd wr : List Span) (s : State) (k : State → Verdict) : Verdict :=
  match reserveStall (s.tile t) n rd wr with
  | some r => .wait r
  | none => k s

/-- LD (R141, R171). -/
def ruleLd : Rule := fun t n w s =>
  let a := sectorAccess t n w s
  if !onlyBits [(97, 16)] w then .fault cFIELD
  else if a.len = 0 then .done s
  else
    let c := accessChecks t s a [dkVENT, dkREMOTE] [(a.sram, a.len)] a.off a.len true false
    if c ≠ 0 then .fault c
    else
      let rd := [a.d.span a.off a.len]
      let wr := [sramSpan (a.sram, a.len)]
      reserved t n rd wr s (moveIn t a.d.kind (a.d.base + 64 * a.off) a.sram a.len rd wr)

/-- ST (R142). -/
def ruleSt : Rule := fun t n w s =>
  let a := sectorAccess t n w s
  if !onlyBits [(97, 16)] w then .fault cFIELD
  else if a.len = 0 then .done s
  else
    let c := accessChecks t s a [dkVENT, dkREMOTE] [(a.sram, a.len)] a.off a.len true true
    if c ≠ 0 then .fault c
    else
      let rd := [sramSpan (a.sram, a.len)]
      let wr := [a.d.span a.off a.len]
      reserved t n rd wr s (moveOut t a.d.kind (a.d.base + 64 * a.off) a.sram a.len rd wr)

/-- The operands of GLD and GST, in rows. -/
def rowAccess (t n w : Nat) (s : State) : Access' :=
  let y := s.stream t n
  ⟨s.plan.elim Desc.invalid fun p => p.desc t (bitsOf w 23 16), bitsOf w 59 28 + y.xr (bitsOf w 27 24), sramOp y w 60, bitsOf w 92 81⟩

/-- GLD (R141, R173). -/
def ruleGld : Rule := fun t n w s =>
  let a := rowAccess t n w s
  if !onlyBits [(92, 16)] w then .fault cFIELD
  else if a.len = 0 then .done s
  else
    let c := accessChecks t s a [dkGEYSER] [(a.sram, 128 * a.len)] (128 * a.off) (128 * a.len) (a.sram % 128 == 0) false
    if c ≠ 0 then .fault c
    else
      let rd := [a.d.span (128 * a.off) (128 * a.len)]
      let wr := [sramSpan (a.sram, 128 * a.len)]
      reserved t n rd wr s (moveIn t dkGEYSER (a.d.base + 8192 * a.off) a.sram (128 * a.len) rd wr)

/-- GST (R142, R173). -/
def ruleGst : Rule := fun t n w s =>
  let a := rowAccess t n w s
  if !onlyBits [(92, 16)] w then .fault cFIELD
  else if a.len = 0 then .done s
  else
    let c := accessChecks t s a [dkGEYSER] [(a.sram, 128 * a.len)] (128 * a.off) (128 * a.len) (a.sram % 128 == 0) true
    if c ≠ 0 then .fault c
    else
      let rd := [sramSpan (a.sram, 128 * a.len)]
      let wr := [a.d.span (128 * a.off) (128 * a.len)]
      reserved t n rd wr s (moveOut t dkGEYSER (a.d.base + 8192 * a.off) a.sram (128 * a.len) rd wr)

/-- Lines of a HOSTLD: those the far cache holds land in SRAM, the others are filled and awaited (R379); and the code of an access that
fails (R381). -/
def loadLines (t first sram : Nat) : List Nat → State → State × List Nat × Nat
  | [], s => (s, [], 0)
  | i :: r, s =>
    match s.farRead (.tile t) (first + i) with
    | (s, some (.ok data)) => loadLines t first sram r (s.setTile t fun x => x.writeSram (64 * (sram + i)) data)
    | (s, some (.error c)) => (s, [], c)
    | (s, none) =>
      let (s, l, c) := loadLines t first sram r s
      (s, (first + i) :: l, c)

/-- HOSTLD (R141, R377, R379). -/
def ruleHostld : Rule := fun t n w s =>
  let a := sectorAccess t n w s
  if !onlyBits [(97, 16)] w then .fault cFIELD
  else if a.len = 0 then .done s
  else
    let c := accessChecks t s a [dkHOST] [(a.sram, a.len)] a.off a.len true false
    if c ≠ 0 then .fault c
    else
      let rd := [a.d.span a.off a.len]
      let wr := [sramSpan (a.sram, a.len)]
      let first := a.d.base / 64 + a.off
      reserved t n rd wr s fun s =>
        if !s.cxl then .broke (s.logHif 0x0707 0 0) cTRANSFER else
        let (s, l, c) := loadLines t first a.sram (List.range a.len) s
        if c ≠ 0 then .broke (s.logHif c 0 0) cTRANSFER else
        .flies s { rd := rd, wr := wr, waiting := l, dst := a.sram, src := first, written := some [] }

/-- Lines of a HOSTST in ascending order. -/
def storeLines (t : Nat) (flight : Option (Nat × Nat)) (first : Nat) : Nat → List Byte → State → State
  | 0, _, s => s
  | k + 1, l, s => storeLines t flight (first + 1) k (l.drop 64) (s.farWrite (.tile t) flight first (l.take 64))

/-- Lines that a tile writes uncached, whose answers its instruction awaits (R380). -/
def State.uncachedLines (s : State) (t first len : Nat) : List Nat :=
  ((List.range len).map (first + ·)).filter fun k => (s.farPart (.tile t) k).isNone

/-- HOSTST (R142, R380): complete once every line is Modified in the far cache or answered by the host. -/
def ruleHostst : Rule := fun t n w s =>
  let a := sectorAccess t n w s
  if !onlyBits [(97, 16)] w then .fault cFIELD
  else if a.len = 0 then .done s
  else
    let c := accessChecks t s a [dkHOST] [(a.sram, a.len)] a.off a.len true true
    if c ≠ 0 then .fault c
    else
      let rd := [sramSpan (a.sram, a.len)]
      let wr := [a.d.span a.off a.len]
      reserved t n rd wr s fun s =>
        if !s.cxl then .broke (s.logHif 0x0707 0 0) cTRANSFER else
        let x := s.tile t
        let good := (firstBad x.badSectors a.sram a.len).getD a.len
        let bytes := x.readSram (64 * a.sram) (64 * good)
        let first := a.d.base / 64 + a.off
        let s := storeLines t (if good < a.len then none else some (t, x.nextId)) first good bytes s
        if good < a.len then .broke s cSRAM
        else .flies s { rd := rd, wr := wr, waiting := s.uncachedLines t first a.len, written := some bytes }

/-- PREF (R143): asks for every line of its span that the cache neither holds nor is filling; without CXL it fails (R363). It has
completed at issue, so it reserves nothing and waits for no store (log entry 80). -/
def rulePref : Rule := fun t n w s =>
  let y := s.stream t n
  let len := bitsOf w 76 60
  let a : Access' := ⟨s.plan.elim Desc.invalid fun p => p.desc t (bitsOf w 23 16), bitsOf w 59 28 + y.xr (bitsOf w 27 24), 0, len⟩
  if !onlyBits [(76, 16)] w then .fault cFIELD
  else if len = 0 then .done s
  else
    let c := accessChecks t s a [dkHOST] [] a.off len true false
    if c ≠ 0 then .fault c
    else if !s.cxl then .broke (s.logHif 0x0707 0 0) cTRANSFER
    else .done ((List.range len).foldl (fun s i => s.farPrefetch (.tile t) (a.d.base / 64 + a.off + i)) s)

/-! Mesh. -/

def State.route (s : State) (t r : Nat) : Option Route := (s.plan.elim RoutePlan.empty fun p => p.route t).routes.lookup r
def State.chanPlan (s : State) (t c : Nat) : Option ChanPlan := (s.plan.elim RoutePlan.empty fun p => p.route t).chans.lookup c
def State.chan (s : State) (t c : Nat) : Chan := Sparse.get Chan.empty c (s.tile t).chans
def State.setChan (s : State) (t c : Nat) (f : Chan → Chan) : State :=
  s.setTile t fun x => { x with chans := Sparse.put Chan.empty c (f (Sparse.get Chan.empty c x.chans)) x.chans }

/-- The destination of a valid route with its channel (R144). -/
def State.dest (s : State) (t r : Nat) : Option (Route × ChanPlan) :=
  match s.route t r with
  | none => none
  | some q => (s.chanPlan q.tile q.chan).map fun c => (q, c)

/-- A message put on the mesh. -/
def State.mail (s : State) (m : MeshMsg) : State := { s with mesh := s.mesh ++ [m] }

/-- SEND (R144, R145): waits for a credit, then its sectors travel to the receiver; they are delivered in route order. -/
def ruleSend : Rule := fun t n w s =>
  let y := s.stream t n
  let src := sramOp y w 20
  let len := bitsOf w 57 41
  if !onlyBits [(57, 16)] w then .fault cFIELD
  else if len = 0 then .done s
  else
    match s.dest t (bitsOf w 19 16) with
    | none => .fault cROUTE
    | some (q, c) =>
      if c.slots = 0 then .fault cROUTE
      else
        let code := addrCode [(src, len)] (decide (len ≤ c.slotSectors))
        if code ≠ 0 then .fault code
        else
          let rd := [sramSpan (src, len)]
          reserved t n rd [] s fun s =>
            if c.slots ≤ (s.chan q.tile q.chan).used then .wait 4
            else
              let x := s.tile t
              let good := (firstBad x.badSectors src len).getD len
              let bytes := x.readSram (64 * src) (64 * good)
              let s := s.setChan q.tile q.chan fun h => { h with used := h.used + 1 }
              let s := s.mail ⟨t, x.nextId, q.tile, q.chan, bytes, [], false, decide (good < len)⟩
              if good < len then .broke s cSRAM
              else .flies s { rd := rd, ready := false, written := some bytes }

/-- RECV (R144): takes the channel's next full slot and writes its first sector into X[XD]. -/
def ruleRecv : Rule := fun t n w s =>
  let c := bitsOf w 19 16
  if !onlyBits [(23, 16)] w then .fault cFIELD
  else
    match s.chanPlan t c with
    | none => .fault cROUTE
    | some p =>
      if p.slots = 0 then .fault cROUTE
      else
        match (s.chan t c).full with
        | [] => .wait 3
        | k :: r =>
          let s := s.setChan t c fun h => { h with full := r }
          .done (s.setStream t n fun y =>
            { y.setX (bitsOf w 23 20) (p.base + k * p.slotSectors) with taken := y.taken ++ [(c, k)] })

/-- FREE (R146): the oldest slot the stream has taken on the channel; its credit goes back by CREDIT_RETURN. -/
def ruleFree : Rule := fun t n w s =>
  let c := bitsOf w 19 16
  if !onlyBits [(19, 16)] w then .fault cFIELD
  else
    match s.chanPlan t c with
    | none => .fault cROUTE
    | some p =>
      if p.slots = 0 then .fault cROUTE
      else
        match takeFirst (fun e => e.1 == c) (s.stream t n).taken with
        | none => .fault cACC
        | some (e, rest) =>
          let s := s.setStream t n fun y => { y with taken := rest }
          .done (s.setChan t c fun h => { h with freed := h.freed ++ [(e.2, n, (s.tile t).nextId)] })

/-- The SRAM span of a slot (R209). -/
def ChanPlan.slotSpan (p : ChanPlan) (k : Nat) : Span := ⟨.sram, p.base + k * p.slotSectors, p.slotSectors⟩

/-- A credit goes back once every earlier instruction of the stream that reads the slot has completed (R146). -/
def execCreditReturn (t c : Nat) (s : State) : Res :=
  match s.chanPlan t c, (s.chan t c).freed with
  | some p, (k, n, bound) :: r =>
    act (s.working && !((s.tile t).flights.any fun f =>
        f.stream == n && decide (f.id < bound) && f.rd.any (p.slotSpan k).meets)) s fun s =>
      s.setChan t c fun h => { h with used := h.used - 1, freed := r }
  | _, _ => .next s

/-- The first message of a channel on the mesh. -/
def State.meshFirst (s : State) (t c : Nat) : Option (MeshMsg × List MeshMsg) :=
  takeFirst (fun m => m.dstTile == t && m.chan == c) s.mesh

/-- The sender's flight becomes ready once its data are at the receiver. -/
def State.sent (s : State) (m : MeshMsg) : State :=
  s.setTile m.srcTile fun x =>
    { x with flights := x.flights.map fun f => if f.id = m.flight then { f with ready := true } else f }

/-- The oldest message of a data channel is written into the channel's next slot, which becomes full (R144); a tile that is
not awake leaves it in the router, and an IDLE one wakes (R464). -/
def execMeshDelivery (t c : Nat) (s : State) : Res :=
  match s.chanPlan t c, s.meshFirst t c with
  | some p, some (m, rest) =>
    act (s.working && s.tileAwake t && !m.chain && decide (0 < p.slots)) s fun s =>
      let k := (s.chan t c).next
      let s := { s.rouse t with mesh := rest }.setTile t fun x => x.writeSram (64 * (p.base + k * p.slotSectors)) m.bytes
      if m.partial' then s.armSettle
      else ((s.setChan t c fun h => { h with full := h.full ++ [k], next := (k + 1) % p.slots }).sent m).armSettle
  | _, _ => .next s

/-! Accumulator pairs between tiles (R79 to R81, R147). -/

/-- The 16,384 pairs of a bank; an EMPTY bank's are +0 (log entry 23). -/
def Bank.planes (b : Bank) : List Pair := b.pairs.take 16384 ++ List.replicate (16384 - b.pairs.length) ⟨0, 0⟩
/-- The 131,072 bytes of a pair: the s plane, then the e plane (R79). -/
def pairBytes (l : List Pair) : List Byte := wordBytes (l.map (·.s)) ++ wordBytes (l.map (·.e))
def pairsOfBytes (l : List Byte) : List Pair :=
  List.zipWith Pair.mk (wordsOf (l.take 65536)) (wordsOf (l.drop 65536))

/-- What an instruction that takes a bank's contents meets: a wait while it is FINALISING, ACC_STATE when
the other stream owns it, a wait while it is WAIT_CHAIN (R77, R78, R80). -/
def bankTake (t n ou b : Nat) (s : State) : Option Verdict :=
  let st := s.bankState t ou b
  if st = bkFINALISING then some (.wait 5)
  else if st ≠ bkEMPTY ∧ s.g (bankStreamF t ou b) ≠ n then some (.fault cACC)
  else if st = bkWAITCHAIN then some (.wait 5)
  else none

/-- What an instruction that fills a bank meets: ACC_STATE unless it is EMPTY (R80). -/
def bankFill (t ou b : Nat) (s : State) : Option Verdict := if s.bankState t ou b ≠ bkEMPTY then some (.fault cACC) else none

/-- Banks of a tile armed on a chain channel and not yet promised a pair on the mesh. -/
def State.armed (s : State) (t c : Nat) : Nat :=
  ([(0, 0), (0, 1), (1, 0), (1, 1)].filter fun e =>
    s.bankState t e.1 e.2 == bkWAITCHAIN && (s.bank t e.1 e.2).chan == some c).length
    - (s.mesh.filter fun m => m.dstTile == t && m.chan == c).length

/-- CHAINOUT (R81, R147): waits for an outstanding CHAININ, sends the pair, and leaves the bank EMPTY at issue (log entry 77). -/
def ruleChainout : Rule := fun t n w s =>
  let ou := bitsOf w 16 16
  let b := bitsOf w 17 17
  if !onlyBits [(21, 16)] w then .fault cFIELD
  else
    match s.dest t (bitsOf w 21 18) with
    | none => .fault cROUTE
    | some (q, c) =>
      if c.slots ≠ 0 then .fault cROUTE
      else
        match bankTake t n ou b s with
        | some v => v
        | none =>
          if s.armed q.tile q.chan = 0 then .wait 4
          else
            let p := (s.bank t ou b).planes
            let s := s.mail ⟨t, (s.tile t).nextId, q.tile, q.chan, [], p, true, false⟩
            .flies (s.setBank t 0 ou b bkEMPTY Bank.empty) { ready := false, written := some (pairBytes p) }

/-- CHAININ (R80, R147): arms an EMPTY bank. -/
def ruleChainin : Rule := fun t n w s =>
  let ou := bitsOf w 16 16
  let b := bitsOf w 17 17
  let c := bitsOf w 21 18
  if !onlyBits [(21, 16)] w then .fault cFIELD
  else
    match s.chanPlan t c with
    | none => .fault cROUTE
    | some p =>
      if p.slots ≠ 0 then .fault cROUTE
      else
        match bankFill t ou b s with
        | some v => v
        | none => .flies (s.setBank t n ou b bkWAITCHAIN ⟨[], some c⟩) { ready := false, dst := 2 * ou + b }

/-- A chained pair arrives in full: the bank armed first on the channel becomes LIVE, and both instructions may complete
(R147). -/
def execChainPairArrival (t c : Nat) (s : State) : Res :=
  let x := s.tile t
  match s.meshFirst t c, x.flights.find? fun f => f.op == 0x28 && !f.ready && (s.bank t (f.dst / 2) (f.dst % 2)).chan == some c with
  | some (m, rest), some f =>
    act (s.working && s.tileAwake t && m.chain) s fun s =>
      let s := { s.rouse t with mesh := rest }.setBank t f.stream (f.dst / 2) (f.dst % 2) bkLIVE ⟨m.pairs, none⟩
      let s := s.setTile t fun x =>
        { x with flights := x.flights.map fun g => if g.id = f.id then { g with ready := true } else g }
      (s.sent m).armSettle
  | _, _ => .next s

/-- Target of OUSAVE and OURESTORE: an SRAM span or a descriptor span of 2,048 sectors. -/
structure PairTarget where
  toDesc : Bool
  sram : Nat
  a : Access'

def pairTarget (t n w : Nat) (s : State) : PairTarget :=
  let y := s.stream t n
  ⟨bitOf w 18, sramOp y w 19,
    ⟨s.plan.elim Desc.invalid fun p => p.desc t (bitsOf w 47 40), bitsOf w 83 52 + y.xr (bitsOf w 51 48), 0, 2048⟩⟩

/-- Checks of the target (R148, R151); fields of the target not used are ignored. -/
def pairChecks (t w : Nat) (p : PairTarget) (write : Bool) (s : State) : Nat :=
  if !onlyBits [(83, 16)] w then cFIELD
  else if p.toDesc then accessChecks t s p.a [dkVENT, dkREMOTE] [] p.a.off 2048 true write
  else addrCode [(p.sram, 2048)] true

def PairTarget.span (p : PairTarget) : Span := if p.toDesc then p.a.d.span p.a.off 2048 else sramSpan (p.sram, 2048)

/-- OUSAVE (R79): the pair is written bit for bit, a −0 as +0 (R52), and the bank is left EMPTY, at issue and even where the transfer then
fails (log entry 77). -/
def ruleOusave : Rule := fun t n w s =>
  let ou := bitsOf w 16 16
  let b := bitsOf w 17 17
  let p := pairTarget t n w s
  let c := pairChecks t w p true s
  if c ≠ 0 then .fault c
  else
    reserved t n [] [p.span] s fun s =>
      match bankTake t n ou b s with
      | some v => v
      | none =>
        let bytes := pairBytes ((s.bank t ou b).planes.map fun q => ⟨noNegZero q.s, noNegZero q.e⟩)
        let s := s.setBank t 0 ou b bkEMPTY Bank.empty
        if p.toDesc then
          let (s, code) := s.writeMem t (p.a.d.base + 64 * p.a.off) bytes
          let s := countMove t p.a.d.kind 2048 s
          if code ≠ 0 then .broke s cTRANSFER else .flies s { wr := [p.span], written := some bytes }
        else .flies (s.setTile t fun x => x.writeSram (64 * p.sram) bytes) { wr := [p.span], written := some bytes }

/-- OURESTORE (R79, R80); a transfer that fails leaves the bank EMPTY (log entry 77). -/
def ruleOurestore : Rule := fun t n w s =>
  let ou := bitsOf w 16 16
  let b := bitsOf w 17 17
  let p := pairTarget t n w s
  let c := pairChecks t w p false s
  if c ≠ 0 then .fault c
  else
    reserved t n [p.span] [] s fun s =>
      match bankFill t ou b s with
      | some v => v
      | none =>
        if p.toDesc then
          let (s, bytes, code) := s.readMem t (p.a.d.base + 64 * p.a.off) 2048
          let s := countMove t p.a.d.kind (bytes.length / 64) s
          if code ≠ 0 then .broke s cTRANSFER
          else .flies (s.setBank t n ou b bkLIVE ⟨pairsOfBytes bytes, none⟩) { rd := [p.span] }
        else
          let x := s.tile t
          if (firstBad x.badSectors p.sram 2048).isSome then .fault cSRAM
          else .flies (s.setBank t n ou b bkLIVE ⟨pairsOfBytes (x.readSram (64 * p.sram) 131072), none⟩) { rd := [p.span] }

end Sys2Proof.Machine
end

