-- ==== Sys2Proof/Machine/TileArray.lean ====
section
/-!
DEFINITION. Arrays, the shared gradient buffer and the output units (spec 03_tile_arrays.md R58 to R90, 02_number_formats.md
R40 to R46, 05_tile_instruction_streams.md R148 to R151).
-/
namespace Sys2Proof.Machine

/-! Array passes. -/

/-- The rows of a matrix as columns. -/
def transpose (l : List (List Int)) : List (List Int) :=
  (List.range 128).map fun j => l.map fun r => r.getD j 0

/-- One product aligned by `d` (R40 item 3): exact up to 9 places, then rounded to nearest, ties to even. -/
def alignedTerm (a b : Int) (d : Nat) : Int :=
  let p := a * b
  if d ≤ 9 then p * (2 ^ (9 - d) : Nat)
  else roundInt (decide (p < 0)) p.natAbs (-((d - 9 : Nat) : Int))

/-- The partial of one output element (R40 item 4). -/
def partialSum : List Int → List Int → List Nat → Int
  | a :: l, b :: r, d :: ds => alignedTerm a b d + partialSum l r ds
  | _, _, _ => 0

/-- Passes of a mode in the order run: limb of A, limb of B (R44). -/
def passesOf (prec : Nat) : List (Nat × Nat) :=
  if prec = 2 then [(1, 1), (1, 0), (0, 1), (0, 0)]
  else if prec = 3 then [(2, 2), (2, 1), (1, 2), (2, 0), (1, 1), (0, 2)]
  else [(0, 0)]

def kF : Nat := 0
def kD : Nat := 1
def kW : Nat := 2

/-- The exponents c(i) of the reduction indices that contribute (R40, R62, R64); none where a row does not. -/
def alignExps (kind : Nat) (a b : Block) : List (Option Int) :=
  (List.range 128).map fun i =>
    let eb := scaleExpOf (b.scales.getD i 0)
    if kind = kF then some 0
    else if kind = kD then (if b.rowZero i then none else some eb)
    else if a.rowZero i || b.rowZero i then none
    else some (scaleExpOf (a.scales.getD i 0) + eb)

/-- The alignment C: the largest c(i) over the contributing rows, 0 when none contributes. -/
def alignMax (cs : List (Option Int)) : Int :=
  (cs.foldl (fun m c => match m, c with
    | none, c => c
    | m, none => m
    | some x, some y => some (max x y)) none).getD 0

/-- The shifts d(i); a row that does not contribute has only zero products. -/
def alignShifts (c : Int) (cs : List (Option Int)) : List Nat := cs.map fun x => (c - x.getD c).toNat

/-- The exact combined sums S of a pass or limb group, row by row (R45, R61, R62). -/
def passSums (kind prec : Nat) (a b : Block) (ds : List Nat) : List (List Int) :=
  let parts := (passesOf prec).map fun p =>
    let l := a.planes.getD p.1 []
    let r := b.planes.getD p.2 []
    let left := if kind = kW then transpose l else l
    let right := if kind = kF then r else transpose r
    ((256 : Int) ^ (p.1 + p.2), left.map fun x => right.map fun y => partialSum x y ds)
  (List.range 128).map fun m => (List.range 128).map fun j =>
    (parts.map fun p => p.1 * (p.2.getD m []).getD j 0).sum

/-- The contributions of a pass to its output unit, row-major: S × 2^(C − 9) × the output-indexed scales, rounded once
(R46, R62, R73). -/
def contributions (kind prec : Nat) (a b : Block) : List Nat × Int :=
  let cs := alignExps kind a b
  let c := alignMax cs
  let sums := passSums kind prec a b (alignShifts c cs)
  let exps (m j : Nat) : Int :=
    if kind = kF then scaleExpOf (a.scales.getD m 0) + scaleExpOf (b.scales.getD j 0)
    else if kind = kD then scaleExpOf (a.scales.getD m 0)
    else 0
  (sums.zipIdx.flatMap fun r => r.1.zipIdx.map fun e =>
    round32 (.fin (decide (e.1 < 0)) e.1.natAbs (c - 9 + exps r.2 e.2)), c)

/-- Contributions added into a bank's pairs (R74). -/
def Bank.accumulate (b : Bank) (xs : List Nat) : Bank :=
  ⟨if b.pairs.isEmpty then xs.map Pair.start else List.zipWith Pair.add b.pairs xs, none⟩

/-- A pass on one array as its instruction names it. -/
structure PassReq where
  arr : Nat
  kind : Nat
  sb : Nat
  ab : Nat

/-- What a pass meets at issue, after its own operands are checked: waits, ownership, form, scales (R60, R71, R77, R78, R80,
R124, R125, R150, R156). `stream` is the streaming block and, from a half, the half's own form. -/
def passGate (t n : Nat) (s : State) (p : PassReq) (half : Option Nat) (a : Block) : Option Verdict :=
  let x := s.tile t
  let st := s.bankState t p.arr p.ab
  let stat := x.stat' p.arr p.sb
  let prec := ((s.stream t n).setup p.arr).mode % 8
  if st = bkFINALISING then some (.wait 5)
  else if st ≠ bkEMPTY ∧ s.g (bankStreamF t p.arr p.ab) ≠ n then some (.fault cACC)
  else if st = bkWAITCHAIN then some (.wait 5)
  else if stat.owner ≠ some n then some (.fault cACC)
  else if stat.loading then some (.wait 5)
  else if stat.block.form ≠ prec ∨ (half.isSome ∧ a.form ≠ prec) then some (.fault 0x0B04)
  else if !a.scalesOk || !stat.block.scalesOk then some (.fault 0x0B03)
  else none

/-- One array's pass carried out: contributions into the bank, the array's status (R74, R77, TILE_ARRn_STATUS). -/
def runPass (t n : Nat) (p : PassReq) (a : Block) (s : State) : State :=
  let prec := ((s.stream t n).setup p.arr).mode % 8
  let (xs, c) := contributions p.kind prec a ((s.tile t).stat' p.arr p.sb).block
  let s := s.setBank t n p.arr p.ab bkLIVE ((s.bank t p.arr p.ab).accumulate xs)
  s.setAll [(F.TILE_ARR_STATUS_BUSY t p.arr, 1), (F.TILE_ARR_STATUS_PREC t p.arr, prec), (F.TILE_ARR_STATUS_KIND t p.arr, p.kind),
    (F.TILE_ARR_STATUS_SBANK t p.arr, p.sb), (F.TILE_ARR_STATUS_C_LAST t p.arr, patternOf 9 c)]

/-- The passes an MPASS names: one, or a D pass on array 0 with a W pass on array 1 (R148, R150). -/
def passReqs (w : Nat) : List PassReq :=
  let arr := bitsOf w 17 16
  if arr = 2 then [⟨0, kD, bitsOf w 20 20, bitsOf w 22 22⟩, ⟨1, kW, bitsOf w 21 21, bitsOf w 23 23⟩]
  else if arr = 1 then [⟨1, bitsOf w 19 18, bitsOf w 21 21, bitsOf w 23 23⟩]
  else [⟨0, bitsOf w 19 18, bitsOf w 20 20, bitsOf w 22 22⟩]

def mpassFieldsOk (w : Nat) : Bool :=
  let arr := bitsOf w 17 16
  onlyBits [(48, 16)] w && arr != 3 && bitsOf w 19 18 != 3 && bitsOf w 25 24 != 3
    && !(arr == 0 && (bitOf w 21 || bitOf w 23)) && !(arr == 1 && (bitOf w 20 || bitOf w 22))
    && !(arr == 2 && bitsOf w 19 18 != 1) && !(bitsOf w 25 24 == 0 && bitOf w 48)

/-- What a pass meets from the half it names: a wait while it loads or a block awaits it, ACC_STATE when it is free or the other stream's (R71,
R125). -/
def halfGate (t n h : Nat) (s : State) : Option Verdict :=
  if s.g (halfStateF t h) = 0 then some (.fault cACC)
  else if ((s.tile t).half h).owner ≠ some n then some (.fault cACC)
  else if s.g (halfStateF t h) = 1 ∨ (s.tile t).halfAwaited h then some (.wait 5)
  else none

/-- MPASS (R62 to R70, R150). -/
def ruleMpass : Rule := fun t n w s =>
  let y := s.stream t n
  let x := s.tile t
  let sel := bitsOf w 25 24
  let reqs := passReqs w
  let src := sramOp y w 26
  let prec := (y.setup (if bitsOf w 17 16 = 1 then 1 else 0)).mode % 8
  if !mpassFieldsOk w then .fault cFIELD
  else if sel = 0 ∧ reqs.any (fun p => p.kind == kW) then .fault cSOURCE
  else
    let span := (src, formSectors prec)
    let c := if sel = 0 then addrCode [span] true else 0
    if c ≠ 0 then .fault c
    else
      let rd := if sel = 0 then [sramSpan span] else []
      reserved t n rd [] s fun s =>
        match (if sel = 0 then none else halfGate t n (sel - 1) s) with
        | some v => v
        | none =>
          let a := if sel = 0 then x.block prec src else (x.half (sel - 1)).block
          match reqs.findSome? fun p => passGate t n s p (if sel = 0 then none else some (sel - 1)) a with
          | some v => v
          | none =>
            if sel = 0 ∧ (firstBad x.badSectors src (formSectors prec)).isSome then .fault cSRAM
            else
              let s := reqs.foldl (fun s p => runPass t n p a s) s
              let s := if sel = 0 then s else s.set (halfStateF t (sel - 1)) 3
              let posts := reqs.map fun p => Post.passDone p.arr p.sb (passesOf ((y.setup p.arr).mode % 8)).length (bitOf w 47)
              .flies s { rd := rd, post := posts ++ (if sel = 0 then [] else [.halfRead (sel - 1) (bitOf w 48)]) }

/-- Whether a flight fills or reads a stationary bank (R60). -/
def Flight.usesBank (arr sb : Nat) (f : Flight) : Bool := f.post.any fun p =>
  match p with
  | .passDone a b _ _ => a == arr && b == sb
  | .statLoaded a b => a == arr && b == sb
  | _ => false

/-- SLOAD (R59, R60, R124). -/
def ruleSload : Rule := fun t n w s =>
  let x := s.tile t
  let arr := bitsOf w 16 16
  let sb := bitsOf w 17 17
  let form := bitsOf w 20 18
  let src := sramOp (s.stream t n) w 21
  if !onlyBits [(41, 16)] w || decide (3 < form) then .fault cFIELD
  else
    let c := addrCode [(src, formSectors form)] true
    if c ≠ 0 then .fault c
    else
      let rd := [sramSpan (src, formSectors form)]
      reserved t n rd [] s fun s =>
        let o := (x.stat' arr sb).owner
        if (o.isSome ∧ o ≠ some n) ∨ x.flights.any (Flight.usesBank arr sb) then .wait 5
        else if (firstBad x.badSectors src (formSectors form)).isSome then .fault cSRAM
        else
          let s := s.setTile t fun x => x.setStat arr sb ⟨some n, true, x.block form src⟩
          .flies (s.set (F.TILE_ARR_STATUS_LOADING t arr) 1) { rd := rd, post := [.statLoaded arr sb] }

/-- GBLOAD (R69, R125). -/
def ruleGbload : Rule := fun t n w s =>
  let x := s.tile t
  let h := bitsOf w 16 16
  let form := bitsOf w 19 17
  let src := sramOp (s.stream t n) w 20
  if !onlyBits [(40, 16)] w || decide (3 < form) then .fault cFIELD
  else
    let c := addrCode [(src, formSectors form)] true
    if c ≠ 0 then .fault c
    else
      let rd := [sramSpan (src, formSectors form)]
      reserved t n rd [] s fun s =>
        if s.g (halfStateF t h) ≠ 0 then
          (if (x.half h).owner = some n then .wait 5 else .fault cACC)
        else if (firstBad x.badSectors src (formSectors form)).isSome then .fault cSRAM
        else
          let s := s.setTile t fun x => x.setHalf h ⟨some n, x.block form src⟩
          .flies ((s.set (halfStateF t h) 1).set (halfFormF t h) form) { rd := rd, post := [.halfLoaded h] }

/-! Output units. -/

/-- Whether a numeric mode word holds only defined values (R55). -/
def modeOk (m : Nat) : Bool := decide (m % 8 ≤ 3) && !bitOf m 3 && decide (bitsOf m 8 5 ≤ 7) && decide (m < 512)
def modeFmt (m : Nat) : Nat := bitsOf m 8 5
def modeOvf (m : Nat) : Nat := bitsOf m 4 4

/-- Whether a post-operation word holds only defined values (R83). -/
def postopOk (p : Nat) : Bool :=
  decide (p < 4096) && decide (p % 16 = 0) && decide (bitsOf p 7 6 ≤ 2) && decide (bitsOf p 10 8 ≤ 4)

/-- OUSET (R149): MODE first, then POSTOP. -/
def ruleOuset : Rule := fun t n w s =>
  let u : OuSetup := ⟨bitsOf w 63 32, bitsOf w 95 64, bitsOf w 127 96⟩
  if !onlyBits [(16, 16), (127, 32)] w then .fault cFIELD
  else if !modeOk u.mode then .fault 0x0B01
  else if !postopOk u.postop then .fault cFIELD
  else .done (s.setStream t n fun y => if bitOf w 16 then { y with setup1 := u } else { y with setup0 := u })

/-- Activation functions (R83, R84, R98). -/
def activate (act v : Nat) : Nat :=
  if act = 1 then max32 v 0
  else if act = 2 then gelu32 v
  else if act = 3 then silu32 v
  else if act = 4 then tanh32 v
  else v

/-- Stage 4 on one element (R84): multiplier, bias, activation, residual, each one operation, each only when set. -/
def stage4 (u : OuSetup) (bias resid r : Nat) : Nat :=
  let v1 := if bitOf u.postop 4 then mul32 r u.mult else r
  let v2 := if bitOf u.postop 5 then add32 v1 bias else v1
  let v3 := activate (bitsOf u.postop 10 8) v2
  if bitsOf u.postop 7 6 ≠ 0 then add32 v3 resid else v3

/-- The row sum of R86: a pairwise tree of seven levels over 128 lanes, padding lanes +0. -/
def treeSum (r : List Nat) : Nat := (treeLevels add32 7 (r.take 128 ++ List.replicate (128 - r.length) 0)).headD 0

/-- The 16 bytes of a row's statistics (R86, R87). -/
def rowStats (r : List Nat) : List Byte :=
  leBytes 4 (noNegZero (rowMax32 r)) ++ leBytes 4 (noNegZero (treeSum r)) ++ leBytes 4 (rowMaxAbs32 r)
    ++ leBytes 4 (r.countP fun v => !finite32 v)

/-- The 2,048 bytes of a block's statistics record: padding rows are 0 (R87). -/
def statsRecord (rows : List (List Nat)) : List Byte :=
  rows.flatMap rowStats ++ List.replicate (16 * (128 - rows.length)) 0

/-- The finalised values of a bank, row by row (R74). -/
def Bank.finalRows (b : Bank) : List (List Nat) :=
  chunksOf 128 128 (b.planes.map Pair.final)

/-- The element of a written block that traps, if any: its row, column, place and bits (R54, R492). -/
def trapOf (t n source ou fmt ovf layer oper dkind addr vcols : Nat) (rows : List (List Nat)) (tl : List Tally) : Option Trap :=
  (firstNonFinite tl).map fun i =>
    let r := i / vcols
    let c := i % vcols
    let v := (rows.getD r []).getD c 0
    let a := if dkind = 0 then addr + elemOffset fmt (128 * r + c) else addr
    ⟨source, n, ou, fmt, t, layer, oper, r, c, dkind, a, trapValue fmt ovf v (scaleExp fmt (rowMaxAbs32 ((rows.getD r []).take vcols)))⟩

/-- The spans an OUFIN names: destination, bias, residual, statistics, in the order of its fields. -/
structure FinSpans where
  dst : Option (Nat × Nat)
  bias : Option (Nat × Nat)
  resid : Option (Nat × Nat)
  stats : Option (Nat × Nat)

def finSpans (y : Stream) (u : OuSetup) (w : Nat) : FinSpans :=
  { dst := if bitsOf w 19 18 = 0 then some (sramOp y w 20, fmtSectors (modeFmt u.mode) 16384) else none,
    bias := if bitOf u.postop 5 then some (sramOp y w 41, 8) else none,
    resid := if bitsOf u.postop 7 6 = 0 then none
      else some (sramOp y w 62, if bitsOf u.postop 7 6 = 1 then 1024 else 264),
    stats := if bitOf u.postop 11 then some (sramOp y w 83, 32) else none }

def oufinFieldsOk (u : OuSetup) (w : Nat) : Bool :=
  onlyBits [(117, 16)] w && bitsOf w 19 18 != 3 && (bitsOf w 19 18 == 0 || bitsOf w 40 20 == 0)
    && (bitOf u.postop 5 || bitsOf w 61 41 == 0) && (bitsOf u.postop 7 6 != 0 || bitsOf w 82 62 == 0)
    && (bitOf u.postop 11 || bitsOf w 103 83 == 0) && (bitsOf w 19 18 == 0 || modeFmt u.mode == 4)

/-- What an instruction that fills a score slot meets: ACC_STATE when it is full and the other stream's, a wait when it is
full (R94, R125, R151). -/
def slotGate (t n i : Nat) (s : State) : Option Verdict :=
  if !scoreFull s t i then none
  else if Sparse.get none i (s.tile t).scoreOwner ≠ some n then some (.fault cACC)
  else some (.wait 5)

/-- Stages 4 to 7 over the valid rows and columns. -/
def finalise (x : Tile) (u : OuSetup) (sp : FinSpans) (b : Bank) (vrows vcols : Nat) : List (List Nat) :=
  let bias := sp.bias.elim [] fun e => x.words e.1 128
  let resid : Nat → Nat → Nat := match sp.resid with
    | none => fun _ _ => 0
    | some e =>
      if bitsOf u.postop 7 6 = 1 then
        let l := x.words e.1 16384
        fun r c => l.getD (128 * r + c) 0
      else
        let k := x.block 0 e.1
        k.value
  (b.finalRows.take vrows).zipIdx.map fun r => (r.1.take vcols).zipIdx.map fun e =>
    stage4 u (bias.getD e.2 0) (resid r.2 e.2) e.1

/-- OUFIN (R72, R78, R83 to R89, R94, R151). -/
def ruleOufin : Rule := fun t n w s =>
  let y := s.stream t n
  let x := s.tile t
  let ou := bitsOf w 16 16
  let b := bitsOf w 17 17
  let u := y.setup ou
  let fmt := modeFmt u.mode
  let dk := bitsOf w 19 18
  let slot := 2 * ou + dk - 1
  let vrows := bitsOf w 110 104 + 1
  let vcols := bitsOf w 117 111 + 1
  let sp := finSpans y u w
  if !oufinFieldsOk u w then .fault cFIELD
  else
    let c := addrCode (sp.dst.toList ++ sp.bias.toList ++ sp.resid.toList ++ sp.stats.toList) true
    if c ≠ 0 then .fault c
    else
      let rd := (sp.bias.toList ++ sp.resid.toList).map sramSpan
      let wr := (sp.dst.toList ++ sp.stats.toList).map sramSpan
      reserved t n rd wr s fun s =>
        match bankTake t n ou b s <|> (if dk = 0 then none else slotGate t n slot s) with
        | some v => v
        | none =>
          if (sp.bias.toList ++ sp.resid.toList).any fun e => (firstBad x.badSectors e.1 e.2).isSome then .fault cSRAM
          else
            let rows := finalise x u sp (s.bank t ou b) vrows vcols
            let (bytes, tl) := writeBlock fmt (modeOvf u.mode) rows vcols
            let stats := if sp.stats.isSome then statsRecord rows else []
            let s := match sp.dst with
              | some e => s.setTile t fun x => x.writeSram (64 * e.1) bytes
              | none =>
                (setScoreFull s t slot true).setTile t fun x =>
                  { x with score := Sparse.put [] slot (wordsOf bytes) x.score, scoreOwner := Sparse.put none slot (some n) x.scoreOwner }
            let s := match sp.stats with
              | some e => s.setTile t fun x => x.writeSram (64 * e.1) stats
              | none => s
            let dkind := if dk = 0 then 0 else 1
            let addr := if dk = 0 then (sp.dst.elim 0 fun e => 64 * e.1) else slot
            let s := s.counted y.layer y.oper tl (trapOf t n 0 ou fmt (modeOvf u.mode) y.layer y.oper dkind addr vcols rows tl)
            let s := s.set (bankStateF t ou b) bkFINALISING
            let written := match sp.dst, sp.stats with
              | some d, some e => if d.1 ≤ e.1 then bytes ++ stats else stats ++ bytes
              | _, _ => bytes ++ stats
            .flies (s.set (bankStreamF t ou b) n) { rd := rd, wr := wr, post := [.bankEmpty ou b], written := some written }

/-! Reduction segments (R82, R151). -/

/-- Whether the tile may write a segment, and whether it is still open in the attempt: the code of R151, 0 when it may. -/
def segmentCode (t : Nat) (segs : List Nat) (s : State) : Nat :=
  let g := (s.plan.elim [] fun p => p.ring.grants).getD t (0, 0)
  if segs.any fun k => decide (k < g.1) || decide (g.1 + g.2 ≤ k) then cSEGDENIED
  else if segs.any fun k => s.stp.segsNamed.contains k then cSEGCLOSED
  else 0

def State.nameSegments (s : State) (segs : List Nat) : State :=
  { s with stp := { s.stp with segsNamed := s.stp.segsNamed ++ segs } }

/-- The place of a reduction segment in RED_PART (R216). -/
def State.segAddr (s : State) (seg : Nat) : Option Nat :=
  s.plan.bind fun p => addrInExtents pageBytes (s.partExtents p.ring.redPart) (65536 * seg)

/-- One segment's 16,384 values written for a requester: 0 or the memory code. -/
def State.writeSegment (s : State) (req seg : Nat) (vals : List Nat) : State × Nat :=
  match s.segAddr seg with
  | none => (s, 0x0302)
  | some a => s.writeMem req a (wordBytes vals)

/-- GRADOUT (R82, R151): post-operation off, OUT_FMT 4, released when the write completes; a write that fails leaves the bank as it was
(log entry 77). The segment is a sum that does not wrap (log entry 80). -/
def ruleGradout : Rule := fun t n w s =>
  let y := s.stream t n
  let ou := bitsOf w 16 16
  let b := bitsOf w 17 17
  let seg := bitsOf w 41 18 + y.xr (bitsOf w 45 42)
  if !onlyBits [(45, 16)] w then .fault cFIELD
  else
    let c := segmentCode t [seg] s
    if c ≠ 0 then .fault c
    else
      match bankTake t n ou b s with
      | some v => v
      | none =>
        let rows := (s.bank t ou b).finalRows
        let (bytes, tl) := writeBlock 4 0 rows 128
        let s := s.counted y.layer y.oper tl (trapOf t n 0 ou 4 0 y.layer y.oper 2 seg 128 rows tl)
        let (s, code) := (s.nameSegments [seg]).writeSegment t seg (wordsOf bytes)
        if code ≠ 0 then .broke s cTRANSFER
        else
          let s := (s.set (bankStateF t ou b) bkFINALISING).set (bankStreamF t ou b) n
          .flies s { post := [.bankEmpty ou b, .segmentRelease seg s.workAttempt], written := some bytes }

end Sys2Proof.Machine
end

