-- ==== Sys2Proof/Machine/TileVector.lean ====
section
/-!
DEFINITION. The vector unit: what every vector instruction shares, and VOP (spec 04_fused_kernels.md R91 to R98,
05_tile_instruction_streams.md R152).
-/
namespace Sys2Proof.Machine

/-! Writes. -/

/-- One destination of a vector instruction: bytes at a sector, and the values that count (R490), in element order, with
the format they are written in. A bit-for-bit move counts nothing. -/
structure VecWrite where
  sector : Nat
  bytes : List Byte
  fmt : Nat := 4
  ovf : Nat := 0
  vals : List Nat := []
  tally : List Tally := []

/-- Values written as binary32 one after another. -/
def VecWrite.words (sector : Nat) (vals : List Nat) : VecWrite :=
  let q := vals.map (toFloat binary32 0)
  { sector := sector, bytes := wordBytes (q.map (·.1)), vals := vals, tally := q.map (·.2) }

/-- Values written element by element in an OUT_FMT from 4 to 7 (R47, R48). -/
def VecWrite.linear (sector fmt ovf : Nat) (vals : List Nat) : VecWrite :=
  let q := vals.map (toFloat (outFloat fmt) ovf)
  { sector := sector, bytes := packFloats fmt (q.map (·.1)), fmt := fmt, ovf := ovf, vals := vals, tally := q.map (·.2) }

/-- One 128 × 128 block written in an OUT_FMT, with fresh scales for the scaled forms. -/
def VecWrite.block (sector fmt ovf : Nat) (rows : List (List Nat)) : VecWrite :=
  let (b, t) := writeBlock fmt ovf rows 128
  { sector := sector, bytes := b, fmt := fmt, ovf := ovf, vals := rows.flatten, tally := t }

/-- Consecutive blocks. -/
def VecWrite.blocks (sector fmt ovf : Nat) (bs : List (List (List Nat))) : List VecWrite :=
  bs.zipIdx.map fun b => VecWrite.block (sector + b.2 * fmtSectors fmt 16384) fmt ovf b.1

/-- Bytes moved bit for bit. -/
def VecWrite.raw (sector : Nat) (bytes : List Byte) : VecWrite := { sector := sector, bytes := bytes }

/-- The trap of a vector write's first non-finite element (R492). -/
def VecWrite.trap (v : VecWrite) (t n : Nat) (y : Stream) (dkind addr : Nat) : Option Trap :=
  (firstNonFinite v.tally).map fun i =>
    let row := (v.vals.drop (i / 128 * 128)).take 128
    ⟨1, n, 0, v.fmt, t, y.layer, y.oper, i / 128 % 128, i % 128, dkind,
      if dkind = 0 then 64 * v.sector + elemOffset v.fmt i else addr,
      trapValue v.fmt v.ovf (v.vals.getD i 0) (scaleExp v.fmt (rowMaxAbs32 row))⟩

/-- The write put into SRAM and counted under the stream's TAG. -/
def State.vecWrite (t n : Nat) (s : State) (v : VecWrite) : State :=
  let y := s.stream t n
  (s.setTile t fun x => x.writeSram (64 * v.sector) v.bytes).counted y.layer y.oper v.tally (v.trap t n y 0 0)

/-- A write put at its place in ascending destination order (R503). -/
def insertWrite (v : VecWrite) : List VecWrite → List VecWrite
  | [] => [v]
  | u :: r => if v.sector < u.sector then v :: u :: r else u :: insertWrite v r

def writtenBytes (l : List VecWrite) : List Byte := ((l.foldr insertWrite []).map (·.bytes)).flatten

/-! Issue. -/

/-- The spans that a vector instruction reads and writes, the score slots it frees, and what it does: the state it leaves
before its writes, its writes, its special-function results and what else its completion brings. -/
structure VecResult where
  state : State
  writes : List VecWrite
  sfu : Nat := 0
  post : List Post := []
  fills : List HalfFill := []

/-- A named score slot must be full and the stream's own (R94, R125). -/
def scoreGate (t n : Nat) (slots : List Nat) (s : State) : Option Verdict :=
  if slots.all fun i => scoreFull s t i && Sparse.get none i (s.tile t).scoreOwner == some n then none else some (.fault cACC)

/-- A vector instruction past its field checks: addresses, reservations, the unit, slots, SRAM, then its effect (R93, R156).
-/
def vecIssue (t n : Nat) (rd wr : List (Nat × Nat)) (slots : List Nat) (gate : State → Option Verdict)
    (run : State → VecResult) (s : State) : Verdict :=
  let c := addrCode (rd ++ wr) true
  if c ≠ 0 then .fault c
  else
    reserved t n (rd.map sramSpan) (wr.map sramSpan) s fun s =>
      if s.on (F.TILE_VEC_STATUS_BUSY t) then .wait 5
      else
        match scoreGate t n slots s <|> gate s with
        | some v => v
        | none =>
          if rd.any fun e => (firstBad (s.tile t).badSectors e.1 e.2).isSome then .fault cSRAM
          else
            let r := run s
            let s := r.writes.foldl (State.vecWrite t n) r.state
            let s := (s.set (F.TILE_VEC_STATUS_BUSY t) 1).set (F.TILE_VEC_STATUS_SFU_BUSY t) (if r.sfu = 0 then 0 else 1)
            .flies s { rd := rd.map sramSpan, wr := wr.map sramSpan, post := .vectorDone slots r.sfu :: r.post, fills := r.fills,
                       written := if r.writes.isEmpty then none else some (writtenBytes r.writes) }

def noGate : State → Option Verdict := fun _ => none

/-- Score slot of an SSEL from 1 to 4. -/
def Tile.scoreWords (x : Tile) (i : Nat) : List Nat := Sparse.get [] i x.score

/-! VOP. -/

/-- The two-operand and special functions of VOP, element by element: A, B and the old D. -/
def vopElem (op a b d : Nat) : Nat :=
  match op with
  | 0 => add32 a b
  | 1 => sub32 a b
  | 2 => mul32 a b
  | 3 => fma32 a b d
  | 4 => max32 a b
  | 5 => min32 a b
  | 6 => abs32 a
  | 7 => neg32 a
  | 8 => flag32 (eq32 a b)
  | 9 => flag32 (lt32 a b)
  | 10 => flag32 (le32 a b)
  | 11 => if eq32 d 0 then b else a
  | 12 => exp2_32 a
  | 13 => log2_32 a
  | 14 => rcp32 a
  | 15 => rsqrt32 a
  | 16 => tanh32 a
  | _ => erf32 a

/-- Whether the operation reads operand B. -/
def vopReadsB (op : Nat) : Bool := decide (op ≤ 5) || (decide (8 ≤ op) && decide (op ≤ 11))
/-- Whether the operation reads its destination. -/
def vopReadsD (op : Nat) : Bool := op == 3 || op == 11

/-- Whether K13 is a row length (R129); a kernel given another faults with FIELD_INVALID (log entry 79). -/
def rowLenOk (k : Nat) : Bool := k % 128 == 0 && decide (128 ≤ k) && decide (k ≤ 65536)

/-- Whether LEN, K13 and K15 suit the operation (R152). -/
def vopLenOk (op len k13 k15 : Nat) : Bool :=
  if op = 21 then len % 1024 == 0 && modeOk k15 && decide (modeFmt k15 ≤ 3)
  else if op = 22 then len % 1024 == 0 && modeOk k15
  else if op = 23 then modeOk k15 && decide (4 ≤ modeFmt k15)
  else if 18 ≤ op then rowLenOk k13 && len % (k13 / 16) == 0
  else true

/-- A row operation over rows of `k` elements. -/
def vopRow (op : Nat) (r : List Nat) : Nat := if op = 18 then rowSum32 r else if op = 19 then rowMax32 r else rowMaxAbs32 r

/-- VOP (R152). -/
def ruleVop : Rule := fun t n w s =>
  let y := s.stream t n
  let op := bitsOf w 21 16
  let ssel := bitsOf w 108 106
  let len := bitsOf w 102 86
  let k13 := y.kr 13
  let k15 := y.kr 15
  let bk := bitOf w 22
  if !onlyBits [(102, 16), (108, 106)] w || decide (24 ≤ op) || decide (5 ≤ ssel) || (ssel != 0 && decide (1024 < len))
      || !vopLenOk op len k13 k15 then .fault cFIELD
  else if len = 0 then .done s
  else
    let a := sramOp y w 23
    let b := sramOp y w 44
    let d := sramOp y w 65
    let count := 16 * len
    let aLen := if op = 22 then len / 1024 * formSectors (k15 % 8) else len
    let dLen := if op ≤ 17 ∨ op = 22 then len
      else if op ≤ 20 then (count / k13 + 15) / 16
      else fmtSectors (modeFmt k15) count
    let rd := (if ssel = 0 then [(a, aLen)] else []) ++ (if vopReadsB op && !bk then [(b, len)] else [])
      ++ (if vopReadsD op then [(d, len)] else [])
    vecIssue t n rd [(d, dLen)] (if ssel = 0 then [] else [ssel - 1]) noGate (fun s =>
      let x := s.tile t
      let src := if ssel = 0 then x.words a count else (x.scoreWords (ssel - 1)).take count
      let writes :=
        if op ≤ 17 then
          let bs := if bk then List.replicate count (y.kr (bitsOf w 47 44)) else if vopReadsB op then x.words b count else src
          let ds := if vopReadsD op then x.words d count else src
          [VecWrite.words d (List.zipWith (fun p z => vopElem op p.1 p.2 z) (src.zip bs) ds)]
        else if op ≤ 20 then [VecWrite.words d ((chunksOf k13 count src).map (vopRow op))]
        else if op = 21 then
          VecWrite.blocks d (modeFmt k15) (modeOvf k15) ((chunksOf 16384 count src).map (chunksOf 128 128))
        else if op = 22 then
          let f := k15 % 8
          let bytes := if ssel = 0 then x.readSram (64 * a) (64 * aLen) else wordBytes (x.scoreWords (ssel - 1))
          (List.range (len / 1024)).map fun i =>
            let k := blockOfBytes f (sliceBytes bytes (64 * formSectors f * i) (64 * formSectors f))
            VecWrite.words (d + 1024 * i) ((List.range 128).flatMap k.row)
        else [VecWrite.linear d (modeFmt k15) (modeOvf k15) src]
      { state := s, writes := writes, sfu := if 12 ≤ op ∧ op ≤ 17 then count else 0 }) s

end Sys2Proof.Machine
end

