-- ==== Sys2Proof/Machine/TileKernels.lean ====
section
/-!
DEFINITION. The fused kernels (spec 04_fused_kernels.md R99 to R118, 05_tile_instruction_streams.md R153, R154).
-/
namespace Sys2Proof.Machine

/-! Operands. -/

/-- The kernel control word's fields in the instruction (R107, R153). -/
def kcMask (w : Nat) : Nat := bitsOf w 31 30
def kcFirst (w : Nat) : Bool := bitOf w 29
def kcSlot (w : Nat) : Nat := bitsOf w 28 28
def kcNorm (w : Nat) : Nat := bitsOf w 27 26
def kcRsvdOk (w : Nat) : Bool := bitsOf w 47 32 == 0 && bitsOf w 25 16 == 0
def kSsel (w : Nat) : Nat := bitsOf w 50 48
def opA (y : Stream) (w : Nat) : Nat := sramOp y w 51
def opB (y : Stream) (w : Nat) : Nat := sramOp y w 72
def opD (y : Stream) (w : Nat) : Nat := sramOp y w 93

/-- Field checks of the kernels 0x40 to 0x49: which of slot, A, B, D, MASK and NORM the kernel uses (R107, R153). -/
def kernelFieldsOk (w : Nat) (slot a b d mask norm : Bool) : Bool :=
  onlyBits [(113, 16)] w && kcRsvdOk w
    && (if slot then decide (1 ≤ kSsel w) && decide (kSsel w ≤ 4) else kSsel w == 0)
    && (a || bitsOf w 71 51 == 0) && (b || bitsOf w 92 72 == 0) && (d || bitsOf w 113 93 == 0)
    && (!mask || kcMask w != 3) && (!norm || decide (kcNorm w ≤ 1))

def kQBASE : Nat := 0
def kKBASE : Nat := 1
def kQDOC : Nat := 2
def kKDOC : Nat := 3
def kCONST : Nat := 4
def kEPS : Nat := 5
def kINVN : Nat := 6
def kSCALE : Nat := 7
def kVOCAB : Nat := 8
def kTARGETS : Nat := 9
def kSTATS : Nat := 10
def kGAIN : Nat := 11
def kAUX : Nat := 12
def kROWLEN : Nat := 13
def kCOLBLK : Nat := 14
def kNMODE : Nat := 15
def noAux : Nat := 0xFFFFFFFF

/-- The output format and overflow mode of K15, and whether its word holds only defined values. -/
def Stream.kmodeOk (y : Stream) : Bool := modeOk (y.kr kNMODE)
def Stream.kfmt (y : Stream) : Nat := modeFmt (y.kr kNMODE)
def Stream.kovf (y : Stream) : Nat := modeOvf (y.kr kNMODE)

/-- The saved form of x: SAVE_FMT of the NUMPLAN entry of the stream's identifiers, binary32 where there is none (R104,
R220). -/
def State.saveFmt (s : State) (y : Stream) : Nat :=
  match (s.plan.elim [] fun p => p.nums).find? fun e => e.layer == y.layer && e.oper == y.oper with
  | some e => e.saveFmt
  | none => 4

/-- A block in SRAM as binary32 rows: a scaled block dequantised exactly, or 16,384 binary32 values (R99). -/
def Tile.blockRows (x : Tile) (fmt sector : Nat) : List (List Nat) :=
  if fmt ≤ 3 then
    let k := x.block fmt sector
    (List.range 128).map k.row
  else chunksOf 128 128 (x.words sector 16384)

/-- A band of `k` consecutive blocks as 128 rows of 128 × `k` values, in every form (log entry 79). -/
def Tile.bandRows (x : Tile) (fmt sector k : Nat) : List (List Nat) :=
  let bs := (List.range k).map fun i => x.blockRows fmt (sector + i * fmtSectors fmt 16384)
  (List.range 128).map fun r => bs.flatMap fun b => b.getD r []

/-- Rows of 128 × `k` values as `k` blocks. -/
def bandBlocks (k : Nat) (rows : List (List Nat)) : List (List (List Nat)) :=
  (List.range k).map fun i => rows.map fun r => (r.drop (128 * i)).take 128

/-! Kernel-state slots (R95). -/

def slotOpenF (t k : Nat) : Fld := if k = 0 then F.TILE_VEC_STATUS_SLOT0_OPEN t else F.TILE_VEC_STATUS_SLOT1_OPEN t
def slotStreamF (t k : Nat) : Fld := if k = 0 then F.TILE_VEC_STATUS_SLOT0_STREAM t else F.TILE_VEC_STATUS_SLOT1_STREAM t
def Tile.kslot (x : Tile) (k : Nat) : KSlot := if k = 0 then x.slot0 else x.slot1
def State.setKslot (s : State) (t k : Nat) (v : KSlot) : State :=
  s.setTile t fun x => if k = 0 then { x with slot0 := v } else { x with slot1 := v }

/-- An instruction that names a slot: the other stream's open slot faults, and a closed one unless the instruction opens
it. One that opens a slot its own stream holds open begins it anew (log entry 79). -/
def kslotGate (t n k : Nat) (opens : Bool) (s : State) : Option Verdict :=
  if s.on (slotOpenF t k) then (if s.g (slotStreamF t k) = n then none else some (.fault cACC))
  else if opens then none else some (.fault cACC)

def State.openSlot (s : State) (t n k : Nat) (v : KSlot) : State :=
  ((s.setKslot t k v).set (slotOpenF t k) 1).set (slotStreamF t k) n
def State.closeSlot (s : State) (t k : Nat) : State :=
  ((s.setKslot t k KSlot.closed).set (slotOpenF t k) 0).set (slotStreamF t k) 0

/-- A slot just opened: opened records, O = +0 (R100, R110). -/
def KSlot.opened (recs : List Online) : KSlot := ⟨List.replicate 16384 0, recs, [], true, [], []⟩

/-! Records (R100, R101). -/

/-- R101, with the α of the earlier record; no α when both maxima are −∞. -/
def Online.combine (a b : Online) : Online × Option Nat :=
  let m := max32 a.m b.m
  if m = negInf32 then ({ a with m := negInf32, ls := 0, le := 0 }, none)
  else
    let nm := negMax32 m
    let αa := expRel32 a.m nm
    let αb := expRel32 b.m nm
    let p := Pair.add ⟨mul32 a.ls αa, mul32 a.le αa⟩ (mul32 b.ls αb)
    ({ a with m := m, ls := p.s, le := add32 p.e (mul32 b.le αb) }, some αa)

def onlineOf (l : List Byte) : Online := ⟨leAt l 0 4, leAt l 4 4, leAt l 8 4, leAt l 12 4⟩

/-! Normalisation (R103 to R106). -/

/-- One row of NORM_FWD: y, μ and r. -/
def normRow (ln : Bool) (eps invn : Nat) (g x : List Nat) : List Nat × Nat × Nat :=
  let μ := if ln then mul32 (rowSum32 x) invn else 0
  let d := if ln then x.map fun v => sub32 v μ else x
  let q := rowSum32 (d.map fun v => mul32 v v)
  let r := rsqrt32 (add32 (mul32 q invn) eps)
  (List.zipWith (fun v g => mul32 (mul32 v r) g) d g, μ, r)

/-- NORM_FWD. -/
def ruleNormFwd : Rule := fun t n w s =>
  let y := s.stream t n
  let k13 := y.kr kROWLEN
  let k := k13 / 128
  let fmt := s.saveFmt y
  if !kernelFieldsOk w false true false true false true || !rowLenOk k13 || !y.kmodeOk then .fault cFIELD
  else
    let rd := [(opA y w, k * fmtSectors fmt 16384), (y.kr kGAIN, k13 / 16)]
    let wr := [(opD y w, k * fmtSectors y.kfmt 16384), (y.kr kSTATS, 16)]
    vecIssue t n rd wr [] noGate (fun s =>
      let x := s.tile t
      let g := x.words (y.kr kGAIN) k13
      let res := (x.bandRows fmt (opA y w) k).map (normRow (kcNorm w == 1) (y.kr kEPS) (y.kr kINVN) g)
      { state := s,
        writes := VecWrite.blocks (opD y w) y.kfmt y.kovf (bandBlocks k (res.map (·.1)))
          ++ [VecWrite.words (y.kr kSTATS) (res.flatMap fun e => [e.2.1, e.2.2])],
        sfu := 128 }) s

/-- (μ, r) or (m, ρ) of each row from the statistics area. -/
def Tile.statRows (x : Tile) (sector : Nat) : List (Nat × Nat) :=
  (chunksOf 2 128 (x.words sector 256)).map fun p => (p.getD 0 0, p.getD 1 0)

/-- x̂ of an element (R105). -/
def xhat (st : Nat × Nat) (x : Nat) : Nat := mul32 (sub32 x st.1) st.2

/-- A term added to a lane's pair, EMPTY at first (R92). -/
def laneAdd (x : Nat) : Option Pair → Option Pair
  | none => some (Pair.start x)
  | some p => some (p.add x)

/-- Terms put into a row's lane pairs: element `k` of the row goes to lane k mod 256 (R92). -/
def addLanes (lanes : List (Option Pair)) (first : Nat) (terms : List Nat) : List (Option Pair) :=
  let lanes := if lanes.isEmpty then List.replicate 256 none else lanes
  terms.zipIdx.foldl (fun l e => modifyAt (laneAdd e.1) ((first + e.2) % 256) l) lanes

/-- The finalised root of lane pairs (R92). -/
def lanesSum (lanes : List (Option Pair)) : Nat :=
  ((treeLevels Pair.combine 8 (lanes.map fun p => p.getD ⟨0, 0⟩)).headD ⟨0, 0⟩).final

/-- Gain-gradient pairs of one column of terms, in ascending row (R106). -/
def addGain (first : Bool) (p : Pair) (terms : List Nat) : Pair :=
  if first then (Pair.ofList terms).getD ⟨0, 0⟩ else terms.foldl Pair.add p

/-- NORM_BWD_ACC: the row terms of its band into the slot, the gain-gradient pairs at AUX, and the copy of dy. -/
def ruleNormBwdAcc : Rule := fun t n w s =>
  let y := s.stream t n
  let k13 := y.kr kROWLEN
  let cb := y.kr kCOLBLK
  let fmt := s.saveFmt y
  let ln := kcNorm w == 1
  let k := kcSlot w
  if !kernelFieldsOk w true true false true false true || !rowLenOk k13 || decide (k13 / 128 ≤ cb) then .fault cFIELD
  else
    let aux := y.kr kAUX + 16 * cb
    let rd := [(opA y w, fmtSectors fmt 16384), (y.kr kSTATS, 16), (y.kr kGAIN, k13 / 16)] ++ (if kcFirst w then [] else [(aux, 16)])
    let wr := [(opD y w, 1024), (aux, 16)]
    vecIssue t n rd wr [kSsel w - 1] (kslotGate t n k (cb == 0)) (fun s =>
      let x := s.tile t
      let dy := chunksOf 128 128 (x.scoreWords (kSsel w - 1))
      let xs := x.blockRows fmt (opA y w)
      let st := x.statRows (y.kr kSTATS)
      let g := ((x.words (y.kr kGAIN) k13).drop (128 * cb)).take 128
      let xh := List.zipWith (fun r z => r.map (xhat z)) xs st
      let h := dy.map fun r => List.zipWith mul32 g r
      let slot := if cb = 0 then KSlot.opened [] else x.kslot k
      let old1 := if slot.terms1.isEmpty then List.replicate 128 [] else slot.terms1
      let old2 := if slot.terms2.isEmpty then List.replicate 128 [] else slot.terms2
      let new1 := if ln then h else List.zipWith (List.zipWith mul32) h xs
      let new2 := if ln then List.zipWith (List.zipWith mul32) h xh else []
      let slot := { slot with
        terms1 := List.zipWith (fun l v => addLanes l (128 * cb) v) old1 new1,
        terms2 := List.zipWith (fun l v => addLanes l (128 * cb) v) old2 new2 }
      let old := (chunksOf 2 128 (x.words aux 256)).map fun p => Pair.mk (p.getD 0 0) (p.getD 1 0)
      let terms := List.zipWith (List.zipWith mul32) dy xh
      let pairs := old.zipIdx.map fun p => addGain (kcFirst w) p.1 (terms.map fun r => r.getD p.2 0)
      { state := s.openSlot t n k slot,
        writes := [VecWrite.words (opD y w) dy.flatten, VecWrite.words aux (pairs.flatMap fun p => [p.s, p.e])] }) s

/-- One element of dx (R105): (μ, r), the row terms, x, g, dy. -/
def dxElem (ln : Bool) (invn : Nat) (st : Nat × Nat) (s1 s2 x g dy : Nat) : Nat :=
  let r := st.2
  let h := mul32 g dy
  if ln then
    let t1 := sub32 h (mul32 s1 invn)
    let t2 := fma32 (neg32 (xhat st x)) (mul32 s2 invn) t1
    mul32 r t2
  else
    let b := mul32 (mul32 r r) r
    let k' := mul32 (mul32 b s1) invn
    fma32 (neg32 x) k' (mul32 r h)

/-- NORM_BWD_FIN: dx of one block; the last block of the row closes the slot. -/
def ruleNormBwdFin : Rule := fun t n w s =>
  let y := s.stream t n
  let k13 := y.kr kROWLEN
  let cb := y.kr kCOLBLK
  let fmt := s.saveFmt y
  let ln := kcNorm w == 1
  let k := kcSlot w
  let aux := y.kr kAUX
  if !kernelFieldsOk w false true true true false true || !rowLenOk k13 || decide (k13 / 128 ≤ cb) || !y.kmodeOk then
    .fault cFIELD
  else
    let rd := [(opA y w, fmtSectors fmt 16384), (opB y w, 1024), (y.kr kSTATS, 16), (y.kr kGAIN, k13 / 16)]
      ++ (if aux = noAux then [] else [(aux, 1024)])
    vecIssue t n rd [(opD y w, fmtSectors y.kfmt 16384)] [] (kslotGate t n k false) (fun s =>
      let x := s.tile t
      let dy := x.blockRows 4 (opB y w)
      let xs := x.blockRows fmt (opA y w)
      let st := x.statRows (y.kr kSTATS)
      let g := ((x.words (y.kr kGAIN) k13).drop (128 * cb)).take 128
      let slot := x.kslot k
      let res := if aux = noAux then [] else x.blockRows 4 aux
      let rows := (List.range 128).map fun i =>
        let s1 := lanesSum (slot.terms1.getD i [])
        let s2 := lanesSum (slot.terms2.getD i [])
        let dx := List.zipWith (fun v e => dxElem ln (y.kr kINVN) (st.getD i (0, 0)) s1 s2 v e.1 e.2)
          (xs.getD i []) (g.zip (dy.getD i []))
        if aux = noAux then dx else List.zipWith add32 dx (res.getD i [])
      { state := if cb = k13 / 128 - 1 then s.closeSlot t k else s,
        writes := [VecWrite.block (opD y w) y.kfmt y.kovf rows] }) s

/-- GAINOUT (R106, R151, R154). -/
def ruleGainout : Rule := fun t n w s =>
  let y := s.stream t n
  let k13 := y.kr kROWLEN
  let first := bitsOf w 39 16 + y.xr (bitsOf w 43 40)
  let segs := (List.range ((k13 + 16383) / 16384)).map (first + ·)
  if !onlyBits [(43, 16)] w || !rowLenOk k13 then .fault cFIELD
  else
    let rd := [(y.kr kAUX, k13 / 8)]
    let c := segmentCode t segs s
    if c ≠ 0 then .fault c
    else if addrCode rd true ≠ 0 then .fault (addrCode rd true)
    else
      reserved t n (rd.map sramSpan) [] s fun s =>
        let x := s.tile t
        if s.on (F.TILE_VEC_STATUS_BUSY t) then .wait 5
        else if (firstBad x.badSectors (y.kr kAUX) (k13 / 8)).isSome then .fault cSRAM
        else
          let vals := (chunksOf 2 k13 (x.words (y.kr kAUX) (2 * k13))).map fun p => (Pair.mk (p.getD 0 0) (p.getD 1 0)).final
          let v := VecWrite.words 0 vals
          let s := (s.counted y.layer y.oper v.tally (v.trap t n y 2 first)).nameSegments segs
          let all := wordsOf v.bytes ++ List.replicate (16384 * segs.length - k13) 0
          let (s, code) := (segs.zip (chunksOf 16384 segs.length all)).foldl (fun r e =>
            if r.2 = 0 then r.1.writeSegment t e.1 e.2 else r) (s, 0)
          if code ≠ 0 then .broke s cTRANSFER
          else
            .flies (s.set (F.TILE_VEC_STATUS_BUSY t) 1)
              { rd := rd.map sramSpan, written := some (wordBytes all),
                post := .vectorDone [] 0 :: segs.map fun k => .segmentRelease k s.workAttempt }

/-! Attention (R107 to R115). -/

/-- Whether an element is masked (R108). -/
def masked (mask qbase kbase : Nat) (qdoc kdoc : List Nat) (row col : Nat) : Bool :=
  let later := decide (qbase + row < kbase + col)
  if mask = 1 then later
  else if mask = 2 then later || qdoc.getD row 0 != kdoc.getD col 0
  else false

/-- Whether the block's positions stay below 2^32 (R108). -/
def positionsOk (y : Stream) : Bool := decide (y.kr kQBASE + 127 < 2 ^ 32) && decide (y.kr kKBASE + 127 < 2 ^ 32)

/-- The document identifier arrays that MASK 2 reads: those of the block's rows and columns (log entry 79). -/
def docSpans (y : Stream) (w : Nat) : List (Nat × Nat) := if kcMask w = 2 then [(y.kr kQDOC, 4), (y.kr kKDOC, 4)] else []
def Tile.docs (x : Tile) (sector : Nat) : List Nat := (chunksOf 2 128 (x.readSram (64 * sector) 256)).map leNat

/-- The mask of a block, row by row. -/
def Tile.maskRows (x : Tile) (y : Stream) (w : Nat) : List (List Bool) :=
  let q := if kcMask w = 2 then x.docs (y.kr kQDOC) else []
  let k := if kcMask w = 2 then x.docs (y.kr kKDOC) else []
  (List.range 128).map fun r => (List.range 128).map fun c => masked (kcMask w) (y.kr kQBASE) (y.kr kKBASE) q k r c

/-- One row of ATTN_P (R109): the record, α of the earlier record, and p. An unmasked +∞ or NaN makes the record NaN (R112). -/
def attnRow (o : Online) (sc : List Nat) (mk : List Bool) : Online × Option Nat × List Nat :=
  let live := ((sc.zip mk).filter fun e => !e.2).map (·.1)
  let broken := live.any fun v => v == 0x7F800000 || isNaN32 v
  let m := max32 o.m (rowMax32 live)
  let nm := negMax32 m
  let p := List.zipWith (fun z k => if k then 0 else expRel32 z nm) sc mk
  let q := rowSumPair p
  let r := o.combine ⟨m, q.s, q.e, 0⟩
  (if broken then { r.1 with m := nan32, ls := nan32, le := nan32 } else r.1, r.2, p)

/-- The α kept for a row, or a free value where R101 forms none (log entry 6). -/
def State.alphaOr (s : State) (i : Nat) (a : Option Nat) : Nat := a.getD (Config.freeWord (s.freeCount + i)).toNat
def State.tookFree (s : State) (k : Nat) : State := { s with freeCount := s.freeCount + k }

/-- ATTN_P (R109), in any OUT_FMT of K15 (log entry 79). -/
def ruleAttnP : Rule := fun t n w s =>
  let y := s.stream t n
  let k := kcSlot w
  if !kernelFieldsOk w true false false true true false || !y.kmodeOk || !positionsOk y then .fault cFIELD
  else
    vecIssue t n (docSpans y w) [(opD y w, fmtSectors y.kfmt 16384)] [kSsel w - 1] (kslotGate t n k (kcFirst w)) (fun s =>
      let x := s.tile t
      let slot := if kcFirst w then KSlot.opened (List.replicate 128 Online.opened) else x.kslot k
      let sc := chunksOf 128 128 (x.scoreWords (kSsel w - 1))
      let mk := x.maskRows y w
      let res := (List.range 128).map fun i => attnRow (slot.recs.getD i Online.opened) (sc.getD i []) (mk.getD i [])
      let slot := { slot with recs := res.map (·.1), alpha := res.zipIdx.map fun e => s.alphaOr e.2 e.1.2.1 }
      { state := (s.tookFree 128).openSlot t n k slot,
        writes := [VecWrite.block (opD y w) y.kfmt y.kovf (res.map (·.2.2))], sfu := 16640 }) s

/-- ATTN_O (R110). -/
def ruleAttnO : Rule := fun t n w s =>
  let k := kcSlot w
  if !kernelFieldsOk w true false false false false false then .fault cFIELD
  else
    vecIssue t n [] [] [kSsel w - 1] (kslotGate t n k false) (fun s =>
      let x := s.tile t
      let slot := x.kslot k
      let o := if slot.firstO then List.replicate 16384 0 else slot.o
      let alpha := (List.range 128).map fun i => s.alphaOr i slot.alpha[i]?
      let o := (List.zipWith (fun a b => (a, b)) o (x.scoreWords (kSsel w - 1))).zipIdx.map fun e =>
        fma32 e.1.1 (alpha.getD (e.2 / 128) 0) e.1.2
      { state := (s.tookFree 128).setKslot t k { slot with o := o, firstO := false }, writes := [] }) s

/-- ATTN_FIN (R111), in any OUT_FMT of K15 (log entry 79). -/
def ruleAttnFin : Rule := fun t n w s =>
  let y := s.stream t n
  let k := kcSlot w
  if !kernelFieldsOk w false false false true false false || !y.kmodeOk then .fault cFIELD
  else
    vecIssue t n [] [(opD y w, fmtSectors y.kfmt 16384), (y.kr kSTATS, 16)] [] (kslotGate t n k false) (fun s =>
      let slot := (s.tile t).kslot k
      let rows := chunksOf 128 128 slot.o
      let res := (List.range 128).map fun i =>
        let r := slot.recs.getD i Online.opened
        if r.m = negInf32 then (List.replicate 128 0, [negInf32, 0])
        else
          let ρ := rcp32 (Pair.final ⟨r.ls, r.le⟩)
          ((rows.getD i []).map fun v => mul32 v ρ, [r.m, ρ])
      { state := s.closeSlot t k,
        writes := [VecWrite.block (opD y w) y.kfmt y.kovf (res.map (·.1)), VecWrite.words (y.kr kSTATS) (res.flatMap (·.2))],
        sfu := 128 }) s

/-- ATTN_DTERM (R113): dO and O in the saved form. -/
def ruleAttnDterm : Rule := fun t n w s =>
  let y := s.stream t n
  let fmt := s.saveFmt y
  if !kernelFieldsOk w false true true true false false then .fault cFIELD
  else
    vecIssue t n [(opA y w, fmtSectors fmt 16384), (opB y w, fmtSectors fmt 16384)] [(opD y w, 8)] [] noGate (fun s =>
      let x := s.tile t
      let d := List.zipWith (fun a b => rowSum32 (List.zipWith mul32 a b)) (x.blockRows fmt (opA y w)) (x.blockRows fmt (opB y w))
      { state := s, writes := [VecWrite.words (opD y w) d] }) s

/-- One element of ATTN_DS (R114): p and ds. -/
def dsElem (st : Nat × Nat) (d c sc dp : Nat) (mk : Bool) : Nat × Nat :=
  let p := if mk || st.1 == negInf32 then 0 else mul32 (expRel32 sc (negMax32 st.1)) st.2
  (p, mul32 (mul32 (sub32 dp d) p) c)

/-- A half that the kernel fills must not be the other stream's; its block waits there until the half is free (R114, R125). -/
def halfOwnGate (t n h : Nat) (s : State) : Option Verdict :=
  if s.g (halfStateF t h) = 0 ∨ ((s.tile t).half h).owner = some n then none else some (.fault cACC)

/-- The block that a kernel writes into a half. NUM_TRAP_WHERE gives a half no destination code, so the trap's destination is free (log
entry 6). -/
def halfBlock (t n h : Nat) (y : Stream) (free : Nat) (rows : List (List Nat)) : HalfFill :=
  let (b, tl) := quantBlock y.kfmt rows 128
  let v : VecWrite := { sector := 0, bytes := [], fmt := y.kfmt, ovf := y.kovf, vals := rows.flatten, tally := tl }
  let f := (Config.freeWord free).toNat
  ⟨h, b, tl, (v.trap t n y 1 0).map fun r => { r with dkind := f % 4, addr := f / 4 }⟩

/-- A block goes into its half where that is free; otherwise the instruction keeps it until then. -/
def State.fillNow (s : State) (t n : Nat) (y : Stream) (f : HalfFill) : State :=
  if s.g (halfStateF t f.half) = 0 then s.fillHalf t n y.layer y.oper f else s

/-- ATTN_DS (R114): p into half 0 and ds into half 1, each when that half is free; an OUT_FMT that is no
scaled form faults (log entry 79). -/
def ruleAttnDs : Rule := fun t n w s =>
  let y := s.stream t n
  let slot := 2 * ((kSsel w - 1) / 2)
  if !kernelFieldsOk w true true false false true false || !y.kmodeOk || decide (4 ≤ y.kfmt) || !positionsOk y then .fault cFIELD
  else
    vecIssue t n ([(opA y w, 8)] ++ docSpans y w ++ [(y.kr kSTATS, 16)]) [] [slot, slot + 1]
      (fun s => halfOwnGate t n 0 s <|> halfOwnGate t n 1 s) (fun s =>
      let x := s.tile t
      let sc := chunksOf 128 128 (x.scoreWords slot)
      let dp := chunksOf 128 128 (x.scoreWords (slot + 1))
      let st := x.statRows (y.kr kSTATS)
      let d := x.words (opA y w) 128
      let mk := x.maskRows y w
      let res := (List.range 128).map fun i =>
        List.zipWith (fun a b => dsElem (st.getD i (0, 0)) (d.getD i 0) (y.kr kCONST) a b.1 b.2)
          (sc.getD i []) ((dp.getD i []).zip (mk.getD i []))
      let p := halfBlock t n 0 y s.freeCount (res.map fun r => r.map (·.1))
      let ds := halfBlock t n 1 y (s.freeCount + 1) (res.map fun r => r.map (·.2))
      { state := ((s.tookFree 2).fillNow t n y p).fillNow t n y ds, writes := [], sfu := 16384, post := [.halfLoaded 0, .halfLoaded 1],
        fills := [p, ds].filter fun f => s.g (halfStateF t f.half) != 0 }) s

/-! Loss (R116 to R118). -/

def noTarget : Nat := 0xFFFFFFFF

/-- One row of XENT_BLK: the record after the block. -/
def xentRow (vocab target m : Nat) (z : List Nat) (o : Online) : Online :=
  let nm := negMax32 m
  let q := rowSumPair (z.map fun v => expRel32 v nm)
  let r := (o.combine ⟨m, q.s, q.e, 0⟩).1
  if vocab ≤ target ∧ target < vocab + 128 ∧ target ≠ noTarget then { r with t := z.getD (target - vocab) 0 } else r

/-- XENT_BLK (R116). -/
def ruleXentBlk : Rule := fun t n w s =>
  let y := s.stream t n
  let k := kcSlot w
  if !kernelFieldsOk w true true false true false false then .fault cFIELD
  else
    vecIssue t n [(opA y w, 32), (y.kr kTARGETS, 8)] [(opD y w, 1024)] [kSsel w - 1] (kslotGate t n k (kcFirst w)) (fun s =>
      let x := s.tile t
      let tg := x.words (y.kr kTARGETS) 128
      let slot := if kcFirst w
        then KSlot.opened (tg.map fun e => { Online.opened with t := if e = noTarget then 0 else nan32 }) else x.kslot k
      let z := x.scoreWords (kSsel w - 1)
      let stats := x.readSram (64 * opA y w) 2048
      let recs := (chunksOf 128 128 z).zipIdx.map fun r =>
        xentRow (y.kr kVOCAB) (tg.getD r.2 0) (leAt stats (16 * r.2) 4) r.1 (slot.recs.getD r.2 Online.opened)
      { state := s.openSlot t n k { slot with recs := recs }, writes := [VecWrite.words (opD y w) z], sfu := 16640 }) s

/-- One row of XENT_GRAD (R118). -/
def xentGradRow (vocab target scale : Nat) (o : Online) (z : List Nat) : List Nat :=
  if target = noTarget then z.map fun _ => 0
  else
    let ρ := rcp32 (Pair.final ⟨o.ls, o.le⟩)
    let nm := negMax32 o.m
    z.zipIdx.map fun e => mul32 (sub32 (mul32 (expRel32 e.1 nm) ρ) (flag32 (vocab + e.2 == target))) scale

/-- XENT_GRAD (R118), in any OUT_FMT of K15 (log entry 79). -/
def ruleXentGrad : Rule := fun t n w s =>
  let y := s.stream t n
  let k := kcSlot w
  if !kernelFieldsOk w false true false true false false || !y.kmodeOk then .fault cFIELD
  else
    vecIssue t n [(opA y w, 1024), (y.kr kTARGETS, 8)] [(opD y w, fmtSectors y.kfmt 16384)] [] (kslotGate t n k false) (fun s =>
      let x := s.tile t
      let tg := x.words (y.kr kTARGETS) 128
      let rows := (x.blockRows 4 (opA y w)).zipIdx.map fun r =>
        xentGradRow (y.kr kVOCAB) (tg.getD r.2 0) (y.kr kSCALE) ((x.kslot k).recs.getD r.2 Online.opened) r.1
      { state := s, writes := [VecWrite.block (opD y w) y.kfmt y.kovf rows], sfu := 16512 }) s

/-- The records of a slot as they are written: m, l_s and l_e count; the NaN that marks a target not yet met in t does not (R116). -/
def recordWrite (sector : Nat) (recs : List Online) : VecWrite :=
  let v := VecWrite.words sector (recs.flatMap fun o => [o.m, o.ls, o.le, o.t])
  { v with tally := v.tally.zipIdx.map fun e => if e.2 % 4 = 3 ∧ e.1 = .nonFinite then .none else e.1 }

/-- KSTORE (R112, R154). -/
def ruleKstore : Rule := fun t n w s =>
  let y := s.stream t n
  let k := bitsOf w 16 16
  let a := sramOp y w 17
  if !onlyBits [(37, 16)] w then .fault cFIELD
  else
    vecIssue t n [] [(a, 32)] [] (kslotGate t n k false) (fun s =>
      let recs := ((s.tile t).kslot k).recs
      { state := s, writes := [recordWrite a ((List.range 128).map fun i => recs.getD i Online.opened)] }) s

/-- KLOAD (R154). -/
def ruleKload : Rule := fun t n w s =>
  let y := s.stream t n
  let k := bitsOf w 16 16
  let a := sramOp y w 17
  if !onlyBits [(37, 16)] w then .fault cFIELD
  else
    vecIssue t n [(a, 32)] [] [] (fun s => if s.on (slotOpenF t k) then some (.fault cACC) else none) (fun s =>
      let l := (s.tile t).readSram (64 * a) 2048
      { state := s.openSlot t n k (KSlot.opened ((chunksOf 16 128 l).map onlineOf)), writes := [] }) s

/-- The loss of a row (R117). -/
def lossOf (o : Online) : Nat := sub32 (add32 o.m (mul32 (log2_32 (Pair.final ⟨o.ls, o.le⟩)) cLN2)) o.t

/-- XENT_LOSS (R117, R154): the pair and the count of the stream, and 8 bytes at AUX. -/
def ruleXentLoss : Rule := fun t n w s =>
  let y := s.stream t n
  let k := kcSlot w
  if !onlyBits [(47, 16)] w || !kcRsvdOk w then .fault cFIELD
  else
    vecIssue t n [(y.kr kTARGETS, 8)] [(y.kr kAUX, 1)] [] (kslotGate t n k false) (fun s =>
      let x := s.tile t
      let tg := x.words (y.kr kTARGETS) 128
      let losses := ((x.kslot k).recs.zip tg).filterMap fun e => if e.2 = noTarget then none else some (lossOf e.1)
      let p0 := if kcFirst w then none else y.lossPair
      let p := match p0 with
        | none => Pair.ofList losses
        | some p => some (losses.foldl Pair.add p)
      let count := ((if kcFirst w then 0 else y.lossCount) + losses.length) % 2 ^ 32
      let v := VecWrite.words (y.kr kAUX) [(p.map Pair.final).getD 0]
      { state := (s.closeSlot t k).setStream t n fun y => { y with lossPair := p, lossCount := count },
        writes := [{ v with bytes := v.bytes ++ leBytes 4 count }], sfu := losses.length }) s

end Sys2Proof.Machine
end

