-- ==== Sys2Proof/Machine/TileIssue.lean ====
section
/-!
DEFINITION. The issue of tile instructions: which stream is ready, the arbiter between them, and one meaning for each instruction (spec
05_tile_instruction_streams.md R122, R123, R126, R135, R156, R159).
-/
namespace Sys2Proof.Machine

/-- The rule of an opcode other than END. -/
def ruleOf (op : Nat) : Option Rule :=
  [(0x00, ruleNop), (0x02, ruleTag), (0x03, ruleWait), (0x04, ruleSignal), (0x05, ruleXadd), (0x06, ruleXget), (0x07, ruleBnz), (0x08, ruleKset),
   (0x10, ruleLd), (0x11, ruleSt), (0x12, ruleGld), (0x13, ruleGst), (0x14, ruleHostld), (0x15, ruleHostst), (0x16, rulePref),
   (0x18, ruleSend), (0x19, ruleRecv), (0x1A, ruleFree),
   (0x20, ruleSload), (0x21, ruleGbload), (0x22, ruleMpass), (0x23, ruleOuset), (0x24, ruleOufin), (0x25, ruleOusave),
   (0x26, ruleOurestore), (0x27, ruleChainout), (0x28, ruleChainin), (0x29, ruleGradout), (0x30, ruleVop),
   (0x40, ruleNormFwd), (0x41, ruleNormBwdAcc), (0x42, ruleNormBwdFin), (0x43, ruleAttnP), (0x44, ruleAttnO), (0x45, ruleAttnFin),
   (0x46, ruleAttnDterm), (0x47, ruleAttnDs), (0x48, ruleXentBlk), (0x49, ruleXentGrad), (0x4A, ruleKstore), (0x4B, ruleKload),
   (0x4C, ruleGainout), (0x4D, ruleXentLoss)].lookup op


/-! Readiness and the arbiter (R123, R159). -/

def Verdict.waits : Verdict → Bool
  | .wait _ => true
  | _ => false

/-- Whether an attempt issues the instruction: it neither waits nor fails a check. -/
def Verdict.issues : Verdict → Bool
  | .wait _ => false
  | .fault _ => false
  | _ => true

/-- Whether a stream is at an instruction that it still has to issue. -/
def State.atIssue (s : State) (t n : Nat) : Bool :=
  s.seqState t n == seqISSUING || (s.seqState t n == seqSTALLED && s.g (F.TILE_SEQ_STATUS_STALL t n) != 7)

/-- What the rule of a stream's next instruction answers now; none for END and for an opcode that is not in R135's table. -/
def State.verdict (s : State) (t n : Nat) : Option Verdict :=
  (ruleOf (opOf (s.nextWord t n))).map fun rule => rule t n (s.nextWord t n) s

/-- Whether a stream can issue: nothing holds its next instruction (R159). -/
def State.canIssue (s : State) (t n : Nat) : Bool := s.tilesRun && s.atIssue t n && !(s.verdict t n).elim false Verdict.waits

/-- Whether both streams are ready to issue instructions that claim a common resource (R123). -/
def State.contested (s : State) (t n : Nat) : Bool :=
  let o := 1 - n
  (resources (s.nextWord t n)).any (fun r => (resources (s.nextWord t o)).contains r)
    && s.atIssue t o && (s.verdict t o).elim false Verdict.issues

/-- Whether the arbiter grants stream `n` (R123): in a contested cycle the backward stream wins, except after four
contested grants in a row. -/
def State.granted (s : State) (t n : Nat) : Bool :=
  !s.contested t n || (if (s.tile t).run = 4 then n == 0 else n == 1)

/-- The run of contested grants after a grant, contested or not (R123). -/
def State.grant (s : State) (t n : Nat) (contested : Bool) : State :=
  if contested then s.setTile t fun x => { x with run := if n = 0 then 0 else x.run + 1 } else s

/-- The verdict on the instruction before a stream carried out. -/
def State.carry (s : State) (t n w : Nat) (v : Verdict) : State :=
  let c := s.contested t n
  let y := s.stream t n
  match v with
  | .fault c => s.tileFault t n c
  | .wait r => s.stall t n r
  | .done s' => ((s'.grant t n c).event t (evtOf w)).advance t n y.layer y.oper
  | .jump s' pc =>
    ((((s'.grant t n c).event t (evtOf w)).inc (F.TILE_SEQ_ISSUED_ISSUED t n)).seqTo t n seqISSUING).setPc t n pc
  | .flies s' j => ((s'.grant t n c).launch t n w j).advance t n y.layer y.oper
  | .broke s' code => (s'.grant t n c).tileFault t n code

/-- An attempt to issue by a rule: an instruction that waits or fails a check claims nothing; one that could issue does so under the
arbiter's grant, and otherwise stalls for it. -/
def State.attempt (s : State) (rule : Rule) (t n : Nat) : State :=
  let w := s.nextWord t n
  let v := rule t n w s
  if v.issues && !s.granted t n then s.stall t n 0 else s.carry t n w v

/-- The issue of a tile instruction of opcode `op` on a stream that is ISSUING: its opcode first (R156), then its own rule and the
arbiter. A stream whose next opcode is not in R135's table faults under any of these commands. -/
def issueOp (op : Nat) (rule : Rule) (t n : Nat) (bad : List Nat) (s : State) : Res :=
  let w := s.nextWord t n
  act (s.tileMayIssue t && s.seqState t n == seqISSUING && (opOf w == op || !opKnown (opOf w))) s fun s =>
    let s := s.upset t bad
    if !opKnown (opOf w) then s.tileFault t n cOPCODE else s.attempt rule t n

def execNop (t n : Nat) (bad : List Nat) (s : State) : Res := issueOp 0x00 ruleNop t n bad s
def execTag (t n : Nat) (bad : List Nat) (s : State) : Res := issueOp 0x02 ruleTag t n bad s
def execWait (t n : Nat) (bad : List Nat) (s : State) : Res := issueOp 0x03 ruleWait t n bad s
def execSignal (t n : Nat) (bad : List Nat) (s : State) : Res := issueOp 0x04 ruleSignal t n bad s
def execXadd (t n : Nat) (bad : List Nat) (s : State) : Res := issueOp 0x05 ruleXadd t n bad s
def execXget (t n : Nat) (bad : List Nat) (s : State) : Res := issueOp 0x06 ruleXget t n bad s
def execBnz (t n : Nat) (bad : List Nat) (s : State) : Res := issueOp 0x07 ruleBnz t n bad s
def execKset (t n : Nat) (bad : List Nat) (s : State) : Res := issueOp 0x08 ruleKset t n bad s
def execLd (t n : Nat) (bad : List Nat) (s : State) : Res := issueOp 0x10 ruleLd t n bad s
def execSt (t n : Nat) (bad : List Nat) (s : State) : Res := issueOp 0x11 ruleSt t n bad s
def execGld (t n : Nat) (bad : List Nat) (s : State) : Res := issueOp 0x12 ruleGld t n bad s
def execGst (t n : Nat) (bad : List Nat) (s : State) : Res := issueOp 0x13 ruleGst t n bad s
def execHostld (t n : Nat) (bad : List Nat) (s : State) : Res := issueOp 0x14 ruleHostld t n bad s
def execHostst (t n : Nat) (bad : List Nat) (s : State) : Res := issueOp 0x15 ruleHostst t n bad s
def execPref (t n : Nat) (bad : List Nat) (s : State) : Res := issueOp 0x16 rulePref t n bad s
def execSend (t n : Nat) (bad : List Nat) (s : State) : Res := issueOp 0x18 ruleSend t n bad s
def execRecv (t n : Nat) (bad : List Nat) (s : State) : Res := issueOp 0x19 ruleRecv t n bad s
def execFree (t n : Nat) (bad : List Nat) (s : State) : Res := issueOp 0x1A ruleFree t n bad s
def execOusave (t n : Nat) (bad : List Nat) (s : State) : Res := issueOp 0x25 ruleOusave t n bad s
def execOurestore (t n : Nat) (bad : List Nat) (s : State) : Res := issueOp 0x26 ruleOurestore t n bad s
def execChainout (t n : Nat) (bad : List Nat) (s : State) : Res := issueOp 0x27 ruleChainout t n bad s
def execChainin (t n : Nat) (bad : List Nat) (s : State) : Res := issueOp 0x28 ruleChainin t n bad s
def execSload (t n : Nat) (bad : List Nat) (s : State) : Res := issueOp 0x20 ruleSload t n bad s
def execGbload (t n : Nat) (bad : List Nat) (s : State) : Res := issueOp 0x21 ruleGbload t n bad s
def execMpass (t n : Nat) (bad : List Nat) (s : State) : Res := issueOp 0x22 ruleMpass t n bad s
def execOuset (t n : Nat) (bad : List Nat) (s : State) : Res := issueOp 0x23 ruleOuset t n bad s
def execOufin (t n : Nat) (bad : List Nat) (s : State) : Res := issueOp 0x24 ruleOufin t n bad s
def execGradout (t n : Nat) (bad : List Nat) (s : State) : Res := issueOp 0x29 ruleGradout t n bad s
def execVop (t n : Nat) (bad : List Nat) (s : State) : Res := issueOp 0x30 ruleVop t n bad s
def execNormFwd (t n : Nat) (bad : List Nat) (s : State) : Res := issueOp 0x40 ruleNormFwd t n bad s
def execNormBwdAcc (t n : Nat) (bad : List Nat) (s : State) : Res := issueOp 0x41 ruleNormBwdAcc t n bad s
def execNormBwdFin (t n : Nat) (bad : List Nat) (s : State) : Res := issueOp 0x42 ruleNormBwdFin t n bad s
def execAttnP (t n : Nat) (bad : List Nat) (s : State) : Res := issueOp 0x43 ruleAttnP t n bad s
def execAttnO (t n : Nat) (bad : List Nat) (s : State) : Res := issueOp 0x44 ruleAttnO t n bad s
def execAttnFin (t n : Nat) (bad : List Nat) (s : State) : Res := issueOp 0x45 ruleAttnFin t n bad s
def execAttnDterm (t n : Nat) (bad : List Nat) (s : State) : Res := issueOp 0x46 ruleAttnDterm t n bad s
def execAttnDs (t n : Nat) (bad : List Nat) (s : State) : Res := issueOp 0x47 ruleAttnDs t n bad s
def execXentBlk (t n : Nat) (bad : List Nat) (s : State) : Res := issueOp 0x48 ruleXentBlk t n bad s
def execXentGrad (t n : Nat) (bad : List Nat) (s : State) : Res := issueOp 0x49 ruleXentGrad t n bad s
def execKstore (t n : Nat) (bad : List Nat) (s : State) : Res := issueOp 0x4A ruleKstore t n bad s
def execKload (t n : Nat) (bad : List Nat) (s : State) : Res := issueOp 0x4B ruleKload t n bad s
def execGainout (t n : Nat) (bad : List Nat) (s : State) : Res := issueOp 0x4C ruleGainout t n bad s
def execXentLoss (t n : Nat) (bad : List Nat) (s : State) : Res := issueOp 0x4D ruleXentLoss t n bad s

/-- END has its own way past issue: its stream issues nothing more. -/
def execEndStream (t n : Nat) (bad : List Nat) (s : State) : Res :=
  let w := s.nextWord t n
  act (s.tileMayIssue t && s.seqState t n == seqISSUING && (opOf w == 0x01 || !opKnown (opOf w))) s fun s =>
    let s := s.upset t bad
    if !opKnown (opOf w) then s.tileFault t n cOPCODE
    else if !onlyBits [] w then s.tileFault t n cFIELD
    else s.endIssue t n w

/-- A WAIT whose condition has come to hold completes, and its stream goes on (R132, R158: not after an abort boundary). -/
def execWaitRelease (t n : Nat) (bad : List Nat) (s : State) : Res :=
  let w := s.nextWord t n
  act (s.tileMayIssue t && s.seqState t n == seqSTALLED && s.g (F.TILE_SEQ_STATUS_STALL t n) == 2 && opOf w == 3
      && waitHolds t w s) s fun s =>
    ((s.upset t bad).event t (evtOf w)).advance t n (s.stream t n).layer (s.stream t n).oper

/-- An instruction held at issue is tried again (R126): it issues, faults by a check made after its wait (R156), or stays
held. A WAIT and an END are released by their own commands. -/
def execStalledIssue (t n : Nat) (bad : List Nat) (s : State) : Res :=
  let w := s.nextWord t n
  let r := s.g (F.TILE_SEQ_STATUS_STALL t n)
  act (s.tileMayIssue t && s.seqState t n == seqSTALLED && r != 2 && r != 7) s fun s =>
    let s := s.upset t bad
    match ruleOf (opOf w) with
    | some rule => s.attempt rule t n
    | none => s

end Sys2Proof.Machine
end

