-- ==== Sys2Proof/Machine/Power.lean ====
section
/-!
DEFINITION. Supply, tile and cluster states, the power budget, the thermal engine and bond wear (spec
15_power_clocks_thermal.md R454 to R483, 18_physical_interface.md R526 to R530).
-/
namespace Sys2Proof.Machine

def State.setPower (s : State) (f : PowerCtl → PowerCtl) : State := { s with power := f s.power }
def State.clock (s : State) (k : Nat) : Option ClockPlan := s.plan.bind fun p => p.clocks[k]?
def State.fmin (s : State) (k : Nat) : Nat := (s.clock k).elim 10 (·.fmin)
def State.fmax (s : State) (k : Nat) : Nat := (s.clock k).elim 30 (·.fmax)

/-! Clearing what a unit loses. -/

/-- The TILE domain of a tile at its reset values (R11). -/
def State.clearTile (s : State) (t : Nat) : State :=
  let a := 0x1000000 + t * 0x10000
  (s.resetRange [.tile] a (a + 0x10000)).setTile t fun _ => Tile.init

/-- A layer's contents lost, and later written with zero (R457). -/
def Memory.dropLayer (m : Memory) (c l : Nat) : Memory :=
  let lost (a : Nat) : Bool := dpaCol a == c && dpaLayer a == l && decide (a < 2 ^ 40)
  { cells := m.cells.filter fun e => !lost e.1, bad := m.bad.filter fun k => !lost (64 * k),
    weak := m.weak.filter fun e => !lost (64 * e.1) }

/-! Tile and PLL states (R462 to R465). -/

/-- Whether neither stream can issue and nothing is in flight (R159). -/
def State.tileQuiet (s : State) (t : Nat) : Bool :=
  (s.tile t).flights.isEmpty && [0, 1].all fun n => !s.canIssue t n

/-- Whether something wakes a tile (R159, R464): a stream of it can issue, or a message for it is on the mesh. -/
def State.wakeDue (s : State) (t : Nat) : Bool := s.canIssue t 0 || s.canIssue t 1 || s.mesh.any fun m => m.dstTile == t

/-- A tile enters a state; IDLE and SLEEP are entered at the fabric time kept. -/
def State.enterTile (s : State) (t p : Nat) : State := (s.setTilePower t p).setTile t fun x => { x with since := s.time }

/-- Whether a tile has stayed in its state for SLEEP_AFTER ticks of 40 ns. -/
def State.stayed (s : State) (t : Nat) : Bool :=
  decide ((s.tile t).since + 40 * ((s.clock (t / 8)).elim 0 (·.sleepAfter)) ≤ s.time)

/-- All eight tiles of a cluster are SLEEP or OFF. -/
def State.clusterAsleep (s : State) (k : Nat) : Bool := (List.range 8).all fun j => decide (tpSLEEP ≤ s.tilePower (8 * k + j))

/-- The PLL enters STANDBY where it may (R463). -/
def State.pllRest (s : State) (k : Nat) : State :=
  if s.clusterAsleep k && decide (1 ≤ (s.clock k).elim 2 (·.pllDeepest)) && s.g (F.PWR_CLU_PLL k) == 0 then s.set (F.PWR_CLU_PLL k) 1 else s

def execTileIdle (t : Nat) (s : State) : Res :=
  doIf (s.working && decide (t < 256) && s.tilePower t == tpRUN && s.tileQuiet t) s fun s => s.enterTile t tpIDLE

def execTileSleep (t : Nat) (s : State) : Res :=
  doIf (s.powered && decide (t < 256) && s.tilePower t == tpIDLE && s.stayed t && s.tileQuiet t && decide (1 ≤ (s.clock (t / 8)).elim 2 (·.tileDeepest))) s
    fun s => (s.enterTile t tpSLEEP).pllRest (t / 8)

/-- OFF: what the tile held is lost. Without a bitstream every tile is OFF. -/
def execTileOff (t : Nat) (s : State) : Res :=
  doIf (s.powered && decide (t < 256) && s.tilePower t == tpSLEEP && s.stayed t && (s.clock (t / 8)).elim 2 (·.tileDeepest) == 2) s
    fun s => ((s.clearTile t).setTilePower t tpOFF).pllRest (t / 8)

def execPllOff (k : Nat) (s : State) : Res :=
  doIf (s.powered && decide (k < 32) && s.g (F.PWR_CLU_PLL k) == 1 && s.clusterAsleep k && (s.clock k).elim 2 (·.pllDeepest) == 2) s
    fun s => s.set (F.PWR_CLU_PLL k) 2

/-- Whether a tile's supply can be brought up: a bitstream is in effect, its cluster's regulator is on, no reset runs. -/
def State.tileSupplied (s : State) (t : Nat) : Bool :=
  s.plan.isSome && !s.power.offClusters.contains (t / 8) && !s.on (F.CLU_CTRL_CLU_RESET (t / 8))

/-- A wake event of R159 or R464 for a tile: an IDLE one runs again, a deeper one asks for admission. -/
def execTileWake (t : Nat) (s : State) : Res :=
  doIf (s.working && decide (t < 256) && s.tilePower t != tpRUN && s.tileSupplied t && s.wakeDue t) s fun s =>
    if s.tilePower t = tpIDLE then s.setTilePower t tpRUN else s.wakeTile t

/-- At most 32 tiles admitted in a microsecond, in ascending tile number (R465). -/
def execWakeAdmission (s : State) : Res :=
  doIf s.powered s fun s =>
    let l := ((List.range 256).filter s.power.waiting.contains).take 32
    s.setPower fun w => { w with waiting := w.waiting.filter fun t => !l.contains t, admitted := w.admitted ++ l }

/-- An admitted tile is up. -/
def execTileWakeDone (t : Nat) (s : State) : Res :=
  doIf (s.powered && decide (t < 256) && s.power.admitted.contains t && s.tileSupplied t) s fun s =>
    (s.setPower fun w => { w with admitted := w.admitted.filter (· != t) }).setTilePower t tpRUN

/-! The power budget (R467 to R471). -/

/-- Floors in watts by class bit: RING, UPDATE, VENT, GEYSER, ARRAY. -/
def State.floors (s : State) : List Nat :=
  [s.g F.PWR_FLOORS_RING, s.g F.PWR_FLOORS_UPDATE, s.g F.PWR_FLOORS_VENT, s.g F.PWR_FLOORS_GEYSER, s.g F.PWR_FLOORS_ARRAY].map (10 * ·)

/-- Each class's floor, scaled down where the floors do not fit (R468 item 1). -/
def floorGrants (floors demand : List Nat) (a : Nat) : List Nat :=
  let l := List.zipWith min floors demand
  if a < l.sum then l.map fun x => x * a / l.sum else l

/-- The rest given in order, each up to its demand (R468 item 2). -/
def giveRest : Nat → List (Nat × Nat) → List Nat
  | _, [] => []
  | rest, (g, d) :: r => let x := min rest (d - g); (g + x) :: giveRest (rest - x) r

/-- The grants of a division; while the input is low or high, every class stays at its floor (R454). -/
def divide (limit fixed : Nat) (floors demand : List Nat) (hold : Bool) : List Nat :=
  let a := limit - fixed - 50
  let m := floorGrants floors demand a
  if hold then m else giveRest (a - m.sum) (m.zip demand)

/-- VCORE in mV for an arithmetic clock in steps of 100 MHz (R456). -/
def vcore (f : Nat) : Nat :=
  let seg (f0 a b : Nat) : Nat := roundUp ((5 * a + (b - a) * (f - f0) + 4) / 5) 5
  if f ≤ 15 then seg 10 550 620 else if f ≤ 20 then seg 15 620 690 else if f ≤ 25 then seg 20 690 770 else seg 25 770 850

/-- The highest step at which the predicted ARRAY power fits its grant (R469); the lowest where none does. -/
def arrayStep (demand grant : Nat) : Nat :=
  (((List.range 21).map fun k => 30 - k).find? fun f => decide (demand * f * vcore f ^ 2 ≤ grant * 30 * 850 ^ 2)).getD 10

/-- The common step at the clusters with a tile in RUN, within FMIN, FMAX and the thermal cap (R469). -/
def State.setStep (s : State) (f : Nat) : State :=
  (List.range 32).foldl (fun s k =>
    if (List.range 8).any fun j => s.tilePower (8 * k + j) == tpRUN
    then s.set (F.PWR_CLU_FREQ k) (min (s.g (F.PWR_CLU_CAP k)) (max (s.fmin k) (min (s.fmax k) f))) else s) s

/-- Grants put into effect; a class whose throttle changes makes a trace record (R506). -/
def State.applyGrants (s : State) (demand grants : List Nat) : State :=
  let s := ((grants.zip demand).zipIdx).foldl (fun s e =>
    let th := decide (e.1.1 < e.1.2)
    if (s.g F.PWR_STATUS_THROTTLED).testBit e.2 = th then s
    else (s.setBit F.PWR_STATUS_THROTTLED e.2 th).traceRec 4 e.2 e.1.1) s
  (s.setPower fun w => { w with demand := demand, grant := grants, duty := [8, 8, 8, 8, 8] }).setStep
    (arrayStep (demand.getD 4 0) (grants.getD 4 0))

/-- The hold of R454. -/
def State.inputHold (s : State) : Bool := s.on F.PWR_STATUS_INPUT_LOW || s.on F.PWR_STATUS_INPUT_HIGH

/-- A division, with what the controller has measured over the last 1 ms: FIXED power, the five classes' power and demand, the input
power in watts, the input voltage in units of 10 mV. -/
def execPowerDivision (fixed : Nat) (power demand : List Nat) (inputW inputV : Nat) (s : State) : Res :=
  doIf (s.powered && power.length == 5 && demand.length == 5) s fun s =>
    let s := s.setAll [(F.PWR_STATUS_INPUT_V, inputV), (F.PWR_STATUS_INPUT_W, inputW), (F.PWR_STATUS_FIXED, min 255 (fixed / 5)),
      (F.PWR_CLASS_POWER_RING, power.getD 0 0 / 10), (F.PWR_CLASS_POWER_UPDATE, power.getD 1 0 / 10), (F.PWR_CLASS_POWER_VENT, power.getD 2 0 / 10),
      (F.PWR_CLASS_POWER_GEYSER, power.getD 3 0 / 10), (F.PWR_CLASS_POWER_ARRAY, power.getD 4 0 / 10)]
    let s := s.setPower fun w => { w with fixed := fixed }
    s.applyGrants demand (divide (s.g F.PWR_LIMIT_WATTS) fixed s.floors demand s.inputHold)

/-- The first class, ARRAY first, that the fast loop can still lower: to a free value below what it leaves now (log entry 44). -/
def State.cutDuty (s : State) : State :=
  match [4, 3, 2, 1, 0].find? fun i => s.power.duty.getD i 0 != 0 with
  | none => s
  | some i =>
    let v := (Config.freeWord s.freeCount).toNat
    { s with freeCount := s.freeCount + 1, power := { s.power with duty := modifyAt (fun d => v % max 1 d) i s.power.duty } }

/-- The fast loop, with the input power of the last microsecond in watts (R470). -/
def execFastLoop (p : Nat) (s : State) : Res :=
  doIf s.powered s fun s =>
    let limit := s.g F.PWR_LIMIT_WATTS
    let e := if p ≤ limit then min (10000 * (5000 - limit)) (s.power.credit + (limit - p)) else s.power.credit - (p - limit)
    let above := if limit < p then s.power.above + 1 else 0
    let l := s.power.recent ++ [p]
    let recent := l.drop (l.length - 10)
    let s := s.setPower fun w => { w with credit := e, above := above, recent := recent }
    let s := (s.set F.PWR_STATUS_CREDIT (e / 1000)).set F.PWR_STATUS_ABOVE_LIMIT (bit (decide (limit < p)))
    let s := (List.range 5).foldl (fun s i => if (s.g F.PWR_STATUS_THROTTLED).testBit i then s.count 0x0070 i 1 else s) s
    if 5000 * recent.length < recent.sum ∨ 10000 ≤ above ∨ (e = 0 ∧ limit < p) then s.cutDuty else s

/-- A write of PWR_LIMIT by masters 1, 2 and 3 (R471). -/
def execPwrLimitWrite (m watts : Nat) (s : State) : Res :=
  doIf (s.fromMaster m && (m == 1 || m == 2 || m == 3) && decide (2000 ≤ watts) && decide (watts ≤ 4600)) s fun s => s.set F.PWR_LIMIT_WATTS watts

/-! The input (R454, R530). -/

/-- Every class at its floor. -/
def State.holdFloors (s : State) : State :=
  s.applyGrants s.power.demand (divide (s.g F.PWR_LIMIT_WATTS) s.power.fixed s.floors s.power.demand true)

/-- The input lies from 38 V up to 40 V; its voltage in units of 10 mV. -/
def execInputLow (v : Nat) (s : State) : Res :=
  doIf (s.powered && decide (3800 ≤ v) && decide (v < 4000)) s fun s =>
    ((s.setAll [(F.PWR_STATUS_INPUT_V, v), (F.PWR_STATUS_INPUT_LOW, 1), (F.PWR_STATUS_INPUT_HIGH, 0)]).logPwr 0x0901 0).holdFloors

/-- The input lies above 60 V up to 62 V. -/
def execInputHigh (v : Nat) (s : State) : Res :=
  doIf (s.powered && decide (6000 < v) && decide (v ≤ 6200)) s fun s =>
    ((s.setAll [(F.PWR_STATUS_INPUT_V, v), (F.PWR_STATUS_INPUT_HIGH, 1), (F.PWR_STATUS_INPUT_LOW, 0)]).logPwr 0x090D 0).holdFloors

/-- The input has stayed from 40 V to 60 V for 10 ms. -/
def execInputHoldEnd (s : State) : Res :=
  doIf (s.powered && s.inputHold) s fun s => (s.set F.PWR_STATUS_INPUT_LOW 0).set F.PWR_STATUS_INPUT_HIGH 0

/-- Loss of input: the bypasses close, a started record is completed, logic and refresh stop; THERM_TRIP# is released and PWR_OK
pulled low (R454, R528). -/
def State.loseInput (s : State) : State :=
  let s := (s.closeBypass 0).closeBypass 1
  { s with powered := false, pins := { s.pins with pwrOk := false, thermTrip := false, tripDue := false, lostDue := true } }

def execInputLost (s : State) : Res := doIf s.powered s State.loseInput
def execMateOpen (s : State) : Res :=
  doIf (!s.pins.mateOpen) s fun s => (if s.powered then s.loseInput else s : State) |> fun s => { s with pins := { s.pins with mateOpen := true } }

/-- SB_VREF falls below 1.5 V: PERST# counts as asserted (R526). -/
def execSbVrefLow (s : State) : Res :=
  doIf (!s.pins.vrefLow) s fun s =>
    let s := { s with pins := { s.pins with vrefLow := true } }
    if s.powered && !s.pins.perst then s.assertPerst else s

/-- Power-on (R454, R527): the nonvolatile store is read, everything else is as after reset, and an earlier loss of the input is
logged. `corrupt` tells that a committed record failed its CRC (R449). The straps give SB_ADDR1 and SB_ADDR0. -/
def execPowerOn (straps : Nat) (corrupt : Bool) (s : State) : Res :=
  doIf (!s.powered) s fun s =>
    let kept := Sparse.keep keptKey s.fld
    let stored := s.sec.stored.filter fun e => !keptKey e.1
    let fld := stored.foldl (fun l e => Sparse.ins e.1 e.2 (Sparse.del e.1 l)) kept
    let n := { State.reset with
      fld := fld, pending := s.pending, outbox := s.outbox, freeCount := s.freeCount
      sec := { SecCtl.init with
        slotA := s.sec.slotA, slotB := s.sec.slotB, keys := s.sec.keys, history := s.sec.history, stored := s.sec.stored }
      pins := { Pins.init with straps := straps % 4 } }
    let n := if s.pins.lostDue then n.logPwr 0x0902 0 else n
    if corrupt then n.logSec 0x0A0D 2 else n

/-! Regulators (R457). -/

/-- A cluster's tiles lose their state and its PLL its supply. -/
def State.clusterLost (s : State) (k : Nat) : State :=
  let s := (List.range 8).foldl (fun s j => (s.clearTile (8 * k + j)).setTilePower (8 * k + j) tpOFF) s
  (s.set (F.PWR_CLU_PLL k) 2).setPower fun w => { w with
    waiting := w.waiting.filter (· / 8 != k), admitted := w.admitted.filter (· / 8 != k) }

/-- Hops into a layer and above it marked failed (R164). -/
def State.failHops (s : State) (c l : Nat) : State :=
  (List.range (layersOf c)).foldl (fun s h => if l ≤ h + 1 then s.setBit (F.REG_COLSTATUS_HOP_FAILED c) h true else s) s

/-- A layer regulator off: at its second fault for good. -/
def State.layerFault (s : State) (c l : Nat) : State :=
  let k := c * 8 + l - 1
  let again := s.power.faulted.contains k
  let s := s.logPwr 0x090C (c * 2048 + l * 128)
  let s := { s with mem := s.mem.dropLayer c l }
  let s := s.setPower fun w => { w with
    offLayers := if w.offLayers.contains k then w.offLayers else w.offLayers ++ [k]
    faulted := if again then w.faulted else w.faulted ++ [k]
    dead := if again then w.dead ++ [k] else w.dead }
  let s := s.devReset rcREG false
  if again then s.failHops c l else s

/-- A regulator faults: `kind` 0 cluster `a`, 1 a hub regulator, 2 a photonic one, 3 that of layer `b` of column `a`. -/
def execRegulatorFault (kind a b : Nat) (s : State) : Res :=
  if kind = 0 then
    act (s.powered && decide (a < 32) && !s.power.offClusters.contains a) s fun s =>
      let s := (s.setPower fun w => { w with offClusters := w.offClusters ++ [a] }).logPwr 0x090C a
      (s.clusterLost a).recordFail 0x090C 0xFFFF
  else if kind = 3 then
    act (s.powered && decide (a ≤ 4) && decide (1 ≤ b) && decide (b ≤ layersOf a) && !s.power.dead.contains (a * 8 + b - 1)) s fun s =>
      s.layerFault a b
  else act (s.powered && decide (kind < 4)) s fun s => (s.logPwr 0x090C 0).devReset rcREG true

/-- The restarted regulator has held for 10 ms: the layer reads as zero, and the column serves requests again. -/
def execLayerRegulatorRecovered (c l : Nat) (s : State) : Res :=
  let k := c * 8 + l - 1
  act (s.powered && decide (1 ≤ l) && s.power.offLayers.contains k && !s.power.dead.contains k) s fun s =>
    ({ s with mem := s.mem.dropLayer c l }).setPower fun w => { w with offLayers := w.offLayers.filter (· != k) }

/-! Thermal states (R476 to R478). -/

def State.colState (s : State) (c : Nat) : Nat := s.g F.THM_STATUS_COLUMNS / 8 ^ c % 8
def State.setColState (s : State) (c v : Nat) : State :=
  if s.colState c = v then s
  else
    let x := s.g F.THM_STATUS_COLUMNS
    (s.set F.THM_STATUS_COLUMNS (x - x / 8 ^ c % 8 * 8 ^ c + v * 8 ^ c)).traceRec 5 c v

/-- Clusters of a column; none on the hub. -/
def clustersOf (c : Nat) : List Nat := if c < 4 then (List.range 8).map (8 * c + ·) else []

/-- A column's rate in eighths: `which` 0 vent or update duty, 1 geyser or ring pacing. -/
def State.rate (s : State) (c which : Nat) : Nat := Sparse.get 8 (2 * c + which) s.power.rates
def State.setRate (s : State) (c which v : Nat) : State := s.setPower fun w => { w with rates := Sparse.put 8 (2 * c + which) v w.rates }

/-- A cluster's cap, and its clock under it. -/
def State.setCap (s : State) (k v : Nat) : State :=
  (s.set (F.PWR_CLU_CAP k) v).set (F.PWR_CLU_FREQ k) (min v (s.g (F.PWR_CLU_FREQ k)))

/-- Caps at FMIN and rates at one eighth. -/
def State.minimumRates (s : State) (c : Nat) : State :=
  let s := (clustersOf c).foldl (fun s k => s.setCap k (s.fmin k)) s
  (s.setRate c 0 1).setRate c 1 1

/-- The place of the first node of a column at its limit plus `d`, as THM_SEL names it. -/
def State.hotNode (s : State) (c : Nat) (d : Int) : Nat :=
  let l := (List.range 64).flatMap fun r => (nodesOf c).map fun j => (r, j)
  ((l.find? fun e => decide (nodeLimit e.2 + d ≤ (s.node c e.1 e.2).est)).elim 0 fun e => e.2 * 128 + e.1) + c * 2048

/-- TRIP (R478, R528): the tiles and the hub lose their supply, the device resets; refresh goes on. -/
def State.trip (s : State) : State :=
  let s := { s with pins := { s.pins with thermTrip := true, tripDue := true } }
  s.mcReset.devReset rcTRIP true

/-- What the estimates of a column call for (R476): WARN, LIMIT and TRIP are entered at once, TRIP once until THERM_TRIP# is released. -/
def State.judge (s : State) (c : Nat) : State :=
  if s.nodeAt c 80 && !s.pins.thermTrip then s.trip
  else if s.nodeAt c 0 then
    let s := if s.colState c < 2 then (s.setColState c 2).logPwr 0x0905 (s.hotNode c 0) else s
    s.minimumRates c
  else if s.nodeAt c (-20) && s.colState c == 0 then (s.setColState c 1).logPwr 0x0904 (s.hotNode c (-20))
  else s

/-- A node has been held 10 °C above its limit for 1 ms (R477). -/
def execCriticalEntry (c : Nat) (s : State) : Res :=
  act (s.powered && decide (c ≤ 4) && s.nodeAt c 40 && decide (s.colState c < 3)) s fun s =>
    let s := ((s.setColState c 3).minimumRates c).logPwr 0x0906 (s.hotNode c 40)
    let s := (List.range 64).foldl (fun s j => if c < 4 then s.stopTile (64 * c + j) else s) s
    s.recordFail 0x0906 0xFFFF

/-- Every 10 ms in WARN. -/
def execWarnStep (c : Nat) (s : State) : Res :=
  doIf (s.powered && decide (c ≤ 4) && s.colState c == 1) s fun s =>
    let s := (clustersOf c).foldl (fun s k => s.setCap k (max (s.fmin k) (s.g (F.PWR_CLU_CAP k) - 1))) s
    (s.setRate c 0 (max 1 (s.rate c 0 - 1))).setRate c 1 (max 1 (s.rate c 1 - 1))

/-- Entry temperature of a state above a node's limit, in units of 0.25 °C. -/
def stateEntry (v : Nat) : Int := if v = 1 then -20 else if v = 2 then 0 else 40

/-- The state a column falls back to: the highest below its own that some node is not 2 °C below. -/
def State.relaxTo (s : State) (c : Nat) : Nat → Nat
  | 0 => 0
  | v + 1 => if s.nodeAt c (stateEntry (v + 1) - 7) then v + 1 else s.relaxTo c v

/-- 100 ms at least 2 °C below a state's entry: it is left; caps and rates rise one step. -/
def execColumnStateRelax (c : Nat) (s : State) : Res :=
  let v := s.colState c
  act (s.powered && decide (c ≤ 4) && (v == 0 || !s.nodeAt c (stateEntry v - 7))) s fun s =>
    let s := s.setColState c (s.relaxTo c (v - 1))
    let s := (clustersOf c).foldl (fun s k => s.set (F.PWR_CLU_CAP k) (min 30 (s.g (F.PWR_CLU_CAP k) + 1))) s
    (s.setRate c 0 (min 8 (s.rate c 0 + 1))).setRate c 1 (min 8 (s.rate c 1 + 1))

/-! The stack model (R472 to R475). -/

/-- The nodes of one region position after a sample: its sensors, the power of each node in units of 2^-16 W, the coolant. -/
def State.stackTick (s : State) (c r : Nat) (sensors powers : List Int) (coolant : Int) : State :=
  let n := layersOf c
  let old (j : Nat) : ThmNode := s.node c r j
  let seen (j : Nat) : Int := if j = n + 1 then coolant else if (old j).suspect then (old j).model else sensors.getD j 0
  let flow (j : Nat) : Int :=
    let q := (powers.take (j + 1)).foldl (· + ·) 0
    (old j).flow + (q - (old j).flow) / 20
  let drop (j : Nat) : Int := (Config.resistance c r j : Int) * flow j / 2 ^ 32
  (List.range (n + 1)).foldl (fun s j =>
    let u := seen (j + 1) + drop j
    let d := if j = 0 then 0 else seen (j - 1) - drop (j - 1)
    let m := if j = 0 then u else max u d
    let x := sensors.getD j 0
    let e := if (old j).suspect then m else max x m
    { s with thm := Sparse.put ThmNode.init (nodeKey c r j) ⟨x, u, d, m, e, flow j, (old j).suspect⟩ s.thm }) s

/-- The highest estimate of some nodes. -/
def State.hottest (s : State) (l : List (Nat × Nat × Nat)) : Int :=
  (l.map fun e => (s.node e.1 e.2.1 e.2.2).est).foldl max (-2048)

/-- Memory nodes of a column, and its logic nodes. -/
def memNodes (c : Nat) : List (Nat × Nat × Nat) :=
  (List.range 64).flatMap fun r => (List.range (layersOf c)).map fun j => (c, r, j + 1)
def logicNodes (c : Nat) : List (Nat × Nat × Nat) := (List.range 64).map fun r => (c, r, 0)

/-! Wear (R479 to R481). -/

/-- The damage that a half-cycle of amplitude `a` (0.25 °C) adds, in units of 2^-32, to the nearest (R480). -/
def damageOf (a : Nat) : Nat := (2 ^ 32 * a * a + 160 * 160 * 50000) / (2 * 160 * 160 * 50000)

def State.damaged (s : State) (c a : Nat) : State :=
  let old := s.g (F.THM_WEAR_DAMAGE_INDEX c)
  let new := old + damageOf a
  let s := s.set (F.THM_WEAR_DAMAGE_INDEX c) new
  let s := s.inc (if a < 80 then F.THM_WEAR_BINS01_BIN0 c else if a < 160 then F.THM_WEAR_BINS01_BIN1 c
    else if a < 240 then F.THM_WEAR_BINS23_BIN2 c else F.THM_WEAR_BINS23_BIN3 c)
  let store (s : State) : State := { s with sec := { s.sec with stored := Sparse.keep storedKey s.fld } }
  let s := if 10 * old < 7 * 2 ^ 32 ∧ 7 * 2 ^ 32 ≤ 10 * new then (store s).logPwr 0x0908 (c * 2048) else s
  if old < 2 ^ 32 ∧ 2 ^ 32 ≤ new then (store s).logPwr 0x0909 (c * 2048) else s

/-- A sample of the tracked temperature: a movement of 5 °C back from an extreme makes the extreme a reversal. -/
def State.wearSample (s : State) (c : Nat) (x : Int) : State :=
  let w := Sparse.get Wear.init c s.power.wear
  let put (s : State) (w : Wear) : State := s.setPower fun p => { p with wear := Sparse.put Wear.init c w p.wear }
  if !w.seen then put s ⟨x, x, true, true⟩
  else if (w.up && decide (w.ext ≤ x)) || (!w.up && decide (x ≤ w.ext)) then put s { w with ext := x }
  else if 20 ≤ (w.ext - x).natAbs then
    let a := (w.ext - w.last).natAbs
    let s := put s ⟨w.ext, x, !w.up, true⟩
    if 40 ≤ a then s.damaged c a else s
  else s

/-- One millisecond of the thermal engine at a column (R473, R474): sensors in units of 0.25 °C and powers in units of 2^-16 W by
region and node, and the coolant's inlet and outlet. -/
def execThermalTick (c : Nat) (sensors powers : List (List Int)) (inlet outlet : Int) (s : State) : Res :=
  act (s.powered && decide (c ≤ 4) && sensors.length == 64 && powers.length == 64) s fun s =>
    let s := (List.range 64).foldl (fun s r => s.stackTick c r (sensors.getD r []) (powers.getD r []) outlet) s
    let all (f : Nat → List (Nat × Nat × Nat)) : Nat := patternOf 12 (s.hottest ((List.range 5).flatMap f))
    let s := s.setAll [(F.THM_STATUS_MAX_LOGIC, all logicNodes), (F.THM_STATUS_MAX_MEMORY, all memNodes),
      (F.THM_STATUS_COOLANT_IN, patternOf 12 inlet), (F.THM_STATUS_COOLANT_OUT, patternOf 12 outlet)]
    let s := s.wearSample c (s.hottest (memNodes c))
    (s.judge c).releaseTrip

/-- Whether a node's sensor and model disagree by more than 6 °C. -/
def ThmNode.differs (x : ThmNode) : Bool := decide (24 < (x.sensor - x.model).natAbs)
def State.setNode (s : State) (c r j : Nat) (x : ThmNode) : State := { s with thm := Sparse.put ThmNode.init (nodeKey c r j) x s.thm }

/-- A disagreement has lasted 100 ms (R475). -/
def execSensorSuspect (c r j : Nat) (s : State) : Res :=
  let x := s.node c r j
  act (s.powered && decide (c ≤ 4) && decide (r < 64) && decide (j ≤ layersOf c) && x.differs && !x.suspect) s fun s =>
    ((s.setNode c r j { x with suspect := true, est := x.model }).inc F.THM_CTRL_SUSPECT_COUNT).logPwr 0x0903 (c * 2048 + j * 128 + r)

/-- THM_CTRL.SUSPECT_CLEAR. -/
def execSuspectClear (s : State) : Res :=
  doIf s.powered s fun s =>
    let clear (x : ThmNode) : ThmNode := if x.suspect && !x.differs then { x with suspect := false, est := max x.sensor x.model } else x
    let thm : Sparse ThmNode := s.thm.map fun e => (e.1, clear e.2)
    { s with thm := thm }.set F.THM_CTRL_SUSPECT_COUNT (thm.filter fun (e : Nat × ThmNode) => e.2.suspect).length

/-! Eyes (R482). -/

/-- THM_MARGIN_CTRL.START with COLUMN, by masters 1 and 2. -/
def execMarginStart (m c : Nat) (s : State) : Res :=
  act (s.fromMaster m && (m == 1 || m == 2)) s fun s =>
    if 4 < c ∨ s.power.margin.isSome ∨ !s.colResetOk c then (s.set F.THM_MARGIN_CTRL_CODE 0x090A).logPwr 0x090A (c % 8 * 2048)
    else (s.setAll [(F.THM_MARGIN_CTRL_COLUMN, c), (F.THM_MARGIN_CTRL_START, 1), (F.THM_MARGIN_CTRL_CODE, 0)]).setPower fun w =>
      { w with margin := some c }

/-- The measurement ends with the worst height, width and its region by hop. -/
def execMarginDone (eyes : List (Nat × Nat × Nat)) (s : State) : Res :=
  match s.power.margin with
  | none => .next s
  | some c =>
    act s.powered s fun s =>
      let s := (s.set F.THM_MARGIN_CTRL_START 0).setPower fun w => { w with margin := none }
      (List.range 8).foldl (fun s h =>
        let e := if h < layersOf c then eyes.getD h (0, 0, 0) else (0, 0, 0)
        let s := s.setAll [(F.THM_MARGIN_HEIGHT h, e.1), (F.THM_MARGIN_WIDTH h, e.2.1), (F.THM_MARGIN_REGION h, e.2.2)]
        if h < layersOf c ∧ e.1 < 20 then s.logPwr 0x090B (c * 2048 + (h + 1) * 128 + e.2.2) else s) s

end Sys2Proof.Machine
end

