-- ==== Sys2Proof/Machine/Views.lean ====
section
/-!
DEFINITION. What a register shows when it is read without a side effect (spec 17_register_map.md R514 to R523): its fields,
and the registers that show other state (log entry 20).
-/
namespace Sys2Proof.Machine

/-- Fields put together, those of a state. -/
def State.fieldSum (s : State) (l : List Fld) : Nat := (l.map fun f => s.g f * 2 ^ f.lo).sum

/-- The index of a member of a family of registers with one dimension. -/
def famIndex (base stride off : Nat) : Nat := (off - base) / stride

/-- A member of a family at `off`. -/
def inFamily (base n stride off : Nat) : Bool := decide (base ≤ off) && decide (off < base + n * stride) && (off - base) % stride == 0

/-- THM_NODE: the node that THM_SEL names (R472 to R475). -/
def State.thmNode (s : State) : Nat :=
  let c := s.g F.THM_SEL_COLUMN
  let j := s.g F.THM_SEL_NODE
  if 4 < c ∨ layersOf c < j then 0
  else
    let x := s.node c (s.g F.THM_SEL_REGION) j
    let t (v : Int) (lo : Nat) : Nat := patternOf 12 v * 2 ^ lo
    t x.sensor 52 + t x.model 40 + t x.est 28 + t x.up 16 + t x.down 4 + if x.suspect then 8 else 0

/-- A lane as RING_Pp_LANE_INFO shows it. -/
def State.laneInfo (s : State) (p : Nat) : Nat :=
  let x := s.lane p (s.g (F.RING_P_LANE_SEL_DIR p)) (s.g (F.RING_P_LANE_SEL_LANE p))
  x.state * 2 ^ 62 + x.power % 65536 * 2 ^ 32 + x.ser % 65536 * 2 ^ 16 + x.fails % 65536

/-- UPD_LATE_ENTRY (R351). -/
def State.lateEntry (s : State) : Nat :=
  match (s.plan.elim [] fun p => p.late)[s.g F.UPD_LATE_SEL_ENTRY]? with
  | none => 0
  | some e =>
    let n := s.pendingCount e.group
    2 ^ 31 + min n 5 * 2 ^ 28 + s.lateDelay e.group

/-- CFG_OWN_RESULT (R224). -/
def State.ownResult (s : State) : Nat :=
  let r := s.g F.CFG_OWN_SEL_RES
  let i := s.g F.CFG_OWN_SEL_INSTANCE
  match s.ownerOf r i with
  | none => 0
  | some e => (if s.claims.any fun c => c.res == r && c.inst == i then 2 ^ 31 else 0) + e.owner % 16 * 65536 + e.arg % 65536

/-- The key and the counts of the entry that NUM_SEL names: `which` 0 to 3 for WRITTEN, ZEROS, SATS and NONFINITE (R490, R491). -/
def State.numKey (s : State) : Nat :=
  let keys := if s.on F.NUM_SEL_BANK then s.num.lastKeys else s.num.openKeys
  let i := s.g F.NUM_SEL_ENTRY
  if 16384 ≤ i then 0xFFFFFFFF else (keys[i]?).elim 0 fun k => k.1 * 65536 + k.2
def State.numCount (s : State) (which : Nat) : Nat :=
  let c := Sparse.get NumCount.zero (s.g F.NUM_SEL_ENTRY) (if s.on F.NUM_SEL_BANK then s.num.lastCounts else s.num.openCounts)
  if which = 0 then c.written else if which = 1 then c.zeros else if which = 2 then c.sats else c.nonfinite

/-- A descriptor's 32 bytes (R137). -/
def Desc.bytes (d : Desc) : List Byte :=
  leBytes 8 d.base ++ leBytes 4 d.size ++ leBytes 1 d.kind ++ leBytes 1 d.acc ++ leBytes 2 d.part ++ leBytes 16 0

/-- A digest-log entry's 32 bytes (R504), and a trace record's 16 (R506). -/
def LogEntry.bytes (e : LogEntry) : List Byte :=
  leBytes 8 e.crc ++ leBytes 2 e.layer ++ leBytes 2 e.oper ++ leBytes 1 e.source ++ leBytes 1 e.flags ++ leBytes 2 e.unit
    ++ leBytes 4 e.seq ++ leBytes 4 e.count ++ leBytes 8 e.time
def traceBytes (r : Nat × Nat × Nat × Nat) : List Byte := leBytes 8 r.1 ++ leBytes 2 r.2.1 ++ leBytes 2 r.2.2.1 ++ leBytes 4 r.2.2.2

/-- A byte of the capture buffer as its owner has filled it (R502, R505, R506). -/
def State.captureByte (s : State) (a : Nat) : Byte :=
  if s.logOn then
    let bank := if a < 0x800000 then s.cap.bank0 else s.cap.bank1
    (bank[a % 0x800000 / 32]?).elim 0 fun e => e.bytes.getD (a % 32) 0
  else if s.on F.DBG_CAP_CTRL_TRACE_EN then (s.cap.trace[a / 16]?).elim 0 fun r => (traceBytes r).getD (a % 16) 0
  else Sparse.get 0 a s.cap.bytes

/-- A byte of the windows that are no registers: queue-pair contexts, memory-region table, tile descriptors, MRAM, capture buffer. -/
def State.windowByte (s : State) (off : Nat) : Option Byte :=
  if 0x84000 ≤ off ∧ off < 0x88000 then
    some (Sparse.get 0 (0x4000 * s.g F.ETH_QP_PAGE_PAGE + (off - 0x84000)) s.eth.qp)
  else if 0x88000 ≤ off ∧ off < 0x88400 then some (Sparse.get 0 (off - 0x88000) s.eth.mr)
  else if 0xA1000 ≤ off ∧ off < 0xA2000 then some (s.mram (4096 * s.g F.NVS_WIN_BASE_PAGE + (off - 0xA1000)))
  else if 0xB8000 ≤ off ∧ off < 0xC0000 then some (s.captureByte (32768 * s.g F.DBG_CAP_CTRL_PAGE + (off - 0xB8000)))
  else if 0x1000000 ≤ off ∧ off < 0x2000000 ∧ 0x1000 ≤ off % 0x10000 ∧ off % 0x10000 < 0x3000 then
    let t := (off - 0x1000000) / 0x10000
    if s.tilePower t == tpOFF || (s.g (F.CLU_STATUS_UNLOADED (t / 8))).testBit (t % 8) then some 0
    else some (((s.plan.elim Desc.invalid fun p => p.desc t ((off % 0x10000 - 0x1000) / 32)).bytes).getD (off % 32) 0)
  else none

/-- What a register shows beside its fields: the part that other state gives. -/
def State.shown (s : State) (off : Nat) : Nat :=
  if off = 0x10000 then
    (if s.isAnchor then 2 ^ 28 else 0) + (if s.rollbackOk then 2 ^ 26 else 0) + s.ringPos 0 % 64 * 2 ^ 20
  else if off = 0xA0000 then (if s.asleep then 2 ^ 24 else 0)
  else if off = 0x80200 then
    let l := s.host.queues.filterMap fun e => e.2.cmd.map (·.ckpt)
    let phase := (l.map fun k => if 1 ≤ k.phase ∧ k.phase ≤ 4 then min k.phase 3 else 0).foldl max 0
    phase * 2 ^ 30 + if s.ckptHolds s.writeVersion then 2 ^ 29 else 0
  else if inFamily 0x2400808 5 0x40000 off then (if s.colHeld (famIndex 0x2400808 0x40000 off) then 0 else 2 ^ 30)
  else 0

/-- A register of `regTable`: its width and what it shows. A channel that is not shared shows its SENDER in MBX_CHn_LOCK (R433). -/
def State.regShows (s : State) (off : Nat) : Option (Nat × Nat) :=
  (regAt off).map fun r =>
    let n := famIndex 0x30018 0x40 off
    if inFamily 0x30018 32 0x40 off ∧ s.g (F.MBX_BIND_SENDER n) ≠ 0xFF then (32, s.g (F.MBX_BIND_SENDER n))
    else (r.width, s.fieldSum (r.fieldsAt off) + s.shown off)

/-- The register at an offset: its width and what it shows. -/
def State.regValue (s : State) (off : Nat) : Option (Nat × Nat) :=
  if off = 0x200A8 then some (32, s.ownResult)
  else if off = 0x70208 then some (32, s.lateEntry)
  else if off = 0x91010 then some (64, s.thmNode)
  else if off = 0xB0000 then some (64, s.time % 2 ^ 64)
  else if off = 0xC0008 then some (32, s.numKey)
  else if inFamily 0xC0010 4 8 off then some (64, s.numCount (famIndex 0xC0010 8 off))
  else if inFamily 0x50848 4 0x80 off then some (64, s.laneInfo (famIndex 0x50848 0x80 off))
  else if inFamily 0x44000 256 4 off then
    let w := famIndex 0x44000 4 off
    some (32, if w % 4 = 3 then (if s.msi.unmasked.contains (w / 4) then 0 else 1) else Sparse.get 0 w s.msi.table)
  else if off = 0x45000 then some (64, (s.msi.pendingBits.map fun v => 2 ^ v).sum)
  else
    match s.windowByte off with
    | some _ => some (32, leNat ((List.range 4).map fun i => (s.windowByte (off + i)).getD 0))
    | none => s.regShows off

/-- The four bytes at an offset, as a read of 4 bytes without side effect returns them (R516). -/
def State.barWord (s : State) (off : Nat) : Nat :=
  match s.regValue off with
  | some (_, v) => v % 2 ^ 32
  | none =>
    match s.regValue (off - 4) with
    | some (64, v) => if 4 ≤ off then v / 2 ^ 32 else 0
    | _ => 0

/-- What an aligned access of 4 or 8 bytes reads (R10, R365, R516). -/
def State.readBar0 (s : State) (off len : Nat) : Nat :=
  if len = 4 then s.barWord off else s.barWord off + 2 ^ 32 * s.barWord (off + 4)

end Sys2Proof.Machine
end

