-- ==== Sys2Proof/Machine/Registers.lean ====
section
/-!
DEFINITION. Tile and cluster resets, register writes by access class, and the sideband (spec 00_scope.md R3 to R11,
14_management_and_security.md R452, 17_register_map.md R514 to R523).
-/
namespace Sys2Proof.Machine

/-! Tile and cluster resets (R521). -/

def State.resetsMay (s : State) : Bool :=
  (s.stepState == stCLOSED || s.stepState == stOUT) && s.loaderState != ldINSTALLING && !s.replaying && s.freezeState == fzIDLE

/-- A write of CLU_CTRL that sets bits, by masters 1 and 2: its result, and its effect where it is accepted. -/
def cluRequest (m k : Nat) (s : State) (f : State → State) : Res :=
  doIf (s.fromMaster m && (m == 1 || m == 2) && decide (k < 32)) s fun s =>
    if s.resetsMay then f (s.set (F.CLU_CTRL_CODE k) 0) else s.set (F.CLU_CTRL_CODE k) 0x0205

/-- TILE_RESET bits, one for each tile of cluster `k`. -/
def execTileReset (m k mask : Nat) (s : State) : Res :=
  doIf (mask % 256 != 0) s fun s =>
    let r := cluRequest m k s fun s => s.set (F.CLU_CTRL_TILE_RESET k) (s.g (F.CLU_CTRL_TILE_RESET k) ||| mask % 256)
    match r with
    | .next t => t
    | _ => s

/-- CLU_RESET: the cluster's messages are cleared as its reset begins (R430, R431). -/
def execCluReset (m k : Nat) (s : State) : Res :=
  cluRequest m k s fun s => (s.set (F.CLU_CTRL_CLU_RESET k) 1).resetReceiver (4 + k)

/-- The end of a tile's reset, 1 µs after its request. -/
def execTileResetEnd (k j : Nat) (s : State) : Res :=
  doIf (s.powered && decide (k < 32) && decide (j < 8) && (s.g (F.CLU_CTRL_TILE_RESET k)).testBit j) s fun s =>
    ((s.clearTile (8 * k + j)).setBit (F.CLU_STATUS_UNLOADED k) j true).setBit (F.CLU_CTRL_TILE_RESET k) j false

/-- The end of a cluster's reset, 10 µs after its request: its PLL OFF, its tiles as after power-on. -/
def execCluResetEnd (k : Nat) (s : State) : Res :=
  doIf (s.powered && decide (k < 32) && s.on (F.CLU_CTRL_CLU_RESET k)) s fun s =>
    let a := 0x90100 + 8 * k
    (((s.clusterLost k).resetRange [.clu] a (a + 8))).setAll
      [(F.CLU_STATUS_UNLOADED k, 255), (F.CLU_STATUS_CTRL_AWAKE k, 0), (F.CLU_CTRL_CLU_RESET k, 0)]

/-! Writes by access class (R3 to R7). -/

/-- The state a command answers. -/
def afterCmd (s : State) : Res → State
  | .next t => t
  | _ => s

/-- The software's write of one field. -/
def State.writeField (s : State) (f : Fld) (v : Nat) : State :=
  match f.acc with
  | .ro => s
  | .rw => s.set f v
  | .rwb => s.writeRwb f v
  | .rwl => if s.locked.contains f.key then s else { s.set f v with locked := s.locked ++ [f.key] }
  | .w1c => s.set f (s.g f - (s.g f &&& lowBits f.w v))
  | .w1s => s.set f (s.g f ||| v)
  | .rcl => s

/-- The value that a register's value holds for a field. -/
def fieldOf (f : Fld) (v : Nat) : Nat := lowBits f.w (v / 2 ^ f.lo)

/-- Every field of a register written by its class, but for those that `skip` names by their lowest bit. -/
def State.writeFields (s : State) (l : List Fld) (skip : List Nat) (v : Nat) : State :=
  l.foldl (fun s f => if skip.contains f.lo then s else s.writeField f (fieldOf f v)) s

/-- Bits of a command register that start one thing each: `f` where exactly one is set, and `many` where several are. -/
def oneBit (v : Nat) (s many : State) (f : Nat → State) : State :=
  if v = 0 then s else if [1, 2, 4, 8, 16].contains v then f v else many

/-- What a write carries beside its value: whether the loopback self-test of a JOIN passes (R279), and the bytes at SEC_CMD_ADDR of
an owner request (R441). -/
structure WriteEnv where
  selftest : Bool
  request : List Byte
  deriving DecidableEq, Repr

/-- RING_CTRL: the LEAVE bits first. -/
def State.writeRingCtrl (s : State) (m v : Nat) (e : WriteEnv) : State :=
  let leave (s : State) (r : Nat) : State :=
    if bitOf v (2 + r) then (if s.on (ringLeaveF r) then s else afterCmd s (execLeave m r s)) else s.set (ringLeaveF r) 0
  let s := leave (leave s 0) 1
  let s := if bitOf v 4 then afterCmd s (execRosterReset m s) else s
  let join (s : State) (r : Nat) : State := if bitOf v r then afterCmd s (execJoin m r e.selftest s) else s
  join (join s 0) 1

/-- DBG_CAP_CTRL: an enable bit set claims the buffer, one cleared gives it back (R502). -/
def State.writeCapCtrl (s : State) (l : List Fld) (v : Nat) : State :=
  let s := s.writeFields l [31, 30] v
  let off (s : State) (en : Fld) (owner : Nat) : State := if s.on en then (s.set en 0).unclaim 1 0 owner else s
  let s := if bitOf v 31 then s else off s F.DBG_CAP_CTRL_LOG_EN 2
  let s := if bitOf v 30 then s else off s F.DBG_CAP_CTRL_TRACE_EN 3
  let s := if bitOf v 31 then afterCmd s (execDigestLogEnable s) else s
  if bitOf v 30 then afterCmd s (execTraceEnable s) else s

/-- ETH_PTP_CTRL: an EN bit cleared gives the port's timestamp units back (R420), and with none set nothing steers to PTP (R421). -/
def State.writePtpCtrl (s : State) (m : Nat) (l : List Fld) (v : Nat) : State :=
  let port (s : State) (p : Nat) : State :=
    if bitOf v p then afterCmd s (execPtpEnable m p s)
    else if s.on (ptpEnF p) then (((s.set (ptpEnF p) 0).unclaim 2 (2 * p) 5).unclaim 2 (2 * p + 1) 5).setPtp p fun _ => PtpPort.init
    else s
  let s := port (port (s.writeFields l [0, 1] v) 0) 1
  if s.on (ptpEnF 0) || s.on (ptpEnF 1) then s else s.set F.RING_TIME_STATUS_PTP 0

/-- SEC_CMD: a write starts command OP (R437). -/
def State.writeSecCmd (s : State) (m v : Nat) (e : WriteEnv) : State :=
  let op := lowBits 8 v
  afterCmd s (if op = 1 then execFwWrite m s
    else if op = 2 then execFwActivate m s
    else if op = 3 then execFwConfirm m s
    else if op = 4 then execOwnerRequest m e.request s
    else if op = 5 then execDevReset m s
    else secCmd m op s fun s => s.secResult 0x0A09)

/-- A mailbox register (R428 to R433). -/
def State.writeMbx (s : State) (m off : Nat) (l : List Fld) (v : Nat) : State :=
  let n := (off - 0x30000) / 0x40
  if inFamily 0x30000 32 0x40 off then afterCmd s (execMailboxWrite m n v s)
  else if inFamily 0x30010 32 0x40 off then
    let s := s.writeFields l [28] v
    if bitOf v 28 then afterCmd s (execMailboxClear m n s) else s
  else if inFamily 0x30018 32 0x40 off then (if lowBits 8 v = 0 then afterCmd s (execMailboxLockRelease m n s) else s)
  else if inFamily 0x30800 32 8 off then afterCmd s (execMbxBindWrite m ((off - 0x30800) / 8) (lowBits 8 v) (lowBits 8 (v / 256)) s)
  else s.writeFields l [] v

/-- A register of the host interface whose write does more than its class (R382, R393). -/
def State.writeQueue (s : State) (m off : Nat) (l : List Fld) (v : Nat) : State :=
  let q := (off - 0x40100) / 0x40
  let r := (off - 0x40100) % 0x40
  if r = 0x10 then
    (if bitOf v 31 then afterCmd s (execQueueEnable m q (lowBits 5 v) s)
     else (if s.on (F.HIF_Q_CFG_ENABLE q) then afterCmd s (execQueueDisable m q s) else s).set (F.HIF_Q_CFG_SIZE q) v)
  else if r = 0x18 then afterCmd s (execSqTailDoorbell m q (lowBits 17 v) s)
  else if r = 0x20 then afterCmd s (execCqHeadDoorbell m q (lowBits 17 v) s)
  else s.writeFields l [] v

/-- Registers of the Ethernet block whose write does more than its class (R407, R417, R420). -/
def State.writeEth (s : State) (m off : Nat) (l : List Fld) (v : Nat) : State :=
  if off = 0x80100 then
    (if bitOf v 63 then afterCmd s (execIngestEnable m (lowBits 4 (v / 2 ^ 56)) (lowBits 16 (v / 2 ^ 40)) (lowBits 20 (v / 2 ^ 20)) s)
     else s.writeFields l [] v)
  else if off = 0x80110 then (if lowBits 32 v = 0 then s else s.writeFields l [] v)
  else if inFamily 0x80300 16 8 off then
    afterCmd s (execPodSetWrite m ((off - 0x80300) / 8) (lowBits 16 (v / 2 ^ 48)) (lowBits 16 (v / 2 ^ 32)) (lowBits 10 (v / 2 ^ 22))
      (lowBits 8 (v / 256)) (lowBits 8 v) s)
  else if off = 0x80400 then s.writePtpCtrl m l v
  else s.writeFields l [] v

/-- Registers of the debug block whose write does more than its class (R487, R495, R499, R502, R508). -/
def State.writeDbg (s : State) (m off : Nat) (l : List Fld) (v : Nat) : State :=
  if off = 0xB0010 then
    let s := s.writeFields l [0, 1] v
    let s := if bitOf v 0 then afterCmd s (execFreezeDisarm m s) else s
    if bitOf v 1 then afterCmd s (execFreezeArm m s) else s
  else if off = 0xB0020 then afterCmd s (execResumeAtWrite v s)
  else if off = 0xB0100 then s.writeCapCtrl l v
  else if off = 0xB0200 then
    let s := if bitOf v 0 then afterCmd s (execReplayCancel m s) else s
    if bitOf v 1 then afterCmd s (execReplayStart m s) else s
  else if inFamily 0xB1000 64 0x20 off then
    afterCmd s (execCounterSelect false ((off - 0xB1000) / 0x20) 0 (lowBits 9 (v / 65536)) (lowBits 16 v) s)
  else if inFamily 0xB2000 8 0x20 off then
    afterCmd s (execCounterSelect true ((off - 0xB2000) / 0x20) (lowBits 3 (v / 2 ^ 25)) (lowBits 9 (v / 65536)) (lowBits 16 v) s)
  else s.writeFields l [] v

/-- Registers of a region-controller window whose write does more than its class (R179, R192, R195, R196). -/
def State.writeRegion (s : State) (m off : Nat) (l : List Fld) (v : Nat) : State :=
  let w := (off - 0x2400000) / 0x1000
  let r := (off - 0x2400000) % 0x1000
  if r = 0x800 then (if bitOf v 0 then afterCmd s (execColReset m (w / 64) s) else s)
  else if r % 0x100 = 0 then
    let q := lowBits 7 (v / 2 ^ 17)
    let s := s.writeFields l (if 1 ≤ q ∧ q ≤ 64 then [0] else [0, 17]) v
    if bitOf v 0 then afterCmd s (execLayReset m w (r / 0x100) s) else s
  else if r % 0x100 = 0x40 then
    let h := lowBits 8 (v / 65536)
    s.writeFields l (if 1 ≤ h ∧ h ≤ 168 then [] else [16]) v
  else s.writeFields l [] v

/-- Power, thermal and security registers whose write does more than its class (R427, R442, R471, R475, R482). -/
def State.writePwrSec (s : State) (m off : Nat) (l : List Fld) (v : Nat) (e : WriteEnv) : State :=
  if off = 0x90000 then afterCmd s (execPwrLimitWrite m (lowBits 13 v) s)
  else if off = 0x91018 then (if bitOf v 0 then afterCmd s (execSuspectClear s) else s)
  else if off = 0x91200 then
    (if bitOf v 31 then afterCmd s (execMarginStart m (lowBits 3 (v / 65536)) s) else s.writeFields l [31] v)
  else if off = 0xA0008 then s.writeSecCmd m v e
  else if off = 0xA0060 then (if bitOf v 0 then afterCmd s (execEnrolEnable m s) else s)
  else if off = 0xA0068 then
    let s := if bitOf v 1 then afterCmd s (execMcReset m s) else s
    if bitOf v 0 then afterCmd s (execSbDevReset m s) else s
  else s.writeFields l [] v

/-- A write of a whole register that `regTable` holds: fields that start something do it; all others act by their class. -/
def State.writeReg (s : State) (m off : Nat) (r : Reg) (v : Nat) (e : WriteEnv) : State :=
  let l := r.fieldsAt off
  if !(r.masters.isEmpty || r.masters.contains m) then s
  else if off = 0x10008 then
    oneBit (lowBits 4 v) s (afterCmd s (stepCtl m (lowBits 4 v) s fun s => s.stepRefuse 0x0205)) fun b =>
      afterCmd s (if b = 1 then execOpenStep m s else if b = 2 then execAbortReq m s else if b = 4 then execRegather m s else execRollback m s)
  else if off = 0x10028 then (if 1 ≤ lowBits 13 v ∧ lowBits 13 v ≤ 4096 then s.writeFields l [] v else s)
  else if off = 0x20008 then
    oneBit (lowBits 5 v) s (afterCmd s (cfgCmd m (lowBits 5 v) s fun s => s.cfgRefuse 0x0119)) fun b =>
      afterCmd s (if b = 1 then execStage m s else if b = 2 then execCheck m s else if b = 4 then execArm m s
        else if b = 8 then execDisarm m s else execDiscard m s)
  else if off / 0x10000 = 3 then s.writeMbx m off l v
  else if 0x40100 ≤ off ∧ off < 0x40200 then s.writeQueue m off l v
  else if off = 0x50000 then s.writeRingCtrl m v e
  else if off = 0x60020 then
    let s := s.writeFields l [] v
    if bitOf v 63 then { s with red := { s.red with digestLatched := false } } else s
  else if off / 0x10000 = 8 then s.writeEth m off l v
  else if off / 0x10000 = 9 ∨ off / 0x10000 = 10 then s.writePwrSec m off l v e
  else if off / 0x10000 = 11 then s.writeDbg m off l v
  else if off = 0xC0000 then s.writeFields l (if lowBits 15 v ≤ 16384 then [] else [0]) v
  else if inFamily 0x2000010 32 0x10000 off then
    let k := (off - 0x2000010) / 0x10000
    if bitOf v 8 then afterCmd s (execCluReset m k s) else afterCmd s (execTileReset m k (lowBits 8 v) s)
  else if 0x2400000 ≤ off ∧ off < 0x2540000 then s.writeRegion m off l v
  else s.writeFields l [] v

/-! Windows that are no registers. -/

/-- A word of the MSI-X table: a vector unmasked sends the message it had pending (R396). -/
def State.writeMsix (s : State) (w v : Nat) : State :=
  let n := w / 4
  if w % 4 ≠ 3 then { s with msi := { s.msi with table := Sparse.put 0 w v s.msi.table } }
  else if bitOf v 0 then { s with msi := { s.msi with unmasked := s.msi.unmasked.filter (· != n) } }
  else if s.msi.unmasked.contains n then s
  else
    let s := { s with msi := { s.msi with unmasked := s.msi.unmasked ++ [n] } }
    if s.msi.pendingBits.contains n then
      ({ s with msi := { s.msi with pendingBits := s.msi.pendingBits.filter (· != n) } } : State).message n
    else s

/-- Bytes of a queue-pair context and of a memory-region entry that software cannot set (R4, R403). -/
def qpReserved (i : Nat) : Bool := i == 3 || i == 7 || i == 11 || i == 15 || decide (40 ≤ i)
def mrReserved (i : Nat) : Bool := i == 13

/-- Four bytes put into a table, its reserved bytes left 0. -/
def putEntry (reserved : Nat → Bool) (size a v : Nat) (m : Sparse Byte) : Sparse Byte :=
  (List.range 4).foldl (fun m i => if reserved ((a + i) % size) then m else Sparse.put 0 (a + i) (BitVec.ofNat 8 (v / 256 ^ i)) m) m

/-- The function of OWNER that stands for the host (R223). -/
def ownHOST : Nat := 9

/-- A write of four bytes to an offset that `regTable` does not hold. -/
def State.writeWindow (s : State) (m off v : Nat) : State :=
  if inFamily 0x44000 256 4 off then s.writeMsix ((off - 0x44000) / 4) v
  else if off = 0x70208 then
    let k := s.g F.UPD_LATE_SEL_ENTRY
    let d := lowBits 3 v
    if decide (k < (s.plan.elim [] fun p => p.late).length) && decide (1 ≤ d) && decide (d ≤ 4) then s.writeRwb (F.UPD_LATE_DELAY k) d else s
  else if m ≠ 1 ∧ m ≠ 2 then s
  else if 0x84000 ≤ off ∧ off < 0x88000 then
    let a := 0x4000 * s.g F.ETH_QP_PAGE_PAGE + (off - 0x84000)
    ({ s with eth := { s.eth with qp := putEntry qpReserved 64 a v s.eth.qp } } : State).pumpNvme
  else if 0x88000 ≤ off ∧ off < 0x88400 then { s with eth := { s.eth with mr := putEntry mrReserved 16 (off - 0x88000) v s.eth.mr } }
  else if 0xB8000 ≤ off ∧ off < 0xC0000 ∧ (s.ownerOf 1 0).elim false (fun e => e.owner == ownHOST) then
    let a := 32768 * s.g F.DBG_CAP_CTRL_PAGE + (off - 0xB8000)
    { s with cap := { s.cap with bytes := putBytes s.cap.bytes a (leBytes 4 v) } }
  else s

/-! Accesses (R452, R515, R516). -/

/-- Whether a channel is bound to a master (R428). -/
def State.boundTo (s : State) (m n : Nat) : Bool :=
  let b := s.g (F.MBX_BIND_SENDER n)
  b == m || b == 0xFF || s.g (F.MBX_BIND_RECEIVER n) == m

/-- R515. Tiles' cluster controllers and the hub sequencer may write any channel's DATA, which answers as R429 says. -/
def State.reaches (s : State) (m off : Nat) : Bool :=
  let b := off / 0x10000
  if m = 1 ∨ m = 2 then true
  else if m = 3 then (b == 0 || b == 3 || b == 9 || b == 10) && !(decide (0xA0008 ≤ off) && decide (off < 0xA0028))
  else if 4 ≤ m ∧ m ≤ 36 then
    b == 3 && decide (off < 0x30800) && (off % 0x40 == 0 || s.boundTo m ((off - 0x30000) / 0x40))
  else false

/-- Four bytes written at an offset: a register of 64 bits ignores them. -/
def State.write4 (s : State) (m off v : Nat) (e : WriteEnv) : State :=
  match regAt off with
  | some r => if r.width = 32 then s.writeReg m off r v e else s
  | none => s.writeWindow m off v

/-- An aligned write of 4 or 8 bytes; any other does nothing. -/
def State.writeBar0 (s : State) (m off len v : Nat) (e : WriteEnv) : State :=
  if !s.reaches m off || off % len != 0 then s
  else if len = 4 then s.write4 m off (lowBits 32 v) e
  else if len = 8 then
    (match regAt off with
     | some r =>
       if r.width = 64 then s.writeReg m off r (lowBits 64 v) e
       else (s.write4 m off (lowBits 32 v) e).write4 m (off + 4) (lowBits 32 (v / 2 ^ 32)) e
     | none => (s.write4 m off (lowBits 32 v) e).write4 m (off + 4) (lowBits 32 (v / 2 ^ 32)) e)
  else s

/-- Whether the sideband answers. -/
def State.sidebandUp (s : State) : Bool := s.powered && !s.pins.vrefLow

/-- A sideband block write of command 0x11; `ok` tells whether its checksum is right. -/
def execSmbusWrite (off : Nat) (data : List Byte) (ok : Bool) (s : State) : Res :=
  act (s.sidebandUp && ok && (data.length == 4 || data.length == 8)) s fun s =>
    s.within fun s => s.writeBar0 3 off data.length (leNat data) ⟨true, []⟩

/-- A sideband read of 4 or 8 bytes: a take or a lock claim acts as any master's does (R430, R433). -/
def execSmbusRead (off len : Nat) (ok : Bool) (s : State) : Res :=
  doIf (s.sidebandUp && ok && (len == 4 || len == 8)) s fun s =>
    if !s.reaches 3 off || off % len != 0 then s.emit (.smbus (leBytes len 0))
    else
      let n := (off - 0x30000) / 0x40
      if inFamily 0x30008 32 0x40 off then
        let w := if len = 8 ∧ s.g (F.MBX_BIND_RECEIVER n) = 3 then s.g (F.MBX_CH_DATA_WORD n) else 0
        let s := if len = 8 then afterCmd s (execMailboxTake 3 n s) else s
        s.emit (.smbus (leBytes len w))
      else if inFamily 0x30018 32 0x40 off then
        let w := s.readBar0 off 4
        (afterCmd s (execMailboxLockClaim 3 n s)).emit (.smbus (leBytes len w))
      else s.emit (.smbus (leBytes len (s.readBar0 off len)))

end Sys2Proof.Machine
end

