-- ==== Sys2Proof/Machine/HostLink.lean ====
section
/-!
DEFINITION. Register writes over the host link, and the link's return to L0 with what waited for it (spec 12_host_interface.md R362, R363,
R396, R397, R543).
-/
namespace Sys2Proof.Machine

/-- A register write (R3): master, offset, 4 or 8 bytes, value; what a JOIN's self-test finds and an owner request's bytes, where the
write starts one. -/
def State.registerWrite (m off len value : Nat) (selftest : Bool) (request : List Byte) (s : State) : Res :=
  act (s.fromMaster m) s fun s => s.within fun s => s.writeBar0 m off len value ⟨selftest, request⟩

/-- A register write; the host's comes over its link (R543). -/
def execRegisterWrite (m off len value : Nat) (selftest : Bool) (request : List Byte) (s : State) : Res :=
  let r := s.registerWrite m off len value selftest request
  if m = 1 then hostRow (.registerWrite off len value selftest request) id s r else r

/-- A request that the link layers have held (R543). -/
def State.serve' (s : State) : HostReq → State
  | .barRead x n => afterCmd s (s.barRead x n)
  | .barWrite x d m => afterCmd s (s.barWrite x d m)
  | .registerWrite off len v t b => afterCmd s (s.registerWrite 1 off len v t b)
  | .badAccess off len => afterCmd s (s.badAccess off len)
  | .cxlRead h k => afterCmd s (s.cxlRead h k)
  | .cxlWrite h d m => afterCmd s (s.cxlWrite h d m)
  | .config b p r => afterCmd s (s.configure b p r)

/-- The link reaches L0 at a rate and width, with or without CXL (R362, R363): what waited to leave goes first, and then the requests that
the link layers held are served in their order (R397, R543). -/
def execHostLinkL0 (rate width : Nat) (cxl : Bool) (s : State) : Res :=
  act (s.powered && !s.pins.perst && decide (1 ≤ rate) && decide (rate ≤ 7) && [1, 2, 4, 8].contains width) s fun s =>
    let s := s.setAll [(F.HIF_STATUS_LINK_UP, 1), (F.HIF_STATUS_CXL, bit cxl), (F.HIF_STATUS_RATE, rate), (F.HIF_STATUS_WIDTH, width)]
    let l := s.host.coming
    let s := (s.setHost fun h => { h with recovery := false, ready := true, coming := [] }).sendWaiting
    s.within fun s => l.foldl State.serve' s

end Sys2Proof.Machine
end

