-- ==== Sys2Proof/Machine/Dispatch.lean ====
section
/-!
DEFINITION. The meaning of every command: one arm per constructor of Instr, each one call of its own meaning.
-/
namespace Sys2Proof.Machine

def exec (i : Instr) (s : State) : Host.Outcome State Fault Refusal :=
  match i with
  | .registerWrite m off len value selftest request => Sys2Proof.Machine.execRegisterWrite m off len value selftest request s
  | .nop t n bad => Sys2Proof.Machine.execNop t n bad s
  | .endStream t n bad => Sys2Proof.Machine.execEndStream t n bad s
  | .tag t n bad => Sys2Proof.Machine.execTag t n bad s
  | .wait t n bad => Sys2Proof.Machine.execWait t n bad s
  | .waitRelease t n bad => Sys2Proof.Machine.execWaitRelease t n bad s
  | .signal t n bad => Sys2Proof.Machine.execSignal t n bad s
  | .xadd t n bad => Sys2Proof.Machine.execXadd t n bad s
  | .xget t n bad => Sys2Proof.Machine.execXget t n bad s
  | .bnz t n bad => Sys2Proof.Machine.execBnz t n bad s
  | .kset t n bad => Sys2Proof.Machine.execKset t n bad s
  | .ld t n bad => Sys2Proof.Machine.execLd t n bad s
  | .st t n bad => Sys2Proof.Machine.execSt t n bad s
  | .gld t n bad => Sys2Proof.Machine.execGld t n bad s
  | .gst t n bad => Sys2Proof.Machine.execGst t n bad s
  | .hostld t n bad => Sys2Proof.Machine.execHostld t n bad s
  | .hostst t n bad => Sys2Proof.Machine.execHostst t n bad s
  | .pref t n bad => Sys2Proof.Machine.execPref t n bad s
  | .send t n bad => Sys2Proof.Machine.execSend t n bad s
  | .recv t n bad => Sys2Proof.Machine.execRecv t n bad s
  | .free t n bad => Sys2Proof.Machine.execFree t n bad s
  | .sload t n bad => Sys2Proof.Machine.execSload t n bad s
  | .gbload t n bad => Sys2Proof.Machine.execGbload t n bad s
  | .mpass t n bad => Sys2Proof.Machine.execMpass t n bad s
  | .ouset t n bad => Sys2Proof.Machine.execOuset t n bad s
  | .oufin t n bad => Sys2Proof.Machine.execOufin t n bad s
  | .ousave t n bad => Sys2Proof.Machine.execOusave t n bad s
  | .ourestore t n bad => Sys2Proof.Machine.execOurestore t n bad s
  | .chainout t n bad => Sys2Proof.Machine.execChainout t n bad s
  | .chainin t n bad => Sys2Proof.Machine.execChainin t n bad s
  | .chainPairArrival t c => Sys2Proof.Machine.execChainPairArrival t c s
  | .gradout t n bad => Sys2Proof.Machine.execGradout t n bad s
  | .vop t n bad => Sys2Proof.Machine.execVop t n bad s
  | .normFwd t n bad => Sys2Proof.Machine.execNormFwd t n bad s
  | .normBwdAcc t n bad => Sys2Proof.Machine.execNormBwdAcc t n bad s
  | .normBwdFin t n bad => Sys2Proof.Machine.execNormBwdFin t n bad s
  | .attnP t n bad => Sys2Proof.Machine.execAttnP t n bad s
  | .attnO t n bad => Sys2Proof.Machine.execAttnO t n bad s
  | .attnFin t n bad => Sys2Proof.Machine.execAttnFin t n bad s
  | .attnDterm t n bad => Sys2Proof.Machine.execAttnDterm t n bad s
  | .attnDs t n bad => Sys2Proof.Machine.execAttnDs t n bad s
  | .xentBlk t n bad => Sys2Proof.Machine.execXentBlk t n bad s
  | .xentGrad t n bad => Sys2Proof.Machine.execXentGrad t n bad s
  | .kstore t n bad => Sys2Proof.Machine.execKstore t n bad s
  | .kload t n bad => Sys2Proof.Machine.execKload t n bad s
  | .gainout t n bad => Sys2Proof.Machine.execGainout t n bad s
  | .xentLoss t n bad => Sys2Proof.Machine.execXentLoss t n bad s
  | .stalledIssue t n bad => Sys2Proof.Machine.execStalledIssue t n bad s
  | .instructionComplete t id => Sys2Proof.Machine.execInstructionComplete t id s
  | .meshDelivery t c => Sys2Proof.Machine.execMeshDelivery t c s
  | .creditReturn t c => Sys2Proof.Machine.execCreditReturn t c s
  | .tileOpenTimeout t => Sys2Proof.Machine.execTileOpenTimeout t s
  | .openStep m => Sys2Proof.Machine.execOpenStep m s
  | .deferredOpen => Sys2Proof.Machine.execDeferredOpen s
  | .abortReq m => Sys2Proof.Machine.execAbortReq m s
  | .regather m => Sys2Proof.Machine.execRegather m s
  | .rollback m => Sys2Proof.Machine.execRollback m s
  | .sendReady => Sys2Proof.Machine.execSendReady s
  | .readyFrame p back rx => Sys2Proof.Machine.execReadyFrame p back rx s
  | .failFrame p back rx => Sys2Proof.Machine.execFailFrame p back rx s
  | .commitFrame p back rx => Sys2Proof.Machine.execCommitFrame p back rx s
  | .abortFrame p back rx => Sys2Proof.Machine.execAbortFrame p back rx s
  | .aDone p back rx => Sys2Proof.Machine.execADone p back rx s
  | .stepTimeout => Sys2Proof.Machine.execStepTimeout s
  | .poll p back rx => Sys2Proof.Machine.execPoll p back rx s
  | .pollReply p back rx => Sys2Proof.Machine.execPollReply p back rx s
  | .pollResend => Sys2Proof.Machine.execPollResend s
  | .pollClose timeout => Sys2Proof.Machine.execPollClose timeout s
  | .stage m => Sys2Proof.Machine.execStage m s
  | .stageComplete bytes failed => Sys2Proof.Machine.execStageComplete bytes failed s
  | .check m => Sys2Proof.Machine.execCheck m s
  | .checkComplete => Sys2Proof.Machine.execCheckComplete s
  | .arm m => Sys2Proof.Machine.execArm m s
  | .disarm m => Sys2Proof.Machine.execDisarm m s
  | .discard m => Sys2Proof.Machine.execDiscard m s
  | .installation => Sys2Proof.Machine.execInstallation s
  | .resourceClaim res inst owner arg release => Sys2Proof.Machine.execResourceClaim res inst owner arg release s
  | .memRequest req a n data mask => Sys2Proof.Machine.execMemRequest req a n data mask s
  | .memRequestAccept id cycles => Sys2Proof.Machine.execMemRequestAccept id cycles s
  | .memRequestDone id bad weak => Sys2Proof.Machine.execMemRequestDone id bad weak s
  | .correctedWriteback a => Sys2Proof.Machine.execCorrectedWriteback a s
  | .refreshRow w l bad weak => Sys2Proof.Machine.execRefreshRow w l bad weak s
  | .refreshBandRelax w l => Sys2Proof.Machine.execRefreshBandRelax w l s
  | .scrubRead w l weak bad => Sys2Proof.Machine.execScrubRead w l weak bad s
  | .hopFrameResend c l fails => Sys2Proof.Machine.execHopFrameResend c l fails s
  | .layReset m w l => Sys2Proof.Machine.execLayReset m w l s
  | .layResetEnd c l => Sys2Proof.Machine.execLayResetEnd c l s
  | .colReset m c => Sys2Proof.Machine.execColReset m c s
  | .colResetDrained c => Sys2Proof.Machine.execColResetDrained c s
  | .colResetDrainTimeout c => Sys2Proof.Machine.execColResetDrainTimeout c s
  | .colResetEnd c => Sys2Proof.Machine.execColResetEnd c s
  | .reduceFlit p back rx => Sys2Proof.Machine.execReduceFlit p back rx s
  | .originateSegment seg ring => Sys2Proof.Machine.execOriginateSegment seg ring s
  | .heldSliceAdd p c => Sys2Proof.Machine.execHeldSliceAdd p c s
  | .gatherFlit p back rx => Sys2Proof.Machine.execGatherFlit p back rx s
  | .skipNotice p back rx => Sys2Proof.Machine.execSkipNotice p back rx s
  | .skipCopy => Sys2Proof.Machine.execSkipCopy s
  | .skipNoticeSend ring => Sys2Proof.Machine.execSkipNoticeSend ring s
  | .lowRankSequence j => Sys2Proof.Machine.execLowRankSequence j s
  | .lowRankRound1Done j => Sys2Proof.Machine.execLowRankRound1Done j s
  | .lowRankRound2Done j => Sys2Proof.Machine.execLowRankRound2Done j s
  | .digestFlit p back rx => Sys2Proof.Machine.execDigestFlit p back rx s
  | .digestCompute => Sys2Proof.Machine.execDigestCompute s
  | .narrowingSend => Sys2Proof.Machine.execNarrowingSend s
  | .updateProgramSegment g seg => Sys2Proof.Machine.execUpdateProgramSegment g seg s
  | .updateProgramPass g p seg => Sys2Proof.Machine.execUpdateProgramPass g p seg s
  | .updPass u g seg p => Sys2Proof.Machine.execUpdPass u g seg p s
  | .updEnd u => Sys2Proof.Machine.execUpdEnd u s
  | .updWcf u g seg => Sys2Proof.Machine.execUpdWcf u g seg s
  | .updAdd u => Sys2Proof.Machine.execUpdAdd u s
  | .updSub u => Sys2Proof.Machine.execUpdSub u s
  | .updMul u => Sys2Proof.Machine.execUpdMul u s
  | .updFma u => Sys2Proof.Machine.execUpdFma u s
  | .updMax u => Sys2Proof.Machine.execUpdMax u s
  | .updMin u => Sys2Proof.Machine.execUpdMin u s
  | .updNeg u => Sys2Proof.Machine.execUpdNeg u s
  | .updAbs u => Sys2Proof.Machine.execUpdAbs u s
  | .updCmplt u => Sys2Proof.Machine.execUpdCmplt u s
  | .updSel u => Sys2Proof.Machine.execUpdSel u s
  | .updExp2 u => Sys2Proof.Machine.execUpdExp2 u s
  | .updLog2 u => Sys2Proof.Machine.execUpdLog2 u s
  | .updRcp u => Sys2Proof.Machine.execUpdRcp u s
  | .updRsqrt u => Sys2Proof.Machine.execUpdRsqrt u s
  | .updSqrt u => Sys2Proof.Machine.execUpdSqrt u s
  | .updAcc u => Sys2Proof.Machine.execUpdAcc u s
  | .updStw u => Sys2Proof.Machine.execUpdStw u s
  | .updStm u => Sys2Proof.Machine.execUpdStm u s
  | .updStf u => Sys2Proof.Machine.execUpdStf u s
  | .wcDerive => Sys2Proof.Machine.execWcDerive s
  | .latePendingCopy g seg => Sys2Proof.Machine.execLatePendingCopy g seg s
  | .lateApplication g n => Sys2Proof.Machine.execLateApplication g n s
  | .podExchangeSend g seg pod => Sys2Proof.Machine.execPodExchangeSend g seg pod s
  | .podCopyReceive qp msg => Sys2Proof.Machine.execPodCopyReceive qp msg s
  | .podTimeout g n => Sys2Proof.Machine.execPodTimeout g n s
  | .bar0Unsupported off len => Sys2Proof.Machine.execBar0Unsupported off len s
  | .bar2Read x n => Sys2Proof.Machine.execBar2Read x n s
  | .bar2Write x data mask => Sys2Proof.Machine.execBar2Write x data mask s
  | .cxlMemRead hpa share => Sys2Proof.Machine.execCxlMemRead hpa share s
  | .cxlMemWrite hpa data mask => Sys2Proof.Machine.execCxlMemWrite hpa data mask s
  | .queueEnable m q size => Sys2Proof.Machine.execQueueEnable m q size s
  | .queueDisable m q => Sys2Proof.Machine.execQueueDisable m q s
  | .sqTailDoorbell m q v => Sys2Proof.Machine.execSqTailDoorbell m q v s
  | .cqHeadDoorbell m q v => Sys2Proof.Machine.execCqHeadDoorbell m q v s
  | .descriptorFetch q bytes => Sys2Proof.Machine.execDescriptorFetch q bytes s
  | .commandStart q => Sys2Proof.Machine.execCommandStart q s
  | .cmdNop q => Sys2Proof.Machine.execCmdNop q s
  | .copy q host err => Sys2Proof.Machine.execCopy q host err s
  | .fill q err => Sys2Proof.Machine.execFill q err s
  | .bias q => Sys2Proof.Machine.execBias q s
  | .fcFlush q err => Sys2Proof.Machine.execFcFlush q err s
  | .commandComplete q => Sys2Proof.Machine.execCommandComplete q s
  | .bisnpResponse line inv data => Sys2Proof.Machine.execBisnpResponse line inv data s
  | .biasSnoopTimeout p => Sys2Proof.Machine.execBiasSnoopTimeout p s
  | .farCacheFillDone part line cached write data err => Sys2Proof.Machine.execFarCacheFillDone part line cached write data err s
  | .hostSnoop line kind => Sys2Proof.Machine.execHostSnoop line kind s
  | .linkRecovery => Sys2Proof.Machine.execLinkRecovery s
  | .linkOutTimeout => Sys2Proof.Machine.execLinkOutTimeout s
  | .hotReset => Sys2Proof.Machine.execHotReset s
  | .functionLevelReset => Sys2Proof.Machine.execFunctionLevelReset s
  | .dlDown => Sys2Proof.Machine.execDlDown s
  | .perst => Sys2Proof.Machine.execPerst s
  | .nvmeRead q => Sys2Proof.Machine.execNvmeRead q s
  | .nvmeWrite q host err => Sys2Proof.Machine.execNvmeWrite q host err s
  | .ckptWrite q => Sys2Proof.Machine.execCkptWrite q s
  | .ckptReadComplete q host err => Sys2Proof.Machine.execCkptReadComplete q host err s
  | .ckptRestore q => Sys2Proof.Machine.execCkptRestore q s
  | .ingestPrefill q => Sys2Proof.Machine.execIngestPrefill q s
  | .nvmeCompletion id status data => Sys2Proof.Machine.execNvmeCompletion id status data s
  | .nvmeTimeout id => Sys2Proof.Machine.execNvmeTimeout id s
  | .ingestComplete => Sys2Proof.Machine.execIngestComplete s
  | .ingestEnable m ctrl part blocks => Sys2Proof.Machine.execIngestEnable m ctrl part blocks s
  | .podSetWrite m k timeout part base self count => Sys2Proof.Machine.execPodSetWrite m k timeout part base self count s
  | .ptpEnable m p => Sys2Proof.Machine.execPtpEnable m p s
  | .ptpMessage p kind t => Sys2Proof.Machine.execPtpMessage p kind t s
  | .peerRdmaRequest qp write rkey addr len data => Sys2Proof.Machine.execPeerRdmaRequest qp write rkey addr len data s
  | .qpError qp => Sys2Proof.Machine.execQpError qp s
  | .ethLinkDown p => Sys2Proof.Machine.execEthLinkDown p s
  | .linkControlFlit p rx mapAt => Sys2Proof.Machine.execLinkControlFlit p rx mapAt s
  | .ackTimer p => Sys2Proof.Machine.execAckTimer p s
  | .linkRetrainDone p bad => Sys2Proof.Machine.execLinkRetrainDone p bad s
  | .laneFailed p lane power ser uncorr => Sys2Proof.Machine.execLaneFailed p lane power ser uncorr s
  | .laneMapSwitch p dir => Sys2Proof.Machine.execLaneMapSwitch p dir s
  | .laneRetest p lane => Sys2Proof.Machine.execLaneRetest p lane s
  | .laneRejoin p lane power ser => Sys2Proof.Machine.execLaneRejoin p lane power ser s
  | .join m ring selftest => Sys2Proof.Machine.execJoin m ring selftest s
  | .switchOpenReached ring => Sys2Proof.Machine.execSwitchOpenReached ring s
  | .leave m ring => Sys2Proof.Machine.execLeave m ring s
  | .rosterReset m => Sys2Proof.Machine.execRosterReset m s
  | .bypassFault ring => Sys2Proof.Machine.execBypassFault ring s
  | .linkUp p serial rx tx margin => Sys2Proof.Machine.execLinkUp p serial rx tx margin s
  | .linkDownTimeout p => Sys2Proof.Machine.execLinkDownTimeout p s
  | .hold p back rx => Sys2Proof.Machine.execHold p back rx s
  | .discover p back rx => Sys2Proof.Machine.execDiscover p back rx s
  | .discoveryTimeout ring => Sys2Proof.Machine.execDiscoveryTimeout ring s
  | .ringWrap p => Sys2Proof.Machine.execRingWrap p s
  | .syncSend p frac => Sys2Proof.Machine.execSyncSend p frac s
  | .delayExchange p frac => Sys2Proof.Machine.execDelayExchange p frac s
  | .sync p frac rx => Sys2Proof.Machine.execSync p frac rx s
  | .delayReq p frac rx => Sys2Proof.Machine.execDelayReq p frac rx s
  | .delayResp p frac left rx => Sys2Proof.Machine.execDelayResp p frac left rx s
  | .timeHoldover => Sys2Proof.Machine.execTimeHoldover s
  | .mailboxWrite m n word => Sys2Proof.Machine.execMailboxWrite m n word s
  | .heldMessageSend n => Sys2Proof.Machine.execHeldMessageSend n s
  | .mailboxTake m n => Sys2Proof.Machine.execMailboxTake m n s
  | .mailboxClear m n => Sys2Proof.Machine.execMailboxClear m n s
  | .mailboxLockClaim m n => Sys2Proof.Machine.execMailboxLockClaim m n s
  | .mailboxLockRelease m n => Sys2Proof.Machine.execMailboxLockRelease m n s
  | .mbxBindWrite m n sender receiver => Sys2Proof.Machine.execMbxBindWrite m n sender receiver s
  | .mbxBindLock m => Sys2Proof.Machine.execMbxBindLock m s
  | .fwWrite m => Sys2Proof.Machine.execFwWrite m s
  | .fwWriteDone bytes => Sys2Proof.Machine.execFwWriteDone bytes s
  | .fwActivate m => Sys2Proof.Machine.execFwActivate m s
  | .fwConfirm m => Sys2Proof.Machine.execFwConfirm m s
  | .ownerRequest m request => Sys2Proof.Machine.execOwnerRequest m request s
  | .devReset m => Sys2Proof.Machine.execDevReset m s
  | .sbDevReset m => Sys2Proof.Machine.execSbDevReset m s
  | .mcReset m => Sys2Proof.Machine.execMcReset m s
  | .watchdogExpiry => Sys2Proof.Machine.execWatchdogExpiry s
  | .jeoftStart => Sys2Proof.Machine.execJeoftStart s
  | .doeDiscovery index => Sys2Proof.Machine.execDoeDiscovery index s
  | .getCert request => Sys2Proof.Machine.execGetCert request s
  | .attest request => Sys2Proof.Machine.execAttest request s
  | .enrolEnable m => Sys2Proof.Machine.execEnrolEnable m s
  | .enrolEnableExpiry => Sys2Proof.Machine.execEnrolEnableExpiry s
  | .errorReport bad => Sys2Proof.Machine.execErrorReport bad s
  | .hourlyWearRecord => Sys2Proof.Machine.execHourlyWearRecord s
  | .smbusWrite off data ok => Sys2Proof.Machine.execSmbusWrite off data ok s
  | .smbusRead off len ok => Sys2Proof.Machine.execSmbusRead off len ok s
  | .powerOn straps corrupt => Sys2Proof.Machine.execPowerOn straps corrupt s
  | .inputLow v => Sys2Proof.Machine.execInputLow v s
  | .inputHigh v => Sys2Proof.Machine.execInputHigh v s
  | .inputHoldEnd => Sys2Proof.Machine.execInputHoldEnd s
  | .inputLost => Sys2Proof.Machine.execInputLost s
  | .mateOpen => Sys2Proof.Machine.execMateOpen s
  | .sbVrefLow => Sys2Proof.Machine.execSbVrefLow s
  | .regulatorFault kind a b => Sys2Proof.Machine.execRegulatorFault kind a b s
  | .layerRegulatorRecovered c l => Sys2Proof.Machine.execLayerRegulatorRecovered c l s
  | .powerDivision fixed power demand inputW inputV => Sys2Proof.Machine.execPowerDivision fixed power demand inputW inputV s
  | .fastLoop p => Sys2Proof.Machine.execFastLoop p s
  | .pwrLimitWrite m watts => Sys2Proof.Machine.execPwrLimitWrite m watts s
  | .thermalTick c sensors powers inlet outlet => Sys2Proof.Machine.execThermalTick c sensors powers inlet outlet s
  | .warnStep c => Sys2Proof.Machine.execWarnStep c s
  | .criticalEntry c => Sys2Proof.Machine.execCriticalEntry c s
  | .columnStateRelax c => Sys2Proof.Machine.execColumnStateRelax c s
  | .sensorSuspect c r j => Sys2Proof.Machine.execSensorSuspect c r j s
  | .suspectClear => Sys2Proof.Machine.execSuspectClear s
  | .marginStart m c => Sys2Proof.Machine.execMarginStart m c s
  | .marginDone eyes => Sys2Proof.Machine.execMarginDone eyes s
  | .tileIdle t => Sys2Proof.Machine.execTileIdle t s
  | .tileSleep t => Sys2Proof.Machine.execTileSleep t s
  | .tileOff t => Sys2Proof.Machine.execTileOff t s
  | .pllOff k => Sys2Proof.Machine.execPllOff k s
  | .tileWake t => Sys2Proof.Machine.execTileWake t s
  | .wakeAdmission => Sys2Proof.Machine.execWakeAdmission s
  | .counterSelect cmd k scope inst event => Sys2Proof.Machine.execCounterSelect cmd k scope inst event s
  | .freezeArm m => Sys2Proof.Machine.execFreezeArm m s
  | .freezeDisarm m => Sys2Proof.Machine.execFreezeDisarm m s
  | .freezeEdge => Sys2Proof.Machine.execFreezeEdge s
  | .resumeAtWrite t => Sys2Proof.Machine.execResumeAtWrite t s
  | .resume => Sys2Proof.Machine.execResume s
  | .digestLogEnable => Sys2Proof.Machine.execDigestLogEnable s
  | .traceEnable => Sys2Proof.Machine.execTraceEnable s
  | .replayStart m => Sys2Proof.Machine.execReplayStart m s
  | .replayGatherDone => Sys2Proof.Machine.execReplayGatherDone s
  | .replayRunDone => Sys2Proof.Machine.execReplayRunDone s
  | .replayCompareDone => Sys2Proof.Machine.execReplayCompareDone s
  | .replayCancel m => Sys2Proof.Machine.execReplayCancel m s
  | .tileReset m k mask => Sys2Proof.Machine.execTileReset m k mask s
  | .cluReset m k => Sys2Proof.Machine.execCluReset m k s
  | .tileResetEnd k j => Sys2Proof.Machine.execTileResetEnd k j s
  | .cluResetEnd k => Sys2Proof.Machine.execCluResetEnd k s
  | .hostLinkL0 rate width cxl => Sys2Proof.Machine.execHostLinkL0 rate width cxl s
  | .perstDeassert => Sys2Proof.Machine.execPerstDeassert s
  | .ethLinkUp p lanes => Sys2Proof.Machine.execEthLinkUp p lanes s
  | .tileWakeDone t => Sys2Proof.Machine.execTileWakeDone t s
  | .configRequest hdmBase maxPayload maxRead => Sys2Proof.Machine.execConfigRequest hdmBase maxPayload maxRead s
  | .arpRequest p => Sys2Proof.Machine.execArpRequest p s
  | .namespaceReport ctrl block metadata blocks => Sys2Proof.Machine.execNamespaceReport ctrl block metadata blocks s
  | .reservedTypeFlit p rx => Sys2Proof.Machine.execReservedTypeFlit p rx s

end Sys2Proof.Machine
end

