-- ==== Sys2Proof/Safety.lean ====
section
/-!
DEFINITION. What counts as a safe run, and the words in which statements say what a command leaves as it was: the block has no stop
of its own, so a step is safe when it answers a next state, and a state is sound when its memory is canonical and no decision
of the anchor is left over.
-/
namespace Sys2Proof

open Machine

/-- A step that answers a next state. -/
def StepsOn (s : State) : Prop := ∃ t, step s = .next t

/-- The bonded memory's table lists rising addresses and no byte that reads as an unlisted one does. -/
abbrev Sound (s : State) : Prop := s.mem.wf = true

/-- No FAIL waits for the anchor's decision: it is made in the command that brings it (log entry 59). -/
abbrev Settled (s : State) : Prop := s.stp.due = none

/-- Every register field but those listed reads in `t` as in `s`. -/
def KeepsRegs (s t : State) (fs : List Fld) : Prop := ∀ f : Fld, (∀ x ∈ fs, f.key ≠ x.key) → t.g f = s.g f

/-- Every byte of bonded memory outside the `n` bytes at `a` reads in `t` as in `s`. -/
def KeepsMem (s t : State) (a n : Nat) : Prop := ∀ x, ¬(a ≤ x ∧ x < a + n) → t.mem.byte x = s.mem.byte x

/-- Every byte of bonded memory reads in `t` as in `s`. -/
def SameMem (s t : State) : Prop := ∀ x, t.mem.byte x = s.mem.byte x

/-- Only the register file changes, and in it only the listed fields. -/
def OnlyRegs (s t : State) (fs : List Fld) : Prop := { t with fld := s.fld } = s ∧ KeepsRegs s t fs

/-- The counters of R484 and R488 that an event may raise. -/
def countFields : List Fld := (List.range 64).map F.DBG_CTR_STEP_COUNT ++ (List.range 8).map F.DBG_CMD_LIVE_COUNT

/-- A region layer's count of corrected reads and its error log (R189, R190). -/
def layerErrors (w l : Nat) : List Fld :=
  [F.REG_LCE_COUNT_COUNT w l, F.REG_LERRLOG_VALID w l, F.REG_LERRLOG_OVERFLOW w l, F.REG_LERRLOG_KIND w l, F.REG_LERRLOG_REQUESTER w l,
    F.REG_LERRLOG_BANK w l, F.REG_LERRLOG_ROW w l, F.REG_LERRLOG_SECTOR w l, F.REG_LERRLOG_SYMBOL w l, F.REG_LERRTIME_TIME w l]

/-- The registers that a corrected read may change: those of the layers that hold a correctable sector (R189, R193), the counters, and the
count of reports that found no room. -/
def correctFields (m : Memory) : List Fld :=
  countFields ++ F.NVS_HIST_DROPPED_COUNT :: m.weak.flatMap fun e => layerErrors (dpaWin (64 * e.1)) (dpaLayer (64 * e.1) - 1)

/-- No access of a command waits: none was marked on the way from `s` to `u` (R178, R181, R371, R372; log entry 32). -/
abbrev Unhindered (s u : State) : Prop := u.waits = s.waits

/-- Stream `n` of tile `t` has the instruction `w`, of opcode `op`, before it, and the arbiter lets it issue now, with the sectors `bad`
just become uncorrectable. -/
structure Issues (op t n w : Nat) (bad : List Nat) (s : State) : Prop where
  mayIssue : s.tileMayIssue t = true
  issuing : s.seqState t n = seqISSUING
  next : s.nextWord t n = w
  opcode : opOf w = op
  granted : (s.upset t bad).granted t n = true
  room : s.pc t n < 8191
  stream : n < 2
  settled : Settled s

/-- What an instruction that issues leaves on its stream: the next index, one more issued, the stream ISSUING (R122). -/
structure Passes (t n : Nat) (s u : State) : Prop where
  pc : u.pc t n = s.pc t n + 1
  issued : u.g (F.TILE_SEQ_ISSUED_ISSUED t n) = (s.g (F.TILE_SEQ_ISSUED_ISSUED t n) + 1) % 2 ^ 48
  issuing : u.seqState t n = seqISSUING

/-- The instruction's event counter has gone up by 1 if EVT_EN is set, and no other counter of the tile has changed (R131). -/
def CountsEvent (t w : Nat) (s u : State) : Prop :=
  ∀ c, c < 16 → u.g (F.TILE_EVT_COUNT t c) =
    if evtOf w = some c then (s.g (F.TILE_EVT_COUNT t c) + 1) % 2 ^ 32 else s.g (F.TILE_EVT_COUNT t c)

/-- The fields of a stream that the issue of an instruction may change. -/
def issueFields (t n : Nat) : List Fld :=
  [F.TILE_SEQ_STATUS_STATE t n, F.TILE_SEQ_STATUS_STALL t n, F.TILE_SEQ_STATUS_PC t n, F.TILE_SEQ_STATUS_OPCODE t n,
    F.TILE_SEQ_ISSUED_ISSUED t n] ++ (List.range 16).map (F.TILE_EVT_COUNT t)

/-- No tile but `t` changes. -/
def OnlyTile (t : Nat) (s u : State) : Prop := ∀ v, v ≠ t → u.tile v = s.tile v

/-- An instruction has completed at issue and has changed nothing but its own tile and the registers of its stream. -/
structure AtIssue (t n : Nat) (s u : State) : Prop where
  passes : Passes t n s u
  others : OnlyTile t s u
  regs : KeepsRegs s u (issueFields t n)
  rest : { u with fld := s.fld, tiles := s.tiles } = s

/-- An instruction has issued and is in flight with the reservations `rd` and `wr` (R126), and its stream has moved on. -/
structure TakesOff (t n w : Nat) (rd wr : List Span) (s u : State) : Prop where
  passes : Passes t n s u
  flight : ∃ f, (u.tile t).flights = (s.tile t).flights ++ [f] ∧ f.op = opOf w ∧ f.stream = n ∧ f.pc = s.pc t n
    ∧ f.evt = evtOf w ∧ f.rd = rd ∧ f.wr = wr ∧ f.layer = (s.stream t n).layer ∧ f.oper = (s.stream t n).oper

/-- Byte `x` of a tile's SRAM. -/
def sramByte (s : State) (t x : Nat) : Byte := Sparse.get 0 x (s.tile t).sram

/-- Every SRAM byte of the tile outside the `n` bytes at `a` reads in `u` as in `s`. -/
def KeepsSram (t : Nat) (s u : State) (a n : Nat) : Prop := ∀ x, ¬(a ≤ x ∧ x < a + n) → sramByte u t x = sramByte s t x

/-- A tile without its SRAM, its flights, the arbiter's count and the open digest spans: what an instruction that has issued leaves
to be said of the tile. -/
def Tile.core (x : Tile) : Tile :=
  { x with sram := [], badSectors := [], flights := [], nextId := 0, run := 0,
           s0 := { x.s0 with spans := [] }, s1 := { x.s1 with spans := [] } }

/-- SRAM after lists of bytes have been stored at sectors, one after another. -/
def stored (m : Sparse Byte) (l : List (Nat × List Byte)) : Sparse Byte := l.foldl (fun m e => putBytes m (64 * e.1) e.2) m

/-- What a vector instruction finds past its field checks when it issues (R93, R94, R125, R126, R156). -/
structure VecReady (t n : Nat) (rd wr : List (Nat × Nat)) (slots : List Nat) (s : State) : Prop where
  inside : addrCode (rd ++ wr) true = 0
  free : reserveStall (s.tile t) n (rd.map sramSpan) (wr.map sramSpan) = none
  idle : s.g (F.TILE_VEC_STATUS_BUSY t) = 0
  full : scoreGate t n slots s = none
  good : ∀ e ∈ rd, firstBad (s.tile t).badSectors e.1 e.2 = none

/-- A vector instruction has issued: its unit is busy, its writes `l` are in SRAM and counted under the stream's TAG, and beside them the
state is the `r` that the instruction's own operation leaves. -/
structure VectorRuns (t n w : Nat) (rd wr : List (Nat × Nat)) (slots : List Nat) (sfu : Nat) (more : List Post) (l : List VecWrite)
    (r s u : State) : Prop where
  takesOff : TakesOff t n w (rd.map sramSpan) (wr.map sramSpan) s u
  completes : ∃ f, (u.tile t).flights.getLast? = some f ∧ f.post = .vectorDone slots sfu :: more ∧ f.ready = true ∧ f.fills = []
  busy : u.g (F.TILE_VEC_STATUS_BUSY t) = 1
  sfuBusy : u.g (F.TILE_VEC_STATUS_SFU_BUSY t) = if sfu = 0 then 0 else 1
  sram : (u.tile t).sram = stored (s.tile t).sram (l.map fun v => (v.sector, v.bytes))
  inside : Tile.core (u.tile t) = Tile.core (r.tile t)
  others : OnlyTile t s u
  counts : u.num = (l.foldl (fun q v => q.tally (s.stream t n).layer (s.stream t n).oper v.tally) r).num
  regs : KeepsRegs r u (issueFields t n ++ [F.TILE_VEC_STATUS_BUSY t, F.TILE_VEC_STATUS_SFU_BUSY t])
  rest : { u with fld := r.fld, tiles := r.tiles, num := r.num } = r

/-- An instruction has issued and is in flight with what `j` says, and beside its issue the state is the `r` that its rule leaves. -/
structure FliesFrom (t n w : Nat) (j : Job') (r s u : State) : Prop where
  takesOff : TakesOff t n w j.rd j.wr s u
  flight : ∃ f, (u.tile t).flights.getLast? = some f ∧ f.post = j.post ∧ f.ready = j.ready ∧ f.waiting = j.waiting
    ∧ f.dst = j.dst ∧ f.src = j.src ∧ f.fills = j.fills
  sram : (u.tile t).sram = (r.tile t).sram
  inside : Tile.core (u.tile t) = Tile.core (r.tile t)
  others : ∀ v, v ≠ t → u.tile v = r.tile v
  regs : KeepsRegs r u (issueFields t n)
  rest : { u with fld := r.fld, tiles := r.tiles } = r

/-- An instruction has completed at issue, and beside its issue the state is the `r` that its rule leaves. -/
structure DoneFrom (t n w : Nat) (r s u : State) : Prop where
  passes : Passes t n s u
  counts : CountsEvent t w s u
  sram : (u.tile t).sram = (r.tile t).sram
  flights : (u.tile t).flights = (r.tile t).flights
  inside : Tile.core (u.tile t) = Tile.core (r.tile t)
  others : ∀ v, v ≠ t → u.tile v = r.tile v
  regs : KeepsRegs r u (issueFields t n)
  rest : { u with fld := r.fld, tiles := r.tiles } = r

/-- The 512 bytes `b` of a step or membership frame come to port `p` on its lanes, whole and in order, outside a freeze (R264 to R267,
R271, R498). -/
structure FrameComes (p : Nat) (rx : LineRx) (type : Nat) (b : List Byte) (s : State) : Prop where
  powered : s.powered = true
  port : p < 4
  up : s.lineUp p = true
  heard : s.heard p rx = some b
  type : (headerOf b).type = type
  order : (s.port p).rxSeq = (headerOf b).seq
  running : s.frozen = false

/-- The ring passes step frames, and this one is of its epoch (R246, R285). -/
structure FramePasses (p : Nat) (rx : LineRx) (b : List Byte) (s : State) : Prop where
  comes : FrameComes p rx 1 b s
  ring : s.frameRing (portRing p) = true
  epoch : (headerOf b).epoch = s.ringEpoch (portRing p)

/-- What the link layer leaves of a step frame that comes in order: its codewords and its sequence number counted, its buffer space given
back. -/
def Machine.State.took (s : State) (p : Nat) (rx : LineRx) (b : List Byte) : State :=
  ((s.noteLine p rx).arrive p (headerOf b).seq).1.freeFrame p

/-- What the link layer leaves of a data flit that comes in order: its codewords and its sequence number counted, its buffer space taken
(R269, R271). -/
def Machine.State.dataTaken (s : State) (p : Nat) (rx : LineRx) (f : Flit) : State :=
  ((s.noteLine p rx).arrive p f.hdr.seq).1.holdCredit p f.hdr.channel

/-- The bytes `b` of the data flit `f` come to port `p` on its lanes, whole and in order, outside a freeze, in its ring's epoch, and no
flit of its channel is held there (R264 to R271, R285, R289, R309). -/
structure DataComes (p : Nat) (rx : LineRx) (b : List Byte) (f : Flit) (s : State) : Prop where
  powered : s.powered = true
  port : p < 4
  up : s.lineUp p = true
  heard : s.heard p rx = some b
  flit : f = Flit.ofBytes b
  type : (headerOf b).type = 0
  order : (s.port p).rxSeq = f.hdr.seq
  running : s.frozen = false
  first : s.red.held.any (sameQueue p f) = false
  inStep : s.stepState ≠ stOUT
  epoch : f.hdr.epoch = s.ringEpoch (portRing p)
  passing : s.ringState (portRing p) ≠ ringRECOVERING
  settled : Settled s
  jobs : s.ring.jobs.length ≤ 4096

/-- A data flit of kind `k` for job `b` is admitted, is of this configuration and stands where R313 allows it (R313, R318, R319). -/
structure Admitted (k : FlitKind) (p : Nat) (f : Flit) (b : Job) (s : State) : Prop where
  kind : f.hdr.kind = k
  now : s.gate f.hdr = .now
  digest : f.hdr.digest = s.digest64
  job : s.job f.hdr.job = some b
  running : s.halted f.hdr.job = false
  channel : f.hdr.channel = b.channel
  place : s.placeOk p f b = true

/-- The segment and slice of a flit of a job (R266, R303). -/
def segOf (b : Job) (f : Flit) : Nat := b.firstSeg + f.hdr.offset / 16384
def sliceOf (f : Flit) : Nat := f.hdr.offset % 16384 / 120

/-- The slice of a reduce-scatter flit can be added here: the segment is released, and the contribution `c` is read without error
and without waiting (R309, R310, R320). -/
structure Addable (p : Nat) (f : Flit) (b : Job) (c : List Nat) (s : State) : Prop where
  admitted : Admitted .slice p f b s
  released : s.mayAdd b (portRing p) (segOf b f) = true
  read : (s.contribution (segOf b f) (sliceOf f)).2 = some c
  unhindered : Unhindered s (s.contribution (segOf b f) (sliceOf f)).1

/-- The port by which a flit leaves on its way around a ring. -/
def onward (s : State) (w : Way) : Nat := s.outPort (portOf w.ring (if w.east then 0 else 1))

/-- A port sends an item at once: its link is up, with credit and room, and nothing waits before it. -/
abbrev SendsNow (s : State) (q : Nat) (i : PortItem) : Prop :=
  s.canSend q i = true ∧ (s.port q).waiting = [] ∧ (s.port q).passing = []

/-- The flit that leaves for a slice that has come (R308): the device's contribution added, ADDED one higher, NAN raised by a NaN that the
addition made. -/
def slicePassed (s : State) (w : Way) (q k : Nat) (f : Flit) (c : List Nat) : Flit :=
  let v := f.payload.take (sliceLen k)
  ⟨{ f.hdr with added := f.hdr.added + 1, nan := f.hdr.nan || (newNaN v (addSlice v c)).isSome, epoch := s.ringEpoch w.ring,
                seq := (s.port q).txSeq },
    addSlice v c ++ List.replicate (120 - (addSlice v c).length) 0⟩

/-- The registers in which the reduction engine counts and logs. -/
def reduceFields : List Fld :=
  [F.RED_FLITS_ADDED_COUNT, F.RED_NAN_INFO_VALID, F.RED_NAN_INFO_OVERFLOW, F.RED_NAN_INFO_LOCAL, F.RED_NAN_INFO_RING,
    F.RED_NAN_INFO_CONTRIBUTOR, F.RED_NAN_INFO_CHANNEL, F.RED_NAN_INFO_JOB, F.RED_NAN_OFFSET_OFFSET]

/-- The counts of the codewords at a port (R264). -/
def lineFields (p : Nat) : List Fld := [F.RING_P_FEC_CORR_COUNT p, F.RING_P_FEC_UNCORR_COUNT p]

/-- A failure recorded now decides nothing here: the device is not the step anchor, or no attempt is OPEN, or a replay runs (R249, R250, R512). -/
abbrev NoDecision (s : State) : Prop := s.isAnchor = false ∨ s.replaying = true ∨ s.stepState ≠ stOPEN

/-- What has been sent out since `s`. -/
def Sends (s u : State) (o : Out) : Prop := ∃ l, u.outbox = s.outbox ++ l ∧ o ∈ l

/-- A data flit under the epoch and the sequence number that port `q` gives it. -/
def stamped (s : State) (ring q : Nat) (f : Flit) : Out :=
  .port q (s.port q).txSeq (.data { f with hdr := { f.hdr with epoch := s.ringEpoch ring, seq := (s.port q).txSeq } })

/-- The same flit one place further on. -/
def Machine.Flit.further (f : Flit) : Flit := { f with hdr := { f.hdr with added := f.hdr.added + 1 } }

/-- Unit `u` runs `r`, whose next instruction is `i`, and may go on (R337). -/
structure Running (u : Nat) (r : URun) (g : Group) (i : UInstr) (s : State) : Prop where
  working : s.working = true
  tiles : s.tilesRun = true
  settled : Settled s
  run : s.runOf u = some r
  group : s.group r.group = some g
  next : (s.progOf g).instrs[r.pc]? = some i

/-- The operand that a run reads under a selector. -/
def Machine.State.uget (s : State) (g : Group) (r : URun) (sel : Nat) : List Nat :=
  r.operand (fun k => s.g (F.UPD_HYPER_VALUE k)) (fun k => (s.progOf g).consts.getD k 0) sel

/-- Unit `u` goes on with `r'`, the runs of the other units as they were. -/
def RunGoes (u : Nat) (r' : Option URun) (s t : State) : Prop :=
  t.runOf u = r' ∧ (∀ x, x ≠ u → t.runOf x = s.runOf x) ∧ { t.upd with runs := s.upd.runs } = s.upd

/-- A pass of a run is over (R337, R338). -/
def PassOver (r : URun) (s t : State) : Prop :=
  t.upd.done = s.upd.done ++ [(r.group, r.seg, r.pass)] ∧ t.g F.UPD_SEGS_UPDATED_COUNT = (s.g F.UPD_SEGS_UPDATED_COUNT + 1) % 2 ^ 48

/-- Every sector of a span of host device addresses is bonded memory that serves the host now and reads without error (R366 to R369). -/
abbrev HostReads (s : State) (x n : Nat) : Prop :=
  ∀ h ∈ sectorsOf x n, hostSector h = 0 ∧ s.memGate rqHOST (dpaOfHda h) = 0 ∧ dpaOfHda h / 64 ∉ s.mem.bad

/-- A DEV reset (R11, R234, R398, R517): every register of the DEV domain and below reads its reset value, the units start anew, and memory and
what lies above the domain stay. -/
structure WasReset (cause : Nat) (s u : State) : Prop where
  cause : u.g F.ID_RESET_CAUSE_CAUSE = cause
  count : u.g F.ID_RESET_CAUSE_COUNT = (if s.g F.ID_RESET_CAUSE_COUNT = 65535 then 65535 else s.g F.ID_RESET_CAUSE_COUNT + 1) % 2 ^ 16
  regs : ∀ f : Fld, Dom.dev.code ≤ f.dom.code → u.g f = f.rst
  shadow : u.shadow = []
  retain : u.g F.CFG_RUN_STATE_RETAIN = if s.g F.CFG_RUN_STATE_RETAIN = 2 then 1 else s.g F.CFG_RUN_STATE_RETAIN % 4
  plan : u.plan = none
  step : u.stp = StepCtl.init
  tiles : u.tiles = []
  engines : u.red = RedCtl.init ∧ u.upd = UpdCtl.init ∧ u.gather = GatherCtl.init ∧ u.far = FarCache.init ∧ u.host = HostCtl.init
    ∧ u.eth = EthCtl.init ∧ u.ports = []
  mem : u.mem = s.mem

/-- The running command of queue `q` is over (R390, R391): its status and RESULT. -/
def Ends (q : Nat) (c : HostCmd) (status result : Nat) (u : State) : Prop :=
  (u.queue q).cmd.map (fun x => (x.num, x.desc, x.stage, x.status, x.result)) = some (c.num, c.desc, 2, status, result)

/-- A queue's running command, a queue set aside, with the rest of the queue as it was. -/
def OnlyQueue (q : Nat) (s u : State) : Prop :=
  (∀ r, r ≠ q → u.queue r = s.queue r) ∧ { u.host with queues := s.host.queues } = s.host

/-- What every step keeps beside the canonical memory: no decision left over; at most 4096 jobs in the plan in effect and in the one that
waits (R216); four owner slots (R439); the store's copy and the images of a step hold nothing but the registers they are for (R450, R507). -/
structure Lasting (s : State) : Prop where
  settled : Settled s
  jobs : s.ring.jobs.length ≤ 4096
  loaded : ∀ p, s.loader.plan = some p → p.ring.jobs.length ≤ 4096
  owners : s.sec.keys.length = 4
  stored : ∀ e ∈ s.sec.stored, storedKey e.1 = true
  opening : ∀ e ∈ s.images.opening, rwbKey e.1 = true
  committed : ∀ e ∈ s.images.committed, rwbKey e.1 = true
  saved : ∀ i, s.images.saved = some i → ∀ e ∈ i.1, rwbKey e.1 = true

/-- Every field of a flit's header fits its bits (R266). -/
structure Machine.Header.Fits (h : Header) : Prop where
  seq : h.seq < 2 ^ 16
  gkind : h.gkind < 4
  srcPos : h.srcPos < 64
  added : h.added < 128
  ring : h.ring < 2
  phase : h.phase < 2
  attempt : h.attempt < 16
  offset : h.offset < 2 ^ 40
  step : h.step < 2 ^ 32
  digest : h.digest < 2 ^ 64
  epoch : h.epoch < 2 ^ 16
  channel : h.channel < 64
  job : h.job < 4096
  type : h.type < 16

/-- Every field of a step frame fits its bytes (R245). -/
structure Machine.StepFrame.Fits (f : StepFrame) : Prop where
  type : f.type < 2 ^ 8
  attempt : f.attempt < 2 ^ 8
  originPos : f.originPos < 2 ^ 8
  originRing : f.originRing < 2 ^ 8
  step : f.step < 2 ^ 64
  cause : f.cause < 2 ^ 16
  detail : f.detail < 2 ^ 16
  committed : f.committed < 2 ^ 64
  causePos : f.causePos < 2 ^ 8
  causeRing : f.causeRing < 2 ^ 8
  epoch : f.epoch < 2 ^ 16
  digest : f.digest < 2 ^ 64

/-- Every field of a membership flit fits its bytes (R285). -/
structure Machine.Member.Fits (m : Member) : Prop where
  subtype : m.subtype < 2 ^ 8
  hops : m.hops < 2 ^ 8
  round : m.round < 2 ^ 8
  serial : m.serial < 2 ^ 64
  lastEpoch : m.lastEpoch < 2 ^ 16

/-- Every field of a time-synchronisation flit fits its bytes (R296). -/
structure Machine.TimeFlit.Fits (f : TimeFlit) : Prop where
  kind : f.kind < 2 ^ 8
  depth : f.depth < 2 ^ 8
  master : f.master < 2 ^ 64
  t : f.t < 2 ^ 80

/-- Every field of a link-control flit fits its bytes (R272). -/
structure Machine.LinkControl.Fits (c : LinkControl) : Prop where
  ackSeq : c.ackSeq < 2 ^ 16
  laneOp : c.laneOp < 2 ^ 8
  laneMap : c.laneMap < 2 ^ 32
  mapAt : c.mapAt < 2 ^ 32
  channels : c.credits.length = 64
  credits : ∀ x ∈ c.credits, x < 2 ^ 32
  pool : c.pool < 2 ^ 32
  ctrl : c.ctrlCredits < 2 ^ 32

end Sys2Proof
end

