-- ==== Sys2Proof/Certificates/Slice0/Obligations.lean ====
section
/-!
DEFINITION. The statements for the provers, in the order of OBLIGATIONS.json.
-/
open Sys2Proof Sys2Proof.Machine

/-- R128, R131, R135, R136: NOP, SIGNAL, XADD, XGET and KSET complete at issue, with what each changes and nothing else. The model's
choices it rests on: log entries 11 and 14. -/
def Obligations.ScalarInstructionsComplete : Prop :=
  ∀ (t n w : Nat) (bad : List Nat) (s : State),
    (Issues 0x00 t n w bad s → onlyBits [] w = true →
      ∃ u, exec (.nop t n bad) s = .next u ∧ AtIssue t n s u ∧ CountsEvent t w s u ∧ u.stream t n = s.stream t n)
    ∧ (Issues 0x04 t n w bad s → onlyBits [(35, 16)] w = true →
      ∃ u, exec (.signal t n bad) s = .next u ∧ AtIssue t n s u ∧ u.stream t n = s.stream t n
        ∧ ∀ c < 16, u.g (F.TILE_EVT_COUNT t c) % 2 ^ 32 =
            (s.g (F.TILE_EVT_COUNT t c) + (if c = bitsOf w 19 16 then bitsOf w 35 20 else 0)
              + (if evtOf w = some c then 1 else 0)) % 2 ^ 32)
    ∧ (Issues 0x05 t n w bad s → onlyBits [(23, 16), (63, 32)] w = true →
      ∃ u, exec (.xadd t n bad) s = .next u ∧ AtIssue t n s u ∧ CountsEvent t w s u
        ∧ ∀ i, (u.stream t n).xr i = if i = bitsOf w 19 16 ∧ i ≠ 0
            then ((s.stream t n).xr (bitsOf w 23 20) + bitsOf w 63 32) % 2 ^ 32 else (s.stream t n).xr i)
    ∧ (Issues 0x06 t n w bad s → onlyBits [(23, 16)] w = true → bitsOf w 23 20 < 3 →
      ∃ u, exec (.xget t n bad) s = .next u ∧ AtIssue t n s u ∧ CountsEvent t w s u
        ∧ ∀ i, (u.stream t n).xr i = if i = bitsOf w 19 16 ∧ i ≠ 0
            then (if bitsOf w 23 20 = 0 then s.stp.mbCount else if bitsOf w 23 20 = 1 then s.workStep else t) % 2 ^ 32
            else (s.stream t n).xr i)
    ∧ (Issues 0x08 t n w bad s → onlyBits [(23, 16), (72, 32), (127, 96)] w = true →
        (bitOf w 72 = true → bitsOf w 19 16 ≠ bitsOf w 67 64) →
      ∃ u, exec (.kset t n bad) s = .next u ∧ AtIssue t n s u ∧ CountsEvent t w s u
        ∧ ∀ i, (u.stream t n).kr i =
            if i = bitsOf w 19 16 then (bitsOf w 63 32 + (s.stream t n).xr (bitsOf w 23 20)) % 2 ^ 32
            else if bitOf w 72 = true ∧ i = bitsOf w 67 64 then (bitsOf w 127 96 + (s.stream t n).xr (bitsOf w 71 68)) % 2 ^ 32
            else (s.stream t n).kr i)

/-- R141, R142, R156: LD, GLD, ST and GST that pass their checks, have their reservations free, meet no memory error and need not wait for
a request slot move their sectors between bonded memory and SRAM and change no other byte of either. The model's choices it rests on: log
entries 11, 14, 16, 32 and 80. -/
def Obligations.DescriptorTransfersMoveTheirSectors : Prop :=
  ∀ (t n w : Nat) (bad : List Nat) (s : State),
    let v := s.upset t bad
    let a := sectorAccess t n w v
    let r := rowAccess t n w v
    let dpa := a.d.base + 64 * a.off
    let row := r.d.base + 8192 * r.off
    (Issues 0x10 t n w bad s → onlyBits [(97, 16)] w = true → a.len ≠ 0 →
        accessChecks t v a [dkVENT, dkREMOTE] [(a.sram, a.len)] a.off a.len true false = 0 →
        reserveStall (v.tile t) n [a.d.span a.off a.len] [sramSpan (a.sram, a.len)] = none →
        (v.readMem t dpa a.len).2.2 = 0 → Unhindered s (v.readMem t dpa a.len).1 →
      ∃ u, exec (.ld t n bad) s = .next u ∧ TakesOff t n w [a.d.span a.off a.len] [sramSpan (a.sram, a.len)] s u
        ∧ (∀ i < 64 * a.len, sramByte u t (64 * a.sram + i) = s.mem.byte (dpa + i))
        ∧ KeepsSram t s u (64 * a.sram) (64 * a.len) ∧ SameMem s u ∧ OnlyTile t s u
        ∧ KeepsRegs s u (issueFields t n ++ correctFields s.mem))
    ∧ (Issues 0x11 t n w bad s → onlyBits [(97, 16)] w = true → a.len ≠ 0 →
        accessChecks t v a [dkVENT, dkREMOTE] [(a.sram, a.len)] a.off a.len true true = 0 →
        reserveStall (v.tile t) n [sramSpan (a.sram, a.len)] [a.d.span a.off a.len] = none →
        firstBad (v.tile t).badSectors a.sram a.len = none →
        (let r := v.writeMem t dpa ((s.tile t).readSram (64 * a.sram) (64 * a.len)); r.2 = 0 ∧ Unhindered s r.1) →
      ∃ u, exec (.st t n bad) s = .next u ∧ TakesOff t n w [sramSpan (a.sram, a.len)] [a.d.span a.off a.len] s u
        ∧ (∀ i < 64 * a.len, u.mem.byte (dpa + i) = sramByte s t (64 * a.sram + i))
        ∧ KeepsMem s u dpa (64 * a.len) ∧ KeepsSram t s u 0 0 ∧ OnlyTile t s u
        ∧ KeepsRegs s u (issueFields t n ++ countFields))
    ∧ (Issues 0x12 t n w bad s → onlyBits [(92, 16)] w = true → r.len ≠ 0 →
        accessChecks t v r [dkGEYSER] [(r.sram, 128 * r.len)] (128 * r.off) (128 * r.len) (r.sram % 128 == 0) false = 0 →
        reserveStall (v.tile t) n [r.d.span (128 * r.off) (128 * r.len)] [sramSpan (r.sram, 128 * r.len)] = none →
        (v.readMem t row (128 * r.len)).2.2 = 0 → Unhindered s (v.readMem t row (128 * r.len)).1 →
      ∃ u, exec (.gld t n bad) s = .next u
        ∧ TakesOff t n w [r.d.span (128 * r.off) (128 * r.len)] [sramSpan (r.sram, 128 * r.len)] s u
        ∧ (∀ i < 8192 * r.len, sramByte u t (64 * r.sram + i) = s.mem.byte (row + i))
        ∧ KeepsSram t s u (64 * r.sram) (8192 * r.len) ∧ SameMem s u ∧ OnlyTile t s u
        ∧ KeepsRegs s u (issueFields t n ++ correctFields s.mem))
    ∧ (Issues 0x13 t n w bad s → onlyBits [(92, 16)] w = true → r.len ≠ 0 →
        accessChecks t v r [dkGEYSER] [(r.sram, 128 * r.len)] (128 * r.off) (128 * r.len) (r.sram % 128 == 0) true = 0 →
        reserveStall (v.tile t) n [sramSpan (r.sram, 128 * r.len)] [r.d.span (128 * r.off) (128 * r.len)] = none →
        firstBad (v.tile t).badSectors r.sram (128 * r.len) = none →
        (let q := v.writeMem t row ((s.tile t).readSram (64 * r.sram) (8192 * r.len)); q.2 = 0 ∧ Unhindered s q.1) →
      ∃ u, exec (.gst t n bad) s = .next u
        ∧ TakesOff t n w [sramSpan (r.sram, 128 * r.len)] [r.d.span (128 * r.off) (128 * r.len)] s u
        ∧ (∀ i < 8192 * r.len, u.mem.byte (row + i) = sramByte s t (64 * r.sram + i))
        ∧ KeepsMem s u row (8192 * r.len) ∧ KeepsSram t s u 0 0 ∧ OnlyTile t s u
        ∧ KeepsRegs s u (issueFields t n ++ countFields))

/-- R130, R132, R135, R136: WAIT, the release of a waiting WAIT, BNZ, TAG and END; and NOP, SIGNAL, XADD, XGET and KSET, which complete at
issue under the same conditions. The model's choices it rests on: log entries 17 and 19. -/
def Obligations.ControlFlowInstructionsComplete : Prop :=
  ∀ (t n w : Nat) (bad : List Nat) (s : State),
    (Issues 0x03 t n w bad s → onlyBits [(37, 16), (127, 64)] w = true → bitsOf w 17 16 ≠ 3 →
        (bitsOf w 17 16 < 2 → bitsOf w 127 96 = 0) →
        (bitsOf w 17 16 = 1 → (s.gatherCount (bitsOf w 37 22)).isSome = true) →
      (waitHolds t w s = true →
        ∃ u, exec (.wait t n bad) s = .next u ∧ AtIssue t n s u ∧ CountsEvent t w s u ∧ u.stream t n = s.stream t n)
      ∧ (waitHolds t w s = false →
        ∃ u, exec (.wait t n bad) s = .next u ∧ u.seqState t n = seqSTALLED ∧ u.g (F.TILE_SEQ_STATUS_STALL t n) = 2
          ∧ KeepsRegs s u [F.TILE_SEQ_STATUS_STATE t n, F.TILE_SEQ_STATUS_STALL t n] ∧ u.stream t n = s.stream t n
          ∧ { u with fld := s.fld, tiles := s.tiles } = s))
    ∧ (s.tileMayIssue t = true → s.seqState t n = seqSTALLED → s.g (F.TILE_SEQ_STATUS_STALL t n) = 2 → s.nextWord t n = w →
        opOf w = 0x03 → waitHolds t w s = true → s.pc t n < 8191 → n < 2 → Settled s →
      ∃ u, exec (.waitRelease t n bad) s = .next u ∧ AtIssue t n s u ∧ CountsEvent t w s u ∧ u.stream t n = s.stream t n)
    ∧ (Issues 0x07 t n w bad s → onlyBits [(19, 16), (44, 32)] w = true →
        bitsOf w 44 32 < (s.plan.elim [] fun p => p.prog t n).length →
      ∃ u, exec (.bnz t n bad) s = .next u
        ∧ (∀ i, (u.stream t n).xr i = if i = bitsOf w 19 16 ∧ i ≠ 0
            then ((s.stream t n).xr i + 2 ^ 32 - 1) % 2 ^ 32 else (s.stream t n).xr i)
        ∧ u.pc t n = (if bitsOf w 19 16 = 0 ∨ ((s.stream t n).xr (bitsOf w 19 16) + 2 ^ 32 - 1) % 2 ^ 32 ≠ 0
            then bitsOf w 44 32 else s.pc t n + 1)
        ∧ u.g (F.TILE_SEQ_ISSUED_ISSUED t n) = (s.g (F.TILE_SEQ_ISSUED_ISSUED t n) + 1) % 2 ^ 48
        ∧ u.seqState t n = seqISSUING ∧ CountsEvent t w s u ∧ OnlyTile t s u ∧ KeepsRegs s u (issueFields t n)
        ∧ { u with fld := s.fld, tiles := s.tiles } = s)
    ∧ (Issues 0x02 t n w bad s → onlyBits [(47, 16)] w = true →
      ∃ u, exec (.tag t n bad) s = .next u ∧ Passes t n s u ∧ CountsEvent t w s u
        ∧ (u.stream t n).layer = bitsOf w 31 16 ∧ (u.stream t n).oper = bitsOf w 47 32
        ∧ (u.stream t n).x = (s.stream t n).x ∧ (u.stream t n).k = (s.stream t n).k ∧ KeepsSram t s u 0 0 ∧ OnlyTile t s u
        ∧ SameMem s u)
    ∧ (Issues 0x01 t n w bad s → onlyBits [] w = true →
      ∃ u, exec (.endStream t n bad) s = .next u ∧ u.pc t n = s.pc t n + 1
        ∧ u.g (F.TILE_SEQ_ISSUED_ISSUED t n) = (s.g (F.TILE_SEQ_ISSUED_ISSUED t n) + 1) % 2 ^ 48
        ∧ u.seqState t n = seqSTALLED ∧ u.g (F.TILE_SEQ_STATUS_STALL t n) = 7
        ∧ (∃ f, (u.tile t).flights = (s.tile t).flights ++ [f] ∧ f.stream = n ∧ f.evt = evtOf w ∧ f.post = [.ending])
        ∧ KeepsSram t s u 0 0 ∧ OnlyTile t s u ∧ SameMem s u)
    ∧ (∀ e ∈ [(0x00, Instr.nop t n bad, []), (0x04, .signal t n bad, [(35, 16)]), (0x05, .xadd t n bad, [(23, 16), (63, 32)]),
          (0x06, .xget t n bad, [(23, 16)]), (0x08, .kset t n bad, [(23, 16), (72, 32), (127, 96)])],
        Issues e.1 t n w bad s → onlyBits e.2.2 w = true → (e.1 = 0x06 → bitsOf w 23 20 < 3) →
        (e.1 = 0x08 → bitOf w 72 = true → bitsOf w 19 16 ≠ bitsOf w 67 64) →
      ∃ u, exec e.2.1 s = .next u ∧ AtIssue t n s u ∧ KeepsSram t s u 0 0)

/-- R152: a VOP of nonzero length that passes its checks, finds the vector unit idle and its reservations free, and writes no non-finite
element runs: its destination holds the operation's results, form by form. The model's choices it rests on: log entries 11, 14, 22, 24, 25
and 78. -/
def Obligations.VectorOperationsRun : Prop :=
  ∀ (t n w : Nat) (bad : List Nat) (s : State),
    let v := s.upset t bad
    let y := s.stream t n
    let x := v.tile t
    let op := bitsOf w 21 16
    let ssel := bitsOf w 108 106
    let len := bitsOf w 102 86
    let k13 := y.kr 13
    let k15 := y.kr 15
    let bk := bitOf w 22
    let a := sramOp y w 23
    let b := sramOp y w 44
    let d := sramOp y w 65
    let count := 16 * len
    let aLen := if op = 22 then len / 1024 * formSectors (k15 % 8) else len
    let dLen := if op ≤ 17 ∨ op = 22 then len else if op ≤ 20 then (count / k13 + 15) / 16 else fmtSectors (modeFmt k15) count
    let rd := (if ssel = 0 then [(a, aLen)] else []) ++ (if vopReadsB op && !bk then [(b, len)] else [])
      ++ (if vopReadsD op then [(d, len)] else [])
    let slots := if ssel = 0 then [] else [ssel - 1]
    let src := if ssel = 0 then x.words a count else (x.scoreWords (ssel - 1)).take count
    let runs (l : List VecWrite) (sfu : Nat) : Prop := (∀ e ∈ l, firstNonFinite e.tally = none) →
      ∃ u, exec (.vop t n bad) s = .next u ∧ VectorRuns t n w rd [(d, dLen)] slots sfu [] l v s u
    Issues 0x30 t n w bad s → onlyBits [(102, 16), (108, 106)] w = true → ssel < 5 → (ssel ≠ 0 → len ≤ 1024) →
      vopLenOk op len k13 k15 = true → len ≠ 0 → VecReady t n rd [(d, dLen)] slots v →
      (op ≤ 17 → runs [VecWrite.words d (List.zipWith (fun p z => vopElem op p.1 p.2 z)
          (src.zip (if bk then List.replicate count (y.kr (bitsOf w 47 44)) else if vopReadsB op then x.words b count else src))
          (if vopReadsD op then x.words d count else src))] (if 12 ≤ op then count else 0))
      ∧ (18 ≤ op → op ≤ 20 → runs [VecWrite.words d ((chunksOf k13 count src).map (vopRow op))] 0)
      ∧ (op = 21 → runs (VecWrite.blocks d (modeFmt k15) (modeOvf k15) ((chunksOf 16384 count src).map (chunksOf 128 128))) 0)
      ∧ (op = 22 → runs ((List.range (len / 1024)).map fun i => VecWrite.words (d + 1024 * i) ((List.range 128).flatMap
          (blockOfBytes (k15 % 8) (sliceBytes (if ssel = 0 then x.readSram (64 * a) (64 * aLen) else wordBytes (x.scoreWords (ssel - 1)))
            (64 * formSectors (k15 % 8) * i) (64 * formSectors (k15 % 8)))).row)) 0)
      ∧ (op = 23 → runs [VecWrite.linear d (modeFmt k15) (modeOvf k15) src] 0)

/-- R103 to R106: NORM_FWD, NORM_BWD_ACC and NORM_BWD_FIN that pass their checks and write no non-finite element. The model's choices it
rests on: log entries 11, 12, 24, 25, 27, 29, 78 and 79. -/
def Obligations.NormalisationKernelsRun : Prop :=
  ∀ (t n w : Nat) (bad : List Nat) (s : State),
    let v := s.upset t bad
    let y := s.stream t n
    let x := v.tile t
    let k13 := y.kr kROWLEN
    let blocks := k13 / 128
    let cb := y.kr kCOLBLK
    let fmt := s.saveFmt y
    let ln := kcNorm w == 1
    let k := kcSlot w
    let fin (l : List VecWrite) : Prop := ∀ e ∈ l, firstNonFinite e.tally = none
    (let rd := [(opA y w, blocks * fmtSectors fmt 16384), (y.kr kGAIN, k13 / 16)]
      let wr := [(opD y w, blocks * fmtSectors y.kfmt 16384), (y.kr kSTATS, 16)]
      let rows := (x.bandRows fmt (opA y w) blocks).map (normRow ln (y.kr kEPS) (y.kr kINVN) (x.words (y.kr kGAIN) k13))
      let l := VecWrite.blocks (opD y w) y.kfmt y.kovf (bandBlocks blocks (rows.map (·.1)))
        ++ [VecWrite.words (y.kr kSTATS) (rows.flatMap fun e => [e.2.1, e.2.2])]
      Issues 0x40 t n w bad s → kernelFieldsOk w false true false true false true = true → rowLenOk k13 = true → y.kmodeOk = true →
        VecReady t n rd wr [] v → fin l →
      ∃ u, exec (.normFwd t n bad) s = .next u ∧ VectorRuns t n w rd wr [] 128 [] l v s u)
    ∧ (let aux := y.kr kAUX + 16 * cb
      let rd := [(opA y w, fmtSectors fmt 16384), (y.kr kSTATS, 16), (y.kr kGAIN, k13 / 16)] ++ (if kcFirst w then [] else [(aux, 16)])
      let wr := [(opD y w, 1024), (aux, 16)]
      let dy := chunksOf 128 128 (x.scoreWords (kSsel w - 1))
      let xs := x.blockRows fmt (opA y w)
      let xh := List.zipWith (fun r z => r.map (xhat z)) xs (x.statRows (y.kr kSTATS))
      let h := dy.map fun r => List.zipWith mul32 (((x.words (y.kr kGAIN) k13).drop (128 * cb)).take 128) r
      let slot := if cb = 0 then KSlot.opened [] else x.kslot k
      let slot' := { slot with
        terms1 := List.zipWith (fun l v => addLanes l (128 * cb) v) (if slot.terms1.isEmpty then List.replicate 128 [] else slot.terms1)
          (if ln then h else List.zipWith (List.zipWith mul32) h xs)
        terms2 := List.zipWith (fun l v => addLanes l (128 * cb) v) (if slot.terms2.isEmpty then List.replicate 128 [] else slot.terms2)
          (if ln then List.zipWith (List.zipWith mul32) h xh else []) }
      let old := (chunksOf 2 128 (x.words aux 256)).map fun p => Pair.mk (p.getD 0 0) (p.getD 1 0)
      let terms := List.zipWith (List.zipWith mul32) dy xh
      let pairs := old.zipIdx.map fun p => addGain (kcFirst w) p.1 (terms.map fun r => r.getD p.2 0)
      let l := [VecWrite.words (opD y w) dy.flatten, VecWrite.words aux (pairs.flatMap fun p => [p.s, p.e])]
      Issues 0x41 t n w bad s → kernelFieldsOk w true true false true false true = true → rowLenOk k13 = true → cb < blocks →
        VecReady t n rd wr [kSsel w - 1] v → kslotGate t n k (cb == 0) v = none → fin l →
      ∃ u, exec (.normBwdAcc t n bad) s = .next u
        ∧ VectorRuns t n w rd wr [kSsel w - 1] 0 [] l (v.openSlot t n k slot') s u)
    ∧ (let aux := y.kr kAUX
      let rd := [(opA y w, fmtSectors fmt 16384), (opB y w, 1024), (y.kr kSTATS, 16), (y.kr kGAIN, k13 / 16)]
        ++ (if aux = noAux then [] else [(aux, 1024)])
      let wr := [(opD y w, fmtSectors y.kfmt 16384)]
      let g := ((x.words (y.kr kGAIN) k13).drop (128 * cb)).take 128
      let slot := x.kslot k
      let dx (i : Nat) := List.zipWith (fun v e => dxElem ln (y.kr kINVN) ((x.statRows (y.kr kSTATS)).getD i (0, 0))
        (lanesSum (slot.terms1.getD i [])) (lanesSum (slot.terms2.getD i [])) v e.1 e.2)
        ((x.blockRows fmt (opA y w)).getD i []) (g.zip ((x.blockRows 4 (opB y w)).getD i []))
      let l := [VecWrite.block (opD y w) y.kfmt y.kovf ((List.range 128).map fun i =>
        if aux = noAux then dx i else List.zipWith add32 (dx i) ((if aux = noAux then [] else x.blockRows 4 aux).getD i []))]
      Issues 0x42 t n w bad s → kernelFieldsOk w false true true true false true = true → rowLenOk k13 = true → cb < blocks →
        y.kmodeOk = true → VecReady t n rd wr [] v → kslotGate t n k false v = none → fin l →
      ∃ u, exec (.normBwdFin t n bad) s = .next u
        ∧ VectorRuns t n w rd wr [] 0 [] l (if cb = blocks - 1 then v.closeSlot t k else v) s u)

/-- R107 to R114: the attention kernels that pass their checks and write no non-finite element. The α of a row whose maxima are both −∞ is
a free value (log entry 6). The model's choices it rests on: log entries 6, 12, 22, 26, 27, 78 and 79. -/
def Obligations.AttentionKernelsRun : Prop :=
  ∀ (t n w : Nat) (bad : List Nat) (s : State),
    let v := s.upset t bad
    let y := s.stream t n
    let x := v.tile t
    let k := kcSlot w
    let i := kSsel w - 1
    let out := fmtSectors y.kfmt 16384
    let fin (l : List VecWrite) : Prop := ∀ e ∈ l, firstNonFinite e.tally = none
    (let slot := if kcFirst w then KSlot.opened (List.replicate 128 Online.opened) else x.kslot k
      let res := (List.range 128).map fun j =>
        attnRow (slot.recs.getD j Online.opened) ((chunksOf 128 128 (x.scoreWords i)).getD j []) ((x.maskRows y w).getD j [])
      let slot' := { slot with recs := res.map (·.1), alpha := res.zipIdx.map fun e => v.alphaOr e.2 e.1.2.1 }
      let l := [VecWrite.block (opD y w) y.kfmt y.kovf (res.map (·.2.2))]
      Issues 0x43 t n w bad s → kernelFieldsOk w true false false true true false = true → y.kmodeOk = true → positionsOk y = true →
        VecReady t n (docSpans y w) [(opD y w, out)] [i] v → kslotGate t n k (kcFirst w) v = none → fin l →
      ∃ u, exec (.attnP t n bad) s = .next u
        ∧ VectorRuns t n w (docSpans y w) [(opD y w, out)] [i] 16640 [] l ((v.tookFree 128).openSlot t n k slot') s u)
    ∧ (let slot := x.kslot k
      let o := if slot.firstO then List.replicate 16384 0 else slot.o
      let alpha := (List.range 128).map fun j => v.alphaOr j slot.alpha[j]?
      let o' := (List.zipWith (fun a b => (a, b)) o (x.scoreWords i)).zipIdx.map fun e =>
        fma32 e.1.1 (alpha.getD (e.2 / 128) 0) e.1.2
      Issues 0x44 t n w bad s → kernelFieldsOk w true false false false false false = true →
        VecReady t n [] [] [i] v → kslotGate t n k false v = none →
      ∃ u, exec (.attnO t n bad) s = .next u
        ∧ VectorRuns t n w [] [] [i] 0 [] [] ((v.tookFree 128).setKslot t k { slot with o := o', firstO := false }) s u)
    ∧ (let slot := x.kslot k
      let res := (List.range 128).map fun j =>
        let r := slot.recs.getD j Online.opened
        if r.m = negInf32 then (List.replicate 128 0, [negInf32, 0])
        else (((chunksOf 128 128 slot.o).getD j []).map fun z => mul32 z (rcp32 (Pair.final ⟨r.ls, r.le⟩)),
          [r.m, rcp32 (Pair.final ⟨r.ls, r.le⟩)])
      let l := [VecWrite.block (opD y w) y.kfmt y.kovf (res.map (·.1)), VecWrite.words (y.kr kSTATS) (res.flatMap (·.2))]
      Issues 0x45 t n w bad s → kernelFieldsOk w false false false true false false = true → y.kmodeOk = true →
        VecReady t n [] [(opD y w, out), (y.kr kSTATS, 16)] [] v → kslotGate t n k false v = none → fin l →
      ∃ u, exec (.attnFin t n bad) s = .next u
        ∧ VectorRuns t n w [] [(opD y w, out), (y.kr kSTATS, 16)] [] 128 [] l (v.closeSlot t k) s u)
    ∧ (let fmt := s.saveFmt y
      let rd := [(opA y w, fmtSectors fmt 16384), (opB y w, fmtSectors fmt 16384)]
      let l := [VecWrite.words (opD y w) (List.zipWith (fun a b => rowSum32 (List.zipWith mul32 a b))
        (x.blockRows fmt (opA y w)) (x.blockRows fmt (opB y w)))]
      Issues 0x46 t n w bad s → kernelFieldsOk w false true true true false false = true → VecReady t n rd [(opD y w, 8)] [] v → fin l →
      ∃ u, exec (.attnDterm t n bad) s = .next u ∧ VectorRuns t n w rd [(opD y w, 8)] [] 0 [] l v s u)
    ∧ (let j := 2 * (i / 2)
      let rd := [(opA y w, 8)] ++ docSpans y w ++ [(y.kr kSTATS, 16)]
      let res := (List.range 128).map fun r =>
        List.zipWith (fun a b => dsElem ((x.statRows (y.kr kSTATS)).getD r (0, 0)) ((x.words (opA y w) 128).getD r 0) (y.kr kCONST) a b.1 b.2)
          ((chunksOf 128 128 (x.scoreWords j)).getD r [])
          (((chunksOf 128 128 (x.scoreWords (j + 1))).getD r []).zip ((x.maskRows y w).getD r []))
      let p := halfBlock t n 0 y s.freeCount (res.map fun r => r.map (·.1))
      let ds := halfBlock t n 1 y (s.freeCount + 1) (res.map fun r => r.map (·.2))
      Issues 0x47 t n w bad s → kernelFieldsOk w true true false false true false = true → y.kmodeOk = true → y.kfmt < 4 → positionsOk y = true →
        VecReady t n rd [] [j, j + 1] v → (∀ h < 2, s.g (halfStateF t h) = 0 ∨ ((s.tile t).half h).owner = some n) →
        firstNonFinite p.tally = none → firstNonFinite ds.tally = none →
      ∃ u, exec (.attnDs t n bad) s = .next u
        ∧ TakesOff t n w (rd.map sramSpan) [] s u
        ∧ (∃ f, (u.tile t).flights.getLast? = some f ∧ f.post = [.vectorDone [j, j + 1] 16384, .halfLoaded 0, .halfLoaded 1]
          ∧ f.ready = true ∧ f.fills = [p, ds].filter fun e => s.g (halfStateF t e.half) != 0)
        ∧ (∀ e ∈ [p, ds],
          (s.g (halfStateF t e.half) = 0 → (u.tile t).half e.half = ⟨some n, e.block⟩ ∧ u.g (halfStateF t e.half) = 1
            ∧ u.g (halfFormF t e.half) = y.kfmt)
          ∧ (s.g (halfStateF t e.half) ≠ 0 → (u.tile t).half e.half = (s.tile t).half e.half
            ∧ u.g (halfStateF t e.half) = s.g (halfStateF t e.half) ∧ u.g (halfFormF t e.half) = s.g (halfFormF t e.half)))
        ∧ u.g (F.TILE_VEC_STATUS_BUSY t) = 1 ∧ KeepsSram t s u 0 0 ∧ OnlyTile t s u
        ∧ KeepsRegs s u (issueFields t n ++ [F.TILE_VEC_STATUS_BUSY t, F.TILE_VEC_STATUS_SFU_BUSY t, halfStateF t 0, halfStateF t 1,
          halfFormF t 0, halfFormF t 1])
        ∧ { u with fld := s.fld, tiles := s.tiles, num := s.num, freeCount := s.freeCount } = s)

/-- R116 to R118, R154: the loss kernels and the moves of kernel-state slots that pass their checks and write no non-finite element. The
model's choices it rests on: log entries 12, 26, 28 and 79. -/
def Obligations.LossAndSlotKernelsRun : Prop :=
  ∀ (t n w : Nat) (bad : List Nat) (s : State),
    let v := s.upset t bad
    let y := s.stream t n
    let x := v.tile t
    let k := kcSlot w
    let i := kSsel w - 1
    let tg := x.words (y.kr kTARGETS) 128
    let fin (l : List VecWrite) : Prop := ∀ e ∈ l, firstNonFinite e.tally = none
    (let rd := [(opA y w, 32), (y.kr kTARGETS, 8)]
      let slot := if kcFirst w
        then KSlot.opened (tg.map fun e => { Online.opened with t := if e = noTarget then 0 else nan32 }) else x.kslot k
      let z := x.scoreWords i
      let recs := (chunksOf 128 128 z).zipIdx.map fun r => xentRow (y.kr kVOCAB) (tg.getD r.2 0)
        (leAt (x.readSram (64 * opA y w) 2048) (16 * r.2) 4) r.1 (slot.recs.getD r.2 Online.opened)
      let l := [VecWrite.words (opD y w) z]
      Issues 0x48 t n w bad s → kernelFieldsOk w true true false true false false = true → VecReady t n rd [(opD y w, 1024)] [i] v →
        kslotGate t n k (kcFirst w) v = none → fin l →
      ∃ u, exec (.xentBlk t n bad) s = .next u
        ∧ VectorRuns t n w rd [(opD y w, 1024)] [i] 16640 [] l (v.openSlot t n k { slot with recs := recs }) s u)
    ∧ (let rd := [(opA y w, 1024), (y.kr kTARGETS, 8)]
      let wr := [(opD y w, fmtSectors y.kfmt 16384)]
      let l := [VecWrite.block (opD y w) y.kfmt y.kovf ((x.blockRows 4 (opA y w)).zipIdx.map fun r =>
        xentGradRow (y.kr kVOCAB) (tg.getD r.2 0) (y.kr kSCALE) ((x.kslot k).recs.getD r.2 Online.opened) r.1)]
      Issues 0x49 t n w bad s → kernelFieldsOk w false true false true false false = true → y.kmodeOk = true → VecReady t n rd wr [] v →
        kslotGate t n k false v = none → fin l →
      ∃ u, exec (.xentGrad t n bad) s = .next u ∧ VectorRuns t n w rd wr [] 16512 [] l v s u)
    ∧ (let losses := ((x.kslot k).recs.zip tg).filterMap fun e => if e.2 = noTarget then none else some (lossOf e.1)
      let p := match if kcFirst w then none else y.lossPair with
        | none => Pair.ofList losses
        | some p => some (losses.foldl Pair.add p)
      let count := ((if kcFirst w then 0 else y.lossCount) + losses.length) % 2 ^ 32
      let sum := VecWrite.words (y.kr kAUX) [(p.map Pair.final).getD 0]
      let l := [{ sum with bytes := sum.bytes ++ leBytes 4 count }]
      let rd := [(y.kr kTARGETS, 8)]
      let wr := [(y.kr kAUX, 1)]
      Issues 0x4D t n w bad s → onlyBits [(47, 16)] w = true → kcRsvdOk w = true → VecReady t n rd wr [] v →
        kslotGate t n k false v = none → fin l →
      ∃ u, exec (.xentLoss t n bad) s = .next u
        ∧ VectorRuns t n w rd wr [] losses.length [] l
          ((v.closeSlot t k).setStream t n fun y => { y with lossPair := p, lossCount := count }) s u)
    ∧ (let j := bitsOf w 16 16
      let a := sramOp y w 17
      Issues 0x4A t n w bad s → onlyBits [(37, 16)] w = true → VecReady t n [] [(a, 32)] [] v → kslotGate t n j false v = none →
        fin [recordWrite a ((List.range 128).map fun r => (x.kslot j).recs.getD r Online.opened)] →
      ∃ u, exec (.kstore t n bad) s = .next u
        ∧ VectorRuns t n w [] [(a, 32)] [] 0 [] [recordWrite a ((List.range 128).map fun r => (x.kslot j).recs.getD r Online.opened)] v s u)
    ∧ (let j := bitsOf w 16 16
      let a := sramOp y w 17
      Issues 0x4B t n w bad s → onlyBits [(37, 16)] w = true → VecReady t n [(a, 32)] [] [] v → s.g (slotOpenF t j) = 0 →
      ∃ u, exec (.kload t n bad) s = .next u
        ∧ VectorRuns t n w [(a, 32)] [] [] 0 [] []
          (v.openSlot t n j (KSlot.opened ((chunksOf 16 128 (x.readSram (64 * a) 2048)).map onlineOf))) s u)

/-- R141: a transfer of length 0 moves nothing, makes no further check and completes at issue. -/
def Obligations.ZeroLengthTransfersComplete : Prop :=
  ∀ (t n w : Nat) (bad : List Nat) (s : State),
    let asNop (c : Instr) : Prop :=
      ∃ u, exec c s = .next u ∧ AtIssue t n s u ∧ CountsEvent t w s u ∧ u.stream t n = s.stream t n
    (Issues 0x10 t n w bad s → onlyBits [(97, 16)] w = true → bitsOf w 97 81 = 0 → asNop (.ld t n bad))
    ∧ (Issues 0x11 t n w bad s → onlyBits [(97, 16)] w = true → bitsOf w 97 81 = 0 → asNop (.st t n bad))
    ∧ (Issues 0x12 t n w bad s → onlyBits [(92, 16)] w = true → bitsOf w 92 81 = 0 → asNop (.gld t n bad))
    ∧ (Issues 0x13 t n w bad s → onlyBits [(92, 16)] w = true → bitsOf w 92 81 = 0 → asNop (.gst t n bad))
    ∧ (Issues 0x14 t n w bad s → onlyBits [(97, 16)] w = true → bitsOf w 97 81 = 0 → asNop (.hostld t n bad))
    ∧ (Issues 0x15 t n w bad s → onlyBits [(97, 16)] w = true → bitsOf w 97 81 = 0 → asNop (.hostst t n bad))
    ∧ (Issues 0x16 t n w bad s → onlyBits [(76, 16)] w = true → bitsOf w 76 60 = 0 → asNop (.pref t n bad))
    ∧ (Issues 0x18 t n w bad s → onlyBits [(57, 16)] w = true → bitsOf w 57 41 = 0 → asNop (.send t n bad))

/-- R141 to R143, R377, R379, R380: HOSTLD, HOSTST and PREF that pass their checks over an established CXL.cache link. Without a far-cache
partition a HOSTST sends every line to the host and a HOSTLD awaits every line of its span. The model's choices it rests on: log entries
32, 51, 52, 53 and 80. -/
def Obligations.HostTransfersComplete : Prop :=
  ∀ (t n w : Nat) (bad : List Nat) (s : State),
    let v := s.upset t bad
    let a := sectorAccess t n w v
    let first := a.d.base / 64 + a.off
    let rd := [a.d.span a.off a.len]
    let wr := [sramSpan (a.sram, a.len)]
    (Issues 0x14 t n w bad s → onlyBits [(97, 16)] w = true → a.len ≠ 0 → s.cxl = true →
        accessChecks t v a [dkHOST] [(a.sram, a.len)] a.off a.len true false = 0 → reserveStall (v.tile t) n rd wr = none →
      let r := loadLines t first a.sram (List.range a.len) v
      (r.2.2 = 0 → Unhindered s r.1 → ∃ u, exec (.hostld t n bad) s = .next u
        ∧ FliesFrom t n w { rd := rd, wr := wr, waiting := r.2.1, dst := a.sram, src := first } r.1 s u)
      ∧ (s.farParts (.tile t) = [] → ∃ u, exec (.hostld t n bad) s = .next u ∧ KeepsSram t s u 0 0
        ∧ FliesFrom t n w { rd := rd, wr := wr, waiting := (List.range a.len).map (first + ·), dst := a.sram, src := first } r.1 s u))
    ∧ (let bytes := (s.tile t).readSram (64 * a.sram) (64 * a.len)
      Issues 0x15 t n w bad s → onlyBits [(97, 16)] w = true → a.len ≠ 0 → s.cxl = true →
        accessChecks t v a [dkHOST] [(a.sram, a.len)] a.off a.len true true = 0 → reserveStall (v.tile t) n wr rd = none →
        firstBad (v.tile t).badSectors a.sram a.len = none →
      let r := storeLines t (some (t, (s.tile t).nextId)) first a.len bytes v
      (Unhindered s r → ∃ u, exec (.hostst t n bad) s = .next u ∧ KeepsSram t s u 0 0
        ∧ FliesFrom t n w { rd := wr, wr := rd, waiting := r.uncachedLines t first a.len } r s u)
      ∧ (s.farParts (.tile t) = [] → s.g F.HIF_STATUS_LINK_UP ≠ 0 → ∃ u, exec (.hostst t n bad) s = .next u ∧ KeepsSram t s u 0 0
        ∧ FliesFrom t n w { rd := wr, wr := rd, waiting := (List.range a.len).map (first + ·) } r s u
        ∧ u.outbox = s.outbox ++ (List.range a.len).map fun i => .hostWrite (64 * (first + i)) ((bytes.drop (64 * i)).take 64)))
    ∧ (let len := bitsOf w 76 60
      let p : Access' := ⟨s.plan.elim Desc.invalid fun p => p.desc t (bitsOf w 23 16), bitsOf w 59 28 + (s.stream t n).xr (bitsOf w 27 24), 0, len⟩
      Issues 0x16 t n w bad s → onlyBits [(76, 16)] w = true → len ≠ 0 → s.cxl = true → accessChecks t v p [dkHOST] [] p.off len true false = 0 →
      ∃ u, exec (.pref t n bad) s = .next u
        ∧ DoneFrom t n w ((List.range len).foldl (fun s i => s.farPrefetch (.tile t) (p.d.base / 64 + p.off + i)) v) s u
        ∧ KeepsSram t s u 0 0)

/-- R144, R146: a SEND with a credit leaves for the receiver, a RECV takes the channel's next full slot, a FREE gives its stream's oldest
slot back, a message that arrives fills the channel's next slot, and a freed slot's credit returns to the sender. The model's choices it
rests on: log entry 11. -/
def Obligations.MeshMessagesMove : Prop :=
  ∀ (t n w c : Nat) (bad : List Nat) (s : State),
    let v := s.upset t bad
    let y := s.stream t n
    (∀ q p, let src := sramOp y w 20
        let len := bitsOf w 57 41
        let bytes := (s.tile t).readSram (64 * src) (64 * len)
      Issues 0x18 t n w bad s → onlyBits [(57, 16)] w = true → len ≠ 0 → s.dest t (bitsOf w 19 16) = some (q, p) → p.slots ≠ 0 →
        addrCode [(src, len)] (decide (len ≤ p.slotSectors)) = 0 → reserveStall (v.tile t) n [sramSpan (src, len)] [] = none →
        (s.chan q.tile q.chan).used < p.slots → firstBad (v.tile t).badSectors src len = none →
      ∃ u, exec (.send t n bad) s = .next u
        ∧ FliesFrom t n w { rd := [sramSpan (src, len)], ready := false }
          ((v.setChan q.tile q.chan fun h => { h with used := h.used + 1 }).mail
            ⟨t, (s.tile t).nextId, q.tile, q.chan, bytes, [], false, false⟩) s u
        ∧ (u.chan q.tile q.chan).used = (s.chan q.tile q.chan).used + 1
        ∧ u.mesh = s.mesh ++ [⟨t, (s.tile t).nextId, q.tile, q.chan, bytes, [], false, false⟩] ∧ KeepsSram t s u 0 0)
    ∧ (∀ p k rest, let d := bitsOf w 23 20
        let ch := bitsOf w 19 16
      Issues 0x19 t n w bad s → onlyBits [(23, 16)] w = true → s.chanPlan t ch = some p → p.slots ≠ 0 → (s.chan t ch).full = k :: rest →
      ∃ u, exec (.recv t n bad) s = .next u ∧ AtIssue t n s u ∧ CountsEvent t w s u
        ∧ (∀ i, (u.stream t n).xr i = if i = d ∧ i ≠ 0 then (p.base + k * p.slotSectors) % 2 ^ 32 else y.xr i)
        ∧ (u.stream t n).taken = y.taken ++ [(ch, k)] ∧ u.chan t ch = { s.chan t ch with full := rest }
        ∧ ∀ e, e ≠ ch → u.chan t e = s.chan t e)
    ∧ (∀ p k rest, let ch := bitsOf w 19 16
      Issues 0x1A t n w bad s → onlyBits [(19, 16)] w = true → s.chanPlan t ch = some p → p.slots ≠ 0 →
        takeFirst (fun e => e.1 == ch) y.taken = some ((ch, k), rest) →
      ∃ u, exec (.free t n bad) s = .next u ∧ AtIssue t n s u ∧ CountsEvent t w s u ∧ (u.stream t n).taken = rest
        ∧ (u.stream t n).x = y.x
        ∧ u.chan t ch = { s.chan t ch with freed := (s.chan t ch).freed ++ [(k, n, (s.tile t).nextId)] }
        ∧ ∀ e, e ≠ ch → u.chan t e = s.chan t e)
    ∧ (∀ p m rest, let k := (s.chan t c).next
      s.chanPlan t c = some p → s.meshFirst t c = some (m, rest) → s.working = true → s.tileAwake t = true → m.chain = false →
        0 < p.slots → m.partial' = false → Settled s →
      ∃ u, exec (.meshDelivery t c) s = .next u ∧ u.mesh = rest ∧ u.tilePower t = tpRUN
        ∧ KeepsRegs s u [F.PWR_CLU_TILES (t / 8), F.CFG_STATUS_STATE]
        ∧ (u.tile t).sram = putBytes (s.tile t).sram (64 * (p.base + k * p.slotSectors)) m.bytes
        ∧ u.chan t c = { s.chan t c with full := (s.chan t c).full ++ [k], next := (k + 1) % p.slots }
        ∧ (u.tile m.srcTile).flights = (s.tile m.srcTile).flights.map (fun f => if f.id = m.flight then { f with ready := true } else f)
        ∧ { u with fld := s.fld, tiles := s.tiles, mesh := s.mesh, loader := s.loader } = s)
    ∧ (∀ p k b rest, s.chanPlan t c = some p → (s.chan t c).freed = (k, n, b) :: rest → s.working = true →
        ((s.tile t).flights.any fun f => f.stream == n && decide (f.id < b) && f.rd.any (p.slotSpan k).meets) = false → Settled s →
      ∃ u, exec (.creditReturn t c) s = .next u ∧ u.chan t c = { s.chan t c with used := (s.chan t c).used - 1, freed := rest }
        ∧ (∀ e, e ≠ c → u.chan t e = s.chan t e) ∧ OnlyTile t s u ∧ KeepsSram t s u 0 0
        ∧ { u with tiles := s.tiles } = s)

/-- R59, R60, R69, R71, R124, R125, R149: SLOAD and GBLOAD take a free bank or half and fill it from SRAM, which their completion ends;
OUSET writes its stream's setup of one output unit. The model's choices it rests on: log entry 11. -/
def Obligations.ArrayFeedsLoad : Prop :=
  ∀ (t n w : Nat) (bad : List Nat) (s : State),
    let v := s.upset t bad
    let x := v.tile t
    (let arr := bitsOf w 16 16
      let sb := bitsOf w 17 17
      let form := bitsOf w 20 18
      let src := sramOp (s.stream t n) w 21
      let rd := [sramSpan (src, formSectors form)]
      Issues 0x20 t n w bad s → onlyBits [(41, 16)] w = true → form ≤ 3 → addrCode [(src, formSectors form)] true = 0 →
        reserveStall x n rd [] = none → ((x.stat' arr sb).owner = none ∨ (x.stat' arr sb).owner = some n) →
        x.flights.any (Flight.usesBank arr sb) = false → firstBad x.badSectors src (formSectors form) = none →
      ∃ u, exec (.sload t n bad) s = .next u
        ∧ FliesFrom t n w { rd := rd, post := [.statLoaded arr sb] }
          ((v.setTile t fun x => x.setStat arr sb ⟨some n, true, x.block form src⟩).set (F.TILE_ARR_STATUS_LOADING t arr) 1) s u
        ∧ (u.tile t).stat' arr sb = ⟨some n, true, x.block form src⟩ ∧ u.g (F.TILE_ARR_STATUS_LOADING t arr) = 1
        ∧ KeepsSram t s u 0 0)
    ∧ (let h := bitsOf w 16 16
      let form := bitsOf w 19 17
      let src := sramOp (s.stream t n) w 20
      let rd := [sramSpan (src, formSectors form)]
      Issues 0x21 t n w bad s → onlyBits [(40, 16)] w = true → form ≤ 3 → addrCode [(src, formSectors form)] true = 0 →
        reserveStall x n rd [] = none → s.g (halfStateF t h) = 0 → firstBad x.badSectors src (formSectors form) = none →
      ∃ u, exec (.gbload t n bad) s = .next u
        ∧ FliesFrom t n w { rd := rd, post := [.halfLoaded h] }
          (((v.setTile t fun x => x.setHalf h ⟨some n, x.block form src⟩).set (halfStateF t h) 1).set (halfFormF t h) form) s u
        ∧ (u.tile t).half h = ⟨some n, x.block form src⟩ ∧ u.g (halfStateF t h) = 1 ∧ u.g (halfFormF t h) = form
        ∧ KeepsSram t s u 0 0)
    ∧ (let ou := bitsOf w 16 16
      let q : OuSetup := ⟨bitsOf w 63 32, bitsOf w 95 64, bitsOf w 127 96⟩
      Issues 0x23 t n w bad s → onlyBits [(16, 16), (127, 32)] w = true → modeOk q.mode = true → postopOk q.postop = true →
      ∃ u, exec (.ouset t n bad) s = .next u ∧ AtIssue t n s u ∧ CountsEvent t w s u
        ∧ (u.stream t n).setup ou = q ∧ (∀ o, o ≠ ou → o < 2 → (u.stream t n).setup o = (s.stream t n).setup o)
        ∧ (u.stream t n).x = (s.stream t n).x ∧ (u.stream t n).k = (s.stream t n).k)
    ∧ (∀ f rest k, takeFirst (fun g => g.id == f.id) (s.tile t).flights = some (f, rest) → (∀ g ∈ rest, g.id ≠ f.id) → f.ready = true →
        f.waiting = [] → f.fills = [] → s.working = true → s.tileAwake t = true → Settled s →
      (∀ sb, k < 2 → f.post = [.statLoaded k sb] → ∃ u, exec (.instructionComplete t f.id) s = .next u ∧ (u.tile t).flights = rest
        ∧ ((u.tile t).stat' k sb).loading = false ∧ OnlyTile t s u ∧ KeepsSram t s u 0 0)
      ∧ (k < 2 → f.post = [.halfLoaded k] → ∃ u, exec (.instructionComplete t f.id) s = .next u ∧ (u.tile t).flights = rest
        ∧ u.g (halfStateF t k) = 2 ∧ (u.tile t).half k = (s.tile t).half k ∧ OnlyTile t s u ∧ KeepsSram t s u 0 0))

/-- R62 to R74, R77, R150: an MPASS whose operands, banks and scales are as R156 asks runs its pass, or the D and W pair, into its
accumulator banks. The model's choices it rests on: log entries 11 and 18. -/
def Obligations.ArrayPassesRun : Prop :=
  ∀ (t n w : Nat) (bad : List Nat) (s : State),
    let v := s.upset t bad
    let x := v.tile t
    let y := s.stream t n
    let sel := bitsOf w 25 24
    let reqs := passReqs w
    let src := sramOp y w 26
    let prec := (y.setup (if bitsOf w 17 16 = 1 then 1 else 0)).mode % 8
    let rd := if sel = 0 then [sramSpan (src, formSectors prec)] else []
    let a := if sel = 0 then x.block prec src else (x.half (sel - 1)).block
    let r := reqs.foldl (fun s p => runPass t n p a s) v
    Issues 0x22 t n w bad s → mpassFieldsOk w = true → (sel = 0 → reqs.any (fun p => p.kind == kW) = false) →
      (sel = 0 → addrCode [(src, formSectors prec)] true = 0) → reserveStall x n rd [] = none →
      (sel ≠ 0 → halfGate t n (sel - 1) v = none) → (sel = 0 → firstBad x.badSectors src (formSectors prec) = none) →
      (∀ p ∈ reqs, passGate t n v p (if sel = 0 then none else some (sel - 1)) a = none) →
    ∃ u, exec (.mpass t n bad) s = .next u
      ∧ FliesFrom t n w { rd := rd, post := reqs.map (fun p => Post.passDone p.arr p.sb (passesOf ((y.setup p.arr).mode % 8)).length (bitOf w 47))
          ++ (if sel = 0 then [] else [.halfRead (sel - 1) (bitOf w 48)]) }
        (if sel = 0 then r else r.set (halfStateF t (sel - 1)) 3) s u
      ∧ (∀ p ∈ reqs, u.bank t p.arr p.ab = (s.bank t p.arr p.ab).accumulate
            (contributions p.kind ((y.setup p.arr).mode % 8) a (x.stat' p.arr p.sb).block).1
          ∧ u.bankState t p.arr p.ab = bkLIVE ∧ u.g (bankStreamF t p.arr p.ab) = n ∧ u.g (F.TILE_ARR_STATUS_BUSY t p.arr) = 1)
      ∧ KeepsSram t s u 0 0

/-- R79 to R81, R147: OUSAVE and CHAINOUT move an accumulator pair out bit for bit and leave its bank EMPTY; OURESTORE fills an EMPTY
bank; CHAININ arms one, and the pair that arrives makes it LIVE. The model's choices it rests on: log entries 17, 18, 21, 32 and 77. -/
def Obligations.AccumulatorPairsMove : Prop :=
  ∀ (t n w c : Nat) (bad : List Nat) (s : State),
    let v := s.upset t bad
    let ou := bitsOf w 16 16
    let b := bitsOf w 17 17
    let p := pairTarget t n w v
    let dpa := p.a.d.base + 64 * p.a.off
    let out := pairBytes ((s.bank t ou b).planes.map fun q => ⟨noNegZero q.s, noNegZero q.e⟩)
    (Issues 0x25 t n w bad s → pairChecks t w p true v = 0 → reserveStall (v.tile t) n [] [p.span] = none → bankTake t n ou b v = none →
        (p.toDesc = true → let r := (v.setBank t 0 ou b bkEMPTY Bank.empty).writeMem t dpa out; r.2 = 0 ∧ Unhindered s r.1) →
      ∃ u, exec (.ousave t n bad) s = .next u ∧ TakesOff t n w [] [p.span] s u ∧ u.bank t ou b = Bank.empty
        ∧ u.bankState t ou b = bkEMPTY
        ∧ (p.toDesc = false → (u.tile t).sram = putBytes (s.tile t).sram (64 * p.sram) out ∧ SameMem s u)
        ∧ (p.toDesc = true → KeepsSram t s u 0 0 ∧ KeepsMem s u dpa 131072 ∧ ∀ i < 131072, u.mem.byte (dpa + i) = out.getD i 0)
        ∧ OnlyTile t s u)
    ∧ (Issues 0x26 t n w bad s → pairChecks t w p false v = 0 → reserveStall (v.tile t) n [p.span] [] = none → s.bankState t ou b = bkEMPTY →
        (p.toDesc = true → (v.readMem t dpa 2048).2.2 = 0 ∧ Unhindered s (v.readMem t dpa 2048).1) →
        (p.toDesc = false → firstBad (v.tile t).badSectors p.sram 2048 = none) →
      ∃ u, exec (.ourestore t n bad) s = .next u ∧ TakesOff t n w [p.span] [] s u
        ∧ u.bank t ou b = ⟨pairsOfBytes (if p.toDesc then s.mem.read dpa 131072 else (s.tile t).readSram (64 * p.sram) 131072), none⟩
        ∧ u.bankState t ou b = bkLIVE ∧ u.g (bankStreamF t ou b) = n ∧ KeepsSram t s u 0 0 ∧ SameMem s u ∧ OnlyTile t s u)
    ∧ (∀ q k, Issues 0x27 t n w bad s → onlyBits [(21, 16)] w = true → s.dest t (bitsOf w 21 18) = some (q, k) → k.slots = 0 →
        bankTake t n ou b v = none → v.armed q.tile q.chan ≠ 0 →
      ∃ u, exec (.chainout t n bad) s = .next u ∧ TakesOff t n w [] [] s u
        ∧ u.mesh = s.mesh ++ [⟨t, (s.tile t).nextId, q.tile, q.chan, [], (s.bank t ou b).planes, true, false⟩]
        ∧ u.bank t ou b = Bank.empty ∧ u.bankState t ou b = bkEMPTY ∧ KeepsSram t s u 0 0 ∧ SameMem s u ∧ OnlyTile t s u)
    ∧ (∀ k, Issues 0x28 t n w bad s → onlyBits [(21, 16)] w = true → s.chanPlan t (bitsOf w 21 18) = some k → k.slots = 0 →
        s.bankState t ou b = bkEMPTY →
      ∃ u, exec (.chainin t n bad) s = .next u ∧ TakesOff t n w [] [] s u ∧ u.bank t ou b = ⟨[], some (bitsOf w 21 18)⟩
        ∧ u.bankState t ou b = bkWAITCHAIN ∧ u.g (bankStreamF t ou b) = n ∧ KeepsSram t s u 0 0 ∧ SameMem s u ∧ OnlyTile t s u)
    ∧ (∀ m rest f, s.meshFirst t c = some (m, rest) →
        ((s.tile t).flights.find? fun f => f.op == 0x28 && !f.ready && (s.bank t (f.dst / 2) (f.dst % 2)).chan == some c) = some f →
        f.dst < 4 → f.stream < 2 → s.working = true → s.tileAwake t = true → m.chain = true → Settled s →
      ∃ u, exec (.chainPairArrival t c) s = .next u ∧ u.mesh = rest ∧ u.bank t (f.dst / 2) (f.dst % 2) = ⟨m.pairs, none⟩
        ∧ u.bankState t (f.dst / 2) (f.dst % 2) = bkLIVE
        ∧ (∀ g ∈ (u.tile t).flights, g.id = f.id → g.ready = true) ∧ (∀ g ∈ (u.tile m.srcTile).flights, g.id = m.flight → g.ready = true)
        ∧ SameMem s u ∧ { u with fld := s.fld, tiles := s.tiles, mesh := s.mesh, loader := s.loader } = s)

/-- R72, R78, R82 to R89, R106, R151: OUFIN finalises a bank into SRAM or a score slot, GRADOUT one into a reduction segment, GAINOUT the
gain-gradient pairs into theirs, where no element written is non-finite and no memory request fails. The model's choices it rests on: log
entries 11, 22, 25, 32, 77 and 80. -/
def Obligations.FinalisedResultsLeave : Prop :=
  ∀ (t n w : Nat) (bad : List Nat) (s : State),
    let v := s.upset t bad
    let x := v.tile t
    let y := s.stream t n
    let ou := bitsOf w 16 16
    let b := bitsOf w 17 17
    (let q := y.setup ou
      let fmt := modeFmt q.mode
      let dk := bitsOf w 19 18
      let slot := 2 * ou + dk - 1
      let sp := finSpans y q w
      let rows := finalise x q sp (s.bank t ou b) (bitsOf w 110 104 + 1) (bitsOf w 117 111 + 1)
      let bytes := (writeBlock fmt (modeOvf q.mode) rows (bitsOf w 117 111 + 1)).1
      let tl := (writeBlock fmt (modeOvf q.mode) rows (bitsOf w 117 111 + 1)).2
      let rd := (sp.bias.toList ++ sp.resid.toList).map sramSpan
      let wr := (sp.dst.toList ++ sp.stats.toList).map sramSpan
      Issues 0x24 t n w bad s → oufinFieldsOk q w = true →
        addrCode (sp.dst.toList ++ sp.bias.toList ++ sp.resid.toList ++ sp.stats.toList) true = 0 → reserveStall x n rd wr = none →
        bankTake t n ou b v = none → (dk ≠ 0 → slotGate t n slot v = none) →
        (∀ e ∈ sp.bias.toList ++ sp.resid.toList, firstBad x.badSectors e.1 e.2 = none) → firstNonFinite tl = none →
      ∃ u, exec (.oufin t n bad) s = .next u ∧ TakesOff t n w rd wr s u
        ∧ (∃ f, (u.tile t).flights.getLast? = some f ∧ f.post = [.bankEmpty ou b])
        ∧ u.bankState t ou b = bkFINALISING ∧ u.g (bankStreamF t ou b) = n ∧ u.bank t ou b = s.bank t ou b
        ∧ (u.tile t).sram = stored (s.tile t).sram ((if dk = 0 then [(sramOp y w 20, bytes)] else [])
            ++ sp.stats.toList.map fun e => (e.1, statsRecord rows))
        ∧ (dk ≠ 0 → scoreFull u t slot = true ∧ (u.tile t).scoreWords slot = wordsOf bytes
          ∧ Sparse.get none slot (u.tile t).scoreOwner = some n)
        ∧ u.num = (s.tally y.layer y.oper tl).num ∧ OnlyTile t s u
        ∧ KeepsRegs s u (issueFields t n ++ [bankStateF t ou b, bankStreamF t ou b, F.TILE_VEC_STATUS_SB0_FULL t, F.TILE_VEC_STATUS_SB1_FULL t])
        ∧ { u with fld := s.fld, tiles := s.tiles, num := s.num } = s)
    ∧ (∀ a, let seg := bitsOf w 41 18 + y.xr (bitsOf w 45 42)
      let e := writeBlock 4 0 (s.bank t ou b).finalRows 128
      let q := (v.tally y.layer y.oper e.2).nameSegments [seg]
      let out := wordBytes (wordsOf e.1)
      Issues 0x29 t n w bad s → onlyBits [(45, 16)] w = true → segmentCode t [seg] s = 0 → bankTake t n ou b v = none →
        firstNonFinite e.2 = none → s.segAddr seg = some a → (q.writeMem t a out).2 = 0 → Unhindered s (q.writeMem t a out).1 →
      ∃ u, exec (.gradout t n bad) s = .next u ∧ TakesOff t n w [] [] s u
        ∧ (∃ f, (u.tile t).flights.getLast? = some f ∧ f.post = [.bankEmpty ou b, .segmentRelease seg s.workAttempt])
        ∧ u.bankState t ou b = bkFINALISING ∧ u.g (bankStreamF t ou b) = n ∧ u.stp.segsNamed = s.stp.segsNamed ++ [seg]
        ∧ (∀ i < 65536, u.mem.byte (a + i) = out.getD i 0) ∧ KeepsMem s u a 65536 ∧ KeepsSram t s u 0 0 ∧ OnlyTile t s u)
    ∧ (let k13 := y.kr kROWLEN
      let first := bitsOf w 39 16 + y.xr (bitsOf w 43 40)
      let segs := (List.range ((k13 + 16383) / 16384)).map (first + ·)
      let rd := [sramSpan (y.kr kAUX, k13 / 8)]
      let z := VecWrite.words 0 ((chunksOf 2 k13 (x.words (y.kr kAUX) (2 * k13))).map fun p => (Pair.mk (p.getD 0 0) (p.getD 1 0)).final)
      let all := wordsOf z.bytes ++ List.replicate (16384 * segs.length - k13) 0
      let res := (segs.zip (chunksOf 16384 segs.length all)).foldl (fun r e => if r.2 = 0 then r.1.writeSegment t e.1 e.2 else r)
        ((v.tally y.layer y.oper z.tally).nameSegments segs, 0)
      Issues 0x4C t n w bad s → onlyBits [(43, 16)] w = true → rowLenOk k13 = true → segmentCode t segs s = 0 →
        addrCode [(y.kr kAUX, k13 / 8)] true = 0 → reserveStall x n rd [] = none → s.g (F.TILE_VEC_STATUS_BUSY t) = 0 →
        firstBad x.badSectors (y.kr kAUX) (k13 / 8) = none → firstNonFinite z.tally = none → res.2 = 0 →
        Unhindered s res.1 →
      ∃ u, exec (.gainout t n bad) s = .next u ∧ TakesOff t n w rd [] s u
        ∧ (∃ f, (u.tile t).flights.getLast? = some f
          ∧ f.post = .vectorDone [] 0 :: segs.map fun k => .segmentRelease k s.workAttempt)
        ∧ u.g (F.TILE_VEC_STATUS_BUSY t) = 1 ∧ u.stp.segsNamed = s.stp.segsNamed ++ segs ∧ u.mem = res.1.mem
        ∧ KeepsSram t s u 0 0 ∧ OnlyTile t s u)

/-- R71, R72, R121, R124, R131, R135: an instruction in flight that may complete gives up its flight, counts its event and brings what its
completion brings; a half that it frees goes to the block that waits for it (R114). The model's choices it rests on: log entries 11 and
13. -/
def Obligations.FlightsComplete : Prop :=
  ∀ (t w : Nat) (s : State) (f : Flight) (rest : List Flight),
    takeFirst (fun g => g.id == f.id) (s.tile t).flights = some (f, rest) → (∀ g ∈ rest, g.id ≠ f.id) → f.evt = evtOf w → f.stream < 2 →
      s.working = true → s.tileAwake t = true → (s.tile t).mayComplete f = true → Settled s →
      (∀ g ∈ (s.tile t).flights, ∀ e ∈ g.fills, e.trap = none) →
    let awaits (h : Nat) : Option (Flight × HalfFill) :=
      (s.tile t).flights.findSome? fun g => (g.fills.find? fun e => e.half == h).map fun e => (g, e)
    ∃ u, exec (.instructionComplete t f.id) s = .next u ∧ (u.tile t).flights.map (·.id) = rest.map (·.id) ∧ CountsEvent t w s u
      ∧ ((∀ p ∈ f.post, p ≠ .ending ∧ ∀ h, p ≠ .halfRead h true) → (u.tile t).flights = rest)
      ∧ OnlyTile t s u ∧ KeepsSram t s u 0 0 ∧ SameMem s u
      ∧ (∀ arr sb, arr < 2 → f.post = [.statLoaded arr sb] → (u.tile t).stat' arr sb = { (s.tile t).stat' arr sb with loading := false })
      ∧ (∀ arr sb k release, arr < 2 → f.post = [.passDone arr sb k release] →
          u.g (F.TILE_ARR_PASSES_PASSES t arr) = (s.g (F.TILE_ARR_PASSES_PASSES t arr) + k) % 2 ^ 48
          ∧ (u.tile t).stat' arr sb = if release then StatBank.free else (s.tile t).stat' arr sb)
      ∧ (∀ h, h < 2 → f.post = [.halfLoaded h] → u.g (halfStateF t h) = 2)
      ∧ (∀ h, h < 2 → f.post = [.halfRead h true] →
        (awaits h = none → u.g (halfStateF t h) = 0 ∧ (u.tile t).half h = Half.free)
        ∧ (∀ g e, awaits h = some (g, e) → u.g (halfStateF t h) = 1 ∧ (u.tile t).half h = ⟨some g.stream, e.block⟩))
      ∧ (∀ ou b, ou < 2 → b < 2 → f.post = [.bankEmpty ou b] → u.bankState t ou b = bkEMPTY ∧ u.bank t ou b = Bank.empty)
      ∧ (∀ slots sfu, f.post = [.vectorDone slots sfu] → u.g (F.TILE_VEC_STATUS_BUSY t) = 0 ∧ u.g (F.TILE_VEC_STATUS_SFU_BUSY t) = 0
          ∧ u.g (F.TILE_SFU_RESULTS_RESULTS t) = (s.g (F.TILE_SFU_RESULTS_RESULTS t) + sfu) % 2 ^ 48)
      ∧ (∀ seg, f.post = [.segmentRelease seg s.workAttempt] → s.tilesRun = true → seg ∈ u.red.released)
      ∧ (f.post = [.ending] → u.seqState t f.stream = seqIDLE ∧ (u.stream t f.stream).ended = true
          ∧ ∀ e ∈ (u.tile t).stat, e.2.owner ≠ some f.stream)

/-- R126, R156: an instruction held at issue is tried again, and issues as at first once nothing holds it; what still holds it is shown as
its stream's reason. The model's choices it rests on: log entries 17 and 80. -/
def Obligations.HeldInstructionsIssue : Prop :=
  ∀ (t n w : Nat) (bad : List Nat) (s : State) (rule : Rule),
    let v := s.upset t bad
    s.tileMayIssue t = true → s.seqState t n = seqSTALLED → s.g (F.TILE_SEQ_STATUS_STALL t n) ≠ 2 →
      s.g (F.TILE_SEQ_STATUS_STALL t n) ≠ 7 → s.nextWord t n = w → ruleOf (opOf w) = some rule →
      s.pc t n < 8191 → n < 2 → Settled s →
    let calm (r : State) : Prop := (∀ f ∈ issueFields t n, r.g f = s.g f) ∧ Settled r ∧ (r.tile t).flights = (s.tile t).flights
      ∧ Unhindered s r
    (∀ r j, rule t n w v = .flies r j → v.granted t n = true → calm r →
        ((r.stream t n).layer, (r.stream t n).oper) = ((s.stream t n).layer, (s.stream t n).oper) →
      ∃ u, exec (.stalledIssue t n bad) s = .next u ∧ FliesFrom t n w j r s u)
    ∧ ((rule t n w v).issues = true → v.granted t n = false →
      ∃ u, exec (.stalledIssue t n bad) s = .next u ∧ u.seqState t n = seqSTALLED ∧ u.g (F.TILE_SEQ_STATUS_STALL t n) = 0
        ∧ u.pc t n = s.pc t n ∧ { u with fld := s.fld, tiles := s.tiles } = s)
    ∧ (∀ r, rule t n w v = .done r → v.granted t n = true → calm r →
      ∃ u, exec (.stalledIssue t n bad) s = .next u ∧ DoneFrom t n w r s u)
    ∧ (∀ q, rule t n w v = .wait q → q < 8 →
      ∃ u, exec (.stalledIssue t n bad) s = .next u ∧ u.seqState t n = seqSTALLED ∧ u.g (F.TILE_SEQ_STATUS_STALL t n) = q
        ∧ KeepsRegs s u [F.TILE_SEQ_STATUS_STATE t n, F.TILE_SEQ_STATUS_STALL t n] ∧ u.pc t n = s.pc t n
        ∧ { u with fld := s.fld, tiles := s.tiles } = s)

/-- R22, R251, R485: what a commit boundary leaves after which no step opens: the version inverted, the shadows in effect, STEP_COMMITTED
and STEP_NUMBER moved on, STATE CLOSED, the counters of the step added to those of the run, memory as it was. The model's choices it rests
on: log entry 59. -/
def Obligations.CommitBoundaryLeaves : Prop :=
  ∀ (s : State) (viaPoll : Bool),
    let n := s.g F.STEP_NUMBER_NUMBER
    let z := (s.setAll [(F.STEP_VERSION_VERSION, 1 - s.version), (F.STEP_VERSION_PREV_VALID, 1)]).applyShadow
    let u := s.commitBoundary viaPoll
    s.red.held = [] → (viaPoll = true ∨ z.g F.STEP_STOP_AT_STEP = n) →
    u.stepState = stCLOSED ∧ u.g F.STEP_COMMITTED_NUMBER = n % 2 ^ 64 ∧ u.g F.STEP_NUMBER_NUMBER = (n + 1) % 2 ^ 64
      ∧ u.g F.STEP_STATUS_ATTEMPT = 0 ∧ u.g F.STEP_COMMITS_COUNT = (z.g F.STEP_COMMITS_COUNT + 1) % 2 ^ 48
      ∧ u.g F.STEP_DECISION_KIND = 1 ∧ u.g F.STEP_DECISION_SKIPPED = z.g F.RED_STATUS_SKIP % 2
      ∧ u.g F.STEP_DECISION_VIA_POLL = bit viaPoll ∧ u.g F.STEP_BOUNDARY_TIME_TIME = s.time % 2 ^ 64
      ∧ u.shadow = [] ∧ u.images.committed = s.images.opening ∧ u.stp.failed = none ∧ SameMem s u
      ∧ (s.shadow = [] → u.version = 1 - s.version ∧ u.g F.STEP_VERSION_PREV_VALID = 1
        ∧ (s.ring.jobs.length ≤ 4096 → ∀ k < 64, u.g (F.DBG_CTR_STEP_COUNT k) = 0
          ∧ u.g (F.DBG_CTR_RUN_COUNT k) = (s.g (F.DBG_CTR_RUN_COUNT k) + s.g (F.DBG_CTR_STEP_COUNT k)) % 2 ^ 48))

/-- R23, R230, R242, R251, R254, R485: what an abort boundary leaves: the version, STEP_COMMITTED and STEP_NUMBER as they were, the
shadows dropped, ATTEMPT moved on, an armed installation begun once nothing is left in flight, memory as it was. The model's choices it
rests on: log entries 58 and 60. -/
def Obligations.AbortBoundaryLeaves : Prop :=
  ∀ (s : State) (cause detail pos ring : Nat) (poll : Option Nat),
    let u := s.abortBoundary cause detail pos ring poll
    s.red.held = [] →
    u.stepState = (if s.stepOpen then stCLOSED else s.stepState) ∧ u.g F.STEP_COMMITTED_NUMBER = s.g F.STEP_COMMITTED_NUMBER
      ∧ u.g F.STEP_NUMBER_NUMBER = s.g F.STEP_NUMBER_NUMBER ∧ u.version = s.version
      ∧ u.g F.STEP_STATUS_ATTEMPT = poll.getD (s.g F.STEP_STATUS_ATTEMPT + 1) % 2 ^ 8 ∧ u.g F.STEP_STATUS_ABORT_PENDING = 0
      ∧ u.g F.STEP_ABORTS_COUNT = (s.g F.STEP_ABORTS_COUNT + 1) % 2 ^ 48 ∧ u.g F.STEP_DECISION_KIND = 2
      ∧ u.g F.STEP_DECISION_CAUSE = cause % 2 ^ 16 ∧ u.g F.STEP_DECISION_DETAIL = detail % 2 ^ 16
      ∧ u.g F.STEP_MB_COUNT_COUNT = s.g F.STEP_MB_COUNT_COUNT
      ∧ u.g F.CFG_STATUS_STATE = (if (s.g F.CFG_STATUS_STATE = 5 ∨ s.loader.due = true) ∧ s.tilesSettled = true then 6
          else s.g F.CFG_STATUS_STATE)
      ∧ u.shadow = [] ∧ u.images = s.images ∧ u.stp.failed = none ∧ SameMem s u
      ∧ (s.ring.jobs.length ≤ 4096 → ∀ k < 64, u.g (F.DBG_CTR_STEP_COUNT k) = 0
          ∧ u.g (F.DBG_CTR_ABORTED_COUNT k) = s.g (F.DBG_CTR_STEP_COUNT k) % 2 ^ 48
          ∧ u.g (F.DBG_CTR_RUN_COUNT k) = s.g (F.DBG_CTR_RUN_COUNT k))

/-- R119, R120, R240: a step that opens without anything recorded against its attempt: STATE OPEN, the microbatch count latched, and every
stream that has a program ISSUING at its entry with its registers and event counters 0 and SRAM as it was. The model's choices it rests
on: log entry 13. -/
def Obligations.OpeningStartsTheStreams : Prop :=
  ∀ (s : State) (p : Plan),
    let u := s.openStep
    s.plan = some p → s.g F.STEP_STATUS_ABORT_PENDING = 0 → s.ringFault = none → s.red.haltDue = none → s.upd.poison = none →
      s.upd.spoiled = none → s.g F.ETH_ING_CTRL_EN = 0 →
      s.stp.held = [] → s.red.held = [] → p.ring.jobs.length ≤ 4096 →
    u.stepState = stOPEN ∧ u.stp.mbCount = s.g F.STEP_MB_COUNT_COUNT ∧ u.g F.STEP_CTRL_OPEN = 0
      ∧ u.g F.STEP_NUMBER_NUMBER = s.g F.STEP_NUMBER_NUMBER ∧ u.mesh = [] ∧ SameMem s u
      ∧ ∀ t < 256, (∀ x, sramByte u t x = sramByte s t x) ∧ (u.tile t).flights = [] ∧ (∀ c < 16, u.g (F.TILE_EVT_COUNT t c) = 0)
        ∧ ∀ n < 2, (∀ i, (u.stream t n).xr i = 0 ∧ (u.stream t n).kr i = 0)
          ∧ (t < p.tiles.length → s.hasProgram t n = true →
              u.seqState t n = seqISSUING ∧ u.pc t n = p.entry t n % 2 ^ 13)
          ∧ (s.hasProgram t n = false → u.seqState t n = seqIDLE)

/-- R238, R254, R258 to R261, R497: the commands of STEP_CTRL: what each does when it is accepted, waits or is refused; a master without
the right is ignored, and a write during a freeze waits. The model's choices it rests on: log entries 59, 60 and 62. -/
def Obligations.StepCommandsAct : Prop :=
  ∀ (m : Nat) (s : State),
    (∀ c ∈ [Instr.openStep m, .abortReq m, .regather m, .rollback m], m ≠ 1 → m ≠ 2 → exec c s = .next s)
    ∧ (∀ c ∈ [(Instr.openStep m, 1), (.abortReq m, 2), (.regather m, 4), (.rollback m, 8)],
        m = 1 ∨ m = 2 → s.fromMaster m = true → s.frozen = true → Settled s →
        exec c.1 s = .next { s with frozen' := { s.frozen' with writes := s.frozen'.writes ++ [(m, 0x10008, c.2)] } })
    ∧ (m = 1 ∨ m = 2 → s.fromMaster m = true → s.frozen = false → Settled s →
      let refused (c : Instr) (code : Nat) : Prop :=
        ∃ u, exec c s = .next u ∧ u.g F.STEP_CMD_RESULT_CODE = code ∧ u.stepState = s.stepState
          ∧ (u.g F.HIF_IRQ_CAUSE_CAUSE).testBit 4 = true
          ∧ KeepsRegs s u [F.STEP_CMD_RESULT_CODE, F.STEP_CTRL_OPEN, F.HIF_IRQ_CAUSE_CAUSE, F.NVS_HIST_DROPPED_COUNT] ∧ SameMem s u
      (s.openWaits = true →
        exec (.openStep m) s = .next ({ s with stp := { s.stp with openWaiting := true } }.set F.STEP_CTRL_OPEN 1))
      ∧ (∀ code, s.openWaits = false → s.openRefusal = some code → code < 2 ^ 16 → refused (.openStep m) code)
      ∧ (s.openWaits = false → s.openRefusal = none →
        let r := ((({ s with stp := { s.stp with openWaiting := false } }.set F.STEP_CTRL_OPEN 0).set F.STEP_CMD_RESULT_CODE 0).openStep).settle
        Unhindered s r → exec (.openStep m) s = .next r)
      ∧ (s.stp.openWaiting = true → s.openWaits = false → exec .deferredOpen s = exec (.openStep m) s)
      ∧ (s.stepOpen = false → exec (.abortReq m) s = .next ((s.set F.STEP_CMD_RESULT_CODE 0).set F.STEP_STATUS_ABORT_PENDING 1))
      ∧ (s.stepState = stOPEN ∨ s.stepState = stREADY → s.ringState 0 = ringBYPASSED → s.replaying = false → s.red.held = [] →
        ∃ u, exec (.abortReq m) s = .next u ∧ u.stepState = stCLOSED ∧ u.g F.STEP_STATUS_ABORT_PENDING = 0
          ∧ u.g F.STEP_DECISION_KIND = 2 ∧ u.g F.STEP_DECISION_CAUSE = 0x0201
          ∧ u.g F.STEP_STATUS_ATTEMPT = (s.g F.STEP_STATUS_ATTEMPT + 1) % 2 ^ 8 ∧ u.g F.STEP_CMD_RESULT_CODE = 0)
      ∧ (s.stepState ≠ stCLOSED → refused (.regather m) 0x0205)
      ∧ (s.stepState = stCLOSED → s.red.held = [] →
        ∃ u, exec (.regather m) s = .next u ∧ u.g F.STEP_CMD_RESULT_CODE = 0
          ∧ (u.stepState = stREGATHER ∧ u.g F.STEP_CTRL_REGATHER = 1 ∧ u.gather.kind = some 1
            ∨ u.stepState = stCLOSED ∧ u.g F.STEP_CTRL_REGATHER = 0 ∧ u.gather.kind = none))
      ∧ (s.rollbackOk = false → refused (.rollback m) 0x0205)
      ∧ (s.rollbackOk = true →
        ∃ u, exec (.rollback m) s = .next u ∧ u.g F.STEP_CMD_RESULT_CODE = 0 ∧ u.g F.STEP_VERSION_VERSION = (1 - s.version) % 2
          ∧ u.g F.STEP_VERSION_PREV_VALID = 0 ∧ u.stepState = stCLOSED
          ∧ u.g F.STEP_COMMITTED_NUMBER = (s.g F.STEP_COMMITTED_NUMBER - 1) % 2 ^ 64
          ∧ u.g F.STEP_NUMBER_NUMBER = (s.g F.STEP_COMMITTED_NUMBER - 1 + 1) % 2 ^ 64 ∧ SameMem s u))

/-- R248 to R250, R257, R260: READY, the anchor's timeout, a tile that does not open and the poll's own events. The model's choices it
rests on: log entry 59. -/
def Obligations.StepEventsAct : Prop :=
  ∀ (t : Nat) (timeout : Bool) (s : State),
    let at' := s.g F.STEP_STATUS_ATTEMPT
    let n := s.g F.STEP_NUMBER_NUMBER
    Settled s →
    (let pos := if s.ringState 0 = ringBYPASSED then 0 else s.ringPos 0
      let f : StepFrame := { type := frameREADY, attempt := at', originPos := pos, step := n }
      let r := ((((s.set F.STEP_STATUS_STATE stREADY).sendOn 0 f).countFrame f).anchorDecide).settle
      s.readyDue = true → Unhindered s r → exec .sendReady s = .next r)
    ∧ (s.readyDue = true → s.isAnchor = false → s.torus = false →
      ∃ u, exec .sendReady s = .next u ∧ u.stepState = stREADY ∧ u.mem = s.mem ∧ u.stp = s.stp)
    ∧ (s.readyDue = true → s.ringState 0 = ringBYPASSED → s.red.held = [] → s.shadow = [] → s.g F.STEP_STOP_AT_STEP = n →
      ∃ u, exec .sendReady s = .next u ∧ u.stepState = stCLOSED ∧ u.g F.STEP_COMMITTED_NUMBER = n % 2 ^ 64 ∧ u.g F.STEP_DECISION_KIND = 1)
    ∧ (s.working = true → s.isAnchor = true → s.stepOpen = true → s.g F.STEP_TIMEOUT_MS ≠ 0 → s.red.held = [] →
      ∃ u, exec .stepTimeout s = .next u ∧ u.stepState = stCLOSED ∧ u.g F.STEP_DECISION_KIND = 2 ∧ u.g F.STEP_DECISION_CAUSE = 0x0203
        ∧ u.g F.STEP_STATUS_ATTEMPT = (at' + 1) % 2 ^ 8)
    ∧ (s.working = true → s.stepOpen = true → s.programmed t = true → (s.tile t).acked = false →
        (s.g (F.STEP_FAILED_TILES_FAILED (t / 64))).testBit (t % 64) = false →
      let r := ((s.setBit (F.STEP_FAILED_TILES_FAILED (t / 64)) (t % 64) true).recordFail 0x0202 t).settle
      (Unhindered s r → exec (.tileOpenTimeout t) s = .next r)
      ∧ (s.isAnchor = false → ∃ u, exec (.tileOpenTimeout t) s = .next u ∧ SameMem s u
        ∧ (t < 256 → (u.g (F.STEP_FAILED_TILES_FAILED (t / 64))).testBit (t % 64) = true)))
    ∧ (s.working = true → s.poll.running = true → s.pollFull = false →
      exec .pollResend s = .next (s.sendOn s.poll.ring
        { type := framePOLL, attempt := at', originRing := s.poll.ring, originPos := s.ringPos s.poll.ring, step := n }))
    ∧ (s.working = true → s.poll.running = true → (s.pollFull = true ∨ timeout = true) → s.poll.values = [] → s.red.held = [] →
        s.stp.polled ≠ some (s.g F.STEP_COMMITTED_NUMBER, (at' + 1) % 256) →
      ∃ u, exec (.pollClose timeout) s = .next u ∧ u.poll.running = false ∧ u.g F.STEP_STATUS_ATTEMPT = (at' + 1) % 256
        ∧ u.g F.STEP_COMMITTED_NUMBER = s.g F.STEP_COMMITTED_NUMBER ∧ u.stp.pollK = some (s.g F.STEP_COMMITTED_NUMBER)
        ∧ u.stepOpen = false)

/-- R245 to R252, R257: what each step frame does when it comes whole and in order on a ring that passes frames. A frame of another epoch
is discarded, and one on a ring that passes none goes no further. The model's choices it rests on: log entry 60. -/
def Obligations.StepFramesAct : Prop :=
  ∀ (p : Nat) (rx : LineRx) (b : List Byte) (s : State),
    let ring := portRing p
    let f := StepFrame.ofBytes b
    let q := s.took p rx b
    let w := q.passOn p f
    let own : Prop := f.originRing = ring ∧ f.originPos = s.ringPos ring
    let now : Prop := s.stepOpen = true ∧ s.thisAttempt f = true
    let answers (c : Instr) (r : State) : Prop := Unhindered s r → exec c s = .next r
    Settled s →
    (FrameComes p rx 1 b s → f.type = frameREADY →
      ((headerOf b).epoch ≠ s.ringEpoch ring → exec (.readyFrame p false rx) s = .next (q.discard p))
      ∧ ((headerOf b).epoch = s.ringEpoch ring → s.frameRing ring = false → exec (.readyFrame p false rx) s = .next q))
    ∧ (FramePasses p rx b s → ¬own → s.alone = false →
      (f.type = frameREADY → f.digest = s.digest64 → now → answers (.readyFrame p false rx) (w.countFrame f).anchorDecide.settle)
      ∧ (f.type = frameREADY → f.digest = s.digest64 → now → s.isAnchor = false → s.torus = false → f.originRing = 0 →
        ∃ u, exec (.readyFrame p false rx) s = .next u ∧ (u.g F.STEP_READY_MAP_READY).testBit f.originPos = (decide (f.originPos < 64))
          ∧ u.stepState = s.stepState ∧ u.stp = s.stp ∧ u.mem = s.mem)
      ∧ (f.type = frameFAIL → f.digest = s.digest64 → now → s.isAnchor = true → s.red.held = [] →
        ∃ u, exec (.failFrame p false rx) s = .next u ∧ u.stepState = stCLOSED ∧ u.g F.STEP_DECISION_KIND = 2
          ∧ u.g F.STEP_DECISION_CAUSE = f.cause % 2 ^ 16 ∧ u.g F.STEP_STATUS_ATTEMPT = (s.g F.STEP_STATUS_ATTEMPT + 1) % 2 ^ 8)
      ∧ (f.type = frameFAIL → f.digest = s.digest64 → now → s.isAnchor = false → s.torus = false →
        exec (.failFrame p false rx) s = .next w)
      ∧ (f.type = frameCOMMIT → s.ringState 0 ≠ ringRECOVERING → s.ringState 1 ≠ ringRECOVERING →
        (now → answers (.commitFrame p false rx) (w.commitBoundary false).settle)
        ∧ (¬now → exec (.commitFrame p false rx) s = .next w))
      ∧ (f.type = frameABORT → f.cause ≠ 0x0204 → s.thisAttempt f = true →
        answers (.abortFrame p false rx) (w.abortBoundary f.cause f.detail f.causePos f.causeRing none).settle)
      ∧ (f.type = frameABORT → f.cause ≠ 0x0204 → s.thisAttempt f = false → exec (.abortFrame p false rx) s = .next w)
      ∧ (f.type = frameADONE → ring = 1 → now → s.isAnchor = false →
        ∃ u, exec (.aDone p false rx) s = .next u ∧ f.originPos ∈ u.stp.adone ∧ u.stepState = s.stepState ∧ u.mem = s.mem)
      ∧ (f.type = framePOLL → s.answers ring = true →
        exec (.poll p false rx) s = .next (w.sendOn ring
          { type := framePOLLREPLY, attempt := s.g F.STEP_STATUS_ATTEMPT, originRing := ring, originPos := s.ringPos ring,
            step := s.g F.STEP_NUMBER_NUMBER, committed := s.g F.STEP_COMMITTED_NUMBER, isOpen := s.stepOpen })))
    ∧ (FramePasses p rx b s → f.type = framePOLLREPLY →
      (s.g (ringAnchorF ring) ≠ s.serial → exec (.pollReply p false rx) s = .next w)
      ∧ (s.g (ringAnchorF ring) = s.serial → s.poll.running = true → s.poll.ring = ring →
        exec (.pollReply p false rx) s = .next (q.pollValue f.originPos f.committed f.attempt f.isOpen))
      ∧ (s.g (ringAnchorF ring) = s.serial → s.poll.running = false → exec (.pollReply p false rx) s = .next q))

/-- R226 to R230, R236, R436, R497: the commands of CFG_CMD, each accepted, and each refused with CFG_STATE or its own code and no other
effect; who may give them, and what a freeze does to them. The model's choices it rests on: log entry 62. -/
def Obligations.LoaderCommandsAct : Prop :=
  ∀ (m : Nat) (s : State),
    let st := s.g F.CFG_STATUS_STATE
    let n := s.g F.CFG_SRC_LEN_LEN
    (∀ c ∈ [Instr.stage m, .check m, .arm m, .disarm m, .discard m], m ≠ 1 → m ≠ 2 → exec c s = .next s)
    ∧ (∀ c ∈ [(Instr.stage m, 1), (.check m, 2), (.arm m, 4), (.disarm m, 8), (.discard m, 16)],
        m = 1 ∨ m = 2 → s.fromMaster m = true → s.frozen = true → Settled s →
        exec c.1 s = .next { s with frozen' := { s.frozen' with writes := s.frozen'.writes ++ [(m, 0x20008, c.2)] } })
    ∧ (m = 1 ∨ m = 2 → s.fromMaster m = true → s.frozen = false → Settled s →
      let refused (c : Instr) (code : Nat) : Prop := exec c s = .next ((s.set F.CFG_STATUS_LAST_CODE code).report code 0 0)
      (¬(st = ldEMPTY ∨ st = ldSTAGED ∨ st = ldREADY ∨ st = ldREJECTED) → refused (.stage m) 0x0119)
      ∧ ((st = ldEMPTY ∨ st = ldSTAGED ∨ st = ldREADY ∨ st = ldREJECTED) →
        (¬(128 ≤ n ∧ n % 64 = 0 ∧ n ≤ 536870912) → refused (.stage m) 0x0103)
        ∧ (128 ≤ n → n % 64 = 0 → n ≤ 536870912 →
          ∃ u, exec (.stage m) s = .next u ∧ u.g F.CFG_STATUS_STATE = ldSTAGING ∧ u.g F.CFG_CMD_STAGE = 1 ∧ u.g F.CFG_STATUS_LAST_CODE = 0
            ∧ u.loader = ⟨n, none, false⟩ ∧ KeepsRegs s u [F.CFG_STATUS_STATE, F.CFG_CMD_STAGE, F.CFG_STATUS_LAST_CODE]
            ∧ (let asks := (packets s.host.maxRead (n / 128 + 2) (s.g F.CFG_SRC_ADDR_ADDR * 4096) n).map fun e => Out.hostRead e.1 e.2;
              if s.g F.HIF_STATUS_LINK_UP ≠ 0 then u.outbox = s.outbox ++ asks ∧ u.host = s.host
              else u.outbox = s.outbox ∧ u.host = { s.host with leaving := s.host.leaving ++ asks })
            ∧ { u with fld := s.fld, loader := s.loader, outbox := s.outbox, host := s.host } = s))
      ∧ (¬(st = ldSTAGED ∧ s.g F.SEC_STATUS_BOOT ≠ bootRECOVERY) → refused (.check m) 0x0119)
      ∧ (st = ldSTAGED → s.g F.SEC_STATUS_BOOT ≠ bootRECOVERY →
        ∃ u, exec (.check m) s = .next u ∧ u.g F.CFG_STATUS_STATE = ldCHECKING ∧ u.g F.CFG_CMD_CHECK = 1 ∧ u.g F.CFG_STATUS_LAST_CODE = 0
          ∧ OnlyRegs s u [F.CFG_STATUS_STATE, F.CFG_CMD_CHECK, F.CFG_STATUS_LAST_CODE])
      ∧ (¬(st = ldREADY ∧ s.g F.SEC_STATUS_BOOT ≠ bootRECOVERY) → refused (.arm m) 0x0119)
      ∧ (st = ldREADY → s.g F.SEC_STATUS_BOOT ≠ bootRECOVERY →
        (s.claims.any (claimConflict (s.loader.plan.elim [] fun p => p.owners)) = true → refused (.arm m) 0x0118)
        ∧ (s.claims.any (claimConflict (s.loader.plan.elim [] fun p => p.owners)) = false →
          ∃ u, exec (.arm m) s = .next u ∧ u.g F.CFG_STATUS_STATE = (if s.stepOpen then ldARMED else ldINSTALLING)
            ∧ u.g F.CFG_STATUS_LAST_CODE = 0 ∧ OnlyRegs s u [F.CFG_STATUS_STATE, F.CFG_STATUS_LAST_CODE]))
      ∧ (st ≠ ldARMED → refused (.disarm m) 0x0119)
      ∧ (st = ldARMED → ∃ u, exec (.disarm m) s = .next u ∧ u.g F.CFG_STATUS_STATE = ldREADY ∧ u.g F.CFG_STATUS_LAST_CODE = 0
          ∧ u.loader = { s.loader with due := false } ∧ KeepsRegs s u [F.CFG_STATUS_STATE, F.CFG_STATUS_LAST_CODE]
          ∧ { u with fld := s.fld, loader := s.loader } = s)
      ∧ (¬(st = ldSTAGED ∨ st = ldREADY ∨ st = ldREJECTED) → refused (.discard m) 0x0119)
      ∧ (st = ldSTAGED ∨ st = ldREADY ∨ st = ldREJECTED →
        ∃ u, exec (.discard m) s = .next u ∧ u.g F.CFG_STATUS_STATE = ldEMPTY ∧ u.g F.CFG_STATUS_LAST_CODE = 0 ∧ u.loader = LoaderCtl.init
          ∧ KeepsRegs s u [F.CFG_STATUS_STATE, F.CFG_STATUS_LAST_CODE] ∧ { u with fld := s.fld, loader := s.loader } = s))

/-- R224, R227 to R229, R232 to R234: the ends of STAGE and CHECK, installation, and a run-time claim of a shared resource and its return.
The model's choices it rests on: log entries 38 and 39. -/
def Obligations.LoaderEventsAct : Prop :=
  ∀ (bytes : List Byte) (off res inst owner arg : Nat) (p : Plan) (s : State),
    let shows5 (u : State) : Prop := (u.g F.HIF_IRQ_CAUSE_CAUSE).testBit 5 = true
    Settled s →
    (s.working = true → s.g F.CFG_STATUS_STATE = ldSTAGING →
      (Unhindered s (shadowWrite 64 0 (sliceBytes bytes 0 s.loader.len) s) →
        ∃ u, exec (.stageComplete bytes none) s = .next u ∧ u.g F.CFG_STATUS_STATE = ldSTAGED ∧ u.g F.CFG_CMD_STAGE = 0 ∧ shows5 u
        ∧ u.mem = (shadowWrite 64 0 (sliceBytes bytes 0 s.loader.len) s).mem
        ∧ ∀ k < 4, u.g (F.CFG_STAGED_DIGEST_DIGEST k) = leAt (sliceBytes bytes 0 s.loader.len) (16 + 8 * k) 8 % 2 ^ 64)
      ∧ (∃ u, exec (.stageComplete bytes (some off)) s = .next u ∧ u.g F.CFG_STATUS_STATE = ldREJECTED ∧ u.g F.CFG_CMD_STAGE = 0
        ∧ u.g F.CFG_ERROR_CODE = 0x011A ∧ u.g F.CFG_STATUS_LAST_CODE = 0x011A ∧ shows5 u ∧ SameMem s u))
    ∧ (let image := checkImage (s.sec.keys.filterMap id) (s.on F.MBX_BIND_LOCK_LOCKED) s.binding s.shadowImage
      s.working = true → s.g F.CFG_STATUS_STATE = ldCHECKING → s.g F.SEC_STATUS_BOOT = bootRUNNING →
      (image = .ok p → ∃ u, exec .checkComplete s = .next u ∧ u.g F.CFG_STATUS_STATE = ldREADY ∧ u.g F.CFG_CMD_CHECK = 0
        ∧ u.loader = { s.loader with plan := some p } ∧ u.plan = s.plan ∧ shows5 u ∧ SameMem s u)
      ∧ (∀ e, image = .error e → e.code < 2 ^ 16 → ∃ u, exec .checkComplete s = .next u ∧ u.g F.CFG_STATUS_STATE = ldREJECTED
        ∧ u.g F.CFG_CMD_CHECK = 0 ∧ u.g F.CFG_ERROR_CODE = e.code ∧ u.g F.CFG_STATUS_LAST_CODE = e.code ∧ u.plan = s.plan ∧ shows5 u
        ∧ SameMem s u))
    ∧ (let keep := s.g F.CFG_RUN_STATE_RETAIN = 2 ∨ (s.g F.CFG_RUN_STATE_RETAIN = 1 ∧ s.runId = p.mem.runId)
      s.working = true → s.g F.CFG_STATUS_STATE = ldINSTALLING → s.loader.plan = some p → s.installReady = true → p.tiles.length ≤ 256 →
        (∀ e ∈ p.ring.jobs.zipIdx, e.1.mode = 1 → keep ∧ newGroup s.plan p e.2 e.1 = false) →
      ∃ u, exec .installation s = .next u ∧ u.plan = some p ∧ u.g F.CFG_STATUS_STATE = ldEMPTY ∧ u.g F.CFG_STATUS_ACTIVE = 1
        ∧ u.g F.CFG_STATUS_LAST_CODE = 0 ∧ u.g F.CFG_INSTALLS_COUNT = (s.g F.CFG_INSTALLS_COUNT + 1) % 2 ^ 48
        ∧ u.g F.CFG_RUN_STATE_RETAIN = 2 ∧ u.loader = LoaderCtl.init ∧ shows5 u ∧ u.mesh = []
        ∧ (∀ t < p.tiles.length, (u.tile t).flights = [] ∧ (u.tile t).sram = putBytes [] 0 ((p.tiles.map (·.image)).getD t []))
        ∧ (keep → SameMem s u)
        ∧ (¬keep → u.far = FarCache.init ∧ ∀ a, u.mem.byte a = if shadowByte a then s.mem.byte a else 0))
    ∧ (s.powered = true → ownerAllowed ⟨res, inst, owner, arg⟩ = true →
      (s.ownerOf res inst = none →
        exec (.resourceClaim res inst owner arg false) s = .next { s with claims := s.claims ++ [⟨res, inst, owner, arg⟩] })
      ∧ (∀ e, s.ownerOf res inst = some e → e.owner = owner → e.arg = arg → exec (.resourceClaim res inst owner arg false) s = .next s)
      ∧ (∀ e, s.ownerOf res inst = some e → ¬(e.owner = owner ∧ e.arg = arg) →
        exec (.resourceClaim res inst owner arg false) s = .next (s.report 0x0118 0 (res * 65536 + inst)))
      ∧ exec (.resourceClaim res inst owner arg true) s = .next { s with claims := s.claims.filter (· != ⟨res, inst, owner, arg⟩) })

/-- R164, R178, R181 to R183, R189, R190, R371: a request to a region controller is refused with a code, takes a slot or waits, the host
snooped for its lines; one that waits takes a slot; one whose last sector is served leaves its slot with its effect and nothing else of
memory changed, or, behind a hop that has failed, with its code alone; a corrected sector is written back. The model's choices it rests
on: log entries 31, 32, 33, 34 and 35. -/
def Obligations.MemoryRequestsAct : Prop :=
  ∀ (req a n id cycles : Nat) (data : Option (List Byte)) (mask : Option (List Bool)) (bad : List Nat) (weak : List (Nat × Nat)) (s : State),
    s.powered = true → Settled s →
    (let r : MemReq := ⟨s.regions.nextId, req, a, n, data, mask⟩;
      r.ok = true →
      (s.memGate req a ≠ 0 → ∃ u, exec (.memRequest req a n data mask) s = .next u
        ∧ u.outbox = s.outbox ++ [.memDone r.id (s.memGate req a) []] ∧ u.regions = { s.regions with nextId := s.regions.nextId + 1 }
        ∧ SameMem s u)
      ∧ (s.memGate req a = 0 → s.slotFree r = true → behind s.regions.waiting r = false → s.biasHolds r = false →
        ∃ u, exec (.memRequest req a n data mask) s = .next u ∧ u.regions.held = s.regions.held ++ [r]
          ∧ u.regions.waiting = s.regions.waiting ∧ u.regions.nextId = s.regions.nextId + 1
          ∧ u.g (F.REG_LSTATUS_SLOTS_USED r.win r.layer) = ((s.regions.held ++ [r]).filter (·.sameCtl r)).length % 2 ^ 7
          ∧ KeepsRegs s u [F.REG_LSTATUS_SLOTS_USED r.win r.layer] ∧ SameMem s u)
      ∧ (s.memGate req a = 0 → ¬(s.slotFree r = true ∧ behind s.regions.waiting r = false ∧ s.biasHolds r = false) →
        ∃ u, exec (.memRequest req a n data mask) s = .next u ∧ u.regions.waiting = s.regions.waiting ++ [r]
          ∧ u.regions.held = s.regions.held ∧ (∀ e ∈ s.snoopsFor r, e ∈ u.host.snoops) ∧ KeepsRegs s u [] ∧ SameMem s u))
    ∧ (∀ r rest, takeFirst (·.id == id) s.regions.waiting = some (r, rest) → s.memGate r.req r.addr = 0 → s.slotFree r = true →
        behind (s.regions.waiting.takeWhile (·.id != id)) r = false → s.biasHolds r = false →
      ∃ u, exec (.memRequestAccept id cycles) s = .next u ∧ u.regions.held = s.regions.held ++ [r] ∧ u.regions.waiting = rest ∧ SameMem s u
        ∧ u.g (F.REG_LBANKSTALL_CYCLES r.win r.layer) = (s.g (F.REG_LBANKSTALL_CYCLES r.win r.layer) + cycles) % 2 ^ 48)
    ∧ (∀ r rest, takeFirst (·.id == id) s.regions.held = some (r, rest) →
        ((s.regions.held.takeWhile (·.id != id)).any fun q => q.clashes r) = false →
      (s.hopFailed r.addr = true → ∃ u, exec (.memRequestDone id bad weak) s = .next u ∧ u.regions.held = rest ∧ SameMem s u
          ∧ u.outbox = s.outbox ++ [.memDone r.id 0x0308 []])
      ∧ (s.hopFailed r.addr = false →
      (∀ d, r.data = some d → r.mask = none → d.length = 64 * r.sectors →
        ∃ u, exec (.memRequestDone id bad weak) s = .next u ∧ u.regions.held = rest ∧ u.outbox = s.outbox ++ [.memDone r.id 0 []]
          ∧ (∀ i < 64 * r.sectors, u.mem.byte (r.addr + i) = d.getD i 0) ∧ KeepsMem s u r.addr (64 * r.sectors))
      ∧ (∀ d m, r.data = some d → r.mask = some m → r.sectors = 1 → d.length = 64 → m.length = 64 → r.addr % 64 = 0 → bad = [] →
          r.addr / 64 ∉ s.mem.bad →
        ∃ u, exec (.memRequestDone id bad weak) s = .next u ∧ u.regions.held = rest ∧ u.outbox = s.outbox ++ [.memDone r.id 0 []]
          ∧ (∀ i < 64, u.mem.byte (r.addr + i) = if m.getD i false then d.getD i 0 else s.mem.byte (r.addr + i))
          ∧ KeepsMem s u r.addr 64)
      ∧ (r.data = none → (∀ k, r.addr / 64 ≤ k → k < r.addr / 64 + r.sectors → k ∉ s.mem.bad) →
        ∃ u, exec (.memRequestDone id [] weak) s = .next u ∧ u.regions.held = rest ∧ SameMem s u
          ∧ u.outbox = s.outbox ++ [.memDone r.id 0 (s.mem.read r.addr (64 * r.sectors))])
      ∧ (∀ i, r.data = none → r.mask = none → i < r.sectors → (∀ k, r.addr / 64 ≤ k → k < r.addr / 64 + i → k ∉ s.mem.bad) →
        ∃ u, exec (.memRequestDone id [i] weak) s = .next u ∧ u.regions.held = rest ∧ SameMem s u ∧ r.addr / 64 + i ∈ u.mem.bad
          ∧ u.outbox = s.outbox ++ [.memDone r.id 0x0301 []])))
    ∧ (a ∈ s.regions.fixes →
        exec (.correctedWriteback a) s = .next { s with
          regions := { s.regions with fixes := s.regions.fixes.filter (· != a) },
          mem := { s.mem with weak := s.mem.weak.filter (·.1 != a / 64) } })

/-- R164, R184 to R189, R192, R457: refresh and its bands, the scrubber, and a hop's failing frames. The model's choices it rests on: log
entry 33. -/
def Obligations.LayersAreKept : Prop :=
  ∀ (w l c : Nat) (bad : List Nat) (weak : List (Nat × Nat)) (s : State),
    let x := s.layerEst w l
    let old := s.g (F.REG_LSTATUS_REFRESH_BAND w l)
    let p := s.g (F.REG_LSCRUB_POSITION w l)
    let k := Sparse.get 0 (w * 8 + l) s.regions.scrub
    let a := scrubAddr w l p k
    s.powered = true → Settled s →
    (s.power.offLayers.contains (w / 64 * 8 + l) = true → exec (.refreshRow w l bad weak) s = .next s)
    ∧ (layerThere w l = true → s.power.offLayers.contains (w / 64 * 8 + l) = false →
      ∃ u, exec (.refreshRow w l bad weak) s = .next u ∧ u.g (F.REG_LREFRESH_TEMP w l) = ((x / 4) % 256).toNat
        ∧ u.g (F.REG_LSTATUS_REFRESH_BAND w l) = (if bandOf x ≤ old then old else bandOf x)
        ∧ u.g (F.REG_LREFRESH_INTERVAL_US w l) = (if bandOf x ≤ old then s.g (F.REG_LREFRESH_INTERVAL_US w l) else bandUs (bandOf x))
        ∧ KeepsRegs s u [F.REG_LREFRESH_TEMP w l, F.REG_LSTATUS_REFRESH_BAND w l, F.REG_LREFRESH_INTERVAL_US w l, F.NVS_HIST_DROPPED_COUNT]
        ∧ SameMem s u ∧ { u with fld := s.fld, reports := s.reports, mem := s.mem } = s)
    ∧ (layerThere w l = true → old ≠ 0 → x + 8 ≤ bandLow old →
      ∃ u, exec (.refreshBandRelax w l) s = .next u ∧ u.g (F.REG_LSTATUS_REFRESH_BAND w l) = bandOf x
        ∧ u.g (F.REG_LREFRESH_INTERVAL_US w l) = bandUs (bandOf x)
        ∧ OnlyRegs s u [F.REG_LSTATUS_REFRESH_BAND w l, F.REG_LREFRESH_INTERVAL_US w l])
    ∧ (layerThere w l = true → s.g (F.REG_LCTRL_SCRUB_EN w l) ≠ 0 → s.g (F.REG_LSTATUS_RESET_ACTIVE w l) = 0 →
      (a / 64 ∉ s.mem.bad → (∀ e ∈ s.mem.weak, e.1 ≠ a / 64) →
        ∃ u, exec (.scrubRead w l none false) s = .next u ∧ Sparse.get 0 (w * 8 + l) u.regions.scrub = (k + 1) % 128
          ∧ u.g (F.REG_LSCRUB_POSITION w l) = (if k = 127 then (p + 1) % scrubRows else p)
          ∧ KeepsRegs s u [F.REG_LSCRUB_POSITION w l] ∧ { u with fld := s.fld, regions := s.regions } = s)
      ∧ (∀ y ≤ 66, a / 64 ∉ s.mem.bad → (∀ e ∈ s.mem.weak, e.1 ≠ a / 64) → k < 128 →
        ∃ u, exec (.scrubRead w l (some y) false) s = .next u ∧ a ∈ u.regions.fixes ∧ SameMem s u
          ∧ u.g (F.REG_LCE_COUNT_COUNT w l) = (s.g (F.REG_LCE_COUNT_COUNT w l) + 1) % 2 ^ 48
          ∧ Sparse.get 0 (w * 8 + l) u.regions.scrub = (k + 1) % 128)
      ∧ (∀ fix, ∃ u, exec (.scrubRead w l fix true) s = .next u ∧ a / 64 ∈ u.mem.bad ∧ SameMem s u
          ∧ u.g (F.REG_LUE_COUNT_COUNT w l) = (s.g (F.REG_LUE_COUNT_COUNT w l) + 1) % 2 ^ 48
          ∧ Sparse.get 0 (w * 8 + l) u.regions.scrub = (k + 1) % 128))
    ∧ (let n := Sparse.get 0 (c * 8 + l) s.regions.hops
      let setHops (v : Nat) (q : State) : State := { q with regions := { q.regions with hops := Sparse.put 0 (c * 8 + l) v q.regions.hops } }
      c ≤ 4 → l < layersOf c → (s.g (F.REG_COLSTATUS_HOP_FAILED c)).testBit l = false →
      exec (.hopFrameResend c l false) s = .next (setHops 0 s)
      ∧ (n ≠ 4 → exec (.hopFrameResend c l true) s = .next (setHops (n + 1) s))
      ∧ (n = 4 → ∃ u, exec (.hopFrameResend c l true) s = .next u ∧ (u.g (F.REG_COLSTATUS_HOP_FAILED c)).testBit l = true
          ∧ KeepsRegs s u [F.REG_COLSTATUS_HOP_FAILED c] ∧ SameMem s u))

/-- R195 to R197: layer-array resets and column resets, from request to end. Neither changes memory. -/
def Obligations.MemoryResetsAct : Prop :=
  ∀ (m w l c : Nat) (s : State),
    let ends (p : MemReq → Bool) (code : Nat) (u : State) : Prop := u.regions.held = s.regions.held.filter (fun r => !p r)
      ∧ u.outbox = s.outbox ++ (s.regions.held.filter p).map fun r => .memDone r.id code []
    let quota (v l : Nat) : Nat := s.plan.elim 0 fun p => p.mem.quotas.getD (v * 8 + l) 0
    s.powered = true → Settled s →
    (m = 1 ∨ m = 2 → s.fromMaster m = true → layerThere w l = true → s.g (F.REG_LSTATUS_RESET_ACTIVE w l) = 0 →
      ∃ u, exec (.layReset m w l) s = .next u ∧ (∀ v ∈ winsOf (w / 64), u.g (F.REG_LSTATUS_RESET_ACTIVE v l) = 1)
        ∧ ends (fun r => r.win / 64 == w / 64 && r.layer == l) 0x0305 u ∧ u.g (F.REG_LCTRL_LAY_RESET w l) = 1 ∧ SameMem s u)
    ∧ (layerThere (c * 64) l = true → s.g (F.REG_LSTATUS_RESET_ACTIVE (c * 64) l) ≠ 0 → s.g (F.REG_COLSTATUS_IN_RESET c) = 0 →
      ∃ u, exec (.layResetEnd c l) s = .next u ∧ SameMem s u
        ∧ ∀ v ∈ winsOf c, u.g (F.REG_LSTATUS_RESET_ACTIVE v l) = 0 ∧ u.g (F.REG_LCTRL_LAY_RESET v l) = 0
          ∧ u.g (F.REG_LREFRESH_INTERVAL_US v l) = 32000 ∧ u.g (F.REG_LCE_COUNT_COUNT v l) = s.g (F.REG_LCE_COUNT_COUNT v l)
          ∧ u.g (F.REG_LCTRL_BANK_QUOTA v l) = if quota v l = 0 then 8 else quota v l % 2 ^ 7)
    ∧ (m = 1 ∨ m = 2 → s.fromMaster m = true → c ≤ 4 → s.g (F.REG_COLSTATUS_IN_RESET c) = 0 →
      (s.colResetOk c = true → ∃ u, exec (.colReset m c) s = .next u ∧ u.g (F.REG_COLSTATUS_IN_RESET c) = 1
        ∧ u.g (F.REG_COLCTRL_COL_RESET c) = 1 ∧ u.g (F.REG_COLRESULT_CODE c) = 0
        ∧ (∀ v ∈ winsOf c, ∀ j < layersOf c, u.g (F.REG_LSTATUS_RESET_ACTIVE v j) = 1) ∧ { u with fld := s.fld } = s)
      ∧ (s.colResetOk c = false → exec (.colReset m c) s = .next ((s.set (F.REG_COLRESULT_CODE c) 0x0307).report 0x0307 c 0)))
    ∧ (s.draining c = true → s.colHeld c = false →
      exec (.colResetDrained c) s = .next { s with regions := { s.regions with resetting := s.regions.resetting ++ [c] } })
    ∧ (s.draining c = true → s.colHeld c = true →
      ∃ u, exec (.colResetDrainTimeout c) s = .next u ∧ ends (fun r => r.win / 64 == c) 0x0306 u
        ∧ u.regions.resetting = s.regions.resetting ++ [c] ∧ SameMem s u)
    ∧ (c ∈ s.regions.resetting → c ≤ 4 →
      ∃ u, exec (.colResetEnd c) s = .next u ∧ u.g (F.REG_COLSTATUS_IN_RESET c) = 0 ∧ u.g (F.REG_COLSTATUS_HOP_FAILED c) = 0
        ∧ u.g (F.REG_COLCTRL_COL_RESET c) = 0 ∧ c ∉ u.regions.resetting ∧ SameMem s u
        ∧ ∀ v ∈ winsOf c, ∀ j < layersOf c, u.g (F.REG_LSTATUS_RESET_ACTIVE v j) = 0 ∧ u.g (F.REG_LSTATUS_REFRESH_BAND v j) =
          (F.REG_LSTATUS_REFRESH_BAND v j).rst)

/-- R24, R268, R309, R313, R318, R319: what becomes of a data flit before its kind matters. One whose channel has a flit held stays behind
it in the receive buffer; one of an attempt that is over goes, its credit returned; one of an attempt to come stays; one of another
configuration, or out of its place, halts its job. The model's choices it rests on: log entries 60 and 67. -/
def Obligations.DataFlitsAreJudged : Prop :=
  ∀ (p : Nat) (rx : LineRx) (l : List Byte) (f : Flit) (b : Job) (s : State),
    let row : Instr := if isSum f.hdr.kind then .reduceFlit p false rx else if isGather f.hdr.kind then .gatherFlit p false rx
      else if f.hdr.kind = .digest then .digestFlit p false rx else .skipNotice p false rx
    let j := f.hdr.job
    let halts (code : Nat) (u : State) : Prop := u.g (F.RED_JOB_STATUS_STATE j) = jobHALTED ∧ u.g F.RED_STATUS_HALTED = 1
      ∧ (s.g F.RED_ERROR_VALID = 0 → u.g F.RED_ERROR_VALID = 1 ∧ u.g F.RED_ERROR_CODE = code ∧ u.g F.RED_ERROR_PORT = p
          ∧ u.g F.RED_ERROR_JOB = j % 2 ^ 12)
      ∧ (s.replaying = false → s.stepState = stOPEN → s.framesFlow = true → u.stepState = stFAIL) ∧ SameMem s u
    (DataComes p rx l f { s with red := { s.red with held := [] } } → s.red.held.any (sameQueue p f) = true →
      exec row s = .next ((s.dataTaken p rx f).holdFlit p f))
    ∧ (DataComes p rx l f s →
    (s.gate f.hdr = .drop → exec row s = .next ((s.dataTaken p rx f).freeCredit p f.hdr.channel))
    ∧ (s.gate f.hdr = .hold → exec row s = .next ((s.dataTaken p rx f).holdFlit p f))
    ∧ (s.gate f.hdr = .now → s.job j = some b → NoDecision s → f.hdr.digest ≠ s.digest64 →
      ∃ u, exec row s = .next u ∧ halts 0x0501 u
        ∧ (s.red.digestLatched = false → u.g F.RED_MISMATCH_DIGEST_DIGEST64 = f.hdr.digest % 2 ^ 64 ∧ u.red.digestLatched = true))
    ∧ (s.gate f.hdr = .now → s.job j = some b → f.hdr.digest = s.digest64 → s.halted j = true →
      exec row s = .next ((s.dataTaken p rx f).freeCredit p f.hdr.channel))
    ∧ (s.gate f.hdr = .now → s.job j = some b → NoDecision s → f.hdr.digest = s.digest64 → s.halted j = false →
        (f.hdr.channel ≠ b.channel ∨ s.placeOk p f b = false) →
      ∃ u, exec row s = .next u ∧ halts 0x0505 u))

/-- R302, R307 to R310, R312, R315, R323: a reduce-scatter slice. A device on its way adds its contribution and passes the sums on; the
owner writes them to the partition of sums; the origin begins a segment's 137 slices; a slice held for the release is added after it. The
model's choices it rests on: log entries 32 and 67. -/
def Obligations.SlicesAreAdded : Prop :=
  ∀ (p seg ring j : Nat) (rx : LineRx) (l : List Byte) (f : Flit) (b : Job) (c : List Nat) (s : State),
    let k := sliceOf f
    let w := s.way b.dim (portRing p) (segOf b f)
    let q := onward s w
    let passes (u : State) : Prop := Sends s u (.port q (s.port q).txSeq (.data (slicePassed s w q k f c)))
      ∧ u.g F.RED_FLITS_ADDED_COUNT = (s.g F.RED_FLITS_ADDED_COUNT + 1) % 2 ^ 48 ∧ SameMem s u
      ∧ KeepsRegs s u (F.RED_JOB_STATUS_STATE f.hdr.job :: lineFields p ++ reduceFields ++ correctFields s.mem)
    let sums := addSlice (f.payload.take (sliceLen k)) c
    let z := s.takeTail w.ring (segOf b f) k (wordBytes (ownerValues b.nanMode sums).1)
    let write := s.writePart rqRED s.ring.redPart (65536 * segOf b f + 480 * k - z.2.1) z.2.2
    (DataComes p rx l f s → Addable p f b c s →
      (w.c ≠ w.o → SendsNow s q (.data f) → ∃ u, exec (.reduceFlit p false rx) s = .next u ∧ passes u ∧ u.red = s.red)
      ∧ (w.c = w.o → sums.all finite32 = true → Unhindered s write.1 → ∃ u, exec (.reduceFlit p false rx) s = .next u
          ∧ u.mem = write.1.mem
          ∧ u.g F.RED_FLITS_ADDED_COUNT = (s.g F.RED_FLITS_ADDED_COUNT + 1) % 2 ^ 48
          ∧ u.red.tails = z.1.red.tails
          ∧ u.red.reduced = s.red.reduced ++ (if k = 136 ∧ w.ring = b.lastRing then [segOf b f] else [])
          ∧ u.red.phaseA = s.red.phaseA ++ (if k = 136 ∧ w.ring ≠ b.lastRing then [segOf b f] else [])))
    ∧ (DataComes p rx l f s → Admitted .slice p f b s → s.mayAdd b (portRing p) (segOf b f) = false →
      exec (.reduceFlit p false rx) s = .next ((s.dataTaken p rx f).holdFlit p f))
    ∧ (s.working = true → Settled s → s.ring.jobs.length ≤ 4096 → s.stepState ≠ stOUT → s.ringState (portRing p) ≠ ringRECOVERING →
      ∀ rest, takeFirst (fun e => e.port == p && e.flit.hdr.channel == f.hdr.channel) s.red.held = some (⟨p, f⟩, rest) →
      (s.gate f.hdr = .hold → exec (.heldSliceAdd p f.hdr.channel) s = .next s)
      ∧ (Admitted .slice p f b s → s.mayAdd b (portRing p) (segOf b f) = false → exec (.heldSliceAdd p f.hdr.channel) s = .next s)
      ∧ (Addable p f b c s → w.c ≠ w.o → SendsNow s q (.data f) →
        ∃ u, exec (.heldSliceAdd p f.hdr.channel) s = .next u ∧ passes u
          ∧ u.red.held = rest.filter (fun x => !sameQueue p f x) ++ rest.filter (sameQueue p f)))
    ∧ (let v := s.way b.dim ring seg
      s.working = true → Settled s → s.ring.jobs.length ≤ 4096 → s.tilesRun = true → s.jobOf seg = some j →
        s.job j = some b → s.halted j = false → s.originDue seg ring b = true →
        (∀ i < 137, (s.contribution seg i).2.isSome = true ∧ Unhindered s (s.contribution seg i).1) → v.c ≠ v.o →
      ∃ u, exec (.originateSegment seg ring) s = .next u ∧ u.red = { s.red with originated := s.red.originated ++ [(ring, seg)] }
        ∧ u.g F.RED_FLITS_ADDED_COUNT = (s.g F.RED_FLITS_ADDED_COUNT + 137) % 2 ^ 48 ∧ SameMem s u
        ∧ KeepsRegs s u (F.RED_JOB_STATUS_STATE j :: reduceFields ++ correctFields s.mem))

/-- R316, R317, R323, R357 to R360: gathered working copies, skip notices and digests that come on a ring; of a heal's segments no gather
count changes. The model's choices it rests on: log entries 32 and 63. -/
def Obligations.GatherSkipAndDigestFlitsAct : Prop :=
  ∀ (p : Nat) (rx : LineRx) (m : List Byte) (f : Flit) (b : Job) (s : State),
    let ring := portRing p
    let seg := segOf b f
    let g := sliceOf f
    let q := s.outPort (portOf ring (1 - p % 2))
    (DataComes p rx m f s → Admitted .gather p f b s →
      let len := (s.groupOf seg).elim 0 s.gatherLenOf
      let z := s.takeTail (if f.hdr.gkind = 2 then 3 else 2) seg g ((wordBytes f.payload).take (min 480 (len - 480 * g)))
      let n := s.g (ringSizeF ring)
      let copied := s.writeCopy seg (480 * g - z.2.1) z.2.2
      Unhindered s copied →
      ∃ u, exec (.gatherFlit p false rx) s = .next u ∧ u.mem = copied.mem ∧ u.red.tails = z.1.red.tails
        ∧ (f.hdr.added < (if p % 2 = 1 then n / 2 else (n - 1) / 2) → SendsNow s q (.data f) → Sends s u (stamped s ring q f.further))
        ∧ (f.hdr.last = false → u.gather = s.gather ∧ u.stp = s.stp ∧ KeepsRegs s u (F.NVS_HIST_DROPPED_COUNT :: lineFields p ++ countFields))
        ∧ (f.hdr.gkind = 2 → u.gather = s.gather ∧ u.stp = s.stp
            ∧ (f.hdr.last = true → u.upd.healed = s.upd.healed ++ [seg] ∨ u.g F.UPD_STATUS_HEALING = 0)
            ∧ ∀ j, u.g (F.RED_JOB_STATUS_GATHERED j) = s.g (F.RED_JOB_STATUS_GATHERED j))
        ∧ (∀ j e, f.hdr.gkind ≠ 2 → f.hdr.last = true → seg ∉ s.gather.done → s.jobOf seg = some j → (s.groupOf seg).bind s.group = some e →
            u.gather.done = s.gather.done ++ [seg]
            ∧ u.g (F.RED_JOB_STATUS_GATHERED j) = (s.g (F.RED_JOB_STATUS_GATHERED j) + 1) % 2 ^ 27
            ∧ Sparse.get 0 e.layer u.stp.gather = Sparse.get 0 e.layer s.stp.gather + 1))
    ∧ (DataComes p rx m f s → Admitted .skip p f b s →
      (f.hdr.srcPos = s.coord ring → ∃ u, exec (.skipNotice p false rx) s = .next u
        ∧ u.red = { s.red with noticeOut := s.red.noticeOut.filter (· != (ring, 1 - p % 2)) }
        ∧ u.g F.RED_STATUS_NOTICE_OUT = (if u.red.noticeOut.isEmpty then 0 else 1) ∧ KeepsRegs s u (F.RED_STATUS_NOTICE_OUT :: lineFields p)
        ∧ SameMem s u)
      ∧ (f.hdr.srcPos ≠ s.coord ring → SendsNow s q (.data f) → ∃ u, exec (.skipNotice p false rx) s = .next u ∧ SameMem s u
        ∧ u.g F.RED_STATUS_SKIP ≠ 0 ∧ Sends s u (stamped s ring q f)
        ∧ (s.g F.RED_STATUS_SKIP = 0 → u.red = { s.red with skipRings := [ring], skipJob := f.hdr.job, skipCopied := false }
            ∧ (s.g F.RED_ERROR_VALID = 0 → u.g F.RED_ERROR_CODE = 0x0508 ∧ u.g F.RED_ERROR_JOB = f.hdr.job % 2 ^ 12))
        ∧ (s.g F.RED_STATUS_SKIP ≠ 0 → u.red = s.red ∧ KeepsRegs s u (lineFields p ++ countFields))))
    ∧ (DataComes p rx m f s → Admitted .digest p f b s → NoDecision s →
      let l := wordBytes f.payload
      let gi := leAt l 4 2
      let d := s.digestOf gi
      let r := (ring, f.hdr.srcPos, leAt l 8 8)
      let e := s.outPort (portOf ring 0)
      ∃ u, exec (.digestFlit p false rx) s = .next u ∧ SameMem s u
        ∧ (f.hdr.added + 1 < max 1 (s.ringSize ring) → SendsNow s e (.data f) → Sends s u (stamped s ring e f.further))
        ∧ (leAt l 0 1 = 1 →
          let v := s.setDigest { d with received := d.received ++ [r] }
          (u.digestOf gi).received = d.received ++ [r]
          ∧ (s.on F.UPD_STATUS_DIG_PENDING = true → v.digestCompared = true → v.mismatching = [] →
              u.g F.UPD_STATUS_DIG_PENDING = 0 ∧ u.upd.matched = true)
          ∧ (∀ c, d.own = some c → c ≠ leAt l 8 8 → d.differs = false → s.g F.UPD_DIG_REPORT_VALID = 0 →
              u.g F.UPD_DIG_REPORT_VALID = 1 ∧ u.g F.UPD_DIG_REPORT_GROUP = gi ∧ u.g F.UPD_DIG_REPORT_ORIGIN = f.hdr.srcPos % 64))
        ∧ (leAt l 0 1 = 2 → (u.digestOf gi).heard = d.heard ++ [(ring, f.hdr.srcPos, leAt l 20 2)]))

/-- R323: the SKIP copy and its notices. The copy carries a place of the version in use to the inactive one, byte for byte. The model's
choices it rests on: log entry 32. -/
def Obligations.SkipIsCopiedAndTold : Prop :=
  ∀ (ring u' seg len : Nat) (a c : Place) (s : State),
    let e0 := portOf ring 0
    let e1 := portOf ring 1
    let f : Flit := ⟨{ s.header ring s.red.skipJob with nan := true, srcPos := s.coord ring, offset := 0xFFFFFFFFFF }, List.replicate 120 0⟩
    (s.working = true → Settled s → s.tilesRun = true → s.g F.RED_STATUS_SKIP ≠ 0 → s.red.skipCopied = false →
        (s.replaying = true ∨ s.ckptHolds s.writeVersion = false) → NoDecision s → (∀ x ∈ s.extents, x.host = false) →
        Unhindered s s.endRuns.skipCopy →
      ∃ u, exec .skipCopy s = .next u ∧ u.red = { s.red with skipCopied := true } ∧ u.upd.runs = [] ∧ u.g F.UPD_STATUS_BUSY = 0
        ∧ (s.replaying = true → SameMem s u))
    ∧ (a.host = false → c.host = false → len % 64 = 0 → s.replaying = false →
        (s.readMem (rqUPD + u') a.addr (len / 64)).2.2 = 0 → (s.writeMem (rqUPD + u') c.addr (s.mem.read a.addr len)).2 = 0 →
      let v := s.copyPlace u' seg (some a) (some c) len
      v.2 = true ∧ (∀ i < len, v.1.mem.byte (c.addr + i) = s.mem.byte (a.addr + i)) ∧ KeepsMem s v.1 c.addr len
        ∧ v.1.g F.STEP_VERSION_PREV_VALID = 0)
    ∧ (s.working = true → Settled s → s.tilesRun = true → s.g F.RED_STATUS_SKIP ≠ 0 → s.red.skipCopied = true → s.ringUp ring = true →
        ring ∈ s.noticeRings → ring ∉ s.red.noticeSent →
      ∃ u, exec (.skipNoticeSend ring) s = .next u ∧ SameMem s u ∧ u.g F.RED_STATUS_NOTICE_OUT = 1
        ∧ KeepsRegs s u (F.RED_STATUS_NOTICE_OUT :: countFields)
        ∧ u.red = { s.red with noticeSent := s.red.noticeSent ++ [ring], noticeOut := s.red.noticeOut ++ [(ring, 0), (ring, 1)] }
        ∧ (s.outPort e0 = e0 → s.outPort e1 = e1 → SendsNow s e0 (.data f) → SendsNow s e1 (.data f) →
            Sends s u (stamped s ring e0 f) ∧ Sends s u (stamped s ring e1 f)))

/-- R326 to R328: the low-rank sequence of a MODE 1 job: M and P and round 1; orthonormal columns, Q' and round 2; what the last step
writes and the segments it reduces. The model's choices it rests on: log entries 32 and 67. -/
def Obligations.LowRankSequenceRuns : Prop :=
  ∀ (j : Nat) (b : Job) (e : LowRank) (s : State),
    s.working = true → Settled s → s.ring.jobs.length ≤ 4096 → NoDecision s → s.tilesRun = true → s.job j = some b →
    s.halted j = false → s.jobRings b = true →
    (s.red.held = [] → b.mode = 1 → s.low j = none → b.segs.all s.red.released.contains = true →
      (∀ t g units, s.localRows b.segs = (t, some g) → (t.lowUnits j s.readVersion b (b.segCount + b.rank)).2 = some (.ok units) →
          Unhindered s (s.lowBegin j b) →
        ∃ u, exec (.lowRankSequence j) s = .next u ∧ u.g (F.RED_JOB_STATUS_ROUND j) = 1 ∧ SameMem s u
          ∧ (u.low j).map (·.m) = some (List.zipWith (List.zipWith add32) g (units.take b.segCount)))
      ∧ ((s.localRows b.segs).2 = none → Unhindered s (s.localRows b.segs).1 →
        ∃ u, exec (.lowRankSequence j) s = .next u ∧ u.g (F.RED_JOB_STATUS_STATE j) = jobHALTED ∧ u.low j = none ∧ SameMem s u))
    ∧ (s.low j = some e → s.red.held = [] → s.round j = 1 → e.full b 1 = true →
      let hat := orthoCols [] (columnsOf b.rank (e.matrix b 1))
      ∃ u, exec (.lowRankRound1Done j) s = .next u ∧ u.g (F.RED_JOB_STATUS_ROUND j) = 2 ∧ SameMem s u
        ∧ (u.low j).map (fun x => (x.m, x.pHat, x.qLoc)) = some (e.m, rowMajor b.segCount hat,
          (List.range 16384).flatMap fun x => hat.map fun h => dot (e.m.map fun row => row.getD x 0) h))
    ∧ (s.low j = some e → s.round j = 2 → e.full b 2 = true → (s.replaying = true ∨ s.ckptHolds s.writeVersion = false) →
      let own := s.ownedOfJob b
      let q := e.matrix b 2
      let stored := s.lowStore j b e q
      Unhindered s (own.foldl (fun s seg => s.lowRebuild j seg b e q) (stored.set (F.RED_JOB_STATUS_ROUND j) 3)) →
      ∃ u, exec (.lowRankRound2Done j) s = .next u ∧ u.g (F.RED_JOB_STATUS_ROUND j) = 3 ∧ u.red.reduced = s.red.reduced ++ own
        ∧ u.g F.RED_SEGS_REDUCED_COUNT = (s.g F.RED_SEGS_REDUCED_COUNT + own.length) % 2 ^ 48
        ∧ u.g (F.RED_JOB_STATUS_REDUCED j) = (s.g (F.RED_JOB_STATUS_REDUCED j) + own.length) % 2 ^ 32
        ∧ (own = [] → u.mem = stored.mem))

/-- R356, R359: in a due step the device computes the digest of every group and sends the granules of those that mismatch. The model's
choices it rests on: log entry 63. -/
def Obligations.DigestsAreComputed : Prop :=
  ∀ (s : State), s.working = true → s.stepOpen = true → Settled s → NoDecision s → s.g F.UPD_STATUS_DIG_PENDING ≠ 0 →
    (s.gatherFull = true → s.gather.kind = none → (∃ g < s.ring.groups.length, (s.digestOf g).own = none) →
      ∃ u, exec .digestCompute s = .next u ∧ SameMem s u ∧ ∀ g < s.ring.groups.length, (u.digestOf g).own = some (crc64 (s.wcBytes g)))
    ∧ (s.digestCompared = true → (∃ g ∈ s.narrowSet, (s.digestOf g).sent = false) →
      ∃ u, exec .narrowingSend s = .next u ∧ SameMem s u ∧ (∀ g ∈ s.narrowSet, (u.digestOf g).sent = true)
        ∧ ∀ g, (u.digestOf g).own = (s.digestOf g).own ∧ (u.digestOf g).received = (s.digestOf g).received)

/-- R342: each arithmetic instruction of an update program writes its function of the operands, element by element, to its V register and
changes nothing else but the place of the run. The model's choices it rests on: log entry 12. -/
def Obligations.UpdateArithmeticRuns : Prop :=
  ∀ (u : Nat) (r : URun) (g : Group) (i : UInstr) (s : State) (c : Instr) (op : Nat) (h : Nat → Nat → Nat → Nat),
    (c, op, h) ∈ [(.updAdd u, 0x10, fun a b _ => add32 a b), (.updSub u, 0x11, fun a b _ => sub32 a b),
      (.updMul u, 0x12, fun a b _ => mul32 a b), (.updFma u, 0x13, fma32), (.updMax u, 0x14, fun a b _ => max32 a b),
      (.updMin u, 0x15, fun a b _ => min32 a b), (.updNeg u, 0x16, fun a _ _ => neg32 a), (.updAbs u, 0x17, fun a _ _ => abs32 a),
      (.updCmplt u, 0x18, fun a b _ => flag32 (lt32 a b)), (.updSel u, 0x19, fun a b c => if eq32 a 0 then c else b),
      (.updExp2 u, 0x20, fun a _ _ => exp2_32 a), (.updLog2 u, 0x21, fun a _ _ => log2_32 a), (.updRcp u, 0x22, fun a _ _ => rcp32 a),
      (.updRsqrt u, 0x23, fun a _ _ => rsqrt32 a), (.updSqrt u, 0x24, fun a _ _ => sqrt32 a)] →
    Running u r g i s → i.op = op →
    let d := List.zipWith (fun p z => h p.1 p.2 z) ((s.uget g r i.a).zip (s.uget g r i.b)) (s.uget g r i.c)
    ∃ t, exec c s = .next t ∧ RunGoes u (some { r with pc := r.pc + 1, v := Sparse.put [] i.dst d r.v }) s t ∧ { t with upd := s.upd } = s

/-- R337 to R339, R342, R343, R361: runs of an update program: whole, its PASS, END and WCF, the accumulators and the stores to the
inactive version. A read that fails is recorded in place of the run, and a store that fails is recorded beside it. The model's choices it
rests on: log entries 32, 57 and 61. -/
def Obligations.UpdateProgramsRun : Prop :=
  ∀ (u gi seg p : Nat) (r : URun) (g : Group) (i : UInstr) (s : State),
    let l := (s.progOf g).instrs
    let again : URun := { r with pc := r.pc + 1, v := [], acc := [] }
    let nth := (l.take r.pc).countP fun i => i.op == uPASS
    let leaves (t : State) : Prop := t.runOf u = none ∧ (∀ x, x ≠ u → t.runOf x = s.runOf x) ∧ SameMem s t
      ∧ (t.g F.UPD_STATUS_BUSY).testBit u = false
    let row : Instr := if groupScope l then .updateProgramPass gi p seg else .updateProgramSegment gi seg
    (Settled s → NoDecision s → s.group gi = some g → s.passDue gi seg p g = true →
      (∀ t, s.uStart gi seg p none s.readVersion g = (t, some r) → Settled t → NoDecision t →
        Unhindered s (State.uRun (l.length + 1) r t) → exec row s = .next (State.uRun (l.length + 1) r t))
      ∧ (∀ c, (s.uInputs (s.unitOf gi seg) gi seg none s.readVersion).2 = some (.error c) → s.g F.UPD_ERROR_VALID = 0 →
        Unhindered s (s.uInputs (s.unitOf gi seg) gi seg none s.readVersion).1 →
        ∃ t, exec row s = .next t ∧ t.g F.UPD_ERROR_VALID = 1 ∧ t.g F.UPD_ERROR_CODE = updCode c
          ∧ t.g F.UPD_ERROR_SEGMENT = seg % 2 ^ 32 ∧ t.upd.done = s.upd.done)
      ∧ (s.uStart gi seg p none s.readVersion g = (s, some r) → s.unitOf gi seg = u → u < 16 → s.runOf u = none →
        (passFirst l p = some uPASS → ∃ t, exec (.updPass u gi seg p) s = .next t ∧ t.runOf u = some again
          ∧ (t.g F.UPD_STATUS_BUSY).testBit u = true ∧ KeepsRegs s t [F.UPD_STATUS_BUSY] ∧ SameMem s t)
        ∧ (p = 0 → passFirst l 0 = some uWCF → ∃ t, exec (.updWcf u gi seg) s = .next t ∧ t.runOf u = some { r with pc := r.pc + 1 }
          ∧ (t.g F.UPD_STATUS_BUSY).testBit u = true ∧ KeepsRegs s t [F.UPD_STATUS_BUSY] ∧ SameMem s t)))
    ∧ (Running u r g i s → u < 16 →
      (i.op = uPASS → groupScope l = true → nth = r.pass → ∃ t, exec (.updPass u gi seg p) s = .next t ∧ RunGoes u (some again) s t
        ∧ { t with upd := s.upd } = s)
      ∧ (i.op = uPASS → groupScope l = true → nth ≠ r.pass → ∃ t, exec (.updPass u gi seg p) s = .next t ∧ leaves t ∧ PassOver r s t)
      ∧ (i.op = uPASS → groupScope l = false → nth = 0 → ∃ t, exec (.updPass u gi seg p) s = .next t ∧ RunGoes u (some again) s t
        ∧ { t with upd := s.upd } = s)
      ∧ (i.op = uPASS → groupScope l = false → nth ≠ 0 → ∃ t, exec (.updPass u gi seg p) s = .next t ∧ SameMem s t ∧ PassOver r s t
        ∧ t.runOf u = some { again with pass := nth, prev := r.finals })
      ∧ (i.op = uEND → ∃ t, exec (.updEnd u) s = .next t ∧ leaves t ∧ PassOver r s t
        ∧ t.upd.crcs = s.upd.crcs ++ [(r.group, r.seg, crc64 (r.out.foldr (fun e l => e.2 ++ l) []))])
      ∧ (i.op = uWCF → ∃ t, exec (.updWcf u gi seg) s = .next t ∧ RunGoes u (some { r with pc := r.pc + 1 }) s t ∧ { t with upd := s.upd } = s)
      ∧ (i.op = uACC → ∃ t, exec (.updAcc u) s = .next t ∧ { t with upd := s.upd } = s
        ∧ RunGoes u (some { r with pc := r.pc + 1, acc := r.acc ++ [(i.md % 4, s.uget g r i.a)] }) s t))
    ∧ (Running u r g i s → NoDecision s →
      let ovf := (s.numOf r.group).elim 0 fun e => bitsOf e.mode 4 4
      let stores (c : Instr) (off : Nat) (bytes : List Byte) (r' : URun) : Prop :=
        (∀ a, s.replaying = false → s.outPlace r off = some a → Unhindered s (s.unitWrite r.unit a bytes).1) →
        ∃ t, exec c s = .next t ∧ t.runOf u = some r' ∧ (s.replaying = true → SameMem s t)
          ∧ ∀ a, s.replaying = false → s.outPlace r off = some a → t.mem = (s.unitWrite r.unit a bytes).1.mem
            ∧ ((s.unitWrite r.unit a bytes).2 = 0 → t.g F.STEP_VERSION_PREV_VALID = 0)
            ∧ ((s.unitWrite r.unit a bytes).2 ≠ 0 → s.g F.UPD_ERROR_VALID = 0 →
                t.g F.UPD_ERROR_VALID = 1 ∧ t.g F.UPD_ERROR_CODE = updCode (s.unitWrite r.unit a bytes).2)
      let values (f : FloatFmt) (st plane : Nat) : List Byte :=
        packPlane f ((s.storeValues r f ovf (st == 1) plane (s.uget g r i.a)).map (·.1))
      (i.op = uSTW → let b := values (fmtOfMaster g) (i.md % 2) 0
        stores (.updStw u) 0 b { r with pc := r.pc + 1, out := Sparse.put [] 0 b r.out })
      ∧ (i.op = uSTM → let b := values (fmtOfMoment g) (i.md / 4 % 2) (1 + i.md % 4)
        stores (.updStm u) (momentOff g (i.md % 4)) b { r with pc := r.pc + 1, out := Sparse.put [] (1 + i.md % 4) b r.out })
      ∧ (i.op = uSTF → i.md % 4 = 1 → stores (.updStf u) (factorOff g l + 512)
          (padSector (wordBytes ((List.range 128).map fun k => (toFloat binary32 0 ((s.uget g r i.a).getD k 0)).1))) { r with pc := r.pc + 1 })
      ∧ (i.op = uSTF → i.md % 4 = 0 → stores (.updStf u) (factorOff g l)
          (padSector (wordBytes ((List.range 128).map fun k => (toFloat binary32 0 ((s.uget g r i.a).getD (128 * k) 0)).1))) { r with pc := r.pc + 1 })
      ∧ (i.op = uSTF → 2 ≤ i.md % 4 → stores (.updStf u) (factorOff g l + 512 * (i.md % 4))
          (padSector (wordBytes [(toFloat binary32 0 ((s.uget g r i.a).getD 0 0)).1])) { r with pc := r.pc + 1 }))

/-- R317, R347, R349 to R351, R354, R403, R417 to R419: working copies derived and sent, late gradients kept and applied, and the exchange
between pods. The model's choices it rests on: log entries 32 and 57. -/
def Obligations.CopiesAndLateGradientsMove : Prop :=
  ∀ (gi seg n pod q j : Nat) (g : Group) (b : Job) (msg : List Byte) (rest : List Nat) (s : State),
    let own := s.ownedOf g
    let unit := s.unitOf gi seg
    let item := (gi, s.workStep, seg, pod)
    s.working = true → Settled s → NoDecision s → s.group gi = some g → s.ring.jobs.length ≤ 4096 →
    (s.ringsCarry = true → s.upd.healQueue = [] → s.gather.kind ≠ some 2 → s.gather.queue = seg :: rest → s.groupOf seg = some gi →
        s.jobOf seg = some j → s.job j = some b → s.halted j = false → Unhindered s s.deriveNext →
      let ver := if s.gather.kind = some 3 then 1 - s.version else s.version
      (∀ v, s.masterValues gi seg ver g = (s, some (.ok v)) → ∃ u, exec .wcDerive s = .next u ∧ u.gather.queue = rest ∧ seg ∈ u.gather.done
        ∧ u.mem = (s.writeCopy seg 0 (deriveCopy (s.wcForm gi g) v)).mem)
      ∧ (∀ c, (s.masterValues gi seg ver g).2 = some (.error c) → s.g F.UPD_ERROR_VALID = 0 → ∃ u, exec .wcDerive s = .next u
        ∧ u.gather.queue = rest ∧ seg ∈ u.gather.done ∧ u.g F.UPD_ERROR_CODE = updCode c
        ∧ (s.gather.kind ≠ some 3 → u.upd.spoiled.isSome = true)))
    ∧ (∀ pl, s.stepOpen = true → s.replaying = false → g.late = true → seg ∈ own → own.all s.red.reduced.contains = true →
        (s.pendingOf gi s.workStep).elim false (fun p => p.copied.contains seg) = false →
        s.pendingUnit gi (s.workStep % 5) (s.ownIndex gi seg) = some pl → pl.host = false →
        (s.lateOf gi).elim false (fun e => e.source == 1) = false →
      ∀ l, s.readPart (rqUPD + unit) s.ring.redPart (65536 * seg) 65536 = (s, l, 0) → (s.writeMem (rqUPD + unit) pl.addr l).2 = 0 →
        Unhindered s (s.writeMem (rqUPD + unit) pl.addr l).1 →
      let p := (s.pendingOf gi s.workStep).getD ⟨gi, s.workStep, [], [], [], true, false⟩
      ∃ u, exec (.latePendingCopy gi seg) s = .next u ∧ (∀ i < l.length, u.mem.byte (pl.addr + i) = l.getD i 0) ∧ KeepsMem s u pl.addr l.length
        ∧ u.pendingOf gi s.workStep = some { p with
            copied := p.copied ++ [seg], summed := p.summed ++ [seg], own := p.own.filter (·.1 != seg) })
    ∧ (∀ p, s.stepOpen = true → s.replaying = false → s.lateFirst gi = some n → s.g F.RED_STATUS_SKIP = 0 →
        s.ckptHolds s.writeVersion = false → s.pendingOf gi n = some p → own.all p.summed.contains = true →
        s.lateReady gi n (s.lateVersion gi) own = true → Unhindered s (s.lateApply gi n (s.lateVersion gi) g own) →
      ∃ u, exec (.lateApplication gi n) s = .next u ∧ u.upd.due = s.upd.due.filter (fun e => !(e == (gi, n)))
        ∧ u.pendingOf gi n = some { p with applied := true })
    ∧ (∀ k l, s.podSetOf gi = some k → s.stepOpen = true → s.replaying = false → seg ∈ own → seg ∈ s.red.reduced →
        pod < s.g (F.ETH_PODS_COUNT k) → pod ≠ s.g (F.ETH_PODS_SELF k) → q = s.g (F.ETH_PODS_QP_BASE k) + pod → s.qpReady q = true →
        item ∉ s.upd.podSent →
        s.readPart rqETH s.ring.redPart (65536 * seg) 65536 = (s, l, 0) →
      let self := s.g (F.ETH_PODS_SELF k)
      exec (.podExchangeSend gi seg pod) s = .next { s with
        outbox := s.outbox ++ [.rdmaWrite q (s.podOffset gi s.workStep self (s.ownIndex gi seg)) l,
          .rdmaSend q (podMessage s.workStep gi self s.workAttempt seg (crc64 l))],
        upd := { s.upd with podSent := s.upd.podSent ++ [item] } })
    ∧ (∀ k l, s.podSetOf gi = some k → msg.length = 32 → leAt msg 0 8 = n → leAt msg 8 2 = gi → leAt msg 10 1 = pod → leAt msg 12 4 = seg →
        q = s.g (F.ETH_PODS_QP_BASE k) + pod → s.qpReady q = true → pod < s.g (F.ETH_PODS_COUNT k) → pod ≠ s.g (F.ETH_PODS_SELF k) →
        seg ∈ own → (gi, n, seg, pod) ∉ s.upd.podGot →
        s.readPart rqETH (s.podSet gi).2.2 (s.podOffset gi n pod (s.ownIndex gi seg)) 65536 = (s, l, 0) →
      (crc64 l ≠ leAt msg 16 8 → exec (.podCopyReceive q msg) s = .next s)
      ∧ (crc64 l = leAt msg 16 8 → Unhindered s (s.podReceive gi pod n seg (crc64 l)) → ∃ u, exec (.podCopyReceive q msg) s = .next u ∧ (gi, n, seg, pod) ∈ u.upd.podGot
        ∧ ∀ x ∈ u.upd.podGot, x ∈ s.upd.podGot ∨ x = (gi, n, seg, pod)))
    ∧ (∀ k, s.podSetOf gi = some k → s.stepOpen = true → s.g (F.ETH_PODS_TIMEOUT_MS k) ≠ 0 → (gi, n) ∈ s.upd.due →
        (s.pendingOf gi n).elim false (fun p => own.all p.summed.contains) = false →
      ∃ u, exec (.podTimeout gi n) s = .next u ∧ SameMem s u ∧ (s.g F.ETH_ERRLOG_VALID = 0 → u.g F.ETH_ERRLOG_CODE = 0x080A)
        ∧ (s.stepState = stOPEN → s.replaying = false → s.framesFlow = true → u.stepState = stFAIL)
        ∧ (s.replaying = false → u.stp.failed = (s.stp.failed <|> some (0x080A, 0xFFFF))))

/-- R365 to R371, R543: host accesses to bonded memory by BAR2 and by CXL.mem, to bytes that are no memory of the host, and BAR0 accesses
that are no aligned 4 or 8 bytes; what the link layers hold in Recovery, and what finds no BAR in training. The model's choices it rests
on: log entries 32, 37, 51 and 54. -/
def Obligations.HostAccessesMemory : Prop :=
  ∀ (x n hpa share : Nat) (data : List Byte) (mask : List Bool) (s : State),
    let y := hpa - s.host.hdmBase
    let cxl : Prop := s.cxl = true ∧ s.host.hdmBase ≤ hpa ∧ y < hdaEnd ∧ hpa % 64 = 0
    let bytes (a k : Nat) : List Byte := (List.range k).map fun i => s.mem.byte (dpaOfHda (a + i))
    let stores (a : Nat) (u : State) : Prop := KeepsRegs s u (correctFields s.mem)
      ∧ (∀ i < data.length, u.mem.byte (dpaOfHda (a + i)) = if mask.getD i false then data.getD i 0 else s.mem.byte (dpaOfHda (a + i)))
      ∧ ∀ b, (∀ i < data.length, b ≠ dpaOfHda (a + i)) → u.mem.byte b = s.mem.byte b
    let held (u : State) : Prop := u.host.retainedLogged = true ∧ SameMem s u
      ∧ (s.host.retainedLogged = false → s.g F.HIF_ERRLOG_VALID = 0 → u.g F.HIF_ERRLOG_CODE = 0x070C)
    s.powered = true →
    (s.host.recovery = true →
      exec (.bar2Read x n) s = .next { s with host := { s.host with coming := s.host.coming ++ [.barRead x n] } }
      ∧ exec (.cxlMemWrite hpa data mask) s = .next { s with host := { s.host with coming := s.host.coming ++ [.cxlWrite hpa data mask] } })
    ∧ (s.host.recovery = false → s.g F.HIF_STATUS_LINK_UP = 0 → s.pins.perst = false →
      exec (.bar2Read x n) s = .next (s.emit .unsupported) ∧ exec (.bar2Write x data mask) s = .next s)
    ∧ (s.host.recovery = false → s.g F.HIF_STATUS_LINK_UP ≠ 0 →
    (¬((n = 4 ∨ n = 8) ∧ x % n = 0) → exec (.bar0Unsupported x n) s = .next (s.emit .unsupported))
    ∧ (x + n ≤ barEnd → s.retained = false →
      (HostReads s x n → Unhindered s (s.hostRead x n) → ∃ u, exec (.bar2Read x n) s = .next u ∧ SameMem s u
        ∧ u.outbox = s.outbox ++ [.hostReply (bytes x n) false] ∧ KeepsRegs s u (correctFields s.mem))
      ∧ (∀ h, sectorsOf x n = [h] →
        (hostSector h = 2 → exec (.bar2Read x n) s = .next (s.emit (.hostReply (List.replicate n 0) false)))
        ∧ (hostSector h = 1 → ∃ u, exec (.bar2Read x n) s = .next u ∧ SameMem s u ∧ Sends s u (.hostReply (List.replicate n 0) false)
          ∧ (s.g F.HIF_ERRLOG_VALID = 0 → u.g F.HIF_ERRLOG_CODE = 0x070B))
        ∧ (hostSector h = 0 → (s.memGate rqHOST (dpaOfHda h) ≠ 0 ∨ dpaOfHda h / 64 ∈ s.mem.bad) → Unhindered s (s.hostRead x n) →
          ∃ u, exec (.bar2Read x n) s = .next u ∧ SameMem s u ∧ Sends s u (.hostReply (List.replicate n 0) true))))
    ∧ (x + n ≤ barEnd → s.retained = true → ∃ u, exec (.bar2Read x n) s = .next u ∧ held u
        ∧ u.outbox.getLast? = some (.hostReply (List.replicate n 0) false))
    ∧ (x + data.length ≤ barEnd → mask.length = data.length →
      (s.retained = true → ∃ u, exec (.bar2Write x data mask) s = .next u ∧ held u)
      ∧ (s.retained = false → HostReads s x data.length → Unhindered s (s.hostWrite x data mask) → ∃ u, exec (.bar2Write x data mask) s = .next u ∧ stores x u ∧ u.outbox = s.outbox)
      ∧ (s.retained = false → (∀ h ∈ sectorsOf x data.length, hostSector h ≠ 0) → ∃ u, exec (.bar2Write x data mask) s = .next u
        ∧ SameMem s u))
    ∧ (cxl → s.retained = false → HostReads s y 64 → Unhindered s (s.hostRead y 64) →
      ∃ u, exec (.cxlMemRead hpa share) s = .next u ∧ u.outbox = s.outbox ++ [.hostReply (bytes y 64) false]
        ∧ (∀ l, Sparse.get 0 l u.host.lines = if l = y / 64 ∧ share ≠ 0 ∧ s.mayGrant y = true
            then (if Sparse.get 0 l s.host.lines = 2 then 2 else min share 2) else Sparse.get 0 l s.host.lines)
        ∧ KeepsRegs s u (correctFields s.mem)
        ∧ { u with fld := s.fld, reports := s.reports, regions := s.regions, outbox := s.outbox, host := s.host } = s)
    ∧ (cxl → s.retained = false → data.length = 64 → mask.length = 64 → HostReads s y 64 → Unhindered s (s.hostWrite y data mask) →
      ∃ u, exec (.cxlMemWrite hpa data mask) s = .next u ∧ stores y u ∧ u.outbox = s.outbox))

/-- R382, R384, R387, R388, R393: a queue enabled, disabled and rung, a descriptor fetched, a command checked and started. The model's
choices it rests on: log entry 55. -/
def Obligations.QueuesTakeCommands : Prop :=
  ∀ (m q size v : Nat) (bytes : List Byte) (s : State),
    let x := s.queue q
    let head := s.g (F.HIF_Q_STATUS_SQ_HEAD q)
    (s.fromMaster m = true → m = 1 ∨ m = 2 → q < 4 →
      (s.g (F.HIF_Q_CFG_ENABLE q) = 0 →
        ∃ u, exec (.queueEnable m q size) s = .next u ∧ u.g (F.HIF_Q_CFG_ENABLE q) = 1 ∧ u.g (F.HIF_Q_CFG_SIZE q) = size % 32
          ∧ u.g (F.HIF_Q_STATUS_SQ_HEAD q) = 0 ∧ u.g (F.HIF_Q_SQ_TAIL_INDEX q) = 0 ∧ u.g (F.HIF_Q_CQ_HEAD_INDEX q) = 0
          ∧ OnlyQueue q s u ∧ SameMem s u
          ∧ (4 ≤ size % 32 → size % 32 ≤ 16 → u.g (F.HIF_Q_STATUS_STOPPED q) = 0
            ∧ u.queue q = { x with live := true, sqBase := s.g (F.HIF_Q_SQ_BASE_ADDR q) * 4096, cqBase := s.g (F.HIF_Q_CQ_BASE_ADDR q) * 4096,
                                   size := size % 32, cqTail := 0, phase := true })
          ∧ (¬(4 ≤ size % 32 ∧ size % 32 ≤ 16) → u.g (F.HIF_Q_STATUS_STOPPED q) = 1 ∧ (u.queue q).live = false
            ∧ (s.g F.HIF_ERRLOG_VALID = 0 → u.g F.HIF_ERRLOG_CODE = 0x0709 ∧ u.g F.HIF_ERRLOG_QUEUE = q)))
      ∧ (s.g (F.HIF_Q_CFG_ENABLE q) ≠ 0 → ∃ u, exec (.queueEnable m q size) s = .next u ∧ u.g (F.HIF_Q_CFG_SIZE q) = size % 32
          ∧ OnlyRegs s u [F.HIF_Q_CFG_ENABLE q, F.HIF_Q_CFG_SIZE q])
      ∧ (∃ u, exec (.queueDisable m q) s = .next u ∧ u.g (F.HIF_Q_CFG_ENABLE q) = 0 ∧ u.queue q = { x with live := false }
          ∧ OnlyQueue q s u ∧ KeepsRegs s u [F.HIF_Q_CFG_ENABLE q])
      ∧ (v < s.qEntries q → ∃ u, exec (.sqTailDoorbell m q v) s = .next u ∧ u.g (F.HIF_Q_SQ_TAIL_INDEX q) = v % 2 ^ 17
          ∧ OnlyRegs s u [F.HIF_Q_SQ_TAIL_INDEX q])
      ∧ (v < s.qEntries q → ∃ u, exec (.cqHeadDoorbell m q v) s = .next u ∧ u.g (F.HIF_Q_CQ_HEAD_INDEX q) = v % 2 ^ 17
          ∧ (v % 2 ^ 17 ≠ (x.cqTail + 1) % x.entries → u.g (F.HIF_Q_STATUS_CQ_FULL q) = 0)
          ∧ OnlyRegs s u [F.HIF_Q_CQ_HEAD_INDEX q, F.HIF_Q_STATUS_CQ_FULL q])
      ∧ (s.qEntries q ≤ v →
        (∃ u, exec (.sqTailDoorbell m q v) s = .next u ∧ u.g (F.HIF_Q_STATUS_STOPPED q) = 1 ∧ (u.queue q).live = false ∧ SameMem s u
          ∧ (s.g F.HIF_ERRLOG_VALID = 0 → u.g F.HIF_ERRLOG_CODE = 0x0709))
        ∧ ∃ u, exec (.cqHeadDoorbell m q v) s = .next u ∧ u.g (F.HIF_Q_STATUS_STOPPED q) = 1 ∧ (u.queue q).live = false ∧ SameMem s u))
    ∧ (s.working = true → s.g F.HIF_STATUS_LINK_UP ≠ 0 → x.live = true → bytes.length = 64 → head ≠ s.g (F.HIF_Q_SQ_TAIL_INDEX q) →
      ∃ u, exec (.descriptorFetch q bytes) s = .next u ∧ u.outbox = s.outbox ++ [.hostRead (x.sqBase + 64 * head) 64]
        ∧ u.g (F.HIF_Q_STATUS_SQ_HEAD q) = (head + 1) % x.entries % 2 ^ 17 ∧ u.host.nextNum = s.host.nextNum + 1
        ∧ u.queue q = { x with fetched := x.fetched ++ [⟨s.host.nextNum, bytes⟩] } ∧ KeepsRegs s u [F.HIF_Q_STATUS_SQ_HEAD q] ∧ SameMem s u)
    ∧ (∀ f rest, s.working = true → x.fetched = f :: rest → x.live = true → x.cmd = none →
        ¬((dFlags f.bytes).testBit 2 = true ∧ s.earlierRuns f.num = true) →
      let d := f.bytes
      let code := s.cmdCode d (s.readBuf (leAt d 8 1)) (s.readBuf (leAt d 9 1)) (s.readBuf (leAt d 10 1)) (s.space (bitsOf (dArg d) 63 60))
      let stage := if code ≠ 0 then 3 else if (dOp d = 1 ∨ dOp d = 2 ∨ dOp d = 3) ∧ dLen d = 0 then 2 else 0
      ∃ u, exec (.commandStart q) s = .next u ∧ (u.queue q).fetched = rest ∧ u.g (F.HIF_Q_STATUS_RUNNING q) = 1 ∧ SameMem s u
        ∧ (u.queue q).cmd.map (fun c => (c.num, c.desc, c.stage, c.status, c.result)) = some (f.num, d, stage, code, 0)
        ∧ (u.queue q).cmd.map (fun c => (c.src, c.dst, c.flag)) =
            some (s.readBuf (leAt d 8 1), s.readBuf (leAt d 9 1), s.readBuf (leAt d 10 1)))

/-- R371 to R374, R385, R390 to R393: what the queue commands NOP, COPY, FILL, FC_FLUSH and BIAS do, the answers that BIAS awaits, and
completion. The model's choices it rests on: log entries 32, 51, 52 and 55. -/
def Obligations.QueueCommandsAct : Prop :=
  ∀ (q line p : Nat) (inv : Bool) (host d : List Byte) (c : HostCmd) (s : State),
    let n := dLen c.desc
    let src (i : Nat) : Nat := dpaOfHda (c.src.base + 64 * (dSrcOff c.desc + i))
    let dst (i : Nat) : Nat := dpaOfHda (c.dst.base + 64 * (dDstOff c.desc + i))
    let reads : Prop := ∀ i < n, s.memGate rqHOST (src i) = 0 ∧ src i / 64 ∉ s.mem.bad
    let writes : Prop := ∀ i < n, s.memGate rqHOST (dst i) = 0 ∧ dst i % 64 = 0 ∧ ∀ k < n, i ≠ k → dst i ≠ dst k
    let keeps (u : State) : Prop := ∀ a, (∀ i < n, ¬(dst i ≤ a ∧ a < dst i + 64)) → u.mem.byte a = s.mem.byte a
    let live : Prop := s.working = true ∧ s.g F.HIF_STATUS_LINK_UP ≠ 0
    (s.working = true → s.cmdAt q 0x00 0 = some c → ∃ u, exec (.cmdNop q) s = .next u ∧ Ends q c 0 0 u ∧ OnlyQueue q s u
      ∧ { u with host := s.host } = s)
    ∧ (live → s.cmdAt q 0x01 0 = some c → c.dst.kind ≠ 1 → writes → Unhindered s (s.doCopy q c host none) →
      (c.src.kind ≠ 1 → reads → (∀ i < n, ∀ k < n, src i % 64 = 0 ∧ src i ≠ dst k) →
        ∃ u, exec (.copy q host none) s = .next u ∧ Ends q c 0 n u ∧ keeps u ∧ ∀ i < n, ∀ b < 64, u.mem.byte (dst i + b) = s.mem.byte (src i + b))
      ∧ (c.src.kind = 1 → s.far.lines = [] →
        ∃ u, exec (.copy q host none) s = .next u ∧ Ends q c 0 n u ∧ keeps u
          ∧ ∀ i < n, ∀ b < 64, u.mem.byte (dst i + b) = (sliceBytes host (64 * i) 64).getD b 0))
    ∧ (live → s.cmdAt q 0x01 0 = some c → c.dst.kind = 1 → c.src.kind ≠ 1 → reads → n ≠ 0 → Unhindered s (s.doCopy q c host none) →
      let a := c.dst.base + 64 * dDstOff c.desc
      let l := (List.range n).flatMap fun i => s.mem.read (src i) 64
      ∃ u, exec (.copy q host none) s = .next u ∧ Ends q c 0 n u
        ∧ (s.farParts .host = [] → SameMem s u ∧ u.outbox = s.outbox
          ++ (packets s.host.maxPayload (64 * n / 128 + 2) a (64 * n)).map (fun e => .postedWrite e.1 (sliceBytes l (e.1 - a) e.2))
          ++ [.hostRead (a + 64 * n - 64) 64])
        ∧ (s.farParts .host ≠ [] → ∀ i < n, Sends s u (.hostWrite (64 * (a / 64 + i)) (s.mem.read (src i) 64))))
    ∧ (live → s.cmdAt q 0x02 0 = some c → c.dst.kind ≠ 1 → writes → Unhindered s (s.doFill q c none) →
      ∃ u, exec (.fill q none) s = .next u ∧ Ends q c 0 n u ∧ keeps u
        ∧ ∀ i < n, ∀ b < 64, u.mem.byte (dst i + b) = (leBytes 8 (dArg c.desc)).getD (b % 8) 0)
    ∧ (live → s.cmdAt q 0x04 0 = some c →
      let marked (e : FarLine) : Bool := (dArg c.desc).testBit e.part
      let l := s.far.lines.filter fun e => marked e && e.dirty
      (∃ u, exec (.fcFlush q none) s = .next u ∧ Ends q c 0 l.length u ∧ SameMem s u
        ∧ u.outbox = s.outbox ++ l.map (fun e => .hostWrite (64 * e.line) e.data)
        ∧ u.far.lines = if (dArg c.desc).testBit 16 then s.far.lines.filter (fun e => !marked e)
          else s.far.lines.map fun e => if marked e then { e with dirty := false } else e)
      ∧ ∀ k < l.length, ∃ u, exec (.fcFlush q (some k)) s = .next u ∧ Ends q c 0x0707 k u ∧ SameMem s u
        ∧ ∀ e ∈ l.take k, Sends s u (.hostWrite (64 * e.line) e.data))
    ∧ (s.working = true → s.cmdAt q 0x03 0 = some c →
      let pages := pagesOf (c.dst.base + 64 * dDstOff c.desc) (64 * n)
      let changing := pages.filter fun p => s.g (F.PAGE_BIAS_BIAS p) ≠ dArg c.desc
      (dArg c.desc = 1 → s.cxl = false → ∃ u, exec (.bias q) s = .next u ∧ Ends q c 0x0707 0 u ∧ ∀ p, u.g (F.PAGE_BIAS_BIAS p) = s.g (F.PAGE_BIAS_BIAS p))
      ∧ (dArg c.desc = 1 → s.cxl = true → (∀ p ∈ pages, s.pageBusy p = false) → c.status / 256 ≠ 7 →
        ∃ u, exec (.bias q) s = .next u ∧ Ends q c c.status (c.result + changing.length) u ∧ (∀ p ∈ pages, u.g (F.PAGE_BIAS_BIAS p) = 1 ∧ u.g (F.PAGE_BIAS_CHANGING p) = 0)
          ∧ u.outbox = s.outbox)
      ∧ (dArg c.desc = 0 → changing ≠ [] →
        ∃ u, exec (.bias q) s = .next u ∧ (∀ p ∈ changing, u.g (F.PAGE_BIAS_CHANGING p) = 1)
          ∧ (s.g F.HIF_STATUS_LINK_UP ≠ 0 → u.outbox = s.outbox ++ (changing.flatMap linesOf).map (fun l => .biSnoop l true))
          ∧ u.host.snoops = s.host.snoops ++ (changing.flatMap linesOf).map (fun l => (l, true))
          ∧ ∃ x, (u.queue q).cmd = some x ∧ x.stage = 1 ∧ ∀ p ∈ changing, p ∈ x.pages)
      ∧ (dArg c.desc = 0 → changing = [] → (∀ p ∈ pages, s.pageBusy p = false ∧ s.pageSnooped p = false) → c.status / 256 ≠ 7 →
        ∃ u, exec (.bias q) s = .next u ∧ Ends q c c.status c.result u ∧ u.outbox = s.outbox))
    ∧ (s.powered = true → s.g F.HIF_STATUS_LINK_UP ≠ 0 → (line, inv) ∈ s.host.snoops →
      (∃ u, exec (.bisnpResponse line inv none) s = .next u ∧ u.host.snoops = s.host.snoops.filter (· != (line, inv)) ∧ SameMem s u
        ∧ Sparse.get 0 line u.host.lines = if inv = true ∨ Sparse.get 0 line s.host.lines = 0 then 0 else 3)
      ∧ (d.length = 64 → hostSector (64 * line) = 0 → s.memGate rqHOST (dpaOfHda (64 * line)) = 0 →
        Unhindered s (s.hostWriteSector (64 * line) (sliceBytes d 0 64) (List.replicate 64 true)) →
        ∃ u, exec (.bisnpResponse line inv (some d)) s = .next u ∧ u.host.snoops = s.host.snoops.filter (· != (line, inv))
          ∧ ∀ b < 64, u.mem.byte (dpaOfHda (64 * line) + b) = d.getD b 0))
    ∧ (s.powered = true → s.g (F.PAGE_BIAS_CHANGING p) ≠ 0 → s.pageSnooped p = true →
      ∃ u, exec (.biasSnoopTimeout p) s = .next u ∧ u.g (F.PAGE_BIAS_CHANGING p) = 0 ∧ u.g (F.PAGE_BIAS_TIMEOUT p) = 1
        ∧ u.g (F.PAGE_BIAS_BIAS p) = s.g (F.PAGE_BIAS_BIAS p) ∧ u.pageSnooped p = false ∧ SameMem s u)
    ∧ (live → (s.queue q).cmd = some c → 2 ≤ c.stage →
      (s.cqFull q = true → ∃ u, exec (.commandComplete q) s = .next u ∧ u.g (F.HIF_Q_STATUS_CQ_FULL q) = 1
        ∧ OnlyRegs s u [F.HIF_Q_STATUS_CQ_FULL q])
      ∧ (s.cqFull q = false → Unhindered s (s.writeFlag c) → let x := s.queue q
        let t := (x.cqTail + 1) % x.entries
        ∃ u, exec (.commandComplete q) s = .next u ∧ Sends s u (.hostWrite (x.cqBase + 32 * x.cqTail) (s.cqRecord q c))
          ∧ u.queue q = { x with cmd := none, cqTail := t, phase := if t = 0 then !x.phase else x.phase }
          ∧ u.g (F.HIF_Q_STATUS_RUNNING q) = 0
          ∧ ((dFlags c.desc).testBit 1 = true → c.stage = 2 → c.flag.kind = 1 →
            Sends s u (.hostWrite (c.flag.base + dFlagOff c.desc) (leBytes 8 (dFlagValue c.desc))))
          ∧ ((dFlags c.desc).testBit 0 = true → q < 4 → (u.g F.HIF_IRQ_CAUSE_CAUSE).testBit q = true)))

/-- R364, R376 to R381, R396 to R398, R538, R543: the far cache's answers, the host link, configuration requests, and the resets that the
host causes. The model's choices it rests on: log entries 9, 48, 52 and 54. -/
def Obligations.HostLinkActs : Prop :=
  ∀ (part line kind rate width : Nat) (cached cxl : Bool) (data : List Byte) (base payload read : Option Nat) (s : State),
    (∀ e rest, takeFirst (fun e => e.part == part && e.line == line && e.cached == cached) s.far.fills = some (e, rest) → s.powered = true →
        s.g F.HIF_STATUS_LINK_UP ≠ 0 → Settled s → NoDecision s →
      (∀ err, err = 1 ∨ err = 2 → ∃ u, exec (.farCacheFillDone part line cached false data err) s = .next u ∧ u.far = { s.far with fills := rest }
        ∧ SameMem s u ∧ (s.g F.HIF_ERRLOG_VALID = 0 → u.g F.HIF_ERRLOG_CODE = if err = 1 then 0x0707 else 0x0708))
      ∧ (data.length = 64 → Unhindered s (({ s with far := { s.far with fills := rest } } : State).fillReturns e data) →
        let d := (s.farCopy line).elim data (·.data)
        ∃ u, exec (.farCacheFillDone part line cached false data 0) s = .next u ∧ u.far.fills = rest
          ∧ (cached = true → s.farLine part line = none → d.length = 64 → ∃ x, u.farLine part line = some x
            ∧ x = ⟨part, x.way, line, d, false, e.pf⟩ ∧ KeepsMem s u x.place 64)
          ∧ (cached = false ∨ (s.farLine part line).isSome = true → u.far.lines = s.far.lines ∧ SameMem s u)
          ∧ ∀ t f, cached = true → (s.tile t).flights = [f] → f.op = 0x14 → line ∈ f.waiting → s.farPart (.tile t) line = some part → d.length = 64 →
              (u.tile t).flights = [{ f with waiting := f.waiting.filter (· != line) }]
              ∧ ∀ i < 64, sramByte u t (64 * (f.dst + (line - f.src)) + i) = d.getD i 0))
    ∧ (∀ w rest, takeFirst (fun w => w.line == line) s.far.writes = some (w, rest) → s.powered = true → s.g F.HIF_STATUS_LINK_UP ≠ 0 →
        Settled s → NoDecision s →
      (w.flight = none → exec (.farCacheFillDone part line cached true data 0) s = .next { s with far := { s.far with writes := rest } })
      ∧ (∀ t f, w.flight = some (t, f.id) → (s.tile t).flights = [f] →
        ∃ u, exec (.farCacheFillDone part line cached true data 0) s = .next u ∧ u.far = { s.far with writes := rest } ∧ SameMem s u
          ∧ (u.tile t).flights = [{ f with waiting := f.waiting.filter (· != line) }] ∧ OnlyTile t s u)
      ∧ (∀ err, err = 1 ∨ err = 2 → ∃ u, exec (.farCacheFillDone part line cached true data err) s = .next u
        ∧ u.far = { s.far with writes := rest } ∧ SameMem s u
        ∧ (s.g F.HIF_ERRLOG_VALID = 0 → u.g F.HIF_ERRLOG_CODE = if err = 1 then 0x0707 else 0x0708)))
    ∧ (s.powered = true → s.g F.HIF_STATUS_LINK_UP ≠ 0 → s.g F.HIF_STATUS_CXL ≠ 0 →
      let l := s.far.lines.filter fun e => e.line == line
      ∃ u, exec (.hostSnoop line kind) s = .next u
        ∧ u.outbox = s.outbox ++ [.snoopReply line ((l.find? (·.dirty) <|> l.head?).map (·.data))]
        ∧ (kind = 2 → u.far.lines = s.far.lines.filter fun e => e.line != line)
        ∧ (kind = 1 → ∀ e ∈ u.far.lines, e.line = line → e.dirty = false)
        ∧ (kind = 0 → u.far = s.far) ∧ { u with outbox := s.outbox, far := s.far } = s)
    ∧ (s.powered = true → s.g F.HIF_STATUS_LINK_UP ≠ 0 → ∃ u, exec .linkRecovery s = .next u ∧ u.g F.HIF_STATUS_LINK_UP = 0
        ∧ KeepsRegs s u [F.HIF_STATUS_LINK_UP] ∧ { u with fld := s.fld, host := s.host } = s ∧ u.host = { s.host with recovery := true })
    ∧ (s.powered = true → s.pins.perst = false → s.host.coming = [] → Settled s → 1 ≤ rate → rate ≤ 7 → width ∈ [1, 2, 4, 8] →
      ∃ u, exec (.hostLinkL0 rate width cxl) s = .next u ∧ u.g F.HIF_STATUS_LINK_UP = 1 ∧ u.g F.HIF_STATUS_CXL = bit cxl
        ∧ u.g F.HIF_STATUS_RATE = rate ∧ u.g F.HIF_STATUS_WIDTH = width ∧ u.host = { s.host with recovery := false, ready := true, leaving := [] }
        ∧ u.outbox = s.outbox ++ s.host.leaving
        ∧ KeepsRegs s u [F.HIF_STATUS_LINK_UP, F.HIF_STATUS_CXL, F.HIF_STATUS_RATE, F.HIF_STATUS_WIDTH])
    ∧ (s.powered = true → s.pins.perst = false → s.host.recovery = false →
      exec (.configRequest base payload read) s = .next { s with
        outbox := s.outbox ++ [.configReply (!s.host.ready)],
        host := if s.host.ready then { s.host with
          hdmBase := base.getD s.host.hdmBase
          maxPayload := (payload.filter [128, 256, 512].contains).getD s.host.maxPayload
          maxRead := (read.filter [128, 256, 512, 1024, 2048, 4096].contains).getD s.host.maxRead } else s.host })
    ∧ (s.powered = true → s.host.recovery = true → exec (.configRequest base payload read) s =
        .next { s with host := { s.host with coming := s.host.coming ++ [.config base payload read] } })
    ∧ (s.powered = true → s.pins.perst = true → s.pins.pwrOk = true →
      exec .perstDeassert s = .next { s with pins := { s.pins with perst := false, vrefLow := false } })
    ∧ (s.powered = true →
      (s.host.recovery = true → ∃ u, exec .linkOutTimeout s = .next u ∧ WasReset rcLINK s u)
      ∧ (s.linked = true → (∃ u, exec .hotReset s = .next u ∧ WasReset rcHOT s u) ∧ ∃ u, exec .dlDown s = .next u ∧ WasReset rcLINK s u)
      ∧ (s.g F.HIF_STATUS_LINK_UP ≠ 0 → ∃ u, exec .functionLevelReset s = .next u ∧ WasReset rcHOT s u)
      ∧ (s.pins.perst = false → ∃ u, exec .perst s = .next u ∧ WasReset rcPERST s u ∧ u.pins = { s.pins with perst := true }))

/-- R402, R404 to R416: the storage commands and their parts, checkpoints and restores, ingest, and namespaces. The model's choices it
rests on: log entries 32, 45, 56 and 58. -/
def Obligations.StorageCommandsAct : Prop :=
  ∀ (q m ctrl part blocks id qp : Nat) (metadata : Bool) (host data : List Byte) (c : HostCmd) (s : State),
    let n := dLen c.desc
    let disk := cmdCtrl c.desc
    let lba := cmdLba c.desc
    let issues (user ctrl : Nat) (write : Bool) (lba blocks : Nat) (l : List Byte) (u : State) : Prop :=
      u.outbox = s.outbox ++ (s.freePair ctrl).toList.map (fun p => .nvme p ctrl write lba blocks l) ∧ SameMem s u
        ∧ u.eth.ops = s.eth.ops ++ [⟨s.eth.nextId, ctrl, user, write, lba, blocks, l, s.freePair ctrl⟩] ∧ u.eth.nextId = s.eth.nextId + 1
    (s.working = true → Settled s → NoDecision s → (∀ o ∈ s.eth.ops, o.id < s.eth.nextId) →
      (s.cmdAt q 0x40 0 = some c →
        (n = 0 → ∃ u, exec (.nvmeRead q) s = .next u ∧ Ends q c 0 0 u)
        ∧ (n ≠ 0 → ∃ u, exec (.nvmeRead q) s = .next u ∧ issues q disk false lba (n / 64) [] u ∧ (u.queue q).cmd = some { c with stage := 1 }))
      ∧ (s.cmdAt q 0x41 0 = some c → c.src.kind ≠ 1 →
        (∀ l, readSource rqETH c.src (dSrcOff c.desc) host none (List.range n) s = (s, l, 0) → l ≠ [] →
          ∃ u, exec (.nvmeWrite q host none) s = .next u ∧ issues q disk true lba (l.length / 4096) l u
            ∧ (u.queue q).cmd = some { c with stage := 1 })
        ∧ (∀ e, (readSource rqETH c.src (dSrcOff c.desc) host none (List.range n) s).2.2 = e → e ≠ 0 →
            Unhindered s (readSource rqETH c.src (dSrcOff c.desc) host none (List.range n) s).1 →
          ∃ u, exec (.nvmeWrite q host none) s = .next u ∧ Ends q c e 0 u ∧ SameMem s u))
      ∧ (s.cmdAt q 0x48 0 = some c → ∃ u, exec (.ckptWrite q) s = .next u ∧ issues q disk true lba 1 (List.replicate 4096 0) u
        ∧ (u.queue q).cmd = some { c with stage := 1, ckpt := ⟨1, s.g F.STEP_COMMITTED_NUMBER, some s.version, s.ckptParts, [],
            s.manifestHead (s.g F.STEP_COMMITTED_NUMBER) s.ckptParts.length⟩ })
      ∧ (s.cmdAt q 0x48 1 = some c → c.ckpt.phase = 2 → c.ckpt.reading.isSome = true →
        let first := 1 + blocksOf (64 + 32 * c.ckpt.parts.length)
        (∀ l, readParts c.ckpt.parts host s = (s, l, 0) →
          let manifest := c.ckpt.manifest ++ ckptEntries first (c.ckpt.parts.zip l)
          (l.flatMap padBlocks ≠ [] → ∃ u, exec (.ckptReadComplete q host 0) s = .next u
            ∧ issues q disk true (lba + first) ((l.flatMap padBlocks).length / 4096) (l.flatMap padBlocks) u
            ∧ (u.queue q).cmd = some { c with ckpt := { c.ckpt with reading := none, manifest := manifest } })
          ∧ (l.flatMap padBlocks = [] → ∃ u, exec (.ckptReadComplete q host 0) s = .next u
            ∧ issues q disk true (lba + 1) (blocksOf manifest.length) (padBlocks manifest) u
            ∧ (u.queue q).cmd = some { c with ckpt := { c.ckpt with reading := none, manifest := manifest, phase := 3 } }))
        ∧ (∀ e, (readParts c.ckpt.parts host s).2.2 = e → e ≠ 0 → Unhindered s (readParts c.ckpt.parts host s).1 → ∃ u, exec (.ckptReadComplete q host 0) s = .next u ∧ Ends q c e 0 u))
      ∧ (s.cmdAt q 0x49 0 = some c → ∃ u, exec (.ckptRestore q) s = .next u ∧ issues q disk false lba 1 [] u
        ∧ (u.queue q).cmd = some { c with stage := 1, ckpt := { CkptRun.init with phase := 5 } })
      ∧ (s.cmdAt q 0x4A 0 = some c →
        let k := s.g F.STEP_NUMBER_NUMBER
        (s.g F.ETH_ING_CTRL_EN ≠ 0 → (s.space (s.g F.ETH_ING_CTRL_CTRL)).isSome = true → ∃ u, exec (.ingestPrefill q) s = .next u ∧ u.g (F.ETH_ING_HALF_STEP (k % 2)) = 0
          ∧ issues q (s.g F.ETH_ING_CTRL_CTRL) false (s.ingestLba k) (s.g F.ETH_ING_CTRL_STEP_BLOCKS) [] u
          ∧ (u.queue q).cmd = some { c with stage := 1, ckpt := { CkptRun.init with step := k } })
        ∧ (s.g F.ETH_ING_CTRL_EN ≠ 0 → s.space (s.g F.ETH_ING_CTRL_CTRL) = none → ∃ u, exec (.ingestPrefill q) s = .next u
          ∧ Ends q c 0x0805 0 u ∧ SameMem s u)
        ∧ (s.g F.ETH_ING_CTRL_EN = 0 → ∃ u, exec (.ingestPrefill q) s = .next u ∧ Ends q c 0x0807 0 u
          ∧ (s.g F.ETH_ERRLOG_VALID = 0 → u.g F.ETH_ERRLOG_CODE = 0x0807)))
      ∧ (∀ op rest, takeFirst (fun o => o.id == id && o.pair.isSome) s.eth.ops = some (op, rest) → (∀ o ∈ rest, o.pair.isSome = true) →
          op.user < 4 → (s.queue op.user).cmd = some c →
        let o := dOp c.desc
        let free := ({ s with eth := { s.eth with ops := rest } } : State).freePair disk
        (o = 0x41 → op.write = true → ∃ u, exec (.nvmeCompletion id 0 data) s = .next u ∧ Ends op.user c 0 n u ∧ u.eth.ops = rest ∧ SameMem s u)
        ∧ (o = 0x40 → data.length = 4096 * op.blocks → c.dst.kind ≠ 1 →
            let dst (i : Nat) : Nat := dpaOfHda (c.dst.base + 64 * (dDstOff c.desc + i))
            (∀ i < data.length / 64, s.memGate rqETH (dst i) = 0 ∧ dst i % 64 = 0 ∧ ∀ k < data.length / 64, i ≠ k → dst i ≠ dst k) →
            Unhindered s (s.landRead c.dst (dDstOff c.desc) data).1 →
          ∃ u, exec (.nvmeCompletion id 0 data) s = .next u ∧ Ends op.user c 0 (data.length / 64) u ∧ u.eth.ops = rest
            ∧ ∀ i < data.length / 64, ∀ b < 64, u.mem.byte (dst i + b) = data.getD (64 * i + b) 0)
        ∧ (o = 0x48 → op.write = true →
          (c.ckpt.phase = 1 → ∃ u, exec (.nvmeCompletion id 0 data) s = .next u ∧ u.eth.ops = rest
            ∧ (u.queue op.user).cmd = some { c with ckpt := { c.ckpt with phase := 2 } })
          ∧ (c.ckpt.phase = 2 → free = some qp → ∃ u, exec (.nvmeCompletion id 0 data) s = .next u
            ∧ (u.queue op.user).cmd = some { c with ckpt := { c.ckpt with phase := 3 } }
            ∧ u.outbox = s.outbox ++ [.nvme qp disk true (lba + 1) (blocksOf c.ckpt.manifest.length) (padBlocks c.ckpt.manifest)])
          ∧ (c.ckpt.phase = 3 → free = some qp → ∃ u, exec (.nvmeCompletion id 0 data) s = .next u
            ∧ (u.queue op.user).cmd = some { c with ckpt := { c.ckpt with phase := 4 } }
            ∧ u.outbox = s.outbox ++ [.nvme qp disk true lba 1 (padBlocks (commitRecord c.ckpt c.ckpt.blocks))])
          ∧ (c.ckpt.phase = 4 → ∃ u, exec (.nvmeCompletion id 0 data) s = .next u ∧ Ends op.user c 0 c.ckpt.parts.length u))
        ∧ (o = 0x49 → data.length = 4096 * op.blocks → c.ckpt.phase = 5 → recordOk (sliceBytes data 0 64) = false →
          ∃ u, exec (.nvmeCompletion id 0 data) s = .next u ∧ Ends op.user c 0x0808 0 u ∧ u.eth.restoreBad = !(dArg c.desc).testBit 48
            ∧ u.version = s.version)
        ∧ (o = 0x49 → data.length = 4096 * op.blocks → c.ckpt.phase = 7 → (entriesOf c.ckpt.manifest).filter s.lenKnown = [] →
            (dArg c.desc).testBit 48 = true → s.eth.restoreBad = false → s.version < 2 →
          ∃ u, exec (.nvmeCompletion id 0 data) s = .next u ∧ Ends op.user c 0 0 u ∧ u.version = 1 - s.version
            ∧ u.g F.STEP_VERSION_PREV_VALID = 0 ∧ u.g F.STEP_COMMITTED_NUMBER = c.ckpt.step % 2 ^ 64
            ∧ u.g F.STEP_NUMBER_NUMBER = (c.ckpt.step + 1) % 2 ^ 64 ∧ u.stepState = stCLOSED ∧ u.stp.gather = [])
        ∧ (o = 0x40 ∨ o = 0x41 → (∀ st, st ≠ 0 → ∃ u, exec (.nvmeCompletion id st data) s = .next u ∧ Ends op.user c 0x0803 0 u ∧ u.eth.ops = rest
              ∧ (s.g F.ETH_ERRLOG_VALID = 0 → u.g F.ETH_ERRLOG_CODE = 0x0803))
          ∧ ∃ u, exec (.nvmeTimeout id) s = .next u ∧ Ends op.user c 0x0804 0 u ∧ u.eth.ops = rest
              ∧ (s.g F.ETH_ERRLOG_VALID = 0 → u.g F.ETH_ERRLOG_CODE = 0x0804)))
      ∧ (∀ k, s.ingest = some k → s.eth.ops.any (·.user == 4) = false →
        ∃ u, exec .ingestComplete s = .next u ∧ u.g (F.ETH_ING_HALF_STEP (k % 2)) = k % 2 ^ 64 ∧ u.ingest = none
          ∧ KeepsRegs s u [F.ETH_ING_HALF_STEP (k % 2)] ∧ { u with fld := s.fld, ingest := s.ingest } = s))
    ∧ (s.fromMaster m = true → m = 1 ∨ m = 2 →
      let b := blocks % 2 ^ 20
      let small := b = 0 ∨ s.kindBytes (part % 2 ^ 16) 3 < 2 * b * 4096
      ∃ u, exec (.ingestEnable m ctrl part blocks) s = .next u ∧ u.g F.ETH_ING_CTRL_EN = (if small then 0 else 1)
        ∧ u.g F.ETH_ING_CTRL_CTRL = ctrl % 16 ∧ u.g F.ETH_ING_CTRL_PART = part % 2 ^ 16 ∧ u.g F.ETH_ING_CTRL_STEP_BLOCKS = b
        ∧ (small → s.g F.ETH_ERRLOG_VALID = 0 → u.g F.ETH_ERRLOG_CODE = 0x0807) ∧ SameMem s u)
    ∧ (s.working = true → ctrl < 16 →
      (id = 4096 → metadata = false → ∃ u, exec (.namespaceReport ctrl id metadata blocks) s = .next u ∧ u.space ctrl = some blocks
        ∧ (∀ k, k ≠ ctrl → u.space k = s.space k) ∧ { u with eth := s.eth } = s)
      ∧ (id ≠ 4096 ∨ metadata = true → ∃ u, exec (.namespaceReport ctrl id metadata blocks) s = .next u ∧ u.space ctrl = none
        ∧ (∀ k, k ≠ ctrl → u.space k = s.space k) ∧ SameMem s u
        ∧ (s.g F.ETH_ERRLOG_VALID = 0 → u.g F.ETH_ERRLOG_CODE = 0x0806)))

/-- R400, R403, R404, R417, R420, R424: pod sets, timestamp units, peers' RDMA requests, a queue pair's error, and the Ethernet links. The
model's choices it rests on: log entry 45. -/
def Obligations.EthernetPortsAct : Prop :=
  ∀ (m k timeout part base self count p lanes qp rkey addr len : Nat) (data : List Byte) (s : State),
    let bytes := s.kindBytes part 5
    let bad := count ≠ 0 ∧ (64 < count ∨ base < 144 ∨ 1024 < base + count ∨ bytes = 0 ∨ bytes < s.podBytes k count)
    let receives : Prop := s.working = true ∧ (s.qpState qp = 2 ∨ s.qpState qp = 3) ∧ s.g (F.ETH_PORT_STATUS_LINK_UP (s.qpPort qp)) ≠ 0
    let serves : Prop := len ≤ 2 ^ 31 ∧ ∀ h ∈ sectorsOf addr len, s.memGate rqETH (dpaOfHda h) = 0 ∧ dpaOfHda h / 64 ∉ s.mem.bad
    (s.fromMaster m = true → m = 1 ∨ m = 2 →
      (1 ≤ k → k ≤ 15 → ¬bad → ∃ u, exec (.podSetWrite m k timeout part base self count) s = .next u
        ∧ u.g (F.ETH_PODS_TIMEOUT_MS k) = timeout % 2 ^ 16 ∧ u.g (F.ETH_PODS_RX_PART k) = part % 2 ^ 16
        ∧ u.g (F.ETH_PODS_QP_BASE k) = base % 2 ^ 10 ∧ u.g (F.ETH_PODS_SELF k) = self % 2 ^ 8 ∧ u.g (F.ETH_PODS_COUNT k) = count % 2 ^ 8
        ∧ OnlyRegs s u [F.ETH_PODS_TIMEOUT_MS k, F.ETH_PODS_RX_PART k, F.ETH_PODS_QP_BASE k, F.ETH_PODS_SELF k, F.ETH_PODS_COUNT k])
      ∧ (1 ≤ k → k ≤ 15 → bad → ∃ u, exec (.podSetWrite m k timeout part base self count) s = .next u
        ∧ u.g (F.ETH_PODS_COUNT k) = s.g (F.ETH_PODS_COUNT k) ∧ (s.g F.ETH_ERRLOG_VALID = 0 → u.g F.ETH_ERRLOG_CODE = 0x0807))
      ∧ (p < 2 → s.g (ptpEnF p) = 0 → s.ownerOf 2 (2 * p) = none → s.ownerOf 2 (2 * p + 1) = none →
        ∃ u, exec (.ptpEnable m p) s = .next u ∧ u.g (ptpEnF p) = 1 ∧ u.claims = s.claims ++ [⟨2, 2 * p, 5, p⟩, ⟨2, 2 * p + 1, 5, p⟩]
          ∧ KeepsRegs s u [ptpEnF p])
      ∧ (∀ e, p < 2 → s.g (ptpEnF p) = 0 → s.ownerOf 2 (2 * p) = some e → ¬(e.owner = 5 ∧ e.arg = p) →
        exec (.ptpEnable m p) s = .next (s.report 0x0118 0 (2 * 65536 + 2 * p)))
      ∧ (∀ e, p < 2 → s.g (ptpEnF p) = 0 → s.ownerOf 2 (2 * p) = none → s.ownerOf 2 (2 * p + 1) = some e → ¬(e.owner = 5 ∧ e.arg = p) →
        exec (.ptpEnable m p) s = .next (s.report 0x0118 0 (2 * 65536 + 2 * p + 1))))
    ∧ (receives →
      (s.mrAllows rkey addr len false = false ∨ 2 ^ 31 < len → exec (.peerRdmaRequest qp false rkey addr len data) s = .next (s.emit (.rdmaReply qp true [])))
      ∧ (s.mrAllows rkey addr len true = false ∨ 2 ^ 31 < len → data.length = len →
        exec (.peerRdmaRequest qp true rkey addr len data) s = .next (s.emit (.rdmaReply qp true [])))
      ∧ (s.mrAllows rkey addr len false = true → serves → Unhindered s (s.peerRead addr len).1 →
        ∃ u, exec (.peerRdmaRequest qp false rkey addr len data) s = .next u ∧ SameMem s u ∧ KeepsRegs s u (correctFields s.mem)
          ∧ u.outbox = s.outbox ++ [.rdmaReply qp false ((List.range len).map fun i => s.mem.byte (dpaOfHda (addr + i)))])
      ∧ (s.mrAllows rkey addr len true = true → serves → data.length = len → Unhindered s (s.peerWrite addr data).1 →
        ∃ u, exec (.peerRdmaRequest qp true rkey addr len data) s = .next u ∧ u.outbox = s.outbox ++ [.rdmaReply qp false []]
          ∧ (∀ i < len, u.mem.byte (dpaOfHda (addr + i)) = data.getD i 0)
          ∧ (∀ b, (∀ i < len, b ≠ dpaOfHda (addr + i)) → u.mem.byte b = s.mem.byte b) ∧ KeepsRegs s u (correctFields s.mem)))
    ∧ (s.working = true → Settled s → NoDecision s → qp < 1024 → s.qpState qp = 3 →
      ∃ u, exec (.qpError qp) s = .next u ∧ u.qpState qp = 4 ∧ u.eth.ops = s.eth.ops.filter (fun o => o.pair != some qp) ∧ SameMem s u
        ∧ (s.g F.ETH_ERRLOG_VALID = 0 → u.g F.ETH_ERRLOG_CODE = 0x0802 ∧ u.g F.ETH_ERRLOG_QP = qp)
        ∧ (s.servesStep qp = true → s.stepState = stOPEN → s.replaying = false → s.framesFlow = true → u.stepState = stFAIL))
    ∧ (s.powered = true → p < 2 →
      (1 ≤ lanes → lanes ≤ 4 → (∀ o ∈ s.eth.ops, o.pair.isSome = true) → ∃ u, exec (.ethLinkUp p lanes) s = .next u ∧ u.g (F.ETH_PORT_STATUS_LINK_UP p) = 1
        ∧ u.g (F.ETH_PORT_STATUS_LANES p) = lanes ∧ OnlyRegs s u [F.ETH_PORT_STATUS_LINK_UP p, F.ETH_PORT_STATUS_LANES p])
      ∧ (s.g (F.ETH_PORT_STATUS_LINK_UP p) ≠ 0 →
        exec (.arpRequest p) s = .next (s.emit (.arp p))
        ∧ ∃ u, exec (.ethLinkDown p) s = .next u ∧ u.g (F.ETH_PORT_STATUS_LINK_UP p) = 0 ∧ u.g (F.ETH_PORT_STATUS_LANES p) = 0 ∧ SameMem s u
          ∧ (s.g F.ETH_ERRLOG_VALID = 0 → u.g F.ETH_ERRLOG_CODE = 0x0801 ∧ u.g F.ETH_ERRLOG_PORT = p)))

/-- R266, R269, R271 to R277: link control and acknowledgement, retraining, and the lanes of a ring port. The model's choices it rests on:
log entries 64 and 74. -/
def Obligations.RingLinksAct : Prop :=
  ∀ (p lane power ser uncorr bad mapAt dir : Nat) (rx : LineRx) (b : List Byte) (s : State),
    let x := s.port p
    let c := LinkControl.ofBytes b
    let base := s.rxPlan p
    let owes (nak : Bool) (op map at' : Nat) : LinkControl :=
      ⟨(x.rxSeq + 65535) % 65536, nak, op, map, at', (List.range 64).map fun k => Sparse.get 0 k x.credits, x.pool, x.ctrl⟩
    let shone (c : LinkControl) : List Out :=
      [.control p c, .light p (stripe (mapLanes (s.g (F.RING_P_LANEMAP_TX_MAP p))) x.txWord (c.bytes (portRing p)))]
    let paid : Port := { x with unacked := 0, credits := [], pool := 0, ctrl := 0, txWord := x.txWord + 16 }
    let old := s.lane p 0 lane
    let logs (code : Nat) (u : State) : Prop :=
      s.g F.RING_ERRLOG_VALID = 0 → u.g F.RING_ERRLOG_CODE = code ∧ u.g F.RING_ERRLOG_PORT = p
    s.powered = true → p < 4 → Settled s →
    (s.link p = linkUP →
      (s.heard p rx = some b → reservedFlit b = true →
        (5 ≤ (headerOf b).type → ∃ u, exec (.reservedTypeFlit p rx) s = .next u
          ∧ u.g (F.RING_P_DISCARDS_COUNT p) = (s.g (F.RING_P_DISCARDS_COUNT p) + 1) % 2 ^ 48
          ∧ KeepsRegs s u (F.RING_P_DISCARDS_COUNT p :: lineFields p) ∧ { u with fld := s.fld, ports := s.ports } = s)
        ∧ ((headerOf b).type < 5 → (headerOf b).seq = x.rxSeq → exec (.reservedTypeFlit p rx) s = .next (s.took p rx b)))
      ∧ (∃ u, exec (.ackTimer p) s = .next u ∧ u.outbox = s.outbox ++ shone (owes false 0 0 0) ∧ u.port p = paid
        ∧ { u with outbox := s.outbox, ports := s.ports } = s)
      ∧ (x.waiting = [] → x.passing = [] → s.heard p rx = some b → (headerOf b).type = 4 →
        let acked : Port :=
          ({ x with replay := x.replay.filter fun e => !ackedBy c.ackSeq e.seq, rxWord := x.rxWord + 16 } : Port).refund c
        (c.nak = false → c.laneOp ≠ 1 → c.laneOp ≠ 2 → ∃ u, exec (.linkControlFlit p rx mapAt) s = .next u ∧ u.port p = acked
          ∧ u.outbox = s.outbox ∧ SameMem s u)
        ∧ (c.nak = false → c.laneOp = 1 → 8 ≤ bitCount c.laneMap → ∃ u, exec (.linkControlFlit p rx mapAt) s = .next u
          ∧ (u.line p).txNext = some (c.laneMap, mapAt) ∧ Sends s u (.control p (owes false 2 c.laneMap mapAt)) ∧ u.link p = linkUP)
        ∧ (c.nak = false → c.laneOp = 1 → bitCount c.laneMap < 8 → ∃ u, exec (.linkControlFlit p rx mapAt) s = .next u
          ∧ u.link p = linkDOWN ∧ logs 0x0403 u)
        ∧ (c.nak = false → c.laneOp = 2 → (s.line p).proposed = some c.laneMap → ∃ u, exec (.linkControlFlit p rx mapAt) s = .next u
          ∧ (u.line p).rxNext = some (c.laneMap, c.mapAt) ∧ (u.line p).proposed = none)
        ∧ (c.nak = true → c.laneOp = 0 → (acked.replay.any fun e => decide (8 ≤ e.resent)) = false →
          ∃ u, exec (.linkControlFlit p rx mapAt) s = .next u ∧ (∀ e ∈ acked.replay, Sends s u (.port p e.seq e.item))
            ∧ (u.port p).replay = acked.replay.map fun e => { e with resent := e.resent + 1 })
        ∧ (c.nak = true → c.laneOp = 0 → (acked.replay.any fun e => decide (8 ≤ e.resent)) = true →
          ∃ u, exec (.linkControlFlit p rx mapAt) s = .next u ∧ u.link p = linkTRAINING ∧ logs 0x0406 u))
      ∧ (lane < 32 → old.state = 2 → ∃ u, exec (.laneRetest p lane) s = .next u ∧ u.lane p 0 lane = { old with state := 3 }
          ∧ { u with lanes := s.lanes } = s)
      ∧ (lane < 32 → old.state = 3 →
        let more := if base.testBit lane then base else base + 2 ^ lane
        ∃ u, exec (.laneRejoin p lane power ser) s = .next u ∧ u.lane p 0 lane = { old with power := power, ser := ser }
          ∧ (u.line p).proposed = some more ∧ u.outbox = s.outbox ++ shone (owes false 1 more 0) ∧ KeepsRegs s u [])
      ∧ (∀ mp n, (if dir = 0 then (s.line p).rxNext else (s.line p).txNext) = some (mp, n) → dir ≤ 1 →
        ∃ u, exec (.laneMapSwitch p dir) s = .next u
          ∧ u.g (if dir = 0 then F.RING_P_LANEMAP_RX_MAP p else F.RING_P_LANEMAP_TX_MAP p) = mp % 2 ^ 32
          ∧ u.g (if dir = 0 then F.RING_P_STATUS_RX_LANES p else F.RING_P_STATUS_TX_LANES p) = bitCount mp
          ∧ (∀ l < 32, mp.testBit l = true → (u.lane p dir l).state = 1)
          ∧ (if dir = 0 then (u.line p).rxNext else (u.line p).txNext) = none))
    ∧ (s.link p = linkUP ∨ s.link p = linkTRAINING → lane < 32 → old.state = 1 ∨ old.state = 3 →
      ∃ u, exec (.laneFailed p lane power ser uncorr) s = .next u ∧ u.lane p 0 lane = ⟨2, power, ser, min 65535 (old.fails + 1)⟩
        ∧ u.g (F.RING_P_FEC_UNCORR_COUNT p) = (s.g (F.RING_P_FEC_UNCORR_COUNT p) + uncorr) % 2 ^ 48 ∧ SameMem s u
        ∧ logs 0x0402 u ∧ (s.g F.RING_ERRLOG_VALID = 0 → u.g F.RING_ERRLOG_LANE = lane)
        ∧ (base.testBit lane = false → u.link p = s.link p ∧ u.line p = s.line p ∧ u.outbox = s.outbox)
        ∧ (base.testBit lane = true → bitCount (base - 2 ^ lane) < 8 →
          u.link p = linkDOWN ∧ u.g (F.RING_P_STATUS_RX_LANES p) = 0 ∧ u.g (F.RING_P_PARTNER_SERIAL p) = 0)
        ∧ (base.testBit lane = true → 8 ≤ bitCount (base - 2 ^ lane) → u.link p = s.link p ∧ (u.line p).proposed = some (base - 2 ^ lane)
          ∧ (s.link p = linkUP → Sends s u (.control p (owes false 1 (base - 2 ^ lane) 0)))))
    ∧ (s.link p = linkTRAINING → s.g (F.RING_P_PARTNER_SERIAL p) ≠ 0 → x.waiting = [] → x.passing = [] →
      ∀ keep, (∀ l, keep.testBit l = (base.testBit l && !(decide (l < 32) && bad.testBit l))) →
      ∃ u, exec (.linkRetrainDone p bad) s = .next u
        ∧ (∀ l < 32, base.testBit l = true → bad.testBit l = true →
          u.lane p 0 l = { s.lane p 0 l with state := 2, fails := min 65535 ((s.lane p 0 l).fails + 1) })
        ∧ (bitCount keep < 8 → u.link p = linkDOWN ∧ u.g (F.RING_P_PARTNER_SERIAL p) = 0)
        ∧ (8 ≤ bitCount keep → u.link p = linkUP ∧ (u.port p).replay = x.replay.map (fun e => { e with resent := 0 })
          ∧ (∀ e ∈ x.replay, Sends s u (.port p e.seq e.item))
          ∧ (u.line p).proposed = if keep = s.g (F.RING_P_LANEMAP_RX_MAP p) then (s.line p).proposed else some keep))

/-- R278 to R291: a ring joined and left, its switch, links that come and go, membership flits, discovery and wrapping. The model's
choices it rests on: log entry 65. -/
def Obligations.RingMembershipActs : Prop :=
  ∀ (m ring p serial rxMap txMap margin : Nat) (rx : LineRx) (b : List Byte) (s : State),
    let r := s.ringCtl ring
    let o := portRing p
    let f := Member.ofBytes b
    let q := s.outPort (oppositePort p)
    let logs (code port : Nat) (u : State) : Prop :=
      s.g F.RING_ERRLOG_VALID = 0 → u.g F.RING_ERRLOG_CODE = code ∧ u.g F.RING_ERRLOG_PORT = port
    let comes (k : Nat) : Prop := FrameComes p rx 3 b s ∧ f.subtype = k ∧ s.ringLit o = true
    let rec' : Prop := s.ringState o = ringRECOVERING
    s.powered = true → Settled s → s.frozen = false → s.replayLive = false → s.ring.jobs.length ≤ 4096 →
    (ring < 2 → m = 1 ∨ m = 2 → s.fromMaster m = true →
      (s.ringState ring = ringBYPASSED → s.g (ringLeaveF ring) = 0 → s.g (ringFaultF ring) = 0 →
        ∃ u, exec (.join m ring true) s = .next u ∧ u.ringState ring = ringJOINING ∧ u.g (ringJoinF ring) = 1
          ∧ u.ringCtl ring = { r with moving := some true } ∧ KeepsRegs s u [ringStateF ring, ringJoinF ring])
      ∧ (s.ringState ring = ringBYPASSED → exec (.join m ring false) s = .next (s.logRing 0x040B (2 * ring) 0))
      ∧ (s.ringState ring = ringBYPASSED → s.g (ringLeaveF ring) ≠ 0 ∨ s.g (ringFaultF ring) ≠ 0 →
        exec (.join m ring true) s = .next (s.logRing 0x040B (2 * ring) 0))
      ∧ (s.ringState ring = ringBYPASSED → ∃ u, exec (.leave m ring) s = .next u ∧ u.g (ringLeaveF ring) = 1 ∧ OnlyRegs s u [ringLeaveF ring])
      ∧ (s.ringState ring ≠ ringBYPASSED → s.red.held = [] → ∃ u, exec (.leave m ring) s = .next u ∧ u.g (ringLeaveF ring) = 1
        ∧ u.ringState ring = ringBYPASSED ∧ u.g (ringClosedF ring) ≠ 0 ∧ (u.ringCtl ring).moving = some false
        ∧ u.link (2 * ring) = linkDOWN ∧ u.link (2 * ring + 1) = linkDOWN
        ∧ (s.stepOpen = true → s.ringState ring ≠ ringJOINING → u.stepState = stCLOSED))
      ∧ (∃ u, exec (.rosterReset m) s = .next u ∧ (∀ k < 64, u.g (F.RING_A_ROSTER_SERIAL k) = 0 ∧ u.g (F.RING_B_ROSTER_SERIAL k) = 0)
        ∧ OnlyRegs s u ((List.range 64).map F.RING_A_ROSTER_SERIAL ++ (List.range 64).map F.RING_B_ROSTER_SERIAL)))
    ∧ (ring < 2 → s.ringState ring = ringJOINING → r.moving = some true →
      ∃ u, exec (.switchOpenReached ring) s = .next u ∧ u.g (ringClosedF ring) = 0 ∧ u.g (ringJoinF ring) = 0
        ∧ u.ringState ring = ringRECOVERING ∧ u.g F.RING_BYPASS_OPS_COUNT = (s.g F.RING_BYPASS_OPS_COUNT + 1) % 2 ^ 48)
    ∧ (ring < 2 → r.moving.isSome = true →
      ∃ u, exec (.bypassFault ring) s = .next u ∧ u.g (ringFaultF ring) = 1 ∧ u.ringState ring = ringBYPASSED ∧ logs 0x0407 (2 * ring) u
        ∧ (r.moving = some false → u.g (ringClosedF ring) = 0))
    ∧ (ring < 2 → s.ringState ring = ringRECOVERING → r.sent = true → r.complete = false →
      ∃ u, exec (.discoveryTimeout ring) s = .next u ∧ u.ringState ring = ringRECOVERING ∧ (u.ringCtl ring).round = (r.round + 1) % 256)
    ∧ (p < 4 → s.ringLit o = true → 2 ≤ s.ringState o → s.link p ≠ linkUP →
      (serial ≠ 0 → 8 ≤ bitCount rxMap → 8 ≤ bitCount txMap →
        ∃ u, exec (.linkUp p serial rxMap txMap margin) s = .next u ∧ u.link p = linkUP
          ∧ u.g (F.RING_P_PARTNER_SERIAL p) = serial % 2 ^ 64 ∧ u.g (F.RING_P_STATUS_MARGIN p) = margin % 2 ^ 8
          ∧ u.g (F.RING_P_LANEMAP_RX_MAP p) = rxMap % 2 ^ 32 ∧ u.g (F.RING_P_LANEMAP_TX_MAP p) = txMap % 2 ^ 32
          ∧ (u.line p).lastPartner = serial
          ∧ (serial ≠ (s.line p).lastPartner → u.ringState o = ringRECOVERING)
          ∧ (serial = (s.line p).lastPartner → s.between p serial ≤ 3 ∨ s.ringState o = ringUP → u.ringState o = s.ringState o)
          ∧ (3 < s.between p serial → (u.line p).refused = true ∧ u.g (F.RING_P_STATUS_WRAP p) = 1 ∧ logs 0x0405 p u))
      ∧ (s.g (F.RING_P_STATUS_WRAP p) = 0 →
        (∃ u, exec (.linkDownTimeout p) s = .next u ∧ u.ringState o = ringRECOVERING ∧ logs 0x0401 p u)
        ∧ (rec' → ∃ u, exec (.ringWrap p) s = .next u ∧ u.g (F.RING_P_STATUS_WRAP p) = 1 ∧ u.g (ringWrappedF o) = 1 ∧ logs 0x0404 p u)))
    ∧ (comes 1 →
      (f.serial = s.serial ∨ (rec' ∧ lowerRound (s.ringCtl o).round f.round = true) →
        exec (.hold p false rx) s = .next (s.took p rx b))
      ∧ (f.serial ≠ s.serial → s.ringUp o = true ∨ (rec' ∧ higherRound (s.ringCtl o).round f.round = true) →
        ∃ u, exec (.hold p false rx) s = .next u ∧ u.ringState o = ringRECOVERING ∧ (u.ringCtl o).round = f.round)
      ∧ (f.serial ≠ s.serial → rec' → (s.ringCtl o).round = f.round → (f.serial, f.round, p) ∉ (s.ringCtl o).holds →
        ∃ u, exec (.hold p false rx) s = .next u ∧ (u.ringCtl o).holds = (s.ringCtl o).holds ++ [(f.serial, f.round, p)]
          ∧ (SendsNow s q (.member f) → Sends s u (.port q (s.port q).txSeq (.member f)))))
    ∧ (comes 2 →
      (rec' → lowerRound (s.ringCtl o).round f.round = true → exec (.discover p false rx) s = .next (s.took p rx b))
      ∧ (rec' → (s.ringCtl o).round = f.round → f.serial ≠ s.serial → (s.ringCtl o).complete = false →
          ((s.ringCtl o).found.any (·.serial == f.serial)) = false →
        let g : Member := { f with hops := f.hops + 1 }
        ∃ u, exec (.discover p false rx) s = .next u
          ∧ (u.ringCtl o).found = (s.ringCtl o).found ++ [⟨f.serial, f.lastEpoch, f.hops, f.new, f.wrapEnd⟩]
          ∧ (SendsNow s q (.member g) → Sends s u (.port q (s.port q).txSeq (.member g))))
      ∧ (rec' → (s.ringCtl o).round = f.round → f.serial = s.serial → (s.ringCtl o).sent = true → (s.ringCtl o).ownHops = none →
        ∃ u, exec (.discover p false rx) s = .next u ∧ (u.ringCtl o).ownHops = some f.hops
          ∧ ((s.ringCtl o).complete = false → f.hops ≤ (s.ringCtl o).found.length → (u.ringCtl o).complete = true
            ∧ u.g (ringSizeF o) = (f.hops + 1) % 2 ^ 7)))

/-- R296 to R299, R420 to R422: synchronisation flits, the steering of fabric time, holdover, and PTP. The model's choices it rests on:
log entry 66. -/
def Obligations.FabricTimeIsKept : Prop :=
  ∀ (p frac left kind t : Nat) (rx : LineRx) (b : List Byte) (s : State),
    let f := TimeFlit.ofBytes b
    let x := s.ptpPort p
    let r := s.noteLine p rx
    let steps (d : Int) (u : State) : Prop := u.time = patternOf 64 ((s.time : Int) + d) ∧ u.g F.RING_TIME_STATUS_STEPPED = 1
      ∧ (s.g F.RING_ERRLOG_VALID = 0 → u.g F.RING_ERRLOG_CODE = 0x0409)
    let shone (f : TimeFlit) : List Out :=
      [.time p f, .light p (stripe (mapLanes (s.g (F.RING_P_LANEMAP_TX_MAP p))) (s.port p).txWord (f.bytes (portRing p)))]
    let comes (k : Nat) : Prop := s.heard p rx = some b ∧ (headerOf b).type = 2 ∧ f.kind = k
    s.powered = true → Settled s →
    (p < 4 → s.lineUp p = true →
      (∃ u, exec (.syncSend p frac) s = .next u
        ∧ u.outbox = s.outbox ++ shone ⟨1, s.g F.RING_TIME_STATUS_DEPTH, s.g F.RING_TIME_MASTER_SERIAL, s.stamp frac⟩
        ∧ { u with outbox := s.outbox, ports := s.ports } = s)
      ∧ (∃ u, exec (.delayExchange p frac) s = .next u ∧ u.outbox = s.outbox ++ shone ⟨2, 0, 0, s.stamp frac⟩
        ∧ u.line p = { s.line p with asked := some (s.stamp frac) } ∧ { u with outbox := s.outbox, lines := s.lines, ports := s.ports } = s)
      ∧ (comes 2 → ∃ u, exec (.delayReq p frac rx) s = .next u ∧ u.outbox = s.outbox ++ shone ⟨3, 0, 0, s.stamp frac⟩
        ∧ KeepsRegs s u (lineFields p) ∧ { u with outbox := s.outbox, fld := s.fld, ports := s.ports } = s)
      ∧ (∀ t1, comes 3 → (s.line p).asked = some t1 → ∃ u, exec (.delayResp p frac left rx) s = .next u
        ∧ u.line p = { s.line p with asked := none, delay := some ((timeDiff f.t t1 + timeDiff (s.stamp frac) left) / 2) }
        ∧ KeepsRegs s u (lineFields p) ∧ { u with lines := s.lines, fld := s.fld, ports := s.ports } = s)
      ∧ (comes 1 →
        let y := if f.depth = 255 then none else (s.line p).delay.map fun d => (f.depth, f.master, timeDiff f.t (s.stamp frac) + d)
        let v := (r.setLine p fun x => { x with sync := y }).refreshMaster
        (v.g F.RING_TIME_STATUS_MASTER ≠ 0 ∨ v.timeSource ≠ some p → exec (.sync p frac rx) s = .next v)
        ∧ (∀ z, v.g F.RING_TIME_STATUS_MASTER = 0 → v.timeSource = some p → v.usable p = some z →
          ∃ u, exec (.sync p frac rx) s = .next u ∧ (u.line p).sync = y ∧ u.g F.RING_TIME_STATUS_STATE = 1 ∧ u.g F.RING_TIME_STATUS_SOURCE = p
            ∧ u.g F.RING_TIME_STATUS_DEPTH = min 255 (z.1 + 1) ∧ u.g F.RING_TIME_MASTER_SERIAL = z.2.1 % 2 ^ 64
            ∧ u.g F.RING_TIME_OFFSET_OFFSET = patternOf 64 z.2.2
            ∧ (v.g F.RING_TIME_STATUS_STATE ≠ 1 → microsecond ≤ z.2.2.natAbs → steps (z.2.2 / 65536) u)
            ∧ (v.g F.RING_TIME_STATUS_STATE = 1 ∨ z.2.2.natAbs < microsecond → u.time = s.time ∧ u.slew.left = z.2.2 / 65536))))
    ∧ (s.g F.RING_TIME_STATUS_STATE = 1 →
      let v := s.refreshMaster
      (v.g F.RING_TIME_STATUS_MASTER ≠ 0 → exec .timeHoldover s = .next v)
      ∧ (v.g F.RING_TIME_STATUS_MASTER = 0 → ∃ u, exec .timeHoldover s = .next u ∧ u.g F.RING_TIME_STATUS_STATE = 2 ∧ u.slew = Slew.init
        ∧ u.time = s.time ∧ (s.g F.RING_ERRLOG_VALID = 0 → u.g F.RING_ERRLOG_CODE = 0x0408)))
    ∧ (s.working = true → p < 2 → s.g (ptpEnF p) ≠ 0 → s.g (F.ETH_PORT_STATUS_LINK_UP p) ≠ 0 →
      let measures (o : Int) (u : State) : Prop :=
        u.g F.ETH_PTP_OFFSET_OFFSET = patternOf 64 o
          ∧ (s.g F.RING_TIME_STATUS_MASTER = 0 → KeepsRegs s u [F.ETH_PTP_OFFSET_OFFSET] ∧ u.time = s.time ∧ u.slew = s.slew)
          ∧ (s.g F.RING_TIME_STATUS_MASTER ≠ 0 → u.g F.RING_TIME_STATUS_PTP = 1
            ∧ (s.g F.RING_TIME_STATUS_PTP ≠ 0 ∨ o.natAbs < 1000 → u.time = s.time ∧ u.slew.left = -o)
            ∧ (s.g F.RING_TIME_STATUS_PTP = 0 → 1000 ≤ o.natAbs → steps (-o) u))
      let tells (k : Nat) (l : List Out) (g : PtpPort) : Prop :=
        ∃ u, exec (.ptpMessage p k t) s = .next u ∧ u.outbox = s.outbox ++ l ∧ u.ptpPort p = g ∧ { u with outbox := s.outbox, eth := s.eth } = s
      let p2p : Prop := s.g F.ETH_PTP_CTRL_P2P ≠ 0
      tells 0 [] { x with sync := some s.time }
      ∧ (p2p → tells 2 [.ptp p 3 s.time, .ptp p 10 s.time] x)
      ∧ (∀ t1, x.peerAsked = some t1 → tells 3 [] { x with peerAsked := none, peerTold := some (t1, t, s.time) })
      ∧ (∀ t1 t2 t4, x.peerTold = some (t1, t2, t4) →
        tells 10 [] { x with peerTold := none, delay := (nsDiff t4 t1 - nsDiff t t2) / 2 })
      ∧ (∀ t2, x.sync = some t2 → ¬p2p → tells 8 [.ptp p 1 s.time] { x with sync := none, asked := some (t, t2, s.time) })
      ∧ (∀ t2, x.sync = some t2 → p2p → ∃ u, exec (.ptpMessage p 8 t) s = .next u ∧ Sends s u (.ptp p 2 s.time)
        ∧ u.ptpPort p = { x with sync := none, peerAsked := some s.time } ∧ measures (nsDiff t2 t - x.delay) u)
      ∧ (∀ t1 t2 t3, x.asked = some (t1, t2, t3) → ∃ u, exec (.ptpMessage p 9 t) s = .next u ∧ u.ptpPort p = { x with asked := none }
        ∧ measures ((nsDiff t2 t1 - nsDiff t t3) / 2) u)
      ∧ (kind ∉ [0, 2, 3, 8, 9, 10] → exec (.ptpMessage p kind t) s = .next s))

/-- R428 to R433: a message sent, held back, taken and cleared, a shared channel's lock, and the binding table. The model's choices it
rests on: log entry 68. -/
def Obligations.MailboxesCarryMessages : Prop :=
  ∀ (m n word sender receiver : Nat) (s : State),
    let b := s.g (F.MBX_BIND_SENDER n)
    let r := s.g (F.MBX_BIND_RECEIVER n)
    let full : Prop := s.g (F.MBX_CH_STATUS_FULL n) ≠ 0
    let holder := s.g (F.MBX_CH_LOCK_HOLDER n)
    let sends (m : Nat) : Prop := if b = 0xFF then holder = m else b = m
    let logs (code : Nat) (u : State) : Prop := s.g F.SEC_ERRLOG_VALID = 0 → u.g F.SEC_ERRLOG_CODE = code ∧ u.g F.SEC_ERRLOG_MASTER = m
    let channels : List Fld := [F.MBX_CH_DATA_WORD n, F.MBX_CH_STATUS_FULL n]
    let put (m w : Nat) (u : State) : Prop := u.g (F.MBX_CH_DATA_WORD n) = w % 2 ^ 64 ∧ u.g (F.MBX_CH_STATUS_FULL n) = 1
      ∧ u.g (F.MBX_CH_STATUS_LAST_SENDER n) = m % 2 ^ 8
      ∧ (r = 1 → (u.g F.HIF_IRQ_CAUSE_CAUSE).testBit (16 + n) = true)
      ∧ (r = 2 → u.sec.rested = false)
      ∧ (4 ≤ r → r ≤ 35 → u.g (F.CLU_STATUS_CTRL_AWAKE (r - 4)) = 1
        ∧ u.g (F.CLU_WAKES_COUNT (r - 4)) = (s.g (F.CLU_WAKES_COUNT (r - 4)) + 1) % 2 ^ 48)
      ∧ ∀ k < 32, k ≠ n → u.g (F.MBX_CH_DATA_WORD k) = s.g (F.MBX_CH_DATA_WORD k)
        ∧ u.g (F.MBX_CH_STATUS_FULL k) = s.g (F.MBX_CH_STATUS_FULL k)
    let rests : List Fld := if 4 ≤ r ∧ r ≤ 35 then [F.CLU_STATUS_CTRL_AWAKE (r - 4)] else []
    s.powered = true → n < 32 →
    (1 ≤ m → m ≤ 36 → s.fromMaster m = true →
      (¬sends m → ∃ u, exec (.mailboxWrite m n word) s = .next u ∧ u.g (F.MBX_CH_STATUS_NOT_BOUND n) = 1 ∧ logs 0x0A0A u
        ∧ ∀ f ∈ channels, u.g f = s.g f)
      ∧ (sends m → r = 0 → exec (.mailboxWrite m n word) s = .next s)
      ∧ (sends m → r ≠ 0 → ¬full → s.receiverReset r = false → ∃ u, exec (.mailboxWrite m n word) s = .next u ∧ put m word u
        ∧ u.sec.held = s.sec.held)
      ∧ (sends m → r ≠ 0 → s.receiverReset r = true ∨ (full ∧ 4 ≤ m) →
        exec (.mailboxWrite m n word) s = .next { s with sec := { s.sec with held := s.sec.held ++ [(n, m, word % 2 ^ 64)] } })
      ∧ (sends m → r ≠ 0 → s.receiverReset r = false → full → m < 4 →
        ∃ u, exec (.mailboxWrite m n word) s = .next u ∧ u.g (F.MBX_CH_STATUS_OVERRUN n) = 1 ∧ logs 0x0A0B u
          ∧ ∀ f ∈ channels, u.g f = s.g f)
      ∧ (r = m → ∃ u, exec (.mailboxTake m n) s = .next u
        ∧ u.outbox = s.outbox ++ [.regData m (0x30008 + 0x40 * n) (s.g (F.MBX_CH_DATA_WORD n))]
        ∧ u.g (F.MBX_CH_STATUS_FULL n) = 0 ∧ u.g (F.MBX_CH_DATA_WORD n) = 0 ∧ KeepsRegs s u (channels ++ rests)
        ∧ { u with fld := s.fld, outbox := s.outbox } = s)
      ∧ (r ≠ m → exec (.mailboxTake m n) s = .next (s.emit (.regData m (0x30008 + 0x40 * n) 0)))
      ∧ (b ≠ 0xFF → exec (.mailboxLockClaim m n) s = .next (s.emit (.regData m (0x30018 + 0x40 * n) b)))
      ∧ (b = 0xFF → holder = 0 → r ≠ m → ∃ u, exec (.mailboxLockClaim m n) s = .next u ∧ u.g (F.MBX_CH_LOCK_HOLDER n) = m
        ∧ u.outbox = s.outbox ++ [.regData m (0x30018 + 0x40 * n) 0] ∧ KeepsRegs s u [F.MBX_CH_LOCK_HOLDER n]
        ∧ { u with fld := s.fld, outbox := s.outbox } = s)
      ∧ (b = 0xFF → holder ≠ 0 ∨ r = m → exec (.mailboxLockClaim m n) s = .next (s.emit (.regData m (0x30018 + 0x40 * n) holder)))
      ∧ (holder = m → ∃ u, exec (.mailboxLockRelease m n) s = .next u ∧ u.g (F.MBX_CH_LOCK_HOLDER n) = 0
        ∧ OnlyRegs s u [F.MBX_CH_LOCK_HOLDER n])
      ∧ (holder ≠ m → ∃ u, exec (.mailboxLockRelease m n) s = .next u ∧ logs 0x0A0F u ∧ u.g (F.MBX_CH_LOCK_HOLDER n) = holder))
    ∧ (∀ k x w rest, takeFirst (fun e => e.1 == n) s.sec.held = some ((k, x, w), rest) → ¬full → s.receiverReset r = false → r ≠ 0 →
        1 ≤ x → x ≤ 36 → sends x →
      ∃ u, exec (.heldMessageSend n) s = .next u ∧ put x w u ∧ u.sec = { s.sec with held := rest, rested := s.sec.rested && r != 2 })
    ∧ (m = 2 → ∃ u, exec (.mailboxClear m n) s = .next u ∧ u.g (F.MBX_CH_STATUS_FULL n) = 0 ∧ u.g (F.MBX_CH_DATA_WORD n) = 0
      ∧ u.g (F.MBX_CH_LOCK_HOLDER n) = 0 ∧ OnlyRegs s u (F.MBX_CH_LOCK_HOLDER n :: channels ++ rests))
    ∧ (m = 1 ∨ m = 2 → s.fromMaster m = true →
      let arg := sender % 256 + 256 * (receiver % 256)
      let owned : Prop := ∃ p, s.plan = some p ∧ ∃ e ∈ p.owners, e.res = 5 ∧ e.inst = n ∧ e.arg ≠ arg
      (s.g F.MBX_BIND_LOCK_LOCKED ≠ 0 → exec (.mbxBindWrite m n sender receiver) s = .next s)
      ∧ (s.g F.MBX_BIND_LOCK_LOCKED = 0 → owned →
        exec (.mbxBindWrite m n sender receiver) s = .next (s.report 0x0118 0 (5 * 65536 + n)))
      ∧ (s.g F.MBX_BIND_LOCK_LOCKED = 0 → ¬owned → b = sender % 256 → r = receiver % 256 →
        exec (.mbxBindWrite m n sender receiver) s = .next s)
      ∧ (s.g F.MBX_BIND_LOCK_LOCKED = 0 → ¬owned → ¬(b = sender % 256 ∧ r = receiver % 256) →
        ∃ u, exec (.mbxBindWrite m n sender receiver) s = .next u ∧ u.g (F.MBX_BIND_SENDER n) = sender % 256
          ∧ u.g (F.MBX_BIND_RECEIVER n) = receiver % 256 ∧ u.g (F.MBX_CH_STATUS_FULL n) = 0 ∧ u.g (F.MBX_CH_DATA_WORD n) = 0
          ∧ KeepsRegs s u (F.MBX_BIND_SENDER n :: F.MBX_BIND_RECEIVER n :: channels ++ rests)
          ∧ u.claims = ((s.unclaim 5 n 8).claims ++
              if sender % 256 = 0 ∨ receiver % 256 = 0 ∨ (s.unclaim 5 n 8).ownerOf 5 n ≠ none then [] else [⟨5, n, 8, arg⟩])
          ∧ { u with fld := s.fld, claims := s.claims } = s)
      ∧ (F.MBX_BIND_LOCK_LOCKED.key ∉ s.locked → ∃ u, exec (.mbxBindLock m) s = .next u ∧ u.g F.MBX_BIND_LOCK_LOCKED = 1
        ∧ u.locked = s.locked ++ [F.MBX_BIND_LOCK_LOCKED.key] ∧ KeepsRegs s u [F.MBX_BIND_LOCK_LOCKED] ∧ { u with fld := s.fld, locked := s.locked } = s)
      ∧ (F.MBX_BIND_LOCK_LOCKED.key ∈ s.locked → exec (.mbxBindLock m) s = .next s))

/-- R427, R435 to R443: the firmware's slots and commands, owner requests, resets from the board controller, and the boot. The model's
choices it rests on: log entries 40, 41 and 69. -/
def Obligations.FirmwareAndOwnersAreManaged : Prop :=
  ∀ (m : Nat) (bytes request : List Byte) (s : State),
    let o := s.otherSlot
    let len := s.g F.SEC_CMD_LEN_LEN
    let running : Prop := s.boot = bootRUNNING
    let idle : Prop := s.g F.SEC_CMD_BUSY = 0
    let ends (code : Nat) (u : State) : Prop := u.g F.SEC_CMD_RESULT_CODE = code ∧ u.g F.SEC_CMD_BUSY = 0
      ∧ (code ≠ 0 → s.g F.SEC_ERRLOG_VALID = 0 → u.g F.SEC_ERRLOG_CODE = code)
    let restarts (u : State) : Prop := u.boot = bootROM ∧ u.sec.rested = false
      ∧ (∀ i < 8, ∀ k < 4, u.g (F.SEC_MEAS_VALUE i k) = 0)
      ∧ ∀ n < 32, s.g (F.MBX_BIND_RECEIVER n) = 2 → u.g (F.MBX_CH_STATUS_FULL n) = 0 ∧ u.g (F.MBX_CH_DATA_WORD n) = 0
    s.powered = true → Settled s →
    (m = 1 → s.fromMaster m = true →
      (s.g F.SEC_CMD_BUSY ≠ 0 → ∀ c ∈ [Instr.fwWrite m, .fwActivate m, .fwConfirm m, .devReset m],
        ∃ u, exec c s = .next u ∧ u.g F.SEC_CMD_RESULT_CODE = 0x0A09 ∧ u.g F.SEC_CMD_BUSY = s.g F.SEC_CMD_BUSY
          ∧ u.sec = s.sec ∧ u.mem = s.mem)
      ∧ (idle → s.boot = bootROM → ∀ e ∈ [(Instr.fwWrite m, 1), (.fwActivate m, 2), (.fwConfirm m, 3), (.ownerRequest m request, 4), (.devReset m, 5)],
        ∃ u, exec e.1 s = .next u ∧ u.g F.SEC_CMD_OP = e.2 ∧ u.g F.SEC_CMD_BUSY = 1 ∧ u.sec = { s.sec with waits := true, rested := false }
          ∧ KeepsRegs s u [F.SEC_CMD_OP, F.SEC_CMD_BUSY] ∧ { u with fld := s.fld, sec := s.sec } = s)
      ∧ (idle → s.boot = bootRECOVERY → ∀ c ∈ [Instr.fwConfirm m, .ownerRequest m request, .devReset m],
        ∃ u, exec c s = .next u ∧ ends 0x0A09 u ∧ u.sec.keys = s.sec.keys)
      ∧ (idle → s.boot = bootRUNNING ∨ s.boot = bootRECOVERY →
        (len < 3648 ∨ 16777216 < len → ∃ u, exec (.fwWrite m) s = .next u ∧ ends 0x0A03 u ∧ u.sec.writing = false)
        ∧ (3648 ≤ len → len ≤ 16777216 → ∃ u, exec (.fwWrite m) s = .next u ∧ u.g F.SEC_CMD_BUSY = 1 ∧ u.sec.writing = true
          ∧ u.fwSlot o = [] ∧ u.fwSlot (1 - o) = s.fwSlot (1 - o) ∧ u.g (fwValidF o) = 0 ∧ u.sec.keys = s.sec.keys
          ∧ u.outbox = (s.readHost (64 * s.g F.SEC_CMD_ADDR_ADDR) len).outbox)
        ∧ (s.g (fwValidF o) = 0 → ∃ u, exec (.fwActivate m) s = .next u ∧ ends 0x0A09 u ∧ u.g F.SEC_STATUS_PREF = s.g F.SEC_STATUS_PREF)
        ∧ (s.g (fwValidF o) ≠ 0 → ∃ u, exec (.fwActivate m) s = .next u ∧ ends 0 u ∧ u.g F.SEC_STATUS_PREF = o
          ∧ u.g F.SEC_STATUS_TRIAL = 1 ∧ u.g F.SEC_STATUS_TRIED = 0 ∧ restarts u))
      ∧ (idle → running →
        (let k := leAt (s.fwSlot (s.g F.SEC_STATUS_SLOT)) 12 1;
          ∃ u, exec (.fwConfirm m) s = .next u ∧ ends 0 u ∧ u.g F.SEC_STATUS_TRIAL = 0
          ∧ u.g F.SEC_SVN_MIN_SVN = max (s.g F.SEC_SVN_MIN_SVN) (s.g F.SEC_SVN_FW_SVN) % 2 ^ 32
          ∧ ∀ i < 4, (u.g F.SEC_STATUS_REVOKED).testBit i = (decide (i < k) || (s.g F.SEC_STATUS_REVOKED).testBit i))
        ∧ ∃ u, exec (.devReset m) s = .next u ∧ WasReset rcMC s u)
      ∧ (idle ∨ (s.sec.waits = true ∧ s.g F.SEC_CMD_OP = 4) → running → s.sec.keys.length = 4 →
        let kind := leAt request 6 1
        let slot := leAt request 7 1
        (∀ c, s.ownerCheck request = c → c ≠ 0 → ∃ u, exec (.ownerRequest m request) s = .next u ∧ ends c u ∧ u.sec.keys = s.sec.keys
          ∧ u.g F.SEC_OWNER_COUNTER_COUNT = s.g F.SEC_OWNER_COUNTER_COUNT
          ∧ ∃ l, u.outbox = (s.readHost (64 * s.g F.SEC_CMD_ADDR_ADDR) len).outbox ++ l)
        ∧ (s.ownerCheck request = 0 → ∃ u, exec (.ownerRequest m request) s = .next u
          ∧ u.g F.SEC_OWNER_COUNTER_COUNT = (s.g F.SEC_OWNER_COUNTER_COUNT + 1) % 2 ^ 64
          ∧ (kind = 1 → ends 0 u ∧ u.g F.SEC_ENROL_ENABLE = 0 ∧ u.g (F.SEC_OWNER_SLOT_ACTIVE slot) = 1
            ∧ ∀ k < 4, u.sec.keys.getD k none =
                if k = slot then some ⟨sliceBytes request 128 32, sliceBytes request 160 1952⟩ else s.sec.keys.getD k none)
          ∧ (kind = 2 → ends 0 u ∧ u.g (F.SEC_OWNER_SLOT_ACTIVE slot) = 0 ∧ u.g (F.SEC_OWNER_SLOT_ED_ID slot) = 0
            ∧ ∀ k < 4, u.sec.keys.getD k none = if k = slot then none else s.sec.keys.getD k none)
          ∧ (kind = 3 → u.g F.ID_RESET_CAUSE_CAUSE = rcRELEASE ∧ u.plan = none ∧ (∀ x, shadowByte x = false → u.mem.byte x = 0)
            ∧ ∀ k < 4, u.sec.keys.getD k none = none ∧ u.g (F.SEC_OWNER_SLOT_ACTIVE k) = 0))))
    ∧ (s.sec.writing = true →
      let l := bytes.take len
      let img := l ++ (s.fwSlot o).drop l.length
      ∃ u, exec (.fwWriteDone bytes) s = .next u ∧ ends (s.fwCheck img) u ∧ u.fwSlot o = img ∧ u.sec.writing = false
        ∧ u.g (fwValidF o) = if s.fwCheck img = 0 then 1 else s.g (fwValidF o))
    ∧ (m = 3 →
      (∃ u, exec (.sbDevReset m) s = .next u ∧ WasReset rcMC s u)
      ∧ (∃ u, exec (.mcReset m) s = .next u ∧ restarts u
        ∧ (s.g F.SEC_CMD_BUSY ≠ 0 → u.g F.SEC_CMD_RESULT_CODE = 0x0A09 ∧ u.g F.SEC_CMD_BUSY = 0))
      ∧ (∃ u, exec (.enrolEnable m) s = .next u ∧ u.g F.SEC_ENROL_ENABLE = 1 ∧ u.sec = { s.sec with enrolAt := s.time }
        ∧ KeepsRegs s u [F.SEC_ENROL_ENABLE] ∧ { u with fld := s.fld, sec := s.sec } = s))
    ∧ (s.g F.SEC_ENROL_ENABLE ≠ 0 → s.sec.enrolAt + 600000000000 ≤ s.time →
      ∃ u, exec .enrolEnableExpiry s = .next u ∧ u.g F.SEC_ENROL_ENABLE = 0 ∧ OnlyRegs s u [F.SEC_ENROL_ENABLE])
    ∧ (running → ∃ u, exec .watchdogExpiry s = .next u ∧ restarts u)
    ∧ (s.boot = bootROM → s.sec.waits = false → s.g F.SEC_STATUS_PREF ≤ 1 →
      let trial : Prop := s.g F.SEC_STATUS_TRIAL ≠ 0
      let fell : Prop := trial ∧ s.g F.SEC_STATUS_TRIED ≠ 0
      let first := if fell then 1 - s.g F.SEC_STATUS_PREF else s.g F.SEC_STATUS_PREF
      let other := 1 - first
      let boots (slot : Nat) (u : State) : Prop := u.boot = bootRUNNING ∧ u.g F.SEC_STATUS_SLOT = slot
        ∧ u.g F.SEC_SVN_FW_SVN = leAt (s.fwSlot slot) 8 4 % 2 ^ 32 ∧ u.g (fwValidF slot) = 1
      ∃ u, exec .jeoftStart s = .next u ∧ u.mem = s.mem ∧ u.sec = { s.sec with asked := [] }
        ∧ (∀ r rest, s.sec.asked = .discovery r :: rest → 2 ≤ r → Sends s u (.doe [0xFF, 0xFF, 0, 0]))
        ∧ (∀ k < 4, u.g (F.SEC_MEAS_VALUE 0 k) =
            leAt (sha3 ((List.range 4).flatMap (fun k => leBytes 8 (s.g (F.SEC_MEAS_VALUE 0 k))) ++ Config.romDigest)) (8 * k) 8 % 2 ^ 64)
        ∧ (s.fwCheck (s.fwSlot first) = 0 → boots first u
          ∧ (fell → u.g F.SEC_STATUS_PREF = first ∧ u.g F.SEC_STATUS_TRIAL = 0 ∧ u.g F.SEC_STATUS_TRIED = 0)
          ∧ (¬fell → u.g F.SEC_STATUS_PREF = first ∧ u.g F.SEC_STATUS_TRIAL = s.g F.SEC_STATUS_TRIAL ∧ (trial → u.g F.SEC_STATUS_TRIED = 1)))
        ∧ (s.fwCheck (s.fwSlot first) ≠ 0 → u.g (fwValidF first) = 0
          ∧ (s.fwCheck (s.fwSlot other) = 0 → boots other u ∧ u.g F.SEC_STATUS_PREF = other ∧ u.g F.SEC_STATUS_TRIAL = 0
            ∧ u.g F.SEC_STATUS_TRIED = 0)
          ∧ (s.fwCheck (s.fwSlot other) ≠ 0 → u.boot = bootRECOVERY ∧ u.g (fwValidF other) = 0)))

/-- R194, R444 to R447, R450 to R452, R481: discovery, certificates and attestation over DOE, error reports, the hourly record and the
sideband. The model's choices it rests on: log entries 40, 41, 70, 71 and 72. -/
def Obligations.ReportsAndSidebandAnswer : Prop :=
  ∀ (index off len w k : Nat) (bad : Bool) (request data : List Byte) (s : State),
    let t : State := { s with sec := { s.sec with rested := false } }
    let asks (r : DoeReq) : State := { s with sec := { s.sec with asked := s.sec.asked ++ [r] } }
    (s.hostLive = true → s.boot = bootROM → Settled s →
      exec (.doeDiscovery index) s = .next (asks (.discovery index))
      ∧ (leAt request 0 1 ≠ 2 → exec (.getCert request) s = .next (asks (.cert request)))
      ∧ (leAt request 0 1 = 2 → exec (.attest request) s = .next (asks (.attest request))))
    ∧ (s.hostLive = true → s.boot ≠ bootROM → Settled s →
      exec (.doeDiscovery 0) s = .next (t.emit (.doe [1, 0, 0, 1]))
      ∧ exec (.doeDiscovery 1) s = .next (t.emit (.doe (leBytes 2 Config.vendorId.toNat ++ [1, 0])))
      ∧ (2 ≤ index → exec (.doeDiscovery index) s = .next (t.emit (.doe [0xFF, 0xFF, 0, 0])))
      ∧ (leAt request 1 1 = k → k ≤ 1 → doeForm 1 request = true →
        exec (.getCert request) s = .next (t.emit (.doe (padDwords ([0, 0, 0, 0] ++ Config.certificate s.serial k)))))
      ∧ (leAt request 0 1 ≠ 2 → doeForm 1 request = false ∨ 1 < leAt request 1 1 → ∃ u, exec (.getCert request) s = .next u
        ∧ Sends s u (.doe [0x0E, 0x0A, 0, 0]) ∧ (s.g F.SEC_ERRLOG_VALID = 0 → u.g F.SEC_ERRLOG_CODE = 0x0A0E))
      ∧ (doeForm 2 request = true → ∃ b, b.length = 384
        ∧ exec (.attest request) s = .next (t.emit (.doe (b ++ sliceBytes (Config.edSign b) 0 64 ++ sliceBytes (Config.mlSign b) 0 3309 ++ [0, 0, 0])))
        ∧ b.take 4 = [0x5A, 0x4B, 0x41, 0x52] ∧ leAt b 4 2 = 1 ∧ leAt b 8 8 = s.serial % 2 ^ 64
        ∧ sliceBytes b 16 32 = sliceBytes request 4 32 ∧ leAt b 48 8 = s.time % 2 ^ 64 ∧ leAt b 56 8 = s.g F.STEP_COMMITTED_NUMBER % 2 ^ 64
        ∧ (∀ k < 2, leAt b (64 + 8 * k) 8 = s.g (F.CFG_RUN_ID_RUN_ID k) % 2 ^ 64)
        ∧ (∀ k < 4, leAt b (80 + 8 * k) 8 = s.g (F.CFG_ACTIVE_DIGEST_DIGEST k) % 2 ^ 64)
        ∧ leAt b 116 4 = s.g F.SEC_SVN_MIN_SVN % 2 ^ 32
        ∧ ∀ i < 8, ∀ k < 4, leAt b (128 + 32 * i + 8 * k) 8 = s.g (F.SEC_MEAS_VALUE i k) % 2 ^ 64)
      ∧ (leAt request 0 1 = 2 → doeForm 2 request = false → ∃ u, exec (.attest request) s = .next u ∧ Sends s u (.doe [0x0E, 0x0A, 0, 0])
        ∧ (s.g F.SEC_ERRLOG_VALID = 0 → u.g F.SEC_ERRLOG_CODE = 0x0A0E)))
    ∧ (∀ r rest, s.reports = r :: rest → s.powered = true → s.boot ≠ bootROM →
      let seq := (s.g F.NVS_HIST_SEQ_COUNT + 1) % 2 ^ 64
      ∃ u, exec (.errorReport bad) s = .next u ∧ u.g F.NVS_HIST_SEQ_COUNT = seq ∧ u.sec.history.getLast? = some ⟨seq, r⟩
        ∧ u.sec.history.length = min historyMax (s.sec.history.length + 1)
        ∧ (r.code / 256 = 3 → (u.g F.HIF_IRQ_CAUSE_CAUSE).testBit 6 = true)
        ∧ (bad = false → u.reports = rest)
        ∧ (bad = true → u.reports.length = rest.length + 1 ∧ (s.g F.SEC_ERRLOG_VALID = 0 → u.g F.SEC_ERRLOG_CODE = 0x0A0C)))
    ∧ (s.powered = true → ∃ u, exec .hourlyWearRecord s = .next u ∧ u.sec = { s.sec with stored := u.sec.stored, rested := false } ∧ { u with sec := s.sec } = s
      ∧ (∀ k < 64, Sparse.get 0 (F.RING_A_ROSTER_SERIAL k).key u.sec.stored = s.g (F.RING_A_ROSTER_SERIAL k))
      ∧ ∀ c < 5, Sparse.get 0 (F.THM_WEAR_DAMAGE_INDEX c).key u.sec.stored = s.g (F.THM_WEAR_DAMAGE_INDEX c))
    ∧ (s.sidebandUp = true → Settled s → len = 4 ∨ len = 8 →
      (s.reaches 3 off = false ∨ off % len ≠ 0 → exec (.smbusRead off len true) s = .next (s.emit (.smbus (List.replicate len 0)))
        ∧ (data.length = len → exec (.smbusWrite off data true) s = .next s))
      ∧ (s.reaches 3 off = true → off % len = 0 → inFamily 0x30008 32 0x40 off = false → inFamily 0x30018 32 0x40 off = false →
        exec (.smbusRead off len true) s = .next (s.emit (.smbus (leBytes len (s.readBar0 off len)))))
      ∧ (k < 32 → data = leBytes 8 w →
        exec (.smbusWrite (0x30000 + 0x40 * k) data true) s = .next (s.within fun v => afterCmd v (exec (.mailboxWrite 3 k w) v)))
      ∧ (2000 ≤ w → w ≤ 4600 → data = leBytes 4 w →
        exec (.smbusWrite 0x90000 data true) s = .next (s.within fun v => afterCmd v (exec (.pwrLimitWrite 3 w) v)))
      ∧ (exec (.smbusRead off len false) s = .next s ∧ exec (.smbusWrite off data false) s = .next s))

/-- R449, R454, R457, R467 to R471, R526 to R530: power-on, the input, regulators, the division of power, the fast loop and the limit. The
model's choices it rests on: log entries 44, 47 and 49. -/
def Obligations.SupplyAndBudgetAct : Prop :=
  ∀ (straps v a b p m fixed inputW inputV watts : Nat) (corrupt : Bool) (power demand : List Nat) (s : State),
    let logs (code : Nat) (u : State) : Prop := s.g F.PWR_ERRLOG_VALID = 0 → u.g F.PWR_ERRLOG_CODE = code
    let limit := s.g F.PWR_LIMIT_WATTS
    let floorsHeld (u : State) : Prop :=
      u.power = { s.power with grant := floorGrants s.floors s.power.demand (limit - s.power.fixed - 50), duty := [8, 8, 8, 8, 8] }
    let layer := a * 8 + b - 1
    let inLayer (x : Nat) : Prop := dpaCol x = a ∧ dpaLayer x = b ∧ x < 2 ^ 40
    (s.powered = false → (∀ e ∈ s.sec.stored, storedKey e.1 = true) →
      ∃ u, exec (.powerOn straps corrupt) s = .next u ∧ u.powered = true ∧ u.plan = none ∧ u.stp = StepCtl.init ∧ u.tiles = []
        ∧ u.mem = State.reset.mem ∧ u.pins = { Pins.init with straps := straps % 4 } ∧ u.sec.keys = s.sec.keys ∧ u.sec.slotA = s.sec.slotA
        ∧ u.sec.slotB = s.sec.slotB ∧ u.sec.history = s.sec.history ∧ u.pending = s.pending
        ∧ (∀ f : Fld, keptKey f.key = true → u.g f = s.g f)
        ∧ (∀ f : Fld, keptKey f.key = false → storedKey f.key = false → keyOff f.key ∉ [0x40010, 0x91F00, 0x91F08, 0xA0218] → u.g f = f.rst)
        ∧ (s.pins.lostDue = true → u.g F.PWR_ERRLOG_VALID = 1 ∧ u.g F.PWR_ERRLOG_CODE = 0x0902)
        ∧ (corrupt = true → u.g F.SEC_ERRLOG_VALID = 1 ∧ u.g F.SEC_ERRLOG_CODE = 0x0A0D))
    ∧ (s.powered = true →
      (3800 ≤ v → v < 4000 → ∃ u, exec (.inputLow v) s = .next u ∧ u.g F.PWR_STATUS_INPUT_V = v ∧ u.g F.PWR_STATUS_INPUT_LOW = 1
        ∧ u.g F.PWR_STATUS_INPUT_HIGH = 0 ∧ logs 0x0901 u ∧ floorsHeld u ∧ u.mem = s.mem)
      ∧ (6000 < v → v ≤ 6200 → ∃ u, exec (.inputHigh v) s = .next u ∧ u.g F.PWR_STATUS_INPUT_V = v ∧ u.g F.PWR_STATUS_INPUT_HIGH = 1
        ∧ u.g F.PWR_STATUS_INPUT_LOW = 0 ∧ logs 0x090D u ∧ floorsHeld u ∧ u.mem = s.mem)
      ∧ (s.inputHold = true → ∃ u, exec .inputHoldEnd s = .next u ∧ u.inputHold = false
        ∧ OnlyRegs s u [F.PWR_STATUS_INPUT_LOW, F.PWR_STATUS_INPUT_HIGH])
      ∧ (∃ u, exec .inputLost s = .next u ∧ u.powered = false ∧ u.g (ringClosedF 0) ≠ 0 ∧ u.g (ringClosedF 1) ≠ 0
        ∧ u.pins = { s.pins with pwrOk := false, thermTrip := false, tripDue := false, lostDue := true }
        ∧ { u with fld := s.fld, powered := true, pins := s.pins } = s
        ∧ KeepsRegs s u [F.RING_STATUS_A_BYPASS_CLOSED, F.RING_STATUS_B_BYPASS_CLOSED, F.RING_BYPASS_OPS_COUNT])
      ∧ (s.pins.mateOpen = false → ∃ u, exec .mateOpen s = .next u ∧ u.powered = false ∧ u.g (ringClosedF 0) ≠ 0 ∧ u.g (ringClosedF 1) ≠ 0
        ∧ u.pins = { s.pins with pwrOk := false, thermTrip := false, tripDue := false, lostDue := true, mateOpen := true })
      ∧ (s.pins.vrefLow = false → s.pins.perst = false → ∃ u, exec .sbVrefLow s = .next u ∧ WasReset rcPERST s u
        ∧ u.pins = { s.pins with perst := true, vrefLow := true })
      ∧ (s.pins.vrefLow = false → s.pins.perst = true → exec .sbVrefLow s = .next { s with pins := { s.pins with vrefLow := true } }))
    ∧ (s.powered = true → Settled s → NoDecision s →
      (a < 32 → a ∉ s.power.offClusters → ∃ u, exec (.regulatorFault 0 a b) s = .next u
        ∧ u.power.offClusters = s.power.offClusters ++ [a] ∧ logs 0x090C u ∧ u.g (F.PWR_CLU_PLL a) = 2
        ∧ (∀ j < 8, u.tilePower (8 * a + j) = tpOFF ∧ u.tile (8 * a + j) = Tile.init)
        ∧ (∀ t, t / 8 ≠ a → u.tile t = s.tile t ∧ u.tilePower t = s.tilePower t)
        ∧ (s.stepState = stOPEN → s.replaying = false → s.framesFlow = true → u.stepState = stFAIL))
      ∧ (∀ kind, kind = 1 ∨ kind = 2 → ∃ u, exec (.regulatorFault kind a b) s = .next u ∧ WasReset rcREG s u ∧ logs 0x090C u)
      ∧ (a ≤ 4 → 1 ≤ b → b ≤ layersOf a → layer ∉ s.power.dead → ∃ u, exec (.regulatorFault 3 a b) s = .next u
        ∧ u.g F.ID_RESET_CAUSE_CAUSE = rcREG ∧ u.g F.CFG_RUN_STATE_RETAIN = 0 ∧ u.plan = none ∧ logs 0x090C u ∧ layer ∈ u.power.offLayers
        ∧ (∀ x, inLayer x → u.mem.byte x = 0) ∧ (∀ x, ¬inLayer x → u.mem.byte x = s.mem.byte x)
        ∧ (layer ∉ s.power.faulted → layer ∈ u.power.faulted ∧ u.power.dead = s.power.dead)
        ∧ (layer ∈ s.power.faulted → layer ∈ u.power.dead
          ∧ ∀ h < layersOf a, b ≤ h + 1 → (u.g (F.REG_COLSTATUS_HOP_FAILED a)).testBit h = true))
      ∧ (1 ≤ b → layer ∈ s.power.offLayers → layer ∉ s.power.dead → ∃ u, exec (.layerRegulatorRecovered a b) s = .next u
        ∧ u.power = { s.power with offLayers := s.power.offLayers.filter (· != layer) }
        ∧ (∀ x, inLayer x → u.mem.byte x = 0) ∧ (∀ x, ¬inLayer x → u.mem.byte x = s.mem.byte x)
        ∧ { u with mem := s.mem, power := s.power } = s))
    ∧ (s.powered = true → power.length = 5 → demand.length = 5 →
      let grants := divide limit fixed s.floors demand s.inputHold
      ∃ u, exec (.powerDivision fixed power demand inputW inputV) s = .next u
        ∧ u.power = { s.power with fixed := fixed, demand := demand, grant := grants, duty := [8, 8, 8, 8, 8] }
        ∧ (∀ i < 5, (u.g F.PWR_STATUS_THROTTLED).testBit i = decide (grants.getD i 0 < demand.getD i 0))
        ∧ u.g F.PWR_STATUS_INPUT_V = inputV % 2 ^ 16 ∧ u.g F.PWR_STATUS_INPUT_W = inputW % 2 ^ 16 ∧ u.g F.PWR_STATUS_FIXED = min 255 (fixed / 5)
        ∧ u.g F.PWR_CLASS_POWER_ARRAY = power.getD 4 0 / 10 % 2 ^ 12 ∧ u.g F.PWR_CLASS_POWER_GEYSER = power.getD 3 0 / 10 % 2 ^ 12
        ∧ u.g F.PWR_CLASS_POWER_VENT = power.getD 2 0 / 10 % 2 ^ 12 ∧ u.g F.PWR_CLASS_POWER_UPDATE = power.getD 1 0 / 10 % 2 ^ 12
        ∧ u.g F.PWR_CLASS_POWER_RING = power.getD 0 0 / 10 % 2 ^ 12
        ∧ (∀ k < 32, u.g (F.PWR_CLU_FREQ k) =
            if (List.range 8).any (fun j => s.tilePower (8 * k + j) == tpRUN) then
              min (s.g (F.PWR_CLU_CAP k)) (max (s.fmin k) (min (s.fmax k) (arrayStep (demand.getD 4 0) (grants.getD 4 0)))) % 2 ^ 5
            else s.g (F.PWR_CLU_FREQ k)))
    ∧ (s.powered = true →
      let e := if p ≤ limit then min (10000 * (5000 - limit)) (s.power.credit + (limit - p)) else s.power.credit - (p - limit)
      let above := if limit < p then s.power.above + 1 else 0
      let l := s.power.recent ++ [p]
      let recent := l.drop (l.length - 10)
      let cuts : Prop := 5000 * recent.length < recent.sum ∨ 10000 ≤ above ∨ (e = 0 ∧ limit < p)
      let lowest := [4, 3, 2, 1, 0].find? fun i => s.power.duty.getD i 0 != 0
      ∃ u, exec (.fastLoop p) s = .next u ∧ { u.power with duty := s.power.duty } = { s.power with credit := e, above := above, recent := recent }
        ∧ u.g F.PWR_STATUS_CREDIT = e / 1000 % 2 ^ 16 ∧ u.g F.PWR_STATUS_ABOVE_LIMIT = (if limit < p then 1 else 0)
        ∧ (¬cuts → u.power.duty = s.power.duty)
        ∧ (cuts → lowest = none → u.power.duty = s.power.duty)
        ∧ (cuts → ∀ i, lowest = some i → u.power.duty.getD i 0 < s.power.duty.getD i 0
          ∧ ∀ j, j ≠ i → u.power.duty.getD j 0 = s.power.duty.getD j 0)
        ∧ u.mem = s.mem ∧ u.tiles = s.tiles)
    ∧ (s.fromMaster m = true → 1 ≤ m → m ≤ 3 →
      (2000 ≤ watts → watts ≤ 4600 → ∃ u, exec (.pwrLimitWrite m watts) s = .next u ∧ u.g F.PWR_LIMIT_WATTS = watts ∧ OnlyRegs s u [F.PWR_LIMIT_WATTS])
      ∧ (watts < 2000 ∨ 4600 < watts → exec (.pwrLimitWrite m watts) s = .next s))

/-- R472 to R482: the thermal engine's sample, the columns' states and what they cost, suspect sensors, and the eyes. The model's choices
it rests on: log entries 43, 46 and 49. -/
def Obligations.ThermalStatesAct : Prop :=
  ∀ (c m r j : Nat) (sensors powers : List (List Int)) (inlet outlet : Int) (eyes : List (Nat × Nat × Nat)) (s : State),
    let n := layersOf c
    let logs (code : Nat) (u : State) : Prop := s.g F.PWR_ERRLOG_VALID = 0 → u.g F.PWR_ERRLOG_CODE = code
    let capped (f : Nat → Nat) (u : State) : Prop :=
      ∀ k ∈ clustersOf c, u.g (F.PWR_CLU_CAP k) = f k % 2 ^ 5 ∧ u.g (F.PWR_CLU_FREQ k) = min (f k) (s.g (F.PWR_CLU_FREQ k)) % 2 ^ 5
    let lowest (u : State) : Prop := capped s.fmin u ∧ u.rate c 0 = 1 ∧ u.rate c 1 = 1
    let keepsCols (u : State) : Prop := ∀ k ≤ 4, k ≠ c → u.colState k = s.colState k
    s.powered = true → Settled s → c ≤ 4 →
    (sensors.length = 64 → powers.length = 64 →
      let old (r j : Nat) : ThmNode := s.node c r j
      let sensor (r j : Nat) : Int := (sensors.getD r []).getD j 0
      let seen (r j : Nat) : Int := if j = n + 1 then outlet else if (old r j).suspect then (old r j).model else sensor r j
      let flow (r j : Nat) : Int :=
        let q := ((powers.getD r []).take (j + 1)).foldl (· + ·) 0
        (old r j).flow + (q - (old r j).flow) / 20
      let drop (r j : Nat) : Int := (Config.resistance c r j : Int) * flow r j / 2 ^ 32
      ∃ u, exec (.thermalTick c sensors powers inlet outlet) s = .next u
        ∧ (∀ r < 64, ∀ j ≤ n, (u.node c r j).sensor = sensor r j ∧ (u.node c r j).flow = flow r j
          ∧ (u.node c r j).up = seen r (j + 1) + drop r j
          ∧ (1 ≤ j → (u.node c r j).down = seen r (j - 1) - drop r (j - 1) ∧ (u.node c r j).model = max (u.node c r j).up (u.node c r j).down)
          ∧ (j = 0 → (u.node c r j).model = (u.node c r j).up)
          ∧ (u.node c r j).suspect = (old r j).suspect
          ∧ (u.node c r j).est = if (old r j).suspect then (u.node c r j).model else max (sensor r j) (u.node c r j).model)
        ∧ (∀ k ≤ 4, k ≠ c → ∀ r < 64, ∀ j < 16, u.node k r j = s.node k r j)
        ∧ u.g F.THM_STATUS_COOLANT_IN = patternOf 12 inlet ∧ u.g F.THM_STATUS_COOLANT_OUT = patternOf 12 outlet ∧ keepsCols u
        ∧ (let w := Sparse.get Wear.init c s.power.wear
          let y := u.hottest (memNodes c)
          let reverses : Prop := w.seen = true ∧ ¬((w.up = true ∧ w.ext ≤ y) ∨ (w.up = false ∧ y ≤ w.ext)) ∧ 20 ≤ (w.ext - y).natAbs
          let amplitude := (w.ext - w.last).natAbs
          (w.seen = false → Sparse.get Wear.init c u.power.wear = ⟨y, y, true, true⟩)
          ∧ (reverses → Sparse.get Wear.init c u.power.wear = ⟨w.ext, y, !w.up, true⟩)
          ∧ (reverses → 40 ≤ amplitude →
            u.g (F.THM_WEAR_DAMAGE_INDEX c) = (s.g (F.THM_WEAR_DAMAGE_INDEX c) + damageOf amplitude) % 2 ^ 64)
          ∧ (¬reverses ∨ amplitude < 40 → u.g (F.THM_WEAR_DAMAGE_INDEX c) = s.g (F.THM_WEAR_DAMAGE_INDEX c)))
        ∧ (u.nodeAt c 80 = true → s.pins.thermTrip = false →
          u.pins.thermTrip = true ∧ u.pins.tripDue = true ∧ u.g F.ID_RESET_CAUSE_CAUSE = rcTRIP ∧ u.boot = bootROM ∧ u.plan = none)
        ∧ (u.nodeAt c 80 = false ∨ s.pins.thermTrip = true →
          (u.nodeAt c 0 = true → lowest u ∧ u.colState c = max 2 (s.colState c))
          ∧ (u.nodeAt c 0 = false → u.nodeAt c (-20) = true → s.colState c = 0 → u.colState c = 1)
          ∧ (u.nodeAt c 0 = false → u.nodeAt c (-20) = false ∨ s.colState c ≠ 0 → u.colState c = s.colState c)))
    ∧ (s.colState c = 1 → ∃ u, exec (.warnStep c) s = .next u ∧ capped (fun k => max (s.fmin k) (s.g (F.PWR_CLU_CAP k) - 1)) u
      ∧ u.rate c 0 = max 1 (s.rate c 0 - 1) ∧ u.rate c 1 = max 1 (s.rate c 1 - 1)
      ∧ OnlyRegs { s with power := { s.power with rates := u.power.rates } } u
          ((clustersOf c).map F.PWR_CLU_CAP ++ (clustersOf c).map F.PWR_CLU_FREQ))
    ∧ (NoDecision s → s.nodeAt c 40 = true → s.colState c < 3 →
      ∃ u, exec (.criticalEntry c) s = .next u ∧ u.colState c = 3 ∧ keepsCols u ∧ lowest u ∧ logs 0x0906 u
        ∧ (c < 4 → ∀ j < 64, ∀ n < 2, u.seqState (64 * c + j) n =
            if s.seqState (64 * c + j) n = seqISSUING ∨ (s.seqState (64 * c + j) n = seqSTALLED ∧ s.g (F.TILE_SEQ_STATUS_STALL (64 * c + j) n) ≠ 7)
            then seqIDLE else s.seqState (64 * c + j) n)
        ∧ (s.stepState = stOPEN → s.replaying = false → s.framesFlow = true → u.stepState = stFAIL))
    ∧ (s.colState c = 0 ∨ s.nodeAt c (stateEntry (s.colState c) - 7) = false →
      ∃ u, exec (.columnStateRelax c) s = .next u ∧ u.colState c = s.relaxTo c (s.colState c - 1) ∧ keepsCols u
        ∧ (∀ k ∈ clustersOf c, u.g (F.PWR_CLU_CAP k) = min 30 (s.g (F.PWR_CLU_CAP k) + 1))
        ∧ u.rate c 0 = min 8 (s.rate c 0 + 1) ∧ u.rate c 1 = min 8 (s.rate c 1 + 1) ∧ u.mem = s.mem)
    ∧ (r < 64 → j ≤ n → (s.node c r j).differs = true → (s.node c r j).suspect = false →
      ∃ u, exec (.sensorSuspect c r j) s = .next u ∧ u.node c r j = { s.node c r j with suspect := true, est := (s.node c r j).model }
        ∧ u.g F.THM_CTRL_SUSPECT_COUNT = (s.g F.THM_CTRL_SUSPECT_COUNT + 1) % 2 ^ 16 ∧ logs 0x0903 u)
    ∧ (∃ u, exec .suspectClear s = .next u ∧ { u with thm := s.thm, fld := s.fld } = s ∧ KeepsRegs s u [F.THM_CTRL_SUSPECT_COUNT]
      ∧ u.g F.THM_CTRL_SUSPECT_COUNT = (u.thm.filter fun e => e.2.suspect).length % 2 ^ 16
      ∧ u.node c r j = if (s.node c r j).suspect = true ∧ (s.node c r j).differs = false then
          { s.node c r j with suspect := false, est := max (s.node c r j).sensor (s.node c r j).model }
        else s.node c r j)
    ∧ (m = 1 ∨ m = 2 → s.fromMaster m = true →
      (s.power.margin = none → s.colResetOk c = true → ∃ u, exec (.marginStart m c) s = .next u ∧ u.g F.THM_MARGIN_CTRL_START = 1
        ∧ u.g F.THM_MARGIN_CTRL_COLUMN = c ∧ u.g F.THM_MARGIN_CTRL_CODE = 0 ∧ u.power = { s.power with margin := some c }
        ∧ KeepsRegs s u [F.THM_MARGIN_CTRL_START, F.THM_MARGIN_CTRL_COLUMN, F.THM_MARGIN_CTRL_CODE])
      ∧ (s.power.margin.isSome = true ∨ s.colResetOk c = false → ∃ u, exec (.marginStart m c) s = .next u
        ∧ u.g F.THM_MARGIN_CTRL_CODE = 0x090A ∧ u.g F.THM_MARGIN_CTRL_START = s.g F.THM_MARGIN_CTRL_START
        ∧ u.g F.THM_MARGIN_CTRL_COLUMN = s.g F.THM_MARGIN_CTRL_COLUMN ∧ logs 0x090A u ∧ u.power = s.power))
    ∧ (s.power.margin = some c →
      let low : Prop := ∃ h < n, (eyes.getD h (0, 0, 0)).1 < 20
      ∃ u, exec (.marginDone eyes) s = .next u ∧ u.g F.THM_MARGIN_CTRL_START = 0 ∧ u.power = { s.power with margin := none }
        ∧ (∀ h < n, u.g (F.THM_MARGIN_HEIGHT h) = (eyes.getD h (0, 0, 0)).1 % 2 ^ 8
          ∧ u.g (F.THM_MARGIN_WIDTH h) = (eyes.getD h (0, 0, 0)).2.1 % 2 ^ 8 ∧ u.g (F.THM_MARGIN_REGION h) = (eyes.getD h (0, 0, 0)).2.2 % 2 ^ 6)
        ∧ (low → logs 0x090B u) ∧ (¬low → u.g F.PWR_ERRLOG_VALID = s.g F.PWR_ERRLOG_VALID))

/-- R462 to R465: a tile's way from RUN to OFF and back, and its cluster's PLL. The model's choices it rests on: log entry 50. -/
def Obligations.TilesSleepAndWake : Prop :=
  ∀ (t k : Nat) (s : State),
    let goes (p : Nat) (u : State) : Prop := u.tilePower t = p ∧ ∀ v < 256, v ≠ t → u.tilePower v = s.tilePower v
    let deepest := (s.clock (t / 8)).elim 2 (·.tileDeepest)
    let pll := F.PWR_CLU_PLL (t / 8)
    let rests (u : State) : Prop := u.g pll =
      if u.clusterAsleep (t / 8) = true ∧ 1 ≤ (s.clock (t / 8)).elim 2 (·.pllDeepest) ∧ s.g pll = 0 then 1 else s.g pll
    let only (u : State) : Prop := KeepsRegs s u [F.PWR_CLU_TILES (t / 8), pll] ∧ OnlyTile t s u ∧ u.mem = s.mem
    s.powered = true → t < 256 →
    (s.working = true → s.tilePower t = tpRUN → s.tileQuiet t = true →
      ∃ u, exec (.tileIdle t) s = .next u ∧ goes tpIDLE u ∧ u.tile t = { s.tile t with since := s.time } ∧ only u ∧ u.g pll = s.g pll)
    ∧ (s.tilePower t = tpIDLE → s.stayed t = true → s.tileQuiet t = true → 1 ≤ deepest →
      ∃ u, exec (.tileSleep t) s = .next u ∧ goes tpSLEEP u ∧ u.tile t = { s.tile t with since := s.time } ∧ only u ∧ rests u)
    ∧ (s.tilePower t = tpSLEEP → s.stayed t = true → deepest = 2 →
      ∃ u, exec (.tileOff t) s = .next u ∧ goes tpOFF u ∧ u.tile t = Tile.init ∧ OnlyTile t s u ∧ u.mem = s.mem ∧ rests u
        ∧ (∀ f : Fld, f.dom = .tile → 0x1000000 + t * 0x10000 ≤ keyOff f.key → keyOff f.key < 0x1000000 + (t + 1) * 0x10000 → u.g f = f.rst))
    ∧ (k < 32 → s.g (F.PWR_CLU_PLL k) = 1 → s.clusterAsleep k = true → (s.clock k).elim 2 (·.pllDeepest) = 2 →
      ∃ u, exec (.pllOff k) s = .next u ∧ u.g (F.PWR_CLU_PLL k) = 2 ∧ OnlyRegs s u [F.PWR_CLU_PLL k])
    ∧ (s.working = true → s.tileSupplied t = true → s.wakeDue t = true →
      (s.tilePower t = tpIDLE → ∃ u, exec (.tileWake t) s = .next u ∧ goes tpRUN u ∧ OnlyRegs s u [F.PWR_CLU_TILES (t / 8)])
      ∧ (2 ≤ s.tilePower t → t ∉ s.power.waiting → t ∉ s.power.admitted → ∃ u, exec (.tileWake t) s = .next u
        ∧ u.power = { s.power with waiting := s.power.waiting ++ [t] } ∧ u.g pll = 0 ∧ KeepsRegs s u [pll]
        ∧ { u with fld := s.fld, power := s.power } = s))
    ∧ (let l := ((List.range 256).filter s.power.waiting.contains).take 32
      ∃ u, exec .wakeAdmission s = .next u ∧ { u with power := s.power } = s
        ∧ u.power = { s.power with waiting := s.power.waiting.filter (fun v => !l.contains v), admitted := s.power.admitted ++ l })
    ∧ (t ∈ s.power.admitted → s.tileSupplied t = true →
      ∃ u, exec (.tileWakeDone t) s = .next u ∧ goes tpRUN u ∧ u.power = { s.power with admitted := s.power.admitted.filter (· != t) }
        ∧ OnlyRegs { s with power := u.power } u [F.PWR_CLU_TILES (t / 8)])

/-- R487, R495 to R502: the selection of counters, freezing and resuming, and the claim of the capture buffer. The model's choices it
rests on: log entries 62 and 63. -/
def Obligations.FreezeAndCountersAct : Prop :=
  ∀ (m k scope inst event t : Nat) (s : State),
    let logs (code : Nat) (u : State) : Prop := s.g F.DBG_ERRLOG_VALID = 0 → u.g F.DBG_ERRLOG_CODE = code
    let buffer := s.ownerOf 1 0
    let frees (owner : Nat) (l : List OwnerEntry) : Prop :=
      (buffer = none → l = s.claims ++ [⟨1, 0, owner, 0⟩]) ∧ (∀ e, buffer = some e → l = s.claims)
    let may (owner : Nat) : Prop := ∀ e, buffer = some e → e.owner = owner ∧ e.arg = 0
    s.powered = true → Settled s →
    (k < 64 →
      let sel : List (Fld × Nat) := [(F.DBG_CTR_SEL_INSTANCE k, inst % 2 ^ 9), (F.DBG_CTR_SEL_EVENT k, event % 2 ^ 16)]
      (eventOk event inst = true → s.stepOpen = false → ∃ u, exec (.counterSelect false k scope inst event) s = .next u
        ∧ (∀ e ∈ sel, u.g e.1 = e.2) ∧ u.g (F.DBG_CTR_STEP_COUNT k) = 0 ∧ u.g (F.DBG_CTR_RUN_COUNT k) = 0 ∧ u.g (F.DBG_CTR_ABORTED_COUNT k) = 0
        ∧ KeepsRegs s u (sel.map (·.1) ++ [F.DBG_CTR_STEP_COUNT k, F.DBG_CTR_RUN_COUNT k, F.DBG_CTR_ABORTED_COUNT k])
        ∧ { u with fld := s.fld, images := s.images } = s)
      ∧ (eventOk event inst = true → s.stepOpen = true → ∃ u, exec (.counterSelect false k scope inst event) s = .next u
        ∧ (∀ e ∈ sel, e ∈ u.shadow) ∧ { u with shadow := s.shadow } = s)
      ∧ (eventOk event inst = false → ∃ u, exec (.counterSelect false k scope inst event) s = .next u ∧ logs 0x0C01 u
        ∧ ∀ e ∈ sel, u.g e.1 = s.g e.1))
    ∧ (k < 8 →
      let sel : List (Fld × Nat) :=
        [(F.DBG_CMD_SEL_SCOPE k, scope % 2 ^ 3), (F.DBG_CMD_SEL_INSTANCE k, inst % 2 ^ 9), (F.DBG_CMD_SEL_EVENT k, event % 2 ^ 16)]
      (eventOk event inst = true → scope ≤ 4 → s.stepOpen = false → ∃ u, exec (.counterSelect true k scope inst event) s = .next u
        ∧ (∀ e ∈ sel, u.g e.1 = e.2) ∧ KeepsRegs s u (sel.map (·.1)) ∧ { u with fld := s.fld, images := s.images } = s)
      ∧ (eventOk event inst = true → scope ≤ 4 → s.stepOpen = true → ∃ u, exec (.counterSelect true k scope inst event) s = .next u
        ∧ (∀ e ∈ sel, e ∈ u.shadow) ∧ { u with shadow := s.shadow } = s)
      ∧ (eventOk event inst = false ∨ 4 < scope → ∃ u, exec (.counterSelect true k scope inst event) s = .next u ∧ logs 0x0C01 u
        ∧ ∀ e ∈ sel, u.g e.1 = s.g e.1))
    ∧ (m = 1 ∨ m = 2 → s.fromMaster m = true →
      (s.freezeState = fzIDLE → s.time + 10000 ≤ s.g F.DBG_FREEZE_AT_TIME → ∃ u, exec (.freezeArm m) s = .next u ∧ u.freezeState = fzARMED
        ∧ OnlyRegs s u [F.DBG_FREEZE_CTRL_STATE])
      ∧ (s.freezeState ≠ fzIDLE ∨ s.g F.DBG_FREEZE_AT_TIME < s.time + 10000 → ∃ u, exec (.freezeArm m) s = .next u ∧ logs 0x0C02 u
        ∧ u.freezeState = s.freezeState ∧ { u with fld := s.fld, reports := s.reports, msi := s.msi, outbox := s.outbox, host := s.host } = s
        ∧ KeepsRegs s u [F.DBG_ERRLOG_VALID, F.DBG_ERRLOG_OVERFLOW, F.DBG_ERRLOG_CODE, F.HIF_IRQ_CAUSE_CAUSE, F.NVS_HIST_DROPPED_COUNT])
      ∧ (s.freezeState = fzARMED → ∃ u, exec (.freezeDisarm m) s = .next u ∧ u.freezeState = fzIDLE ∧ OnlyRegs s u [F.DBG_FREEZE_CTRL_STATE])
      ∧ (s.freezeState ≠ fzARMED → exec (.freezeDisarm m) s = .next s))
    ∧ (m ≠ 1 → m ≠ 2 → exec (.freezeArm m) s = .next s ∧ exec (.freezeDisarm m) s = .next s)
    ∧ (s.freezeState = fzARMED → s.g F.DBG_FREEZE_AT_TIME ≤ s.time → ∃ u, exec .freezeEdge s = .next u ∧ u.frozen = true
      ∧ u.g F.DBG_FROZEN_AT_TIME = s.time % 2 ^ 64 ∧ (∀ p < 4, u.g (F.DBG_CUT_FLITS_COUNT p) = 0)
      ∧ (u.g F.HIF_IRQ_CAUSE_CAUSE).testBit 14 = true
      ∧ KeepsRegs s u ([F.DBG_FREEZE_CTRL_STATE, F.DBG_FROZEN_AT_TIME, F.HIF_IRQ_CAUSE_CAUSE] ++ (List.range 4).map F.DBG_CUT_FLITS_COUNT)
      ∧ { u with fld := s.fld, msi := s.msi, outbox := s.outbox, host := s.host } = s)
    ∧ (s.frozen = false ∨ s.time + 10000 ≤ t % 2 ^ 64 → ∃ u, exec (.resumeAtWrite t) s = .next u ∧ u.g F.DBG_RESUME_AT_TIME = t % 2 ^ 64
      ∧ OnlyRegs s u [F.DBG_RESUME_AT_TIME])
    ∧ (s.frozen = true → t % 2 ^ 64 < s.time + 10000 → ∃ u, exec (.resumeAtWrite t) s = .next u
      ∧ u.g F.DBG_RESUME_AT_TIME = s.g F.DBG_RESUME_AT_TIME ∧ logs 0x0C02 u)
    ∧ (s.frozen = true → s.g F.DBG_RESUME_AT_TIME ≠ 0 → s.g F.DBG_FREEZE_AT_TIME < s.g F.DBG_RESUME_AT_TIME →
        s.g F.DBG_RESUME_AT_TIME ≤ s.time → s.frozen'.flits = [] →
      let v := { s.set F.DBG_FREEZE_CTRL_STATE fzIDLE with frozen' := Frozen.init }
      (s.frozen'.writes = [] → exec .resume s = .next (v.raise 14))
      ∧ ∀ c ∈ [(Instr.stage 2, 1), (.check 2, 2), (.arm 2, 4), (.disarm 2, 8), (.discard 2, 16)], ∀ x,
          s.frozen'.writes = [(x, 0x20008, c.2)] → ∃ w, exec c.1 v = .next w ∧ exec .resume s = .next (w.raise 14))
    ∧ (s.g F.DBG_CAP_CTRL_LOG_EN = 0 →
      (may 2 → ∃ u, exec .digestLogEnable s = .next u ∧ u.g F.DBG_CAP_CTRL_LOG_EN = 1 ∧ frees 2 u.claims ∧ u.cap.bank0 = [] ∧ u.cap.bank1 = []
        ∧ u.g F.DBG_LOG_STATUS_OPEN_COUNT = 0 ∧ u.g F.DBG_LOG_STATUS_COMMITTED_COUNT = 0 ∧ u.g F.DBG_LOG_STATUS_COMMITTED_VALID = 0)
      ∧ (¬may 2 → ∃ u, exec .digestLogEnable s = .next u ∧ u.g F.DBG_CAP_CTRL_LOG_EN = 0 ∧ logs 0x0118 u ∧ u.claims = s.claims))
    ∧ (s.g F.DBG_CAP_CTRL_TRACE_EN = 0 →
      (may 3 → ∃ u, exec .traceEnable s = .next u ∧ u.g F.DBG_CAP_CTRL_TRACE_EN = 1 ∧ frees 3 u.claims ∧ u.cap = { s.cap with trace := [] }
        ∧ KeepsRegs s u [F.DBG_CAP_CTRL_TRACE_EN])
      ∧ (¬may 3 → ∃ u, exec .traceEnable s = .next u ∧ u.g F.DBG_CAP_CTRL_TRACE_EN = 0 ∧ logs 0x0118 u ∧ u.claims = s.claims))

/-- R507 to R512: a replay starts, gathers, runs, is compared and ends, or is cancelled. The model's choices it rests on: log entry 61. -/
def Obligations.ReplaysRun : Prop :=
  ∀ (m : Nat) (s : State),
    let logs (code : Nat) (u : State) : Prop := s.g F.DBG_ERRLOG_VALID = 0 → u.g F.DBG_ERRLOG_CODE = code
    let late (g : Nat) : Bool := (s.group g).elim false fun b => b.late
    let old := s.logBank true
    let new := s.logBank false
    let marked := new.map (markEntry late true old)
    let bad := ((marked ++ old.map (markEntry late false new)).filter fun e => e.flags == 1).length
    let n := s.g F.STEP_COMMITTED_NUMBER
    s.powered = true → Settled s → s.ring.jobs.length ≤ 4096 → (∀ x ∈ s.images.committed, rwbKey x.1 = true) →
        (∀ e, s.images.saved = some e → ∀ x ∈ e.1, rwbKey x.1 = true) →
    (m = 1 ∨ m = 2 → s.fromMaster m = true →
      (s.replayMay = false → ∃ u, exec (.replayStart m) s = .next u ∧ u.replayState = s.replayState
        ∧ u.g F.DBG_REPLAY_STATUS_CODE = 0x0C05 ∧ logs 0x0C05 u ∧ SameMem s u)
      ∧ (s.replayMay = true → s.red.held = [] → Unhindered s s.replayBegin → ∃ u, exec (.replayStart m) s = .next u ∧ u.replayState = rpGATHER
        ∧ u.g F.DBG_REPLAY_STATUS_CODE = 0 ∧ u.g F.DBG_REPLAY_STATUS_INCOMPLETE = 0 ∧ u.g F.DBG_REPLAY_STATUS_MISMATCHES = 0
        ∧ u.g F.DBG_DIVERGE_VALID = 0 ∧ u.images = { s.images with saved := some (s.rwbImage, s.stp.mbCount) }
        ∧ u.stp.mbCount = s.images.committedMb ∧ u.stepState = s.stepState ∧ u.g F.STEP_NUMBER_NUMBER = s.g F.STEP_NUMBER_NUMBER ∧ SameMem s u)
      ∧ (s.replayLive = true → ∃ u, exec (.replayCancel m) s = .next u ∧ u.replayState = rpCANCELLED ∧ u.g F.DBG_REPLAY_STATUS_CODE = 0x0C06
        ∧ logs 0x0C06 u ∧ u.images.saved = none ∧ (s.gather.kind = some 3 → u.gather = GatherCtl.init) ∧ SameMem s u)
      ∧ (s.replayLive = false → exec (.replayCancel m) s = .next s))
    ∧ (s.frozen = false → s.replayState = rpGATHER → s.gather.kind = none → s.red.held = [] → s.tilesSettled = true →
        (s.g F.ETH_ING_CTRL_EN = 0 ∨ s.g (F.ETH_ING_HALF_STEP (n % 2)) = n) →
      ∃ u, exec .replayGatherDone s = .next u ∧ u.replayState = rpRUNNING ∧ u.stepState = s.stepState ∧ SameMem s u
        ∧ ∀ t < 256, (u.tile t).flights = [] ∧ (∀ x, sramByte u t x = sramByte s t x)
          ∧ ∀ i < 2, s.hasProgram t i = true → t < (s.plan.elim 0 fun p => p.tiles.length) →
              u.seqState t i = seqISSUING ∧ u.pc t i = (s.plan.elim 0 fun p => p.entry t i) % 2 ^ 13)
    ∧ (s.frozen = false → s.replaying = true → s.g F.DBG_REPLAY_STATUS_INCOMPLETE ≠ 0 →
      ∃ u, exec .replayRunDone s = .next u ∧ u.replayState = rpDONE ∧ u.g F.DBG_REPLAY_STATUS_CODE = 0x0C08 ∧ logs 0x0C08 u
        ∧ (u.g F.HIF_IRQ_CAUSE_CAUSE).testBit 14 = true ∧ u.images.saved = none ∧ SameMem s u)
    ∧ (s.frozen = false → s.replayState = rpRUNNING → s.g F.DBG_REPLAY_STATUS_INCOMPLETE = 0 → s.streamsEnded = true → s.jobsReduced = true →
        s.replayUpdated = true →
      ∃ u, exec .replayRunDone s = .next u ∧ u.replayState = rpCOMPARING ∧ OnlyRegs s u [F.DBG_REPLAY_STATUS_STATE])
    ∧ (s.frozen = false → s.replayState = rpCOMPARING →
      ∃ u, exec .replayCompareDone s = .next u ∧ u.replayState = rpDONE ∧ u.g F.DBG_REPLAY_STATUS_MISMATCHES = bad % 2 ^ 32
        ∧ (u.g F.HIF_IRQ_CAUSE_CAUSE).testBit 14 = true ∧ u.images.saved = none ∧ SameMem s u
        ∧ (bad = 0 → u.g F.DBG_REPLAY_STATUS_CODE = s.g F.DBG_REPLAY_STATUS_CODE)
        ∧ (bad ≠ 0 → u.g F.DBG_REPLAY_STATUS_CODE = 0x0C07 ∧ logs 0x0C07 u)
        ∧ ∀ i, marked.findIdx? (fun e => e.flags == 1) = some i → u.g F.DBG_DIVERGE_VALID = 1 ∧ u.g F.DBG_DIVERGE_ENTRY = i % 2 ^ 18)

/-- R521: tile and cluster resets, asked for, refused and ended. The model's choices it rests on: log entry 76. -/
def Obligations.TileAndClusterResetsAct : Prop :=
  ∀ (m k j mask : Nat) (s : State),
    let a := 0x1000000 + (8 * k + j) * 0x10000
    s.powered = true → k < 32 →
    (m = 1 ∨ m = 2 → s.fromMaster m = true → mask % 256 ≠ 0 →
      (s.resetsMay = true → ∃ u, exec (.tileReset m k mask) s = .next u ∧ u.g (F.CLU_CTRL_CODE k) = 0
        ∧ (∀ i < 8, (u.g (F.CLU_CTRL_TILE_RESET k)).testBit i = ((s.g (F.CLU_CTRL_TILE_RESET k)).testBit i || mask.testBit i))
        ∧ OnlyRegs s u [F.CLU_CTRL_CODE k, F.CLU_CTRL_TILE_RESET k])
      ∧ (s.resetsMay = false → ∃ u, exec (.tileReset m k mask) s = .next u ∧ u.g (F.CLU_CTRL_CODE k) = 0x0205 ∧ OnlyRegs s u [F.CLU_CTRL_CODE k]))
    ∧ (m = 1 ∨ m = 2 → s.fromMaster m = true →
      (s.resetsMay = true → ∃ u, exec (.cluReset m k) s = .next u ∧ u.g (F.CLU_CTRL_CODE k) = 0 ∧ u.g (F.CLU_CTRL_CLU_RESET k) = 1
        ∧ (∀ n < 32, s.g (F.MBX_BIND_RECEIVER n) = 4 + k → u.g (F.MBX_CH_STATUS_FULL n) = 0 ∧ u.g (F.MBX_CH_DATA_WORD n) = 0)
        ∧ (∀ n < 32, s.g (F.MBX_CH_LOCK_HOLDER n) = 4 + k → u.g (F.MBX_CH_LOCK_HOLDER n) = 0)
        ∧ OnlyRegs s u (F.CLU_CTRL_CODE k :: F.CLU_CTRL_CLU_RESET k ::
            (List.range 32).flatMap fun n => [F.MBX_CH_STATUS_FULL n, F.MBX_CH_DATA_WORD n, F.MBX_CH_LOCK_HOLDER n]))
      ∧ (s.resetsMay = false → ∃ u, exec (.cluReset m k) s = .next u ∧ u.g (F.CLU_CTRL_CODE k) = 0x0205 ∧ OnlyRegs s u [F.CLU_CTRL_CODE k]))
    ∧ (j < 8 → (s.g (F.CLU_CTRL_TILE_RESET k)).testBit j = true → ∃ u, exec (.tileResetEnd k j) s = .next u
      ∧ u.tile (8 * k + j) = Tile.init ∧ OnlyTile (8 * k + j) s u ∧ u.mem = s.mem
      ∧ (∀ i < 8, (u.g (F.CLU_STATUS_UNLOADED k)).testBit i = (decide (i = j) || (s.g (F.CLU_STATUS_UNLOADED k)).testBit i))
      ∧ (∀ i < 8, (u.g (F.CLU_CTRL_TILE_RESET k)).testBit i = (decide (i ≠ j) && (s.g (F.CLU_CTRL_TILE_RESET k)).testBit i))
      ∧ (∀ f : Fld, f.dom = .tile → a ≤ keyOff f.key → keyOff f.key < a + 0x10000 → u.g f = f.rst))
    ∧ (s.g (F.CLU_CTRL_CLU_RESET k) ≠ 0 → ∃ u, exec (.cluResetEnd k) s = .next u ∧ u.g (F.CLU_CTRL_CLU_RESET k) = 0
      ∧ u.g (F.CLU_STATUS_UNLOADED k) = 255 ∧ u.g (F.CLU_STATUS_CTRL_AWAKE k) = 0 ∧ u.g (F.PWR_CLU_PLL k) = 2
      ∧ (∀ i < 8, u.tile (8 * k + i) = Tile.init ∧ u.tilePower (8 * k + i) = tpOFF)
      ∧ (∀ t, t / 8 ≠ k → u.tile t = s.tile t) ∧ u.mem = s.mem)

/-- R3 to R7, R515, R516: a register write acts by the access class of each field, by who writes it, and by its size; a write of a command
bit is that command. The model's choices it rests on: log entry 72. -/
def Obligations.RegisterWritesFollowTheirClass : Prop :=
  ∀ (m off len v k : Nat) (t : Bool) (l : List Byte) (s : State),
    let does (c : Instr) : Host.Outcome State Fault Refusal := .next (s.within fun w => afterCmd w (exec c w))
    s.powered = true → Settled s →
    (m = 1 → s.host.recovery = true →
      exec (.registerWrite m off len v t l) s =
        .next { s with host := { s.host with coming := s.host.coming ++ [.registerWrite off len v t l] } })
    ∧ ((m = 1 → s.host.recovery = false) → s.reaches m off = false ∨ off % len ≠ 0 ∨ (len ≠ 4 ∧ len ≠ 8) → exec (.registerWrite m off len v t l) s = .next s)
    ∧ (37 ≤ m → s.reaches m off = false)
    ∧ (∀ r f, regAt off = some r → f ∈ r.fieldsAt off →
      let u := s.writeField f v
      (f.acc = .ro → u = s)
      ∧ (f.acc = .rw → u.g f = v % 2 ^ f.w ∧ OnlyRegs s u [f])
      ∧ (f.acc = .rwb → s.stepOpen = false → u.g f = v % 2 ^ f.w)
      ∧ (f.acc = .rwb → s.stepOpen = true → { u with shadow := s.shadow } = s ∧ (f, v % 2 ^ f.w) ∈ u.shadow
        ∧ ∀ x, (f, x) ∈ u.shadow → x = v % 2 ^ f.w)
      ∧ (f.acc = .rwl → f.key ∉ s.locked → u.g f = v % 2 ^ f.w)
      ∧ (f.acc = .rwl → f.key ∈ u.locked ∧ (∀ x, u.writeField f x = u)
        ∧ ∀ cause keep, f.key ∉ (u.devReset cause keep).locked)
      ∧ (f.acc = .w1c → ∀ i < f.w, (u.g f).testBit i = ((s.g f).testBit i && !v.testBit i))
      ∧ (f.acc = .w1s → ∀ i < f.w, (u.g f).testBit i = ((s.g f).testBit i || v.testBit i)))
    ∧ (m = 1 ∨ m = 2 → s.fromMaster m = true → (m = 1 → s.host.recovery = false) →
      exec (.registerWrite m 0x10018 8 v t l) s = .next s
      ∧ exec (.registerWrite m 0xB0018 4 v t l) s = .next s
      ∧ (∃ u, exec (.registerWrite m 0xB0018 8 v t l) s = .next u ∧ u.g F.DBG_FREEZE_AT_TIME = v % 2 ^ 64 ∧ OnlyRegs s u [F.DBG_FREEZE_AT_TIME])
      ∧ (∃ u, exec (.registerWrite m 0x40010 8 v t l) s = .next u
        ∧ (∀ i < 48, (u.g F.HIF_IRQ_CAUSE_CAUSE).testBit i = ((s.g F.HIF_IRQ_CAUSE_CAUSE).testBit i && !v.testBit i))
        ∧ OnlyRegs s u [F.HIF_IRQ_CAUSE_CAUSE])
      ∧ (s.stepOpen = false → ∃ u, exec (.registerWrite m 0x10038 4 v t l) s = .next u ∧ u.g F.STEP_TIMEOUT_MS = v % 2 ^ 32
        ∧ KeepsRegs s u [F.STEP_TIMEOUT_MS] ∧ { u with fld := s.fld, images := s.images } = s)
      ∧ (s.stepOpen = true → ∃ u, exec (.registerWrite m 0x10038 4 v t l) s = .next u ∧ (F.STEP_TIMEOUT_MS, v % 2 ^ 32) ∈ u.shadow
        ∧ { u with shadow := s.shadow } = s)
      ∧ (F.MBX_BIND_LOCK_LOCKED.key ∉ s.locked → exec (.registerWrite m 0x30900 4 1 t l) s = does (.mbxBindLock m))
      ∧ (F.MBX_BIND_LOCK_LOCKED.key ∈ s.locked → exec (.registerWrite m 0x30900 4 v t l) s = .next s)
      ∧ (∀ c ∈ [(Instr.stage m, 1), (.check m, 2), (.arm m, 4), (.disarm m, 8), (.discard m, 16)],
          exec (.registerWrite m 0x20008 4 c.2 t l) s = does c.1)
      ∧ (s.frozen = false → ∃ u, exec (.registerWrite m 0x20008 4 3 t l) s = .next u ∧ u.g F.CFG_STATUS_LAST_CODE = 0x0119
        ∧ u.loaderState = s.loaderState)
      ∧ (k < 32 → exec (.registerWrite m (0x2000010 + 0x10000 * k) 4 0x100 t l) s = does (.cluReset m k)))
    ∧ (4 ≤ m → m ≤ 36 → k < 32 → exec (.registerWrite m (0x30000 + 0x40 * k) 8 v t l) s = does (.mailboxWrite m k v))

/-- A step takes the command at the front of the queue and runs it on the state with the queue's rest; with no command waiting it lets a
nanosecond of fabric time go by, which is the model's choice (log entry 2). The model's choices it rests on: log entries 2 and 69. -/
def Obligations.StepRunsTheFrontCommand : Prop :=
  (∀ (c : Instr) (rest : List Instr) (s : State), step { s with pending := c :: rest } = exec c { s with pending := rest })
  ∧ ∀ s : State, s.pending = [] →
    ∃ u, step s = .next u ∧ { u with time := s.time, slew := s.slew, sec := s.sec } = s
      ∧ u.sec = { s.sec with rested := s.sec.rested || (s.powered && s.jeoftIdle) }
      ∧ (s.powered = false → u = s)
      ∧ (s.powered = true → s.slew = Slew.init → u.time = (s.time + 1) % 2 ^ 64 ∧ u.slew = s.slew)

/-- Reset: every field of every register reads its reset value (where the spec gives none, the model's, log entry 10), memory lists
nothing and reads 0 (log entry 5), and the invariants hold. The model's choices it rests on: log entries 5 and 10. -/
def Obligations.ResetLeavesTheResetValues : Prop :=
  (∀ f : Fld, State.reset.g f = f.rst)
  ∧ Sound State.reset ∧ Lasting State.reset ∧ (∀ x, State.reset.mem.byte x = 0)
  ∧ State.reset.pending = [] ∧ State.reset.plan = none ∧ State.reset.powered = true
  ∧ State.reset.stepState = stCLOSED ∧ State.reset.g F.STEP_NUMBER_NUMBER = 1 ∧ State.reset.g F.STEP_COMMITTED_NUMBER = 0
  ∧ State.reset.loaderState = ldEMPTY ∧ State.reset.boot = bootROM ∧ State.reset.pins.perst = true
  ∧ State.reset.g F.PWR_LIMIT_WATTS = 4200
  ∧ ∀ t < 256, State.reset.tilePower t = tpOFF ∧ State.reset.tile t = Tile.init

/-- Every step keeps the canonical form of bonded memory. -/
def Obligations.MemoryStaysCanonical : Prop := ∀ s u : State, Sound s → step s = .next u → Sound u

/-- Every command completes from every state, every step answers a next state, and a step keeps what other statements take as premises: a
FAIL that has come is decided in its own command, and the tables of the block keep to what they are for. -/
def Obligations.EveryStepAnswersAndKeepsItsInvariants : Prop :=
  (∀ (c : Instr) (s : State), ∃ u, exec c s = .next u)
  ∧ ∀ s : State, Lasting s → ∃ u, step s = .next u ∧ Lasting u

/-- R245, R265 to R267, R272, R285, R296: a flit of each type, its CRC among its bytes, is read back from its 512 bytes as it was, every
field at every value that fits it, and the bytes from the words on a port's lanes, however the lanes' words come between one another. -/
def Obligations.HeadersAndFramesAreReadBack : Prop :=
  (∀ (h : Header) (l : List Byte), h.Fits → l.length = 480 →
    let b := flitBytes h l
    b.length = 512 ∧ headerOf b = h ∧ b.drop 32 = l ∧ leAt b 28 4 = crc32c (leBytes 32 h.word ++ l) ∧ crcOk b = true)
  ∧ (∀ f : Flit, f.hdr.Fits → f.payload.length = 120 → (∀ x ∈ f.payload, x < 2 ^ 32) → Flit.ofBytes f.bytes = f ∧ crcOk f.bytes = true)
  ∧ (∀ (ring seq : Nat) (f : StepFrame), f.Fits → StepFrame.ofBytes (f.bytes ring seq) = f ∧ crcOk (f.bytes ring seq) = true
    ∧ (headerOf (f.bytes ring seq)).type = 1 ∧ (headerOf (f.bytes ring seq)).seq = seq % 2 ^ 16)
  ∧ (∀ (ring epoch seq : Nat) (m : Member), m.Fits → Member.ofBytes (m.bytes ring epoch seq) = m ∧ crcOk (m.bytes ring epoch seq) = true
    ∧ (headerOf (m.bytes ring epoch seq)).type = 3 ∧ (headerOf (m.bytes ring epoch seq)).epoch = epoch % 2 ^ 16)
  ∧ (∀ (ring : Nat) (f : TimeFlit), f.Fits → TimeFlit.ofBytes (f.bytes ring) = f ∧ (headerOf (f.bytes ring)).type = 2)
  ∧ (∀ (ring : Nat) (c : LinkControl), c.Fits → LinkControl.ofBytes (c.bytes ring) = c ∧ (headerOf (c.bytes ring)).type = 4)
  ∧ (∀ (lanes : List Nat) (w : Nat) (b : List Byte) (l : List (Nat × Nat)), b.length = 512 →
    (∀ x, l.filter (fun e => e.1 == x) = (stripe lanes w b).filter fun e => e.1 == x) → unstripe lanes 16 w l = some b)
end

