-- ==== Sys2Proof/Laws/Sparse.lean ====
section
/-!
SUPPORT. Laws of the tables with a default: what a read gives after a write, and that a write keeps the canonical form.
-/
namespace Sys2Proof.Machine

variable {α : Type}

@[simp] theorem Sparse.get_nil (d : α) (k : Nat) : Sparse.get d k [] = d := rfl

theorem Sparse.get_cons (d : α) (k k' : Nat) (v : α) (r : Sparse α) :
    Sparse.get d k ((k', v) :: r) = if k' = k then v else Sparse.get d k r := rfl

theorem Sparse.get_ins_same (d : α) (k : Nat) (v : α) (l : Sparse α) (h : ∀ e ∈ l, e.1 ≠ k) :
    Sparse.get d k (Sparse.ins k v l) = v := by
  induction l with
  | nil => simp [Sparse.ins, Sparse.get]
  | cons e r ih =>
    obtain ⟨k', v'⟩ := e
    have hk : k' ≠ k := h (k', v') (by simp)
    by_cases hlt : k < k'
    · simp [Sparse.ins, hlt, Sparse.get]
    · simp [Sparse.ins, hlt, Sparse.get, hk, ih fun e he => h e (by simp [he])]

theorem Sparse.get_ins_ne (d : α) (k j : Nat) (v : α) (l : Sparse α) (h : j ≠ k) :
    Sparse.get d j (Sparse.ins k v l) = Sparse.get d j l := by
  induction l with
  | nil => simp [Sparse.ins, Sparse.get, h.symm]
  | cons e r ih =>
    obtain ⟨k', v'⟩ := e
    by_cases hlt : k < k'
    · simp [Sparse.ins, hlt, Sparse.get, h.symm]
    · simp [Sparse.ins, hlt, Sparse.get, ih]

theorem Sparse.get_del_same (d : α) (k : Nat) (l : Sparse α) : Sparse.get d k (Sparse.del k l) = d := by
  induction l with
  | nil => rfl
  | cons e r ih =>
    obtain ⟨k', v'⟩ := e
    by_cases hk : k' = k
    · simp [Sparse.del, hk, ih]
    · simp [Sparse.del, hk, Sparse.get, ih]

theorem Sparse.get_del_ne (d : α) (k j : Nat) (l : Sparse α) (h : j ≠ k) :
    Sparse.get d j (Sparse.del k l) = Sparse.get d j l := by
  induction l with
  | nil => rfl
  | cons e r ih =>
    obtain ⟨k', v'⟩ := e
    by_cases hk : k' = k
    · subst hk; simp [Sparse.del, Sparse.get, ih, h.symm]
    · simp [Sparse.del, hk, Sparse.get, ih]

theorem Sparse.del_ne (k : Nat) (l : Sparse α) : ∀ e ∈ Sparse.del k l, e.1 ≠ k := by
  induction l with
  | nil => simp [Sparse.del]
  | cons e r ih =>
    obtain ⟨k', v'⟩ := e
    by_cases hk : k' = k
    · simpa [Sparse.del, hk] using ih
    · simpa [Sparse.del, hk] using ih

theorem Sparse.del_sub (k : Nat) (l : Sparse α) : ∀ e ∈ Sparse.del k l, e ∈ l := by
  induction l with
  | nil => simp [Sparse.del]
  | cons e r ih =>
    obtain ⟨k', v'⟩ := e
    intro e he
    by_cases hk : k' = k
    · exact List.mem_cons_of_mem _ (ih e (by simpa [Sparse.del, hk] using he))
    · simp only [Sparse.del, hk, if_false, List.mem_cons] at he
      rcases he with rfl | he
      · simp
      · exact List.mem_cons_of_mem _ (ih e he)

/-- A read after a write to the same key. -/
@[simp] theorem Sparse.get_put_same [DecidableEq α] (d : α) (k : Nat) (v : α) (l : Sparse α) :
    Sparse.get d k (Sparse.put d k v l) = v := by
  unfold Sparse.put
  split
  · simp [Sparse.get_del_same, *]
  · exact Sparse.get_ins_same _ _ _ _ (Sparse.del_ne k l)

/-- A read after a write to another key. -/
theorem Sparse.get_put_ne [DecidableEq α] (d d' : α) (k j : Nat) (v : α) (l : Sparse α) (h : j ≠ k) :
    Sparse.get d' j (Sparse.put d k v l) = Sparse.get d' j l := by
  unfold Sparse.put
  split
  · exact Sparse.get_del_ne _ _ _ _ h
  · rw [Sparse.get_ins_ne _ _ _ _ _ h, Sparse.get_del_ne _ _ _ _ h]

/-- The canonical form said of the list as a whole. -/
def Sparse.Canon (d : α) (l : Sparse α) : Prop := l.Pairwise (fun a b => a.1 < b.1) ∧ ∀ e ∈ l, e.2 ≠ d

theorem Sparse.wf_iff [DecidableEq α] (d : α) (l : Sparse α) : Sparse.wf d l = true ↔ Sparse.Canon d l := by
  induction l with
  | nil => simp [Sparse.wf, Sparse.Canon]
  | cons e r ih =>
    obtain ⟨k, v⟩ := e
    cases r with
    | nil => simp [Sparse.wf, Sparse.Canon]
    | cons e' r' =>
      obtain ⟨k', v'⟩ := e'
      simp only [Sparse.wf, Bool.and_eq_true, decide_eq_true_eq, bne_iff_ne, ih]
      simp only [Sparse.Canon, List.pairwise_cons, List.mem_cons, forall_eq_or_imp]
      constructor
      · rintro ⟨⟨h1, h2⟩, ⟨h3, h4⟩, h5, h6⟩
        exact ⟨⟨⟨h1, fun a ha => lt_trans h1 (h3 a ha)⟩, h3, h4⟩, h2, h5, h6⟩
      · rintro ⟨⟨⟨h1, _⟩, h3, h4⟩, h2, h5, h6⟩
        exact ⟨⟨h1, h2⟩, ⟨h3, h4⟩, h5, h6⟩

theorem Sparse.canon_del (d : α) (k : Nat) (l : Sparse α) (h : Sparse.Canon d l) : Sparse.Canon d (Sparse.del k l) := by
  induction l with
  | nil => exact h
  | cons e r ih =>
    obtain ⟨k', v'⟩ := e
    obtain ⟨h1, h2⟩ := h
    rw [List.pairwise_cons] at h1
    have hr : Sparse.Canon d (Sparse.del k r) := ih ⟨h1.2, fun e he => h2 e (by simp [he])⟩
    by_cases hk : k' = k
    · simpa [Sparse.del, hk] using hr
    · simp only [Sparse.del, hk, if_false]
      refine ⟨List.pairwise_cons.2 ⟨fun e he => h1.1 e (Sparse.del_sub k r e he), hr.1⟩, ?_⟩
      intro e he
      rcases List.mem_cons.1 he with rfl | he
      · exact h2 _ (by simp)
      · exact hr.2 e he

theorem Sparse.mem_ins (k : Nat) (v : α) (l : Sparse α) (e : Nat × α) (h : e ∈ Sparse.ins k v l) : e = (k, v) ∨ e ∈ l := by
  induction l with
  | nil => simpa [Sparse.ins] using h
  | cons a r ih =>
    obtain ⟨k', v'⟩ := a
    by_cases hlt : k < k'
    · simpa [Sparse.ins, hlt] using h
    · simp only [Sparse.ins, hlt, if_false, List.mem_cons] at h
      rcases h with rfl | h
      · simp
      · rcases ih h with h | h <;> simp [h]

theorem Sparse.canon_ins (d : α) (k : Nat) (v : α) (l : Sparse α) (hv : v ≠ d) (hk : ∀ e ∈ l, e.1 ≠ k)
    (h : Sparse.Canon d l) : Sparse.Canon d (Sparse.ins k v l) := by
  induction l with
  | nil => simp [Sparse.ins, Sparse.Canon, hv]
  | cons a r ih =>
    obtain ⟨k', v'⟩ := a
    obtain ⟨h1, h2⟩ := h
    rw [List.pairwise_cons] at h1
    by_cases hlt : k < k'
    · simp only [Sparse.ins, hlt, if_true]
      refine ⟨List.pairwise_cons.2 ⟨?_, List.pairwise_cons.2 h1⟩, ?_⟩
      · intro e he
        rcases List.mem_cons.1 he with rfl | he
        · exact hlt
        · exact lt_trans hlt (h1.1 e he)
      · intro e he
        rcases List.mem_cons.1 he with rfl | he
        · exact hv
        · exact h2 e he
    · simp only [Sparse.ins, hlt, if_false]
      have hr := ih (fun e he => hk e (by simp [he])) ⟨h1.2, fun e he => h2 e (by simp [he])⟩
      have hne : k' ≠ k := hk (k', v') (by simp)
      refine ⟨List.pairwise_cons.2 ⟨?_, hr.1⟩, ?_⟩
      · intro e he
        rcases Sparse.mem_ins k v r e he with rfl | he
        · show k' < k; omega
        · exact h1.1 e he
      · intro e he
        rcases List.mem_cons.1 he with rfl | he
        · exact h2 _ (by simp)
        · exact hr.2 e he

/-- A write keeps the canonical form. -/
theorem Sparse.canon_put [DecidableEq α] (d : α) (k : Nat) (v : α) (l : Sparse α) (h : Sparse.Canon d l) :
    Sparse.Canon d (Sparse.put d k v l) := by
  unfold Sparse.put
  split
  · exact Sparse.canon_del d k l h
  · exact Sparse.canon_ins d k v _ (by assumption) (Sparse.del_ne k l) (Sparse.canon_del d k l h)

theorem Sparse.wf_put [DecidableEq α] (d : α) (k : Nat) (v : α) (l : Sparse α) (h : Sparse.wf d l = true) :
    Sparse.wf d (Sparse.put d k v l) = true :=
  (Sparse.wf_iff d _).2 (Sparse.canon_put d k v l ((Sparse.wf_iff d l).1 h))

/-- Leaving entries out keeps the canonical form. -/
theorem Sparse.wf_filter [DecidableEq α] (d : α) (p : Nat × α → Bool) (l : Sparse α) (h : Sparse.wf d l = true) :
    Sparse.wf d (l.filter p) = true := by
  rw [Sparse.wf_iff] at h ⊢
  exact ⟨h.1.sublist List.filter_sublist, fun e he => h.2 e (List.mem_filter.1 he).1⟩

/-! Tables put together. -/

theorem Sparse.get_append_left (d : α) (x : Nat) (l m : Sparse α) (h : ∀ e ∈ m, e.1 ≠ x) :
    Sparse.get d x (l ++ m) = Sparse.get d x l := by
  induction l with
  | nil =>
    induction m with
    | nil => rfl
    | cons e m ih => 
      simp only [List.nil_append] at *
      rw [show e = (e.1, e.2) from rfl, Sparse.get_cons, if_neg (h e (by simp)), ih fun y hy => h y (by simp [hy])]
  | cons e l ih => rw [List.cons_append, show e = (e.1, e.2) from rfl, Sparse.get_cons, Sparse.get_cons, ih]

theorem Sparse.get_append_right (d : α) (x : Nat) (l m : Sparse α) (h : ∀ e ∈ l, e.1 ≠ x) :
    Sparse.get d x (l ++ m) = Sparse.get d x m := by
  induction l with
  | nil => rfl
  | cons e l ih =>
    rw [List.cons_append, show e = (e.1, e.2) from rfl, Sparse.get_cons, if_neg (h e (by simp)), ih fun y hy => h y (by simp [hy])]

theorem Sparse.get_filter (d : α) (x : Nat) (p : Nat → Bool) (l : Sparse α) (h : p x = true) :
    Sparse.get d x (l.filter fun e => p e.1) = Sparse.get d x l := by
  induction l with
  | nil => rfl
  | cons e l ih =>
    rw [List.filter_cons, show e = (e.1, e.2) from rfl]
    by_cases he : e.1 = x
    · subst he
      rw [if_pos h, Sparse.get_cons, Sparse.get_cons, if_pos rfl, if_pos rfl]
    · by_cases hp : p e.1 = true
      · rw [if_pos hp, Sparse.get_cons, Sparse.get_cons, if_neg he, if_neg he, ih]
      · rw [if_neg hp, Sparse.get_cons, if_neg he, ih]

end Sys2Proof.Machine
end

