-- ==== Sys2Proof/Laws/State.lean ====
section
/-!
SUPPORT. Laws of State: what each elementary update leaves, field by field, and what a register field reads after a write.
-/
namespace Sys2Proof.Machine

/-! State.set changes fld and nothing else. -/

@[simp] theorem State.set_shadow (s : State) (f : Fld) (v : Nat) : (s.set f v).shadow = s.shadow := rfl
@[simp] theorem State.set_locked (s : State) (f : Fld) (v : Nat) : (s.set f v).locked = s.locked := rfl
@[simp] theorem State.set_time (s : State) (f : Fld) (v : Nat) : (s.set f v).time = s.time := rfl
@[simp] theorem State.set_pending (s : State) (f : Fld) (v : Nat) : (s.set f v).pending = s.pending := rfl
@[simp] theorem State.set_outbox (s : State) (f : Fld) (v : Nat) : (s.set f v).outbox = s.outbox := rfl
@[simp] theorem State.set_reports (s : State) (f : Fld) (v : Nat) : (s.set f v).reports = s.reports := rfl
@[simp] theorem State.set_powered (s : State) (f : Fld) (v : Nat) : (s.set f v).powered = s.powered := rfl
@[simp] theorem State.set_plan (s : State) (f : Fld) (v : Nat) : (s.set f v).plan = s.plan := rfl
@[simp] theorem State.set_loader (s : State) (f : Fld) (v : Nat) : (s.set f v).loader = s.loader := rfl
@[simp] theorem State.set_sec (s : State) (f : Fld) (v : Nat) : (s.set f v).sec = s.sec := rfl
@[simp] theorem State.set_stp (s : State) (f : Fld) (v : Nat) : (s.set f v).stp = s.stp := rfl
@[simp] theorem State.set_images (s : State) (f : Fld) (v : Nat) : (s.set f v).images = s.images := rfl
@[simp] theorem State.set_tiles (s : State) (f : Fld) (v : Nat) : (s.set f v).tiles = s.tiles := rfl
@[simp] theorem State.set_mesh (s : State) (f : Fld) (v : Nat) : (s.set f v).mesh = s.mesh := rfl
@[simp] theorem State.set_mem (s : State) (f : Fld) (v : Nat) : (s.set f v).mem = s.mem := rfl
@[simp] theorem State.set_regions (s : State) (f : Fld) (v : Nat) : (s.set f v).regions = s.regions := rfl
@[simp] theorem State.set_thm (s : State) (f : Fld) (v : Nat) : (s.set f v).thm = s.thm := rfl
@[simp] theorem State.set_far (s : State) (f : Fld) (v : Nat) : (s.set f v).far = s.far := rfl
@[simp] theorem State.set_claims (s : State) (f : Fld) (v : Nat) : (s.set f v).claims = s.claims := rfl
@[simp] theorem State.set_ports (s : State) (f : Fld) (v : Nat) : (s.set f v).ports = s.ports := rfl
@[simp] theorem State.set_lines (s : State) (f : Fld) (v : Nat) : (s.set f v).lines = s.lines := rfl
@[simp] theorem State.set_lanes (s : State) (f : Fld) (v : Nat) : (s.set f v).lanes = s.lanes := rfl
@[simp] theorem State.set_slew (s : State) (f : Fld) (v : Nat) : (s.set f v).slew = s.slew := rfl
@[simp] theorem State.set_ringA (s : State) (f : Fld) (v : Nat) : (s.set f v).ringA = s.ringA := rfl
@[simp] theorem State.set_ringB (s : State) (f : Fld) (v : Nat) : (s.set f v).ringB = s.ringB := rfl
@[simp] theorem State.set_poll (s : State) (f : Fld) (v : Nat) : (s.set f v).poll = s.poll := rfl
@[simp] theorem State.set_red (s : State) (f : Fld) (v : Nat) : (s.set f v).red = s.red := rfl
@[simp] theorem State.set_upd (s : State) (f : Fld) (v : Nat) : (s.set f v).upd = s.upd := rfl
@[simp] theorem State.set_gather (s : State) (f : Fld) (v : Nat) : (s.set f v).gather = s.gather := rfl
@[simp] theorem State.set_ingest (s : State) (f : Fld) (v : Nat) : (s.set f v).ingest = s.ingest := rfl
@[simp] theorem State.set_num (s : State) (f : Fld) (v : Nat) : (s.set f v).num = s.num := rfl
@[simp] theorem State.set_cap (s : State) (f : Fld) (v : Nat) : (s.set f v).cap = s.cap := rfl
@[simp] theorem State.set_msi (s : State) (f : Fld) (v : Nat) : (s.set f v).msi = s.msi := rfl
@[simp] theorem State.set_frozen2 (s : State) (f : Fld) (v : Nat) : (s.set f v).frozen' = s.frozen' := rfl
@[simp] theorem State.set_host (s : State) (f : Fld) (v : Nat) : (s.set f v).host = s.host := rfl
@[simp] theorem State.set_eth (s : State) (f : Fld) (v : Nat) : (s.set f v).eth = s.eth := rfl
@[simp] theorem State.set_power (s : State) (f : Fld) (v : Nat) : (s.set f v).power = s.power := rfl
@[simp] theorem State.set_pins (s : State) (f : Fld) (v : Nat) : (s.set f v).pins = s.pins := rfl
@[simp] theorem State.set_waits (s : State) (f : Fld) (v : Nat) : (s.set f v).waits = s.waits := rfl
@[simp] theorem State.set_freeCount (s : State) (f : Fld) (v : Nat) : (s.set f v).freeCount = s.freeCount := rfl

/-! State.emit changes outbox and nothing else. -/

@[simp] theorem State.emit_fld (s : State) (o : Out) : (s.emit o).fld = s.fld := rfl
@[simp] theorem State.emit_shadow (s : State) (o : Out) : (s.emit o).shadow = s.shadow := rfl
@[simp] theorem State.emit_locked (s : State) (o : Out) : (s.emit o).locked = s.locked := rfl
@[simp] theorem State.emit_time (s : State) (o : Out) : (s.emit o).time = s.time := rfl
@[simp] theorem State.emit_pending (s : State) (o : Out) : (s.emit o).pending = s.pending := rfl
@[simp] theorem State.emit_reports (s : State) (o : Out) : (s.emit o).reports = s.reports := rfl
@[simp] theorem State.emit_powered (s : State) (o : Out) : (s.emit o).powered = s.powered := rfl
@[simp] theorem State.emit_plan (s : State) (o : Out) : (s.emit o).plan = s.plan := rfl
@[simp] theorem State.emit_loader (s : State) (o : Out) : (s.emit o).loader = s.loader := rfl
@[simp] theorem State.emit_sec (s : State) (o : Out) : (s.emit o).sec = s.sec := rfl
@[simp] theorem State.emit_stp (s : State) (o : Out) : (s.emit o).stp = s.stp := rfl
@[simp] theorem State.emit_images (s : State) (o : Out) : (s.emit o).images = s.images := rfl
@[simp] theorem State.emit_tiles (s : State) (o : Out) : (s.emit o).tiles = s.tiles := rfl
@[simp] theorem State.emit_mesh (s : State) (o : Out) : (s.emit o).mesh = s.mesh := rfl
@[simp] theorem State.emit_mem (s : State) (o : Out) : (s.emit o).mem = s.mem := rfl
@[simp] theorem State.emit_regions (s : State) (o : Out) : (s.emit o).regions = s.regions := rfl
@[simp] theorem State.emit_thm (s : State) (o : Out) : (s.emit o).thm = s.thm := rfl
@[simp] theorem State.emit_far (s : State) (o : Out) : (s.emit o).far = s.far := rfl
@[simp] theorem State.emit_claims (s : State) (o : Out) : (s.emit o).claims = s.claims := rfl
@[simp] theorem State.emit_ports (s : State) (o : Out) : (s.emit o).ports = s.ports := rfl
@[simp] theorem State.emit_lines (s : State) (o : Out) : (s.emit o).lines = s.lines := rfl
@[simp] theorem State.emit_lanes (s : State) (o : Out) : (s.emit o).lanes = s.lanes := rfl
@[simp] theorem State.emit_slew (s : State) (o : Out) : (s.emit o).slew = s.slew := rfl
@[simp] theorem State.emit_ringA (s : State) (o : Out) : (s.emit o).ringA = s.ringA := rfl
@[simp] theorem State.emit_ringB (s : State) (o : Out) : (s.emit o).ringB = s.ringB := rfl
@[simp] theorem State.emit_poll (s : State) (o : Out) : (s.emit o).poll = s.poll := rfl
@[simp] theorem State.emit_red (s : State) (o : Out) : (s.emit o).red = s.red := rfl
@[simp] theorem State.emit_upd (s : State) (o : Out) : (s.emit o).upd = s.upd := rfl
@[simp] theorem State.emit_gather (s : State) (o : Out) : (s.emit o).gather = s.gather := rfl
@[simp] theorem State.emit_ingest (s : State) (o : Out) : (s.emit o).ingest = s.ingest := rfl
@[simp] theorem State.emit_num (s : State) (o : Out) : (s.emit o).num = s.num := rfl
@[simp] theorem State.emit_cap (s : State) (o : Out) : (s.emit o).cap = s.cap := rfl
@[simp] theorem State.emit_msi (s : State) (o : Out) : (s.emit o).msi = s.msi := rfl
@[simp] theorem State.emit_frozen2 (s : State) (o : Out) : (s.emit o).frozen' = s.frozen' := rfl
@[simp] theorem State.emit_host (s : State) (o : Out) : (s.emit o).host = s.host := rfl
@[simp] theorem State.emit_eth (s : State) (o : Out) : (s.emit o).eth = s.eth := rfl
@[simp] theorem State.emit_power (s : State) (o : Out) : (s.emit o).power = s.power := rfl
@[simp] theorem State.emit_pins (s : State) (o : Out) : (s.emit o).pins = s.pins := rfl
@[simp] theorem State.emit_waits (s : State) (o : Out) : (s.emit o).waits = s.waits := rfl
@[simp] theorem State.emit_freeCount (s : State) (o : Out) : (s.emit o).freeCount = s.freeCount := rfl

/-! State.emitAll changes outbox and nothing else. -/

@[simp] theorem State.emitAll_fld (s : State) (l : List Out) : (s.emitAll l).fld = s.fld := rfl
@[simp] theorem State.emitAll_shadow (s : State) (l : List Out) : (s.emitAll l).shadow = s.shadow := rfl
@[simp] theorem State.emitAll_locked (s : State) (l : List Out) : (s.emitAll l).locked = s.locked := rfl
@[simp] theorem State.emitAll_time (s : State) (l : List Out) : (s.emitAll l).time = s.time := rfl
@[simp] theorem State.emitAll_pending (s : State) (l : List Out) : (s.emitAll l).pending = s.pending := rfl
@[simp] theorem State.emitAll_reports (s : State) (l : List Out) : (s.emitAll l).reports = s.reports := rfl
@[simp] theorem State.emitAll_powered (s : State) (l : List Out) : (s.emitAll l).powered = s.powered := rfl
@[simp] theorem State.emitAll_plan (s : State) (l : List Out) : (s.emitAll l).plan = s.plan := rfl
@[simp] theorem State.emitAll_loader (s : State) (l : List Out) : (s.emitAll l).loader = s.loader := rfl
@[simp] theorem State.emitAll_sec (s : State) (l : List Out) : (s.emitAll l).sec = s.sec := rfl
@[simp] theorem State.emitAll_stp (s : State) (l : List Out) : (s.emitAll l).stp = s.stp := rfl
@[simp] theorem State.emitAll_images (s : State) (l : List Out) : (s.emitAll l).images = s.images := rfl
@[simp] theorem State.emitAll_tiles (s : State) (l : List Out) : (s.emitAll l).tiles = s.tiles := rfl
@[simp] theorem State.emitAll_mesh (s : State) (l : List Out) : (s.emitAll l).mesh = s.mesh := rfl
@[simp] theorem State.emitAll_mem (s : State) (l : List Out) : (s.emitAll l).mem = s.mem := rfl
@[simp] theorem State.emitAll_regions (s : State) (l : List Out) : (s.emitAll l).regions = s.regions := rfl
@[simp] theorem State.emitAll_thm (s : State) (l : List Out) : (s.emitAll l).thm = s.thm := rfl
@[simp] theorem State.emitAll_far (s : State) (l : List Out) : (s.emitAll l).far = s.far := rfl
@[simp] theorem State.emitAll_claims (s : State) (l : List Out) : (s.emitAll l).claims = s.claims := rfl
@[simp] theorem State.emitAll_ports (s : State) (l : List Out) : (s.emitAll l).ports = s.ports := rfl
@[simp] theorem State.emitAll_lines (s : State) (l : List Out) : (s.emitAll l).lines = s.lines := rfl
@[simp] theorem State.emitAll_lanes (s : State) (l : List Out) : (s.emitAll l).lanes = s.lanes := rfl
@[simp] theorem State.emitAll_slew (s : State) (l : List Out) : (s.emitAll l).slew = s.slew := rfl
@[simp] theorem State.emitAll_ringA (s : State) (l : List Out) : (s.emitAll l).ringA = s.ringA := rfl
@[simp] theorem State.emitAll_ringB (s : State) (l : List Out) : (s.emitAll l).ringB = s.ringB := rfl
@[simp] theorem State.emitAll_poll (s : State) (l : List Out) : (s.emitAll l).poll = s.poll := rfl
@[simp] theorem State.emitAll_red (s : State) (l : List Out) : (s.emitAll l).red = s.red := rfl
@[simp] theorem State.emitAll_upd (s : State) (l : List Out) : (s.emitAll l).upd = s.upd := rfl
@[simp] theorem State.emitAll_gather (s : State) (l : List Out) : (s.emitAll l).gather = s.gather := rfl
@[simp] theorem State.emitAll_ingest (s : State) (l : List Out) : (s.emitAll l).ingest = s.ingest := rfl
@[simp] theorem State.emitAll_num (s : State) (l : List Out) : (s.emitAll l).num = s.num := rfl
@[simp] theorem State.emitAll_cap (s : State) (l : List Out) : (s.emitAll l).cap = s.cap := rfl
@[simp] theorem State.emitAll_msi (s : State) (l : List Out) : (s.emitAll l).msi = s.msi := rfl
@[simp] theorem State.emitAll_frozen2 (s : State) (l : List Out) : (s.emitAll l).frozen' = s.frozen' := rfl
@[simp] theorem State.emitAll_host (s : State) (l : List Out) : (s.emitAll l).host = s.host := rfl
@[simp] theorem State.emitAll_eth (s : State) (l : List Out) : (s.emitAll l).eth = s.eth := rfl
@[simp] theorem State.emitAll_power (s : State) (l : List Out) : (s.emitAll l).power = s.power := rfl
@[simp] theorem State.emitAll_pins (s : State) (l : List Out) : (s.emitAll l).pins = s.pins := rfl
@[simp] theorem State.emitAll_waits (s : State) (l : List Out) : (s.emitAll l).waits = s.waits := rfl
@[simp] theorem State.emitAll_freeCount (s : State) (l : List Out) : (s.emitAll l).freeCount = s.freeCount := rfl

/-! State.setTile changes tiles and nothing else. -/

@[simp] theorem State.setTile_fld (s : State) (t : Nat) (f : Tile → Tile) : (s.setTile t f).fld = s.fld := rfl
@[simp] theorem State.setTile_shadow (s : State) (t : Nat) (f : Tile → Tile) : (s.setTile t f).shadow = s.shadow := rfl
@[simp] theorem State.setTile_locked (s : State) (t : Nat) (f : Tile → Tile) : (s.setTile t f).locked = s.locked := rfl
@[simp] theorem State.setTile_time (s : State) (t : Nat) (f : Tile → Tile) : (s.setTile t f).time = s.time := rfl
@[simp] theorem State.setTile_pending (s : State) (t : Nat) (f : Tile → Tile) : (s.setTile t f).pending = s.pending := rfl
@[simp] theorem State.setTile_outbox (s : State) (t : Nat) (f : Tile → Tile) : (s.setTile t f).outbox = s.outbox := rfl
@[simp] theorem State.setTile_reports (s : State) (t : Nat) (f : Tile → Tile) : (s.setTile t f).reports = s.reports := rfl
@[simp] theorem State.setTile_powered (s : State) (t : Nat) (f : Tile → Tile) : (s.setTile t f).powered = s.powered := rfl
@[simp] theorem State.setTile_plan (s : State) (t : Nat) (f : Tile → Tile) : (s.setTile t f).plan = s.plan := rfl
@[simp] theorem State.setTile_loader (s : State) (t : Nat) (f : Tile → Tile) : (s.setTile t f).loader = s.loader := rfl
@[simp] theorem State.setTile_sec (s : State) (t : Nat) (f : Tile → Tile) : (s.setTile t f).sec = s.sec := rfl
@[simp] theorem State.setTile_stp (s : State) (t : Nat) (f : Tile → Tile) : (s.setTile t f).stp = s.stp := rfl
@[simp] theorem State.setTile_images (s : State) (t : Nat) (f : Tile → Tile) : (s.setTile t f).images = s.images := rfl
@[simp] theorem State.setTile_mesh (s : State) (t : Nat) (f : Tile → Tile) : (s.setTile t f).mesh = s.mesh := rfl
@[simp] theorem State.setTile_mem (s : State) (t : Nat) (f : Tile → Tile) : (s.setTile t f).mem = s.mem := rfl
@[simp] theorem State.setTile_regions (s : State) (t : Nat) (f : Tile → Tile) : (s.setTile t f).regions = s.regions := rfl
@[simp] theorem State.setTile_thm (s : State) (t : Nat) (f : Tile → Tile) : (s.setTile t f).thm = s.thm := rfl
@[simp] theorem State.setTile_far (s : State) (t : Nat) (f : Tile → Tile) : (s.setTile t f).far = s.far := rfl
@[simp] theorem State.setTile_claims (s : State) (t : Nat) (f : Tile → Tile) : (s.setTile t f).claims = s.claims := rfl
@[simp] theorem State.setTile_ports (s : State) (t : Nat) (f : Tile → Tile) : (s.setTile t f).ports = s.ports := rfl
@[simp] theorem State.setTile_lines (s : State) (t : Nat) (f : Tile → Tile) : (s.setTile t f).lines = s.lines := rfl
@[simp] theorem State.setTile_lanes (s : State) (t : Nat) (f : Tile → Tile) : (s.setTile t f).lanes = s.lanes := rfl
@[simp] theorem State.setTile_slew (s : State) (t : Nat) (f : Tile → Tile) : (s.setTile t f).slew = s.slew := rfl
@[simp] theorem State.setTile_ringA (s : State) (t : Nat) (f : Tile → Tile) : (s.setTile t f).ringA = s.ringA := rfl
@[simp] theorem State.setTile_ringB (s : State) (t : Nat) (f : Tile → Tile) : (s.setTile t f).ringB = s.ringB := rfl
@[simp] theorem State.setTile_poll (s : State) (t : Nat) (f : Tile → Tile) : (s.setTile t f).poll = s.poll := rfl
@[simp] theorem State.setTile_red (s : State) (t : Nat) (f : Tile → Tile) : (s.setTile t f).red = s.red := rfl
@[simp] theorem State.setTile_upd (s : State) (t : Nat) (f : Tile → Tile) : (s.setTile t f).upd = s.upd := rfl
@[simp] theorem State.setTile_gather (s : State) (t : Nat) (f : Tile → Tile) : (s.setTile t f).gather = s.gather := rfl
@[simp] theorem State.setTile_ingest (s : State) (t : Nat) (f : Tile → Tile) : (s.setTile t f).ingest = s.ingest := rfl
@[simp] theorem State.setTile_num (s : State) (t : Nat) (f : Tile → Tile) : (s.setTile t f).num = s.num := rfl
@[simp] theorem State.setTile_cap (s : State) (t : Nat) (f : Tile → Tile) : (s.setTile t f).cap = s.cap := rfl
@[simp] theorem State.setTile_msi (s : State) (t : Nat) (f : Tile → Tile) : (s.setTile t f).msi = s.msi := rfl
@[simp] theorem State.setTile_frozen2 (s : State) (t : Nat) (f : Tile → Tile) : (s.setTile t f).frozen' = s.frozen' := rfl
@[simp] theorem State.setTile_host (s : State) (t : Nat) (f : Tile → Tile) : (s.setTile t f).host = s.host := rfl
@[simp] theorem State.setTile_eth (s : State) (t : Nat) (f : Tile → Tile) : (s.setTile t f).eth = s.eth := rfl
@[simp] theorem State.setTile_power (s : State) (t : Nat) (f : Tile → Tile) : (s.setTile t f).power = s.power := rfl
@[simp] theorem State.setTile_pins (s : State) (t : Nat) (f : Tile → Tile) : (s.setTile t f).pins = s.pins := rfl
@[simp] theorem State.setTile_waits (s : State) (t : Nat) (f : Tile → Tile) : (s.setTile t f).waits = s.waits := rfl
@[simp] theorem State.setTile_freeCount (s : State) (t : Nat) (f : Tile → Tile) : (s.setTile t f).freeCount = s.freeCount := rfl

@[simp] theorem State.emit_outbox (s : State) (o : Out) : (s.emit o).outbox = s.outbox ++ [o] := rfl
@[simp] theorem State.emitAll_outbox (s : State) (l : List Out) : (s.emitAll l).outbox = s.outbox ++ l := rfl

/-! Registers. -/

@[simp] theorem State.g_set_same (s : State) (f : Fld) (v : Nat) : (s.set f v).g f = lowBits f.w v := by
  simp [State.g, State.set]

theorem State.g_set_ne (s : State) (f j : Fld) (v : Nat) (h : j.key ≠ f.key) : (s.set f v).g j = s.g j := by
  simp [State.g, State.set, Sparse.get_put_ne _ _ _ _ _ _ h]

@[simp] theorem State.g_emit (s : State) (o : Out) (f : Fld) : (s.emit o).g f = s.g f := rfl
@[simp] theorem State.g_emitAll (s : State) (l : List Out) (f : Fld) : (s.emitAll l).g f = s.g f := rfl
@[simp] theorem State.g_setTile (s : State) (t : Nat) (x : Tile → Tile) (f : Fld) : (s.setTile t x).g f = s.g f := rfl

/-- A register field reads the same in two states with the same register file. -/
theorem State.g_congr {s t : State} (h : t.fld = s.fld) (f : Fld) : t.g f = s.g f := by
  simp [State.g, h]

@[simp] theorem State.g_addTo_same (s : State) (f : Fld) (n : Nat) : (s.addTo f n).g f = lowBits f.w (s.g f + n) :=
  State.g_set_same s f _
theorem State.g_addTo_ne (s : State) (f j : Fld) (n : Nat) (h : j.key ≠ f.key) : (s.addTo f n).g j = s.g j :=
  State.g_set_ne s f j _ h
@[simp] theorem State.g_inc_same (s : State) (f : Fld) : (s.inc f).g f = lowBits f.w (s.g f + 1) :=
  State.g_set_same s f _
theorem State.g_inc_ne (s : State) (f j : Fld) (h : j.key ≠ f.key) : (s.inc f).g j = s.g j :=
  State.g_set_ne s f j _ h
theorem State.g_setBit_ne (s : State) (f j : Fld) (i : Nat) (b : Bool) (h : j.key ≠ f.key) :
    (s.setBit f i b).g j = s.g j :=
  State.g_set_ne s f j _ h

/-- A list of writes leaves every field that none of them names. -/
theorem State.g_setAll_ne (l : List (Fld × Nat)) (s : State) (j : Fld) (h : ∀ e ∈ l, j.key ≠ e.1.key) :
    (s.setAll l).g j = s.g j := by
  induction l generalizing s with
  | nil => rfl
  | cons e r ih =>
    obtain ⟨f, v⟩ := e
    show ((s.set f v).setAll r).g j = s.g j
    rw [ih (s.set f v) fun e he => h e (by simp [he]), State.g_set_ne s f j v (h (f, v) (by simp))]

/-- A list of writes changes the register file only. -/
theorem State.setAll_fld (l : List (Fld × Nat)) (s : State) : s.setAll l = { s with fld := (s.setAll l).fld } := by
  induction l generalizing s with
  | nil => rfl
  | cons e r ih =>
    obtain ⟨f, v⟩ := e
    show (s.set f v).setAll r = _
    rw [ih (s.set f v)]
    rfl

/-! Tiles. -/

@[simp] theorem State.tile_setTile_same (s : State) (t : Nat) (f : Tile → Tile) : (s.setTile t f).tile t = f (s.tile t) := by
  simp [State.tile, State.setTile]

theorem State.tile_setTile_ne (s : State) (t u : Nat) (f : Tile → Tile) (h : u ≠ t) : (s.setTile t f).tile u = s.tile u := by
  simp [State.tile, State.setTile, Sparse.get_put_ne _ _ _ _ _ _ h]

@[simp] theorem State.tile_set (s : State) (f : Fld) (v t : Nat) : (s.set f v).tile t = s.tile t := rfl
@[simp] theorem State.tile_emit (s : State) (o : Out) (t : Nat) : (s.emit o).tile t = s.tile t := rfl

end Sys2Proof.Machine
end

