-- ==== Sys2Proof/Laws/Ops.lean ====
section
/-!
SUPPORT. Laws of the shared operations: what a command's answer is, and what the operations of every family leave.
-/
namespace Sys2Proof.Machine

/-- The fold that evaluates at every byte is the fold. -/
theorem foldBytes_eq (f : Nat → Byte → Nat) (c : Nat) (l : List Byte) : foldBytes f c l = l.foldl f c := by
  induction l generalizing c with
  | nil => cases c <;> rfl
  | cons b l ih => cases c <;> exact ih _

/-! Answers. -/

/-- A state that marks no access as one that waits stands as it is (log entry 32). -/
theorem State.orWait_same {t s : State} (h : t.waits = s.waits) : t.orWait s = t := by simp [State.orWait, h]

theorem doIf_true {c : Bool} (h : c = true) (s : State) (k : State → State) (hw : (k s).waits = s.waits) : doIf c s k = .next (k s) := by
  simp [doIf, h, State.orWait_same hw]

/-- A command that is not enabled changes nothing (log entry 3). -/
theorem doIf_false {c : Bool} (h : c = false) (s : State) (k : State → State) : doIf c s k = .next s := by simp [doIf, h]

/-- Nothing that is carried out within another command waits: its effect alone. -/
theorem State.within_same {s : State} {f : State → State} (h : (f { s with waits := s.waits ++ [[]] }).waits = s.waits ++ [[]]) :
    s.within f = { f { s with waits := s.waits ++ [[]] } with waits := s.waits } := by simp [State.within, h]

theorem settle_none {s : State} (h : s.stp.due = none) : s.settle = s := by
  simp [State.settle, h]

/-- A command that leaves no decision due and waits for nothing answers its effect. -/
theorem act_next {c : Bool} (h : c = true) (s : State) (k : State → State) (hd : (k s).stp.due = none)
    (hw : (k s).waits = s.waits) : act c s k = .next (k s) := by
  rw [act, doIf_true h _ _ (by rw [settle_none hd]; exact hw), settle_none hd]

theorem act_false {c : Bool} (h : c = false) (s : State) (k : State → State) : act c s k = .next s := doIf_false h s _

/-! What moves a stream changes no more than registers. -/

theorem State.seqTo_fld (s : State) (t n st : Nat) : s.seqTo t n st = { s with fld := (s.seqTo t n st).fld } := rfl
theorem State.stall_fld (s : State) (t n r : Nat) : s.stall t n r = { s with fld := (s.stall t n r).fld } := rfl
theorem State.setPc_fld (s : State) (t n i : Nat) : s.setPc t n i = { s with fld := (s.setPc t n i).fld } := rfl

/-- An error report goes to the queue, or is counted (R427, R451). -/
theorem State.report_cases (s : State) (code unit detail : Nat) :
    s.report code unit detail = s.inc F.NVS_HIST_DROPPED_COUNT
      ∨ s.report code unit detail = { s with reports := s.reports ++ [⟨s.time, code, unit, s.g F.STEP_NUMBER_NUMBER, detail⟩] } := by
  unfold State.report
  split
  · exact .inl rfl
  · exact .inr rfl

/-! Event counters. -/

theorem countCtr_only (ev inst n k : Nat) (s : State) : ∃ l, countCtr ev inst n k s = { s with fld := l } := by
  induction k with
  | zero => exact ⟨s.fld, rfl⟩
  | succ k ih =>
    obtain ⟨l, hl⟩ := ih
    simp only [countCtr, hl]
    split
    · exact ⟨_, rfl⟩
    · exact ⟨l, rfl⟩

theorem countCmd_only (ev inst n : Nat) (busy : Nat → Bool) (k : Nat) (s : State) :
    ∃ l, countCmd ev inst n busy k s = { s with fld := l } := by
  induction k with
  | zero => exact ⟨s.fld, rfl⟩
  | succ k ih =>
    obtain ⟨l, hl⟩ := ih
    simp only [countCmd, hl]
    split
    · exact ⟨_, rfl⟩
    · exact ⟨l, rfl⟩

theorem countCtr_ne (ev inst n : Nat) (f : Fld) (k : Nat) (s : State) (h : ∀ j < k, f.key ≠ (F.DBG_CTR_STEP_COUNT j).key) :
    (countCtr ev inst n k s).g f = s.g f := by
  induction k with
  | zero => rfl
  | succ k ih =>
    have ih := ih fun j hj => h j (by omega)
    simp only [countCtr]
    split
    · rw [State.g_addTo_ne _ _ _ _ (h k (by omega)), ih]
    · exact ih

theorem countCmd_ne (ev inst n : Nat) (busy : Nat → Bool) (f : Fld) (k : Nat) (s : State)
    (h : ∀ j < k, f.key ≠ (F.DBG_CMD_LIVE_COUNT j).key) : (countCmd ev inst n busy k s).g f = s.g f := by
  induction k with
  | zero => rfl
  | succ k ih =>
    have ih := ih fun j hj => h j (by omega)
    simp only [countCmd]
    split
    · rw [State.g_addTo_ne _ _ _ _ (h k (by omega)), ih]
    · exact ih

/-- Counting changes the register file only. -/
theorem State.count_only (s : State) (ev inst n : Nat) : ∃ l, s.count ev inst n = { s with fld := l } := by
  simp only [State.count]
  split
  · exact ⟨s.fld, rfl⟩
  · split
    · obtain ⟨l, hl⟩ := countCtr_only ev inst n 64 s
      rw [hl]
      exact (countCmd_only _ _ _ _ _ _).imp fun l' h => h
    · exact countCmd_only _ _ _ _ _ _

/-- Counting changes only the counters. -/
theorem State.g_count_ne (s : State) (ev inst n : Nat) (f : Fld) (h : ∀ x ∈ countFields, f.key ≠ x.key) :
    (s.count ev inst n).g f = s.g f := by
  have h1 : ∀ j < 64, f.key ≠ (F.DBG_CTR_STEP_COUNT j).key := fun j hj =>
    h _ (List.mem_append_left _ (List.mem_map.2 ⟨j, List.mem_range.2 hj, rfl⟩))
  have h2 : ∀ j < 8, f.key ≠ (F.DBG_CMD_LIVE_COUNT j).key := fun j hj =>
    h _ (List.mem_append_right _ (List.mem_map.2 ⟨j, List.mem_range.2 hj, rfl⟩))
  simp only [State.count]
  split
  · rfl
  · rw [countCmd_ne _ _ _ _ _ _ _ h2]
    split
    · rw [countCtr_ne _ _ _ _ _ _ h1]
    · rfl

/-! Logs, interrupts and reports. -/

theorem State.setAll_only (l : List (Fld × Nat)) (s : State) : ∃ m, s.setAll l = { s with fld := m } :=
  ⟨_, s.setAll_fld l⟩

/-- What goes to the host is sent, or waits for the link (R397). -/
theorem State.toHost_only (s : State) (l : List Out) : ∃ o h, s.toHost l = { s with outbox := o, host := h } := by
  unfold State.toHost
  split
  · exact ⟨_, s.host, rfl⟩
  · exact ⟨s.outbox, _, rfl⟩

/-- A message on its way changes the outbox, what waits for the link, or MSI-X's own state. -/
theorem State.message_only (s : State) (v : Nat) : ∃ o m h, s.message v = { s with outbox := o, msi := m, host := h } := by
  simp only [State.message]
  split
  · exact ⟨s.outbox, _, s.host, rfl⟩
  · obtain ⟨o, h, e⟩ := s.toHost_only [.msix v]
    exact ⟨o, s.msi, h, e⟩

/-- Raising a vector sets its bit of HIF_IRQ_CAUSE and sends at most one message (R396). -/
theorem State.raise_only (s : State) (v : Nat) : ∃ l o m h, s.raise v = { s with fld := l, outbox := o, msi := m, host := h }
    ∧ ∀ f : Fld, f.key ≠ F.HIF_IRQ_CAUSE_CAUSE.key → (s.raise v).g f = s.g f := by
  unfold State.raise
  split
  · exact ⟨s.fld, s.outbox, s.msi, s.host, rfl, fun _ _ => rfl⟩
  · obtain ⟨o, m, q, h⟩ := (s.setBit F.HIF_IRQ_CAUSE_CAUSE v true).message_only v
    refine ⟨_, o, m, q, h, fun f hf => ?_⟩
    rw [h]
    exact State.g_setBit_ne s _ f v true hf

/-- An error report changes the queue of reports, or the count of dropped ones (R427, R451). -/
theorem State.report_only (s : State) (code unit detail : Nat) :
    ∃ l r, s.report code unit detail = { s with fld := l, reports := r }
      ∧ ∀ f : Fld, f.key ≠ F.NVS_HIST_DROPPED_COUNT.key → (s.report code unit detail).g f = s.g f := by
  rcases s.report_cases code unit detail with h | h
  · exact ⟨_, s.reports, h, fun f hf => by rw [h]; exact State.g_inc_ne s _ f hf⟩
  · exact ⟨s.fld, _, h, fun f _ => by rw [h]; rfl⟩

/-- A log that latches changes the register file only, in its own fields. -/
theorem State.latch_only (s : State) (valid overflow : Fld) (rec : List (Fld × Nat)) :
    ∃ l, s.latch valid overflow rec = { s with fld := l }
      ∧ ∀ f : Fld, f.key ≠ valid.key → f.key ≠ overflow.key → (∀ e ∈ rec, f.key ≠ e.1.key) →
          (s.latch valid overflow rec).g f = s.g f := by
  unfold State.latch
  split
  · exact ⟨_, rfl, fun f _ h _ => State.g_set_ne s _ f 1 h⟩
  · obtain ⟨m, h⟩ := State.setAll_only rec (s.set valid 1)
    refine ⟨m, h, fun f h1 _ h3 => ?_⟩
    rw [State.g_setAll_ne rec _ f h3, State.g_set_ne s _ f 1 h1]

/-- The debug error log leaves every register of the tiles, and all but registers, outputs and reports. -/
theorem State.logDbg_only (s : State) (code : Nat) :
    ∃ l r o m q, s.logDbg code = { s with fld := l, reports := r, outbox := o, msi := m, host := q }
      ∧ ∀ f : Fld, 0x1000000 ≤ f.off → (s.logDbg code).g f = s.g f := by
  obtain ⟨l1, h1, g1⟩ := s.latch_only F.DBG_ERRLOG_VALID F.DBG_ERRLOG_OVERFLOW [(F.DBG_ERRLOG_CODE, code)]
  obtain ⟨l2, r, h2, g2⟩ := (s.latch F.DBG_ERRLOG_VALID F.DBG_ERRLOG_OVERFLOW [(F.DBG_ERRLOG_CODE, code)]).report_only code 0 0
  obtain ⟨l3, o, m, q, h3, g3⟩ := State.raise_only
    ((s.latch F.DBG_ERRLOG_VALID F.DBG_ERRLOG_OVERFLOW [(F.DBG_ERRLOG_CODE, code)]).report code 0 0) 14
  refine ⟨l3, r, o, m, q, ?_, fun f hf => ?_⟩
  · show State.raise _ 14 = _
    rw [h3, h2, h1]
  · show (State.raise _ 14).g f = _
    rw [g3, g2, g1]
    · simp only [Fld.key, F.DBG_ERRLOG_VALID, Dom.code]; omega
    · simp only [Fld.key, F.DBG_ERRLOG_OVERFLOW, Dom.code]; omega
    · intro e he
      simp only [List.mem_singleton] at he
      subst he
      simp only [Fld.key, F.DBG_ERRLOG_CODE, Dom.code]; omega
    · simp only [Fld.key, F.NVS_HIST_DROPPED_COUNT, Dom.code]; omega
    · simp only [Fld.key, F.HIF_IRQ_CAUSE_CAUSE, Dom.code]; omega

/-- An entry of the digest log (R505). -/
theorem State.logEntry_only (s : State) (e : LogEntry) :
    ∃ l c r o m q, s.logEntry e = { s with fld := l, cap := c, reports := r, outbox := o, msi := m, host := q }
      ∧ ∀ f : Fld, 0x1000000 ≤ f.off → (s.logEntry e).g f = s.g f := by
  have hk : ∀ f : Fld, 0x1000000 ≤ f.off → f.key ≠ F.DBG_LOG_STATUS_OPEN_FULL.key ∧ f.key ≠ F.DBG_LOG_STATUS_OPEN_COUNT.key := by
    intro f hf
    constructor
    · simp only [Fld.key, F.DBG_LOG_STATUS_OPEN_FULL, Dom.code]; omega
    · simp only [Fld.key, F.DBG_LOG_STATUS_OPEN_COUNT, Dom.code]; omega
  simp only [State.logEntry]
  split
  · exact ⟨s.fld, s.cap, s.reports, s.outbox, s.msi, s.host, rfl, fun _ _ => rfl⟩
  · split
    · split
      · exact ⟨_, s.cap, s.reports, s.outbox, s.msi, s.host, rfl, fun f hf => State.g_set_ne s _ f 1 (hk f hf).1⟩
      · obtain ⟨l, r, o, m, q, h, g⟩ := State.logDbg_only
          { s.set F.DBG_LOG_STATUS_OPEN_FULL 1 with cap := { (s.set F.DBG_LOG_STATUS_OPEN_FULL 1).cap with fullLogged := true } } 0x0C04
        refine ⟨l, _, r, o, m, q, h, fun f hf => (g f hf).trans ?_⟩
        exact State.g_set_ne s _ f 1 (hk f hf).1
    · split
      · exact ⟨_, _, s.reports, s.outbox, s.msi, s.host, rfl, fun f hf => State.g_inc_ne s _ f (hk f hf).2⟩
      · exact ⟨_, _, s.reports, s.outbox, s.msi, s.host, rfl, fun f hf => State.g_inc_ne s _ f (hk f hf).2⟩

/-- A trace record goes into the capture buffer (R506). -/
theorem State.traceRec_only (s : State) (kind inst value : Nat) : ∃ c, s.traceRec kind inst value = { s with cap := c } := by
  simp only [State.traceRec]
  split
  · exact ⟨_, rfl⟩
  · exact ⟨s.cap, rfl⟩

end Sys2Proof.Machine
end

