-- ==== Sys2Proof/Laws/Tile.lean ====
section
/-!
SUPPORT. Laws of the issue of tile instructions: what a tile command answers when its stream may issue, and what an instruction that
completes at issue leaves.
-/
namespace Sys2Proof.Machine

/-! Sectors named uncorrectable. -/

@[simp] theorem State.upset_fld (s : State) (t : Nat) (bad : List Nat) : (s.upset t bad).fld = s.fld := rfl
@[simp] theorem State.upset_plan (s : State) (t : Nat) (bad : List Nat) : (s.upset t bad).plan = s.plan := rfl
@[simp] theorem State.upset_stp (s : State) (t : Nat) (bad : List Nat) : (s.upset t bad).stp = s.stp := rfl
@[simp] theorem State.upset_waits (s : State) (t : Nat) (bad : List Nat) : (s.upset t bad).waits = s.waits := rfl
@[simp] theorem State.g_upset (s : State) (t : Nat) (bad : List Nat) (f : Fld) : (s.upset t bad).g f = s.g f :=
  State.g_congr (by simp) f
theorem State.upset_rest (s : State) (t : Nat) (bad : List Nat) :
    { s.upset t bad with fld := s.fld, tiles := s.tiles } = s := rfl
theorem State.upset_tile (s : State) (t : Nat) (bad : List Nat) :
    (s.upset t bad).tile t = { s.tile t with badSectors := ((s.upset t bad).tile t).badSectors, acked := true } := by
  simp [State.upset]
theorem State.upset_tile_ne (s : State) (t v : Nat) (bad : List Nat) (h : v ≠ t) : (s.upset t bad).tile v = s.tile v :=
  State.tile_setTile_ne s t v _ h
@[simp] theorem State.upset_stream (s : State) (t : Nat) (bad : List Nat) (n : Nat) :
    (s.upset t bad).stream t n = s.stream t n := by
  unfold State.stream
  rw [State.upset_tile]
  simp [Tile.stream]

/-! The arbiter. -/

theorem State.wordAt_congr {s u : State} (h : u.plan = s.plan) (t n i : Nat) : u.wordAt t n i = s.wordAt t n i := by
  simp [State.wordAt, h]
theorem State.nextWord_congr {s u : State} (hp : u.plan = s.plan) (hf : u.fld = s.fld) (t n : Nat) :
    u.nextWord t n = s.nextWord t n := by
  simp only [State.nextWord, State.wordAt, State.pc, hp, State.g_congr hf]
/-- What a grant leaves: the arbiter's count and nothing else. -/
theorem State.grant_eq (s : State) (t n : Nat) (g : Bool) : ∃ r, s.grant t n g = s.setTile t (fun x => { x with run := r }) ∨ s.grant t n g = s := by
  unfold State.grant
  split
  · split
    · exact ⟨0, .inl rfl⟩
    · refine ⟨(s.tile t).run + 1, .inl ?_⟩
      simp [State.setTile]
  · exact ⟨0, .inr rfl⟩

@[simp] theorem State.grant_fld (s : State) (t n : Nat) (g : Bool) : (s.grant t n g).fld = s.fld := by
  obtain ⟨r, h | h⟩ := s.grant_eq t n g <;> rw [h]; rfl
@[simp] theorem State.grant_plan (s : State) (t n : Nat) (g : Bool) : (s.grant t n g).plan = s.plan := by
  obtain ⟨r, h | h⟩ := s.grant_eq t n g <;> rw [h]; rfl
@[simp] theorem State.grant_stp (s : State) (t n : Nat) (g : Bool) : (s.grant t n g).stp = s.stp := by
  obtain ⟨r, h | h⟩ := s.grant_eq t n g <;> rw [h]; rfl
theorem State.grant_rest (s : State) (t n : Nat) (g : Bool) : { s.grant t n g with tiles := s.tiles } = s := by
  obtain ⟨r, h | h⟩ := s.grant_eq t n g <;> rw [h]; rfl
theorem State.grant_tile (s : State) (t n : Nat) (g : Bool) :
    (s.grant t n g).tile t = { s.tile t with run := ((s.grant t n g).tile t).run } := by
  obtain ⟨r, h | h⟩ := s.grant_eq t n g <;> rw [h] <;> simp
theorem State.grant_tile_ne (s : State) (t n v : Nat) (g : Bool) (h : v ≠ t) : (s.grant t n g).tile v = s.tile v := by
  obtain ⟨r, h' | h'⟩ := s.grant_eq t n g <;> rw [h']
  exact State.tile_setTile_ne s t v _ h
@[simp] theorem State.grant_stream (s : State) (t n m : Nat) (g : Bool) : (s.grant t n g).stream t m = s.stream t m := by
  unfold State.stream
  rw [State.grant_tile]
  simp [Tile.stream]
@[simp] theorem State.g_grant (s : State) (t n : Nat) (g : Bool) (f : Fld) : (s.grant t n g).g f = s.g f := State.g_congr (by simp) f

/-! Issue. -/

/-- A stream whose instruction may issue carries out that instruction's own rule. -/
theorem issueOp_carry {op t n w : Nat} {bad : List Nat} {s u : State} (h : Issues op t n w bad s) (hk : opKnown op = true) (rule : Rule)
    {v : Verdict} (hv : rule t n w (s.upset t bad) = v) (hu : (s.upset t bad).carry t n w v = u) (hd : u.stp.due = none)
    (hw : u.waits = s.waits) : issueOp op rule t n bad s = .next u := by
  have hn : (s.upset t bad).nextWord t n = w := (State.nextWord_congr rfl rfl t n).trans h.next
  have ha : (s.upset t bad).attempt rule t n = u := by simp [State.attempt, hn, h.granted, hv, hu]
  have hc : (s.tileMayIssue t && s.seqState t n == seqISSUING && (opOf (s.nextWord t n) == op || !opKnown (opOf (s.nextWord t n)))) = true := by
    simp [h.mayIssue, h.issuing, h.next, h.opcode]
  have he : ∀ b : Bool, b = true → (if !b then (s.upset t bad).tileFault t n cOPCODE else (s.upset t bad).attempt rule t n) = u :=
    fun b hb => by subst hb; exact ha
  unfold issueOp
  have hkn : opKnown (opOf (s.nextWord t n)) = true := by rw [h.next, h.opcode]; exact hk
  refine (act_next hc s _ ?_ ?_).trans (congrArg _ (he _ hkn))
  · rw [he _ hkn]; exact hd
  · rw [he _ hkn]; exact hw

/-- What the end of an instruction that completes at issue does: event counter, ISSUED, state, PC. -/
def State.passed (s : State) (t n w : Nat) : State :=
  (((s.event t (evtOf w)).inc (F.TILE_SEQ_ISSUED_ISSUED t n)).seqTo t n seqISSUING).setPc t n (s.pc t n + 1)

theorem State.event_fld (s : State) (t : Nat) (e : Option Nat) : s.event t e = { s with fld := (s.event t e).fld } := by
  cases e <;> rfl

theorem evtOf_lt {w c : Nat} (h : evtOf w = some c) : c < 16 := by
  unfold evtOf at h
  split at h
  · simp only [Option.some.injEq] at h
    subst h
    exact Nat.mod_lt _ (by decide)
  · exact absurd h (by simp)

theorem State.g_event_ne (s : State) (t : Nat) (e : Option Nat) (f : Fld)
    (h : ∀ c, e = some c → f.key ≠ (F.TILE_EVT_COUNT t c).key) : (s.event t e).g f = s.g f := by
  cases e with
  | none => rfl
  | some c => exact State.g_inc_ne _ _ _ (h c rfl)

@[simp] theorem lowBits_lowBits (w n : Nat) : lowBits w (lowBits w n) = lowBits w n := by
  simp [lowBits]

theorem evt_key_ne_issued (t n c : Nat) (_ : c < 16) (_ : n < 2) :
    (F.TILE_EVT_COUNT t c).key ≠ (F.TILE_SEQ_ISSUED_ISSUED t n).key := by
  simp only [Fld.key, F.TILE_EVT_COUNT, F.TILE_SEQ_ISSUED_ISSUED, Dom.code]; omega
theorem evt_key_ne_evt (t c d : Nat) (h : c ≠ d) : (F.TILE_EVT_COUNT t c).key ≠ (F.TILE_EVT_COUNT t d).key := by
  simp only [Fld.key, F.TILE_EVT_COUNT, Dom.code]; omega
theorem seq_key_ne_evt (t n c : Nat) (_ : c < 16) (_ : n < 2) :
    (F.TILE_SEQ_STATUS_PC t n).key ≠ (F.TILE_EVT_COUNT t c).key := by
  simp only [Fld.key, F.TILE_EVT_COUNT, F.TILE_SEQ_STATUS_PC, Dom.code]; omega
theorem pc_key_ne_issued (t n m : Nat) :
    (F.TILE_SEQ_STATUS_PC t n).key ≠ (F.TILE_SEQ_ISSUED_ISSUED t m).key := by
  simp only [Fld.key, F.TILE_SEQ_ISSUED_ISSUED, F.TILE_SEQ_STATUS_PC, Dom.code]; omega
theorem pc_key_ne_state (t n m : Nat) : (F.TILE_SEQ_STATUS_PC t n).key ≠ (F.TILE_SEQ_STATUS_STATE t m).key := by
  simp only [Fld.key, F.TILE_SEQ_STATUS_STATE, F.TILE_SEQ_STATUS_PC, Dom.code]; omega
theorem pc_key_ne_stall (t n m : Nat) : (F.TILE_SEQ_STATUS_PC t n).key ≠ (F.TILE_SEQ_STATUS_STALL t m).key := by
  simp only [Fld.key, F.TILE_SEQ_STATUS_STALL, F.TILE_SEQ_STATUS_PC, Dom.code]; omega

/-- Away from the last index the stream moves to the next one. -/
theorem State.advance_eq {s : State} {t n la oa : Nat} (h : s.pc t n < 8191) :
    s.advance t n la oa = ((s.inc (F.TILE_SEQ_ISSUED_ISSUED t n)).seqTo t n seqISSUING).setPc t n (s.pc t n + 1) := by
  have hp : ((s.inc (F.TILE_SEQ_ISSUED_ISSUED t n)).seqTo t n seqISSUING).pc t n = s.pc t n := by
    unfold State.pc State.seqTo
    rw [State.g_set_ne _ _ _ _ (pc_key_ne_stall t n n), State.g_set_ne _ _ _ _ (pc_key_ne_state t n n),
      State.g_inc_ne _ _ _ (pc_key_ne_issued t n n)]
  unfold State.advance
  simp only [hp]
  rw [if_neg (by omega)]

/-- A register field that the end of an issue does not name. -/
theorem State.g_advance_ne {s : State} {t n la oa : Nat} (h : s.pc t n < 8191) (f : Fld)
    (hf : ∀ x ∈ issueFields t n, f.key ≠ x.key) : (s.advance t n la oa).g f = s.g f := by
  rw [State.advance_eq h]
  unfold State.setPc State.seqTo
  rw [State.g_set_ne, State.g_set_ne, State.g_set_ne, State.g_set_ne, State.g_inc_ne] <;>
    exact hf _ (by simp [issueFields])

theorem State.advance_fld {s : State} {t n la oa : Nat} (h : s.pc t n < 8191) :
    s.advance t n la oa = { s with fld := (s.advance t n la oa).fld } := by
  rw [State.advance_eq h]; rfl

/-- The registers that an instruction leaves which completes at issue. -/
theorem State.passes_of {s s' : State} {t n w la oa : Nat} {g : Bool} (hf : s'.fld = s.fld) (hr : s.pc t n < 8191) (hn : n < 2) :
    Passes t n s (((s'.grant t n g).event t (evtOf w)).advance t n la oa)
      ∧ CountsEvent t w s (((s'.grant t n g).event t (evtOf w)).advance t n la oa)
      ∧ KeepsRegs s (((s'.grant t n g).event t (evtOf w)).advance t n la oa) (issueFields t n) := by
  have hg : ∀ f, (s'.grant t n g).g f = s.g f := fun f => by rw [State.g_grant]; exact State.g_congr hf f
  have he : ∀ f, (∀ c < 16, f.key ≠ (F.TILE_EVT_COUNT t c).key) →
      ((s'.grant t n g).event t (evtOf w)).g f = s.g f := fun f h => by
    rw [State.g_event_ne _ _ _ _ fun c hc => h c (evtOf_lt hc), hg]
  have hpc : ((s'.grant t n g).event t (evtOf w)).pc t n = s.pc t n :=
    he _ fun c hc => seq_key_ne_evt t n c hc hn
  have hlt : ((s'.grant t n g).event t (evtOf w)).pc t n < 8191 := by rw [hpc]; exact hr
  refine ⟨⟨?_, ?_, ?_⟩, ?_, ?_⟩
  · rw [State.advance_eq hlt, hpc]
    unfold State.pc State.setPc
    rw [State.g_set_ne, State.g_set_same]
    · have : s.g (F.TILE_SEQ_STATUS_PC t n) < 8191 := hr
      simp only [lowBits, F.TILE_SEQ_STATUS_PC] at *
      omega
    · simp only [Fld.key, F.TILE_SEQ_STATUS_OPCODE, F.TILE_SEQ_STATUS_PC, Dom.code]; omega
  · rw [State.advance_eq hlt]
    unfold State.setPc State.seqTo
    rw [State.g_set_ne, State.g_set_ne, State.g_set_ne, State.g_set_ne, State.g_inc_same, he]
    · rfl
    · intro c hc; exact (evt_key_ne_issued t n c hc hn).symm
    all_goals simp only [Fld.key, F.TILE_SEQ_ISSUED_ISSUED, F.TILE_SEQ_STATUS_OPCODE, F.TILE_SEQ_STATUS_PC,
      F.TILE_SEQ_STATUS_STATE, F.TILE_SEQ_STATUS_STALL, Dom.code]; omega
  · rw [State.advance_eq hlt]
    unfold State.seqState State.setPc State.seqTo
    rw [State.g_set_ne, State.g_set_ne, State.g_set_ne, State.g_set_same]
    · rfl
    all_goals simp only [Fld.key, F.TILE_SEQ_STATUS_OPCODE, F.TILE_SEQ_STATUS_PC,
      F.TILE_SEQ_STATUS_STATE, F.TILE_SEQ_STATUS_STALL, Dom.code]; omega
  · intro c hc
    rw [State.advance_eq hlt]
    unfold State.setPc State.seqTo
    rw [State.g_set_ne, State.g_set_ne, State.g_set_ne, State.g_set_ne, State.g_inc_ne]
    · by_cases h : evtOf w = some c
      · rw [if_pos h, h]
        show ((s'.grant t n g).inc _).g _ = _
        rw [State.g_inc_same, hg]
        rfl
      · rw [if_neg h, State.g_event_ne, hg]
        intro d hd
        exact evt_key_ne_evt t c d fun hcd => h (hcd ▸ hd)
    · exact evt_key_ne_issued t n c hc hn
    all_goals simp only [Fld.key, F.TILE_EVT_COUNT, F.TILE_SEQ_STATUS_OPCODE, F.TILE_SEQ_STATUS_PC,
      F.TILE_SEQ_STATUS_STATE, F.TILE_SEQ_STATUS_STALL, Dom.code]; omega
  · intro f h
    rw [State.g_advance_ne hlt f h]
    exact he f fun c hc => h _ (List.mem_append_right _ (List.mem_map.2 ⟨c, List.mem_range.2 hc, rfl⟩))

/-- What such an instruction leaves beside registers: the tile as its rule left it, but for the arbiter's count. -/
theorem State.passed_rest {s' : State} {t n w la oa : Nat} {g : Bool} (h : ((s'.grant t n g).event t (evtOf w)).pc t n < 8191) :
    { ((s'.grant t n g).event t (evtOf w)).advance t n la oa with fld := s'.fld, tiles := s'.tiles } = s' := by
  rw [State.advance_fld h, State.event_fld]
  obtain ⟨r, h' | h'⟩ := s'.grant_eq t n g <;> rw [h']; rfl

theorem State.passed_stream {s' : State} {t n w m la oa : Nat} {g : Bool} (h : ((s'.grant t n g).event t (evtOf w)).pc t n < 8191) :
    (((s'.grant t n g).event t (evtOf w)).advance t n la oa).stream t m = s'.stream t m := by
  rw [State.advance_fld h, State.event_fld]
  exact State.grant_stream s' t n m g

theorem State.passed_tile {s' : State} {t n w la oa : Nat} {g : Bool} (v : Nat) (h : ((s'.grant t n g).event t (evtOf w)).pc t n < 8191) :
    (((s'.grant t n g).event t (evtOf w)).advance t n la oa).tile v = (s'.grant t n g).tile v := by
  rw [State.advance_fld h, State.event_fld]
  rfl

/-- A rule that is done and has changed only the tile: what the whole instruction leaves. -/
theorem State.atIssue_of {s s' : State} {t n w la oa : Nat} {g : Bool} (hf : s'.fld = s.fld) (hr : s.pc t n < 8191) (hn : n < 2)
    (ht : ∀ v, v ≠ t → s'.tile v = s.tile v) (hs : { s' with fld := s.fld, tiles := s.tiles } = s) :
    AtIssue t n s (((s'.grant t n g).event t (evtOf w)).advance t n la oa) := by
  have h := State.passes_of (w := w) (la := la) (oa := oa) (g := g) hf hr hn
  have hlt : ((s'.grant t n g).event t (evtOf w)).pc t n < 8191 := by
    have : ((s'.grant t n g).event t (evtOf w)).pc t n = s.pc t n := by
      show State.g _ _ = State.g _ _
      rw [State.g_event_ne _ _ _ _ fun c hc => seq_key_ne_evt t n c (evtOf_lt hc) hn, State.g_grant]
      exact State.g_congr hf _
    rw [this]; exact hr
  refine ⟨h.1, fun v hv => ?_, h.2.2, ?_⟩
  · rw [State.passed_tile v hlt, State.grant_tile_ne s' t n v g hv, ht v hv]
  · rw [State.advance_fld hlt, State.event_fld]
    obtain ⟨r, h' | h'⟩ := s'.grant_eq t n g <;> rw [h']
    · exact hs
    · exact hs

/-- An instruction whose rule is done at issue and has changed only its tile. -/
theorem issueOp_done {op t n w : Nat} {bad : List Nat} {s s' : State} (h : Issues op t n w bad s) (hk : opKnown op = true) (rule : Rule)
    (hr : rule t n w (s.upset t bad) = .done s') (hf : s'.fld = s.fld) (hst : s'.stp.due = none)
    (ht : ∀ v, v ≠ t → s'.tile v = s.tile v) (hs : { s' with fld := s.fld, tiles := s.tiles } = s) :
    ∃ u, issueOp op rule t n bad s = .next u ∧ AtIssue t n s u ∧ CountsEvent t w s u ∧ u.stream t n = s'.stream t n := by
  obtain ⟨g, hg⟩ : ∃ g, g = (s.upset t bad).contested t n := ⟨_, rfl⟩
  obtain ⟨la, hla⟩ : ∃ la, la = ((s.upset t bad).stream t n).layer := ⟨_, rfl⟩
  obtain ⟨oa, hoa⟩ : ∃ oa, oa = ((s.upset t bad).stream t n).oper := ⟨_, rfl⟩
  have hpc : ((s'.grant t n g).event t (evtOf w)).pc t n = s.pc t n := by
      show State.g _ _ = State.g _ _
      rw [State.g_event_ne _ _ _ _ fun c hc => seq_key_ne_evt t n c (evtOf_lt hc) h.stream, State.g_grant]
      exact State.g_congr hf _
  have hlt : ((s'.grant t n g).event t (evtOf w)).pc t n < 8191 := by rw [hpc]; exact h.room
  have hrest := State.passed_rest (la := la) (oa := oa) hlt
  have h1 : (((s'.grant t n g).event t (evtOf w)).advance t n la oa).stp = s'.stp := by
    have := congrArg State.stp hrest
    exact this
  have h2 : (((s'.grant t n g).event t (evtOf w)).advance t n la oa).waits = s'.waits := by
    have := congrArg State.waits hrest
    exact this
  have h3 : s'.waits = s.waits := by
    have := congrArg State.waits hs
    exact this
  refine ⟨((s'.grant t n g).event t (evtOf w)).advance t n la oa, ?_, State.atIssue_of hf h.room h.stream ht hs,
    (State.passes_of hf h.room h.stream).2.1, State.passed_stream hlt⟩
  refine issueOp_carry h hk rule hr (by rw [hg, hla, hoa]; rfl) ?_ ?_
  · rw [h1]; exact hst
  · rw [h2, h3]

theorem State.tile_setStream_ne (s : State) (t n v : Nat) (f) (h : v ≠ t) : (s.setStream t n f).tile v = s.tile v :=
  State.tile_setTile_ne s t v _ h
theorem State.stream_setStream_same (s : State) (t n : Nat) (f) : (s.setStream t n f).stream t n = f (s.stream t n) := by
  unfold State.stream State.setStream
  rw [State.tile_setTile_same]
  unfold Tile.stream Tile.setStream
  split <;> simp_all

theorem Stream.xr_setX (y : Stream) (i j v : Nat) : (y.setX j v).xr i = if i = j ∧ i ≠ 0 then v % 2 ^ 32 else y.xr i := by
  unfold Stream.setX Stream.xr
  by_cases hj : j = 0
  · subst hj
    by_cases hi : i = 0 <;> simp [hi]
  · by_cases hi : i = 0
    · simp [hj, hi]
    · by_cases hij : i = j
      · subst hij; simp [hi]
      · simp [hj, hij, Sparse.get_put_ne _ _ _ _ _ _ hij]

theorem Stream.kr_setK (y : Stream) (i j v : Nat) : (y.setK j v).kr i = if i = j then v % 2 ^ 32 else y.kr i := by
  unfold Stream.setK Stream.kr
  by_cases hij : i = j
  · subst hij; simp
  · simp [hij, Sparse.get_put_ne _ _ _ _ _ _ hij]

/-- An instruction whose rule is done at issue and has changed only its stream. -/
theorem issueOp_stream {op t n w : Nat} {bad : List Nat} {s : State} (h : Issues op t n w bad s) (hk : opKnown op = true) (rule : Rule)
    (f : Stream → Stream) (hr : rule t n w (s.upset t bad) = .done ((s.upset t bad).setStream t n f)) :
    ∃ u, issueOp op rule t n bad s = .next u ∧ AtIssue t n s u ∧ CountsEvent t w s u ∧ u.stream t n = f (s.stream t n) := by
  obtain ⟨u, h1, h2, h3, h4⟩ := issueOp_done h hk rule hr (by simp [State.setStream])
    (by simp only [State.setStream, State.setTile_stp, State.upset_stp]; exact h.settled)
    (fun v hv => by rw [State.tile_setStream_ne _ _ _ _ _ hv, State.upset_tile_ne _ _ _ _ hv])
    (by have := s.upset_rest t bad; exact this)
  exact ⟨u, h1, h2, h3, by rw [h4, State.stream_setStream_same, State.upset_stream]⟩


/-! Instructions in flight. -/

/-- The flight that a launch adds. -/
def State.newFlight (s : State) (t n w : Nat) (j : Job') : Flight :=
  ⟨(s.tile t).nextId, n, s.pc t n, opOf w, evtOf w, ((s.tile t).stream n).seq - 1, j.rd, j.wr, j.post, j.ready, j.waiting, j.dst, j.src,
    ((s.tile t).stream n).layer, ((s.tile t).stream n).oper, j.fills⟩

theorem State.launch_rest (s : State) (t n w : Nat) (j : Job') : { s.launch t n w j with tiles := s.tiles } = s := by
  simp only [State.launch]
  split
  · split <;> rfl
  · rfl

theorem State.launch_tile_ne (s : State) (t n w v : Nat) (j : Job') (h : v ≠ t) : (s.launch t n w j).tile v = s.tile v := by
  simp only [State.launch]
  split
  · split
    · rw [State.tile_setStream_ne _ _ _ _ _ h, State.tile_setTile_ne _ _ _ _ h]
    · exact State.tile_setTile_ne _ _ _ _ h
  · exact State.tile_setTile_ne _ _ _ _ h

/-- A launch adds its flight, and at most an entry to the stream's open span. -/
theorem State.launch_tile (s : State) (t n w : Nat) (j : Job') : ∃ a b,
    (s.launch t n w j).tile t = { s.tile t with
      flights := (s.tile t).flights ++ [s.newFlight t n w j], nextId := (s.tile t).nextId + 1
      s0 := { (s.tile t).s0 with spans := a }, s1 := { (s.tile t).s1 with spans := b } } := by
  simp only [State.launch]
  split
  · split
    · simp only [State.setStream, State.tile_setTile_same]
      by_cases hn : n = 0
      · simp only [Tile.setStream, hn, if_true]
        exact ⟨_, (s.tile t).s1.spans, rfl⟩
      · simp only [Tile.setStream, hn, if_false]
        exact ⟨(s.tile t).s0.spans, _, rfl⟩
    · exact ⟨(s.tile t).s0.spans, (s.tile t).s1.spans, State.tile_setTile_same _ _ _⟩
  · exact ⟨(s.tile t).s0.spans, (s.tile t).s1.spans, State.tile_setTile_same _ _ _⟩

@[simp] theorem State.launch_fld (s : State) (t n w : Nat) (j : Job') : (s.launch t n w j).fld = s.fld := by
  simp only [State.launch]
  split
  · split <;> rfl
  · rfl
@[simp] theorem State.launch_stp (s : State) (t n w : Nat) (j : Job') : (s.launch t n w j).stp = s.stp := by
  have h := congrArg State.stp (s.launch_rest t n w j)
  exact h

/-- What an instruction that flies leaves: its rule's state with a flight added and the stream moved on. -/
theorem issueOp_flies {op t n w : Nat} {bad : List Nat} {s s' : State} {j : Job'} (h : Issues op t n w bad s) (hk : opKnown op = true)
    (rule : Rule) (hr : rule t n w (s.upset t bad) = .flies s' j) (hpc : s'.pc t n = s.pc t n)
    (hi : s'.g (F.TILE_SEQ_ISSUED_ISSUED t n) = s.g (F.TILE_SEQ_ISSUED_ISSUED t n)) (hd : s'.stp.due = none)
    (hw : s'.waits = s.waits) :
    ∃ u, issueOp op rule t n bad s = .next u ∧ Passes t n s u
      ∧ (∀ f, (∀ x ∈ issueFields t n, f.key ≠ x.key) → u.g f = s'.g f)
      ∧ (∃ r a b, u.tile t = { s'.tile t with
            flights := (s'.tile t).flights ++ [s'.newFlight t n w j], nextId := (s'.tile t).nextId + 1
            run := r, s0 := { (s'.tile t).s0 with spans := a }, s1 := { (s'.tile t).s1 with spans := b } })
      ∧ (∀ v, v ≠ t → u.tile v = s'.tile v) ∧ { u with fld := s'.fld, tiles := s'.tiles } = s' := by
  obtain ⟨g, hg'⟩ : ∃ g, g = (s.upset t bad).contested t n := ⟨_, rfl⟩
  obtain ⟨la, hla⟩ : ∃ la, la = ((s.upset t bad).stream t n).layer := ⟨_, rfl⟩
  obtain ⟨oa, hoa⟩ : ∃ oa, oa = ((s.upset t bad).stream t n).oper := ⟨_, rfl⟩
  obtain ⟨x, hx⟩ : ∃ x, x = (s'.grant t n g).launch t n w j := ⟨_, rfl⟩
  have hg : ∀ f, x.g f = s'.g f := fun f => by
    rw [hx, State.g_congr (State.launch_fld _ t n w j) f, State.g_grant]
  have hxpc : x.pc t n = s.pc t n := (hg _).trans hpc
  have hlt : x.pc t n < 8191 := by rw [hxpc]; exact h.room
  refine ⟨x.advance t n la oa, ?_, ⟨?_, ?_, ?_⟩, ?_, ?_, ?_, ?_⟩
  · have hs : { x with tiles := s'.tiles } = s' := by
      have h1 := (s'.grant t n g).launch_rest t n w j
      have h2 := s'.grant_rest t n g
      rw [← hx] at h1
      calc { x with tiles := s'.tiles } = { ({ x with tiles := (s'.grant t n g).tiles } : State) with tiles := s'.tiles } := rfl
        _ = { s'.grant t n g with tiles := s'.tiles } := by rw [h1]
        _ = s' := h2
    refine issueOp_carry h hk rule hr (by rw [hx, hg', hla, hoa]; rfl) ?_ ?_
    · rw [State.advance_fld hlt]
      show x.stp.due = none
      have e := congrArg State.stp hs
      rw [show x.stp = s'.stp from e]; exact hd
    · rw [State.advance_fld hlt]
      show x.waits = s.waits
      have e := congrArg State.waits hs
      rw [show x.waits = s'.waits from e]; exact hw
  · rw [State.advance_eq hlt, hxpc]
    unfold State.pc State.setPc
    rw [State.g_set_ne, State.g_set_same]
    · have : s.g (F.TILE_SEQ_STATUS_PC t n) < 8191 := h.room
      simp only [lowBits, F.TILE_SEQ_STATUS_PC] at *
      omega
    · simp only [Fld.key, F.TILE_SEQ_STATUS_OPCODE, F.TILE_SEQ_STATUS_PC, Dom.code]; omega
  · rw [State.advance_eq hlt]
    unfold State.setPc State.seqTo
    rw [State.g_set_ne, State.g_set_ne, State.g_set_ne, State.g_set_ne, State.g_inc_same, hg, hi]
    · rfl
    all_goals simp only [Fld.key, F.TILE_SEQ_ISSUED_ISSUED, F.TILE_SEQ_STATUS_OPCODE, F.TILE_SEQ_STATUS_PC,
      F.TILE_SEQ_STATUS_STATE, F.TILE_SEQ_STATUS_STALL, Dom.code]; omega
  · rw [State.advance_eq hlt]
    unfold State.seqState State.setPc State.seqTo
    rw [State.g_set_ne, State.g_set_ne, State.g_set_ne, State.g_set_same]
    · rfl
    all_goals simp only [Fld.key, F.TILE_SEQ_STATUS_OPCODE, F.TILE_SEQ_STATUS_PC,
      F.TILE_SEQ_STATUS_STATE, F.TILE_SEQ_STATUS_STALL, Dom.code]; omega
  · intro f hf
    rw [State.g_advance_ne hlt f hf, hg]
  · obtain ⟨a, b, hl⟩ := (s'.grant t n g).launch_tile t n w j
    refine ⟨((s'.grant t n g).tile t).run, a, b, ?_⟩
    rw [State.advance_fld hlt]
    show x.tile t = _
    have hn : (s'.grant t n g).newFlight t n w j = s'.newFlight t n w j := by
      unfold State.newFlight State.pc
      rw [State.grant_tile]
      simp only [State.g_grant, Tile.stream]
    rw [hx, hl, hn, State.grant_tile]
  · intro v hv
    rw [State.advance_fld hlt]
    show x.tile v = _
    rw [hx, State.launch_tile_ne _ _ _ _ _ _ hv, State.grant_tile_ne _ _ _ _ _ hv]
  · rw [State.advance_fld hlt]
    have h1 := (s'.grant t n g).launch_rest t n w j
    have h2 := s'.grant_rest t n g
    rw [← hx] at h1
    calc { x with fld := s'.fld, tiles := s'.tiles } = { ({ x with tiles := (s'.grant t n g).tiles } : State) with fld := s'.fld, tiles := s'.tiles } := rfl
      _ = { (s'.grant t n g) with fld := s'.fld, tiles := s'.tiles } := by rw [h1]
      _ = { ({ (s'.grant t n g) with tiles := s'.tiles } : State) with fld := s'.fld } := rfl
      _ = s' := by rw [h2]

/-! The digest log's spans. -/

/-- What closing and writing spans leaves: spans, the log, and nothing else of the tile (R503). -/
structure Flushes (t : Nat) (s u : State) : Prop where
  rest : ∃ l c r o m h T, u = { s with fld := l, cap := c, reports := r, outbox := o, msi := m, host := h, tiles := T }
  regs : ∀ f : Fld, 0x1000000 ≤ f.off → u.g f = s.g f
  others : ∀ v, v ≠ t → u.tile v = s.tile v
  tile : ∃ a b, u.tile t = { s.tile t with s0 := { (s.tile t).s0 with spans := a }, s1 := { (s.tile t).s1 with spans := b } }

theorem Flushes.refl (t : Nat) (s : State) : Flushes t s s :=
  ⟨⟨_, _, _, _, _, _, _, rfl⟩, fun _ _ => rfl, fun _ _ => rfl, _, _, rfl⟩

theorem Flushes.trans {t : Nat} {s u v : State} (h1 : Flushes t s u) (h2 : Flushes t u v) : Flushes t s v := by
  obtain ⟨l, c, r, o, m, q, T, e1⟩ := h1.rest
  obtain ⟨l', c', r', o', m', q', T', e2⟩ := h2.rest
  obtain ⟨a, b, t1⟩ := h1.tile
  obtain ⟨a', b', t2⟩ := h2.tile
  refine ⟨⟨l', c', r', o', m', q', T', by rw [e2, e1]⟩, fun f hf => (h2.regs f hf).trans (h1.regs f hf),
    fun v hv => (h2.others v hv).trans (h1.others v hv), a', b', by rw [t2, t1]⟩

theorem flushSpans_flushes (t n : Nat) (l : List SpanLog) (s : State) : Flushes t s (flushSpans t n l s) := by
  induction l generalizing s with
  | nil => exact Flushes.refl t s
  | cons p r ih =>
    simp only [flushSpans]
    split
    · have h1 : Flushes t s (s.setStream t n fun y => { y with spans := y.spans.filter fun q => q.seq != p.seq }) := by
        refine ⟨⟨_, _, _, _, _, _, _, rfl⟩, fun _ _ => rfl, fun v hv => State.tile_setStream_ne _ _ _ _ _ hv, ?_⟩
        simp only [State.setStream, State.tile_setTile_same, Tile.setStream]
        split
        · exact ⟨_, (s.tile t).s1.spans, rfl⟩
        · exact ⟨(s.tile t).s0.spans, _, rfl⟩
      split
      · exact h1.trans (ih _)
      · refine (h1.trans ?_).trans (ih _)
        obtain ⟨l, c, r', o, m, q, h, g⟩ := State.logEntry_only
          (s.setStream t n fun y => { y with spans := y.spans.filter fun q => q.seq != p.seq })
          ⟨crcOfCrcs (p.crcs.map (·.2)), p.layer, p.oper, n, 0, t, p.seq, p.crcs.length, 0⟩
        exact ⟨⟨l, c, r', o, m, q, _, h⟩, g, fun v _ => by rw [h]; rfl, _, _, by rw [h]; rfl⟩
    · exact ih _

end Sys2Proof.Machine
end

