-- ==== Sys2Proof/Laws/Vector.lean ====
section
/-!
SUPPORT. Laws of vector instructions: one lemma says what every vector instruction that issues leaves.
-/
namespace Sys2Proof.Machine

theorem State.tally_only (s : State) (l o : Nat) (t : List Tally) : ∃ m, s.tally l o t = { s with num := m } := ⟨_, rfl⟩

@[simp] theorem State.g_tally (s : State) (l o : Nat) (y : List Tally) (f : Fld) : (s.tally l o y).g f = s.g f := rfl
@[simp] theorem State.g_tookFree (s : State) (k : Nat) (f : Fld) : (s.tookFree k).g f = s.g f := rfl
@[simp] theorem State.tile_tookFree (s : State) (k t : Nat) : (s.tookFree k).tile t = s.tile t := rfl
@[simp] theorem State.tally_tile (s : State) (l o : Nat) (y : List Tally) (t : Nat) : (s.tally l o y).tile t = s.tile t := rfl

/-- A write without a non-finite element is stored and counted. -/
theorem State.vecWrite_eq (t n : Nat) (s : State) (v : VecWrite) (h : firstNonFinite v.tally = none) :
    State.vecWrite t n s v = (s.setTile t fun x => x.writeSram (64 * v.sector) v.bytes).tally (s.stream t n).layer (s.stream t n).oper v.tally := by
  simp [State.vecWrite, VecWrite.trap, h, State.counted]

/-- What the writes of a vector instruction leave. -/
structure Writes (t n : Nat) (l : List VecWrite) (r u : State) : Prop where
  sram : (u.tile t).sram = stored (r.tile t).sram (l.map fun v => (v.sector, v.bytes))
  tile : ∃ b, u.tile t = { r.tile t with sram := (u.tile t).sram, badSectors := b }
  others : ∀ x, x ≠ t → u.tile x = r.tile x
  counts : ∀ q : State, q.num = r.num → u.num = (l.foldl (fun q v => q.tally (r.stream t n).layer (r.stream t n).oper v.tally) q).num
  rest : ∃ T m, u = { r with tiles := T, num := m }

theorem stream_of_tile {r u : State} {t : Nat} {a : Sparse Byte} {b : List Nat}
    (h : u.tile t = { r.tile t with sram := a, badSectors := b }) (n : Nat) : u.stream t n = r.stream t n := by
  simp [State.stream, h, Tile.stream]

theorem vecWrites (t n : Nat) (l : List VecWrite) (r : State) (h : ∀ v ∈ l, firstNonFinite v.tally = none) :
    Writes t n l r (l.foldl (State.vecWrite t n) r) := by
  induction l generalizing r with
  | nil => exact ⟨rfl, ⟨_, rfl⟩, fun _ _ => rfl, fun _ h => h.symm, ⟨_, _, rfl⟩⟩
  | cons v l ih =>
    obtain ⟨r', hr'⟩ : ∃ r', r' = State.vecWrite t n r v := ⟨_, rfl⟩
    have e := State.vecWrite_eq t n r v (h v (by simp))
    rw [← hr'] at e
    have i := ih r' fun x hx => h x (by simp [hx])
    have ht : r'.tile t = (r.tile t).writeSram (64 * v.sector) v.bytes := by
      rw [e, State.tally_tile, State.tile_setTile_same]
    have hs : r'.stream t n = r.stream t n := stream_of_tile (by rw [ht]; rfl) n
    simp only [List.foldl_cons, ← hr']
    obtain ⟨T, m, hrest⟩ := i.rest
    obtain ⟨b, hb⟩ := i.tile
    refine ⟨?_, ⟨b, ?_⟩, ?_, ?_, T, m, ?_⟩
    · rw [i.sram, ht]; rfl
    · rw [hb, ht]; rfl
    · intro x hx
      rw [i.others x hx, e, State.tally_tile, State.tile_setTile_ne r t x _ hx]
    · intro q hq
      rw [i.counts (q.tally (r.stream t n).layer (r.stream t n).oper v.tally), hs]
      · rfl
      · rw [e]
        simp only [State.tally, hq]
        rfl
    · rw [hrest, e]; rfl

theorem busy_keys (t n : Nat) (f : Fld) (hf : f ∈ [F.TILE_VEC_STATUS_BUSY t, F.TILE_VEC_STATUS_SFU_BUSY t]) (hn : n < 2) :
    ∀ x ∈ issueFields t n, f.key ≠ x.key := by
  intro x hx
  simp only [issueFields, List.mem_append, List.mem_cons, List.mem_map, List.mem_range, List.not_mem_nil, or_false] at hx hf
  rcases hf with rfl | rfl <;> rcases hx with (rfl | rfl | rfl | rfl | rfl) | ⟨c, hc, rfl⟩ <;>
    simp only [Fld.key, F.TILE_VEC_STATUS_BUSY, F.TILE_VEC_STATUS_SFU_BUSY, F.TILE_SEQ_STATUS_STATE, F.TILE_SEQ_STATUS_STALL,
      F.TILE_SEQ_STATUS_PC, F.TILE_SEQ_STATUS_OPCODE, F.TILE_SEQ_ISSUED_ISSUED, F.TILE_EVT_COUNT, Dom.code] <;> omega

/-- What a vector instruction's own operation leaves alone. -/
structure Quiet (t n : Nat) (s r : State) : Prop where
  pc : r.pc t n = s.pc t n
  issued : r.g (F.TILE_SEQ_ISSUED_ISSUED t n) = s.g (F.TILE_SEQ_ISSUED_ISSUED t n)
  due : r.stp.due = s.stp.due
  sram : (r.tile t).sram = (s.tile t).sram
  flights : (r.tile t).flights = (s.tile t).flights
  nextId : (r.tile t).nextId = (s.tile t).nextId
  tags : (r.stream t n).layer = (s.stream t n).layer ∧ (r.stream t n).oper = (s.stream t n).oper
  others : ∀ x, x ≠ t → r.tile x = s.tile x
  waits : r.waits = s.waits

theorem vecIssue_flies {t n : Nat} {rd wr : List (Nat × Nat)} {slots : List Nat} {gate : State → Option Verdict}
    {run : State → VecResult} {v : State} (hv : VecReady t n rd wr slots v) (hg : gate v = none) :
    vecIssue t n rd wr slots gate run v =
      .flies (((((run v).writes.foldl (State.vecWrite t n) (run v).state).set (F.TILE_VEC_STATUS_BUSY t) 1).set
          (F.TILE_VEC_STATUS_SFU_BUSY t) (if (run v).sfu = 0 then 0 else 1)))
        { rd := rd.map sramSpan, wr := wr.map sramSpan, post := .vectorDone slots (run v).sfu :: (run v).post, fills := (run v).fills,
          written := if (run v).writes.isEmpty then none else some (writtenBytes (run v).writes) } := by
  have hgood : (rd.any fun e => (firstBad (v.tile t).badSectors e.1 e.2).isSome) = false := by
    rw [List.any_eq_false]
    intro e he
    rw [hv.good e he]; simp
  simp only [vecIssue, hv.inside, reserved, hv.free, State.on, hv.idle, hv.full, hg, hgood]
  rfl

/-- A vector instruction that issues. -/
theorem vec_runs {op t n w : Nat} {bad : List Nat} {s : State} (h : Issues op t n w bad s) (hk : opKnown op = true) (rule : Rule)
    {rd wr : List (Nat × Nat)} {slots : List Nat} {gate : State → Option Verdict} {run : State → VecResult}
    (hr : rule t n w (s.upset t bad) = vecIssue t n rd wr slots gate run (s.upset t bad))
    (hv : VecReady t n rd wr slots (s.upset t bad)) (hg : gate (s.upset t bad) = none)
    (hq : ∀ v ∈ (run (s.upset t bad)).writes, firstNonFinite v.tally = none) (hfl : (run (s.upset t bad)).fills = [])
    (q : Quiet t n s (run (s.upset t bad)).state) :
    ∃ u, issueOp op rule t n bad s = .next u ∧ VectorRuns t n w rd wr slots (run (s.upset t bad)).sfu (run (s.upset t bad)).post
      (run (s.upset t bad)).writes (run (s.upset t bad)).state s u := by
  rw [vecIssue_flies hv hg] at hr
  obtain ⟨R, hR⟩ : ∃ R, R = run (s.upset t bad) := ⟨_, rfl⟩
  rw [← hR] at hr hq hfl q ⊢
  have W := vecWrites t n R.writes R.state hq
  obtain ⟨x, hx⟩ : ∃ x, x = R.writes.foldl (State.vecWrite t n) R.state := ⟨_, rfl⟩
  rw [← hx] at hr W
  obtain ⟨T, m, hrest⟩ := W.rest
  have hxg : ∀ f, x.g f = R.state.g f := fun f => by rw [hrest]; rfl
  have k1 := busy_keys t n (F.TILE_VEC_STATUS_BUSY t) (by simp) h.stream
  have k2 := busy_keys t n (F.TILE_VEC_STATUS_SFU_BUSY t) (by simp) h.stream
  have kb : (F.TILE_VEC_STATUS_BUSY t).key ≠ (F.TILE_VEC_STATUS_SFU_BUSY t).key := by
    simp only [Fld.key, F.TILE_VEC_STATUS_BUSY, F.TILE_VEC_STATUS_SFU_BUSY, Dom.code]; omega
  have hkeep : ∀ f ∈ issueFields t n, ∀ a b,
      ((x.set (F.TILE_VEC_STATUS_BUSY t) a).set (F.TILE_VEC_STATUS_SFU_BUSY t) b).g f = R.state.g f := by
    intro f hf a b
    rw [State.g_set_ne _ _ _ _ (k2 f hf).symm, State.g_set_ne _ _ _ _ (k1 f hf).symm, hxg]
  obtain ⟨u, h1, h2, h3, ⟨r, ea, eb, h4⟩, h5, h6⟩ := issueOp_flies h hk rule hr
    ((hkeep _ (by simp [issueFields]) _ _).trans q.pc)
    ((hkeep _ (by simp [issueFields]) _ _).trans q.issued)
    (by
      show x.stp.due = none
      rw [hrest]
      exact q.due.trans h.settled)
    (by
      show x.waits = s.waits
      rw [hrest]
      exact q.waits)
  obtain ⟨y, hy⟩ : ∃ y, y = (x.set (F.TILE_VEC_STATUS_BUSY t) 1).set (F.TILE_VEC_STATUS_SFU_BUSY t) (if R.sfu = 0 then 0 else 1) :=
    ⟨_, rfl⟩
  rw [← hy] at h4
  have hyt : y.tile t = x.tile t := by rw [hy]; rfl
  rw [hyt] at h4
  obtain ⟨b, hb⟩ := W.tile
  have hfs : (x.tile t).flights = (s.tile t).flights := by rw [hb]; exact q.flights
  have hst : ((y.tile t).stream n).layer = (s.stream t n).layer ∧ ((y.tile t).stream n).oper = (s.stream t n).oper := by
    rw [hyt, hb]; exact q.tags
  have hc : ∃ f, (u.tile t).flights.getLast? = some f ∧ f.post = .vectorDone slots R.sfu :: R.post ∧ f.ready = true ∧ f.fills = [] := by
    rw [h4]
    exact ⟨_, List.getLast?_concat .., rfl, rfl, hfl⟩
  refine ⟨u, h1, ⟨h2, y.newFlight t n w _, by rw [h4, hfs], rfl, rfl, ?_, rfl, rfl, rfl, hst.1, hst.2⟩,
    hc, ?_, ?_, ?_, ?_, ?_, ?_, ?_, ?_⟩
  · rw [State.newFlight, hy]; exact (hkeep _ (by simp [issueFields]) _ _).trans q.pc
  · rw [h3 _ k1, State.g_set_ne _ _ _ _ kb, State.g_set_same]; rfl
  · rw [h3 _ k2, State.g_set_same]; simp only [lowBits, F.TILE_VEC_STATUS_SFU_BUSY]; split <;> rfl
  · rw [h4]
    show (x.tile t).sram = _
    rw [W.sram, q.sram]
  · rw [h4, hb]; rfl
  · intro y hy
    rw [h5 y hy]
    exact (W.others y hy).trans (q.others y hy)
  · have := congrArg State.num h6
    have h7 : u.num = x.num := this
    rw [h7, W.counts R.state rfl, q.tags.1, q.tags.2]
  · intro f hf
    rw [h3 f fun y hy => hf y (List.mem_append_left _ hy), State.g_set_ne, State.g_set_ne, hxg]
    · exact hf _ (by simp)
    · exact hf _ (by simp)
  · have e2 : u = { x with fld := u.fld, tiles := u.tiles } := by
      have := congrArg (fun z : State => { z with fld := u.fld, tiles := u.tiles }) h6
      exact this
    rw [e2, hrest]

/-! What the operations of the kernels leave alone. -/

theorem quiet_upset (s : State) (t n : Nat) (bad : List Nat) : Quiet t n s (s.upset t bad) := by
  have h := s.upset_tile t bad
  refine ⟨State.g_upset .., State.g_upset .., by simp, ?_, ?_, ?_, by simp, fun x hx => State.upset_tile_ne _ _ _ _ hx, rfl⟩ <;> rw [h]

theorem saveFmt_upset (s : State) (t : Nat) (bad : List Nat) (y : Stream) : (s.upset t bad).saveFmt y = s.saveFmt y := by
  simp [State.saveFmt]

theorem Quiet.free {t n : Nat} {s r : State} (q : Quiet t n s r) (k : Nat) : Quiet t n s (r.tookFree k) :=
  ⟨q.pc, q.issued, q.due, q.sram, q.flights, q.nextId, q.tags, q.others, q.waits⟩

theorem Quiet.set {t n : Nat} {s r : State} (q : Quiet t n s r) (f : Fld) (v : Nat)
    (h1 : (F.TILE_SEQ_STATUS_PC t n).key ≠ f.key) (h2 : (F.TILE_SEQ_ISSUED_ISSUED t n).key ≠ f.key) : Quiet t n s (r.set f v) :=
  ⟨by rw [State.pc, State.g_set_ne _ _ _ _ h1]; exact q.pc, by rw [State.g_set_ne _ _ _ _ h2]; exact q.issued, q.due, q.sram, q.flights, q.nextId, q.tags, q.others, q.waits⟩

theorem Quiet.tile {t n : Nat} {s r : State} (q : Quiet t n s r) (f : Tile → Tile)
    (h1 : (f (r.tile t)).sram = (r.tile t).sram) (h2 : (f (r.tile t)).flights = (r.tile t).flights)
    (h3 : (f (r.tile t)).nextId = (r.tile t).nextId)
    (h4 : ((f (r.tile t)).stream n).layer = ((r.tile t).stream n).layer ∧ ((f (r.tile t)).stream n).oper = ((r.tile t).stream n).oper) :
    Quiet t n s (r.setTile t f) := by
  refine ⟨q.pc, q.issued, q.due, ?_, ?_, ?_, ?_, ?_, q.waits⟩
  · rw [State.tile_setTile_same, h1]; exact q.sram
  · rw [State.tile_setTile_same, h2]; exact q.flights
  · rw [State.tile_setTile_same, h3]; exact q.nextId
  · rw [State.stream, State.tile_setTile_same, h4.1, h4.2]; exact q.tags
  · intro x hx; rw [State.tile_setTile_ne _ _ _ _ hx]; exact q.others x hx

theorem Quiet.kslot {t n : Nat} {s r : State} (q : Quiet t n s r) (k : Nat) (v : KSlot) : Quiet t n s (r.setKslot t k v) := by
  refine q.tile _ ?_ ?_ ?_ ?_ <;> split <;> simp [Tile.stream]

theorem slot_keys (t k n : Nat) (f : Fld) (h : f = slotOpenF t k ∨ f = slotStreamF t k) (_ : n < 2) :
    (F.TILE_SEQ_STATUS_PC t n).key ≠ f.key ∧ (F.TILE_SEQ_ISSUED_ISSUED t n).key ≠ f.key := by
  rcases h with rfl | rfl <;> simp only [slotOpenF, slotStreamF] <;> split <;>
    simp only [Fld.key, F.TILE_SEQ_STATUS_PC, F.TILE_SEQ_ISSUED_ISSUED, F.TILE_VEC_STATUS_SLOT0_OPEN, F.TILE_VEC_STATUS_SLOT1_OPEN,
      F.TILE_VEC_STATUS_SLOT0_STREAM, F.TILE_VEC_STATUS_SLOT1_STREAM, Dom.code] <;> omega

theorem Quiet.openSlot {t n : Nat} {s r : State} (q : Quiet t n s r) (k : Nat) (v : KSlot) (hn : n < 2) : Quiet t n s (r.openSlot t n k v) := by
  have a := slot_keys t k n _ (.inl rfl) hn
  have b := slot_keys t k n _ (.inr rfl) hn
  exact ((q.kslot k v).set _ _ a.1 a.2).set _ _ b.1 b.2
theorem Quiet.closeSlot {t n : Nat} {s r : State} (q : Quiet t n s r) (k : Nat) (hn : n < 2) : Quiet t n s (r.closeSlot t k) := by
  have a := slot_keys t k n _ (.inl rfl) hn
  have b := slot_keys t k n _ (.inr rfl) hn
  exact ((q.kslot k _).set _ _ a.1 a.2).set _ _ b.1 b.2

theorem Quiet.setStream {t n : Nat} {s r : State} (q : Quiet t n s r) (f : Stream → Stream)
    (h : ∀ y, (f y).layer = y.layer ∧ (f y).oper = y.oper) : Quiet t n s (r.setStream t n f) := by
  unfold State.setStream
  refine q.tile _ ?_ ?_ ?_ ?_ <;> simp only [Tile.setStream, Tile.stream] <;> split <;> simp [h]

end Sys2Proof.Machine
end

