-- ==== Sys2Proof/Laws/Issue.lean ====
section
/-!
SUPPORT. Two lemmas say what an instruction that issues leaves, whatever its rule: one for those in flight, one for those complete at
issue.
-/
namespace Sys2Proof.Machine

/-- What the rule of an instruction leaves alone: the registers of its issue, its flights, its identifiers, no decision due and no access
that waits. -/
structure Calm (t n : Nat) (s r : State) : Prop where
  regs : ∀ f ∈ issueFields t n, r.g f = s.g f
  due : r.stp.due = s.stp.due
  flights : (r.tile t).flights = (s.tile t).flights
  tags : (r.stream t n).layer = (s.stream t n).layer ∧ (r.stream t n).oper = (s.stream t n).oper
  waits : r.waits = s.waits

theorem Calm.upset (s : State) (t n : Nat) (bad : List Nat) : Calm t n s (s.upset t bad) :=
  ⟨fun f _ => State.g_upset s t bad f, by simp, by rw [s.upset_tile t bad], by simp, rfl⟩

theorem Calm.of {t n : Nat} {s r q : State} (c : Calm t n s r) (hr : ∀ f ∈ issueFields t n, q.g f = r.g f)
    (hd : q.stp.due = r.stp.due) (hf : (q.tile t).flights = (r.tile t).flights)
    (ht : (q.stream t n).layer = (r.stream t n).layer ∧ (q.stream t n).oper = (r.stream t n).oper) (hw : q.waits = r.waits) : Calm t n s q :=
  ⟨fun f h => (hr f h).trans (c.regs f h), hd.trans c.due, hf.trans c.flights, ⟨ht.1.trans c.tags.1, ht.2.trans c.tags.2⟩, hw.trans c.waits⟩

theorem Calm.tile {t n : Nat} {s r : State} (c : Calm t n s r) (x : Nat) (f : Tile → Tile)
    (h : (f (r.tile x)).flights = (r.tile x).flights)
    (ht : ((f (r.tile x)).stream n).layer = ((r.tile x).stream n).layer ∧ ((f (r.tile x)).stream n).oper = ((r.tile x).stream n).oper) :
    Calm t n s (r.setTile x f) := by
  by_cases hx : t = x
  · subst hx
    exact c.of (fun _ _ => rfl) rfl (by rw [State.tile_setTile_same, h]) (by unfold State.stream; rw [State.tile_setTile_same]; exact ht) rfl
  · exact c.of (fun _ _ => rfl) rfl (by rw [State.tile_setTile_ne _ _ _ _ hx])
      (by unfold State.stream; rw [State.tile_setTile_ne _ _ _ _ hx]; exact ⟨rfl, rfl⟩) rfl

theorem Calm.set {t n : Nat} {s r : State} (c : Calm t n s r) (f : Fld) (v : Nat) (h : ∀ x ∈ issueFields t n, x.key ≠ f.key) :
    Calm t n s (r.set f v) :=
  c.of (fun x hx => State.g_set_ne r f x v (h x hx)) rfl rfl ⟨rfl, rfl⟩ rfl

theorem pc_mem (t n : Nat) : F.TILE_SEQ_STATUS_PC t n ∈ issueFields t n := by simp [issueFields]
theorem issued_mem (t n : Nat) : F.TILE_SEQ_ISSUED_ISSUED t n ∈ issueFields t n := by simp [issueFields]
theorem evt_mem (t n c : Nat) (h : c < 16) : F.TILE_EVT_COUNT t c ∈ issueFields t n :=
  List.mem_append_right _ (List.mem_map.2 ⟨c, List.mem_range.2 h, rfl⟩)

/-- An instruction that flies. -/
theorem flies_of {op t n w : Nat} {bad : List Nat} {s r : State} {j : Job'} (h : Issues op t n w bad s) (hk : opKnown op = true)
    (rule : Rule) (hr : rule t n w (s.upset t bad) = .flies r j) (c : Calm t n s r) :
    ∃ u, issueOp op rule t n bad s = .next u ∧ FliesFrom t n w j r s u := by
  obtain ⟨u, h1, h2, h3, ⟨q, ea, eb, h4⟩, h5, h6⟩ :=
    issueOp_flies h hk rule hr (c.regs _ (pc_mem t n)) (c.regs _ (issued_mem t n)) (c.due.trans h.settled) c.waits
  refine ⟨u, h1, ⟨⟨h2, r.newFlight t n w j, by rw [h4, c.flights], rfl, rfl, c.regs _ (pc_mem t n), rfl, rfl, rfl, c.tags.1, c.tags.2⟩,
    ⟨r.newFlight t n w j, by rw [h4]; simp, rfl, rfl, rfl, rfl, rfl, rfl⟩, by rw [h4], by rw [h4]; rfl, h5, h3, h6⟩⟩

/-- An instruction that completes at issue. -/
theorem done_of {op t n w : Nat} {bad : List Nat} {s r : State} (h : Issues op t n w bad s) (hk : opKnown op = true) (rule : Rule)
    (hr : rule t n w (s.upset t bad) = .done r) (c : Calm t n s r) :
    ∃ u, issueOp op rule t n bad s = .next u ∧ DoneFrom t n w r s u := by
  obtain ⟨g, hg⟩ : ∃ g, g = (s.upset t bad).contested t n := ⟨_, rfl⟩
  obtain ⟨la, hla⟩ : ∃ la, la = ((s.upset t bad).stream t n).layer := ⟨_, rfl⟩
  obtain ⟨oa, hoa⟩ : ∃ oa, oa = ((s.upset t bad).stream t n).oper := ⟨_, rfl⟩
  have hrp : r.pc t n < 8191 := by
    rw [State.pc, c.regs _ (pc_mem t n)]; exact h.room
  have P := State.passes_of (s := r) (s' := r) (w := w) (la := la) (oa := oa) (g := g) rfl hrp h.stream
  have hlt : ((r.grant t n g).event t (evtOf w)).pc t n < 8191 := by
    have : ((r.grant t n g).event t (evtOf w)).pc t n = r.pc t n := by
      show State.g _ _ = State.g _ _
      rw [State.g_event_ne _ _ _ _ fun c hc => seq_key_ne_evt t n c (evtOf_lt hc) h.stream, State.g_grant]
    rw [this]; exact hrp
  have htile := fun v => State.passed_tile (s' := r) (t := t) (n := n) (w := w) (la := la) (oa := oa) (g := g) v hlt
  have hrest := State.passed_rest (la := la) (oa := oa) hlt
  have h1 : (((r.grant t n g).event t (evtOf w)).advance t n la oa).stp = r.stp := by
    have := congrArg State.stp hrest
    exact this
  have h2 : (((r.grant t n g).event t (evtOf w)).advance t n la oa).waits = r.waits := by
    have := congrArg State.waits hrest
    exact this
  refine ⟨((r.grant t n g).event t (evtOf w)).advance t n la oa, ?_, ?_⟩
  · refine issueOp_carry h hk rule hr (by rw [hg, hla, hoa]; rfl) ?_ ?_
    · rw [h1]; exact c.due.trans h.settled
    · rw [h2]; exact c.waits
  · refine ⟨⟨?_, ?_, P.1.issuing⟩, ?_, ?_, ?_, ?_, ?_, P.2.2, hrest⟩
    · rw [P.1.pc, State.pc, c.regs _ (pc_mem t n)]; rfl
    · rw [P.1.issued, c.regs _ (issued_mem t n)]
    · intro e he
      rw [P.2.1 e he, c.regs _ (evt_mem t n e he)]
    · rw [htile, State.grant_tile]
    · rw [htile, State.grant_tile]
    · rw [htile, State.grant_tile]; rfl
    · intro v hv
      rw [htile, State.grant_tile_ne _ _ _ _ _ hv]

end Sys2Proof.Machine
end

