-- ==== Sys2Proof/Laws/Memory.lean ====
section
/-!
SUPPORT. Laws of bonded memory and tile SRAM: a read after a write, the canonical form kept by every memory operation, and what the spans that
engines read and write leave.
-/
namespace Sys2Proof.Machine

/-! Byte tables. -/

theorem byteCells_keys (l : List Byte) (a : Nat) : ∀ e ∈ byteCells a l, a ≤ e.1 ∧ e.1 < a + l.length ∧ e.2 ≠ 0 := by
  induction l generalizing a with
  | nil => simp [byteCells]
  | cons b r ih =>
    intro e he
    simp only [byteCells] at he
    split at he
    · have := ih _ e he
      simp only [List.length_cons]
      exact ⟨by omega, by omega, this.2.2⟩
    · rename_i hb
      rcases List.mem_cons.mp he with rfl | he
      · exact ⟨by simp, by simp, hb⟩
      · have := ih _ e he; simp only [List.length_cons]; exact ⟨by omega, by omega, this.2.2⟩

theorem byteCells_get (l : List Byte) (a x : Nat) (h : a ≤ x) : Sparse.get 0 x (byteCells a l) = l.getD (x - a) 0 := by
  induction l generalizing a with
  | nil => simp [byteCells]
  | cons b r ih =>
    by_cases hx : x = a
    · subst hx
      simp only [byteCells]
      by_cases hb : b = 0
      · rw [if_pos hb]
        have : Sparse.get 0 x (byteCells (x + 1) r) = 0 := by
          have := Sparse.get_append_left (0 : Byte) x [] (byteCells (x + 1) r) (fun e he => by have := byteCells_keys _ _ e he; omega)
          simpa using this
        rw [this, hb]; simp
      · rw [if_neg hb, Sparse.get_cons]; simp
    · have hs : x - a = (x - (a + 1)) + 1 := by omega
      rw [hs, List.getD_cons_succ, ← ih (a + 1) (by omega)]
      simp only [byteCells]
      split
      · rfl
      · rw [Sparse.get_cons, if_neg (by omega)]

theorem putBytes_get (l : List Byte) (m : Sparse Byte) (a x : Nat) :
    Sparse.get 0 x (putBytes m a l) = if a ≤ x ∧ x < a + l.length then l.getD (x - a) 0 else Sparse.get 0 x m := by
  have hf : ∀ (p : Nat → Bool) (e : Nat × Byte), e ∈ m.filter (fun e => p e.1) → p e.1 = true := fun p e he => (List.mem_filter.mp he).2
  unfold putBytes
  by_cases h : a ≤ x ∧ x < a + l.length
  · rw [if_pos h, Sparse.get_append_left _ _ _ _ (fun e he => by have := hf (fun k => decide (a + l.length ≤ k)) e he; simp at this; omega),
      Sparse.get_append_right _ _ _ _ (fun e he => by have := hf (fun k => decide (k < a)) e he; simp at this; omega), byteCells_get _ _ _ h.1]
  · rw [if_neg h]
    by_cases hx : x < a
    · rw [List.append_assoc, Sparse.get_append_left _ _ _ _ (fun e he => by
        rcases List.mem_append.mp he with he | he
        · have := byteCells_keys _ _ e he; omega
        · have := hf (fun k => decide (a + l.length ≤ k)) e he; simp at this; omega)]
      exact Sparse.get_filter 0 x (fun k => decide (k < a)) m (by simpa using hx)
    · rw [Sparse.get_append_right _ _ _ _ (fun e he => by
        rcases List.mem_append.mp he with he | he
        · have := hf (fun k => decide (k < a)) e he; simp at this; omega
        · have := byteCells_keys _ _ e he; omega)]
      exact Sparse.get_filter 0 x (fun k => decide (a + l.length ≤ k)) m (by simp; omega)

theorem byteCells_canon (l : List Byte) (a : Nat) : Sparse.Canon 0 (byteCells a l) := by
  induction l generalizing a with
  | nil => simp [byteCells, Sparse.Canon]
  | cons b r ih =>
    simp only [byteCells]
    split
    · exact ih _
    · rename_i hb
      refine ⟨List.pairwise_cons.mpr ⟨fun e he => ?_, (ih _).1⟩, fun e he => ?_⟩
      · have := byteCells_keys _ _ e he; simp only; omega
      · rcases List.mem_cons.mp he with rfl | he
        · exact hb
        · exact (ih _).2 e he

theorem putBytes_wf (l : List Byte) (m : Sparse Byte) (a : Nat) (h : Sparse.wf (0 : Byte) m = true) :
    Sparse.wf (0 : Byte) (putBytes m a l) = true := by
  rw [Sparse.wf_iff] at *
  have hc := byteCells_canon l a
  have hk := byteCells_keys l a
  refine ⟨?_, ?_⟩
  · unfold putBytes
    rw [List.pairwise_append, List.pairwise_append]
    refine ⟨⟨h.1.sublist List.filter_sublist, hc.1, ?_⟩, h.1.sublist List.filter_sublist, ?_⟩
    · intro x hx y hy
      have h1 := (List.mem_filter.mp hx).2
      have h2 := hk y hy
      simp at h1
      omega
    · intro x hx y hy
      have h2 := (List.mem_filter.mp hy).2
      simp at h2
      rcases List.mem_append.mp hx with hx | hx
      · have h1 := (List.mem_filter.mp hx).2
        simp at h1
        omega
      · have h1 := hk x hx
        omega
  · intro e he
    unfold putBytes at he
    rcases List.mem_append.mp he with he | he
    · rcases List.mem_append.mp he with he | he
      · exact h.2 e (List.mem_filter.mp he).1
      · exact (hk e he).2.2
    · exact h.2 e (List.mem_filter.mp he).1

/-! Bonded memory. -/

/-- A read after a write: the bytes written, and every other byte as before. -/
theorem Memory.byte_write (m : Memory) (a x : Nat) (l : List Byte) :
    (m.write a l).byte x = if a ≤ x ∧ x < a + l.length then l.getD (x - a) 0 else m.byte x :=
  putBytes_get l m.cells a x

/-- A write keeps the canonical form. -/
theorem Memory.wf_write (m : Memory) (a : Nat) (l : List Byte) (h : m.wf = true) : (m.write a l).wf = true :=
  putBytes_wf l m.cells a h

/-- A dropped layer's bytes go, and the form stays canonical. -/
theorem Memory.wf_dropLayer (m : Memory) (c l : Nat) (h : m.wf = true) : (m.dropLayer c l).wf = true := by
  unfold Memory.dropLayer Memory.wf
  exact Sparse.wf_filter _ _ _ h

/-- Zeroing keeps the form too (R234). -/
theorem Memory.wf_zeroed (m : Memory) (h : m.wf = true) : m.zeroed.wf = true := by
  unfold Memory.zeroed Memory.wf
  exact Sparse.wf_filter _ _ _ h

@[simp] theorem Memory.read_length (m : Memory) (a n : Nat) : (m.read a n).length = n := by simp [Memory.read]

theorem Memory.read_getD (m : Memory) (a n i : Nat) (h : i < n) : (m.read a n).getD i 0 = m.byte (a + i) := by
  simp [Memory.read, h]

theorem Memory.read_append (m : Memory) (a n k : Nat) : m.read a n ++ m.read (a + n) k = m.read a (n + k) := by
  simp [Memory.read, List.range_add, List.map_append, Function.comp_def, Nat.add_assoc]

/-! Engines' spans. -/

/-- What a read that meets no error may change beside the bytes it brings: the marks of accesses that wait, and, where it corrects sectors,
their counts, logs and reports (R178, R189, R193). -/
structure ReadsOn (s t : State) : Prop where
  rest : t = { s with fld := t.fld, reports := t.reports, regions := t.regions, waits := t.waits }
  regs : KeepsRegs s t (correctFields s.mem)

theorem ReadsOn.refl (s : State) : ReadsOn s s := ⟨rfl, fun _ _ => rfl⟩

theorem ReadsOn.mem {s t : State} (h : ReadsOn s t) : t.mem = s.mem := by rw [h.rest]

theorem ReadsOn.trans {s t u : State} (h : ReadsOn s t) (g : ReadsOn t u) : ReadsOn s u := by
  refine ⟨?_, fun f hf => (g.regs f (by rw [h.mem]; exact hf)).trans (h.regs f hf)⟩
  rw [g.rest, h.rest]

/-- An engine's access is accepted, or marks its command as one that waits. -/
theorem State.access_only (s : State) (r : MemReq) : ∃ w, s.access r = { s with waits := w } := by
  unfold State.access
  split
  · exact ⟨_, rfl⟩
  · exact ⟨s.waits, rfl⟩

theorem State.access_reads (s : State) (r : MemReq) : ReadsOn s (s.access r) := by
  obtain ⟨w, h⟩ := s.access_only r
  rw [h]
  exact ⟨rfl, fun _ _ => rfl⟩

/-- The error log of a region layer changes its own fields only. -/
theorem State.logMem_only (s : State) (kind req a symbol : Nat) : ∃ l, s.logMem kind req a symbol = { s with fld := l }
    ∧ KeepsRegs s (s.logMem kind req a symbol) (layerErrors (dpaWin a) (dpaLayer a - 1)) := by
  simp only [State.logMem]
  split
  · exact ⟨_, rfl, fun f hf => State.g_set_ne s _ f 1 (hf _ (by simp [layerErrors]))⟩
  · refine ⟨_, State.setAll_fld _ _, fun f hf => State.g_setAll_ne _ _ _ fun e he => hf _ ?_⟩
    simp only [List.mem_cons, List.not_mem_nil, or_false] at he
    rcases he with rfl | rfl | rfl | rfl | rfl | rfl | rfl | rfl <;> simp [layerErrors]

/-- One corrected sector: counted, logged, and at most reported (R189, R193). -/
theorem State.corrected_only (s : State) (req a symbol : Nat) :
    ∃ l r g, s.corrected req a symbol = { s with fld := l, reports := r, regions := g }
      ∧ KeepsRegs s (s.corrected req a symbol) (countFields ++ F.NVS_HIST_DROPPED_COUNT :: layerErrors (dpaWin a) (dpaLayer a - 1)) := by
  obtain ⟨l1, h1⟩ := State.count_only (s.inc (F.REG_LCE_COUNT_COUNT (dpaWin a) (dpaLayer a - 1))) 0x0031 (dpaWin a) 1
  obtain ⟨l2, h2, k2⟩ := ((s.inc (F.REG_LCE_COUNT_COUNT (dpaWin a) (dpaLayer a - 1))).count 0x0031 (dpaWin a) 1).logMem_only 0 req a symbol
  have hk : KeepsRegs s (((s.inc (F.REG_LCE_COUNT_COUNT (dpaWin a) (dpaLayer a - 1))).count 0x0031 (dpaWin a) 1).logMem 0 req a symbol)
      (countFields ++ F.NVS_HIST_DROPPED_COUNT :: layerErrors (dpaWin a) (dpaLayer a - 1)) := fun f hf => by
    have hl : ∀ x ∈ layerErrors (dpaWin a) (dpaLayer a - 1), f.key ≠ x.key := fun x hx =>
      hf x (List.mem_append_right _ (List.mem_cons_of_mem _ hx))
    rw [k2 f hl, State.g_count_ne _ _ _ _ _ fun x hx => hf x (List.mem_append_left _ hx),
      State.g_inc_ne s _ f (hl _ (by simp [layerErrors]))]
  revert h2 hk
  clear k2
  generalize hx : ((s.inc (F.REG_LCE_COUNT_COUNT (dpaWin a) (dpaLayer a - 1))).count 0x0031 (dpaWin a) 1).logMem 0 req a symbol = x
  intro h2 hk
  have key : ∀ (b : Bool) (g : RegionCtl), ∃ l r g',
      (if b then ({ x with regions := g } : State).report 0x030A (dpaWin a) (dpaLayer a - 1) else { x with regions := g })
          = { s with fld := l, reports := r, regions := g' }
        ∧ KeepsRegs s (if b then ({ x with regions := g } : State).report 0x030A (dpaWin a) (dpaLayer a - 1) else { x with regions := g })
            (countFields ++ F.NVS_HIST_DROPPED_COUNT :: layerErrors (dpaWin a) (dpaLayer a - 1)) := by
    intro b g
    cases b
    · exact ⟨l2, s.reports, g, by rw [h2, h1]; rfl, hk⟩
    · obtain ⟨l3, r3, h3, k3⟩ := ({ x with regions := g } : State).report_only 0x030A (dpaWin a) (dpaLayer a - 1)
      refine ⟨l3, r3, g, ?_, fun f hf => ?_⟩
      · rw [if_pos rfl, h3, h2, h1]; rfl
      · rw [if_pos rfl, k3 f (hf _ (by simp))]
        exact hk f hf
  subst hx
  exact key _ _

theorem State.correctAll_reads (s : State) (req a n : Nat) : ReadsOn s (s.correctAll req a n) := by
  unfold State.correctAll
  have key : ∀ (l : List (Nat × Nat)), (∀ e ∈ l, e ∈ s.mem.weak) → ∀ t, ReadsOn s t →
      ReadsOn s (l.foldl (fun s e => s.corrected req (64 * e.1) e.2) t) := by
    intro l
    induction l with
    | nil => exact fun _ t h => h
    | cons e r ih =>
      intro hm t ht
      refine ih (fun x hx => hm x (List.mem_cons_of_mem _ hx)) _ ?_
      show ReadsOn s (t.corrected req (64 * e.1) e.2)
      obtain ⟨l', r', g', h, k⟩ := t.corrected_only req (64 * e.1) e.2
      refine ⟨?_, fun f hf => ?_⟩
      · rw [h, ht.rest]
      · rw [k f fun x hx => ?_, ht.regs f hf]
        refine hf x ?_
        rcases List.mem_append.1 hx with hx | hx
        · exact List.mem_append_left _ hx
        · refine List.mem_append_right _ ?_
          rcases List.mem_cons.1 hx with rfl | hx
          · exact List.mem_cons_self
          · exact List.mem_cons_of_mem _ (List.mem_flatMap.2 ⟨e, hm e List.mem_cons_self, hx⟩)
  exact key _ (fun e he => (List.mem_filter.1 he).1) s (ReadsOn.refl s)

/-- A row request that is served reads its bytes, and corrects what it can. -/
theorem State.readRow_ok {s t : State} {req a n : Nat} {l : List Byte} (h : s.readRow req a n = (t, .ok l)) :
    l = s.mem.read a (64 * n) ∧ ReadsOn s t := by
  unfold State.readRow at h
  by_cases hc : s.memGate req a = 0
  · simp only [hc, ne_eq, not_true_eq_false, if_false] at h
    have ha := s.access_reads ⟨0, req, a, n, none, none⟩
    unfold State.readOut at h
    split at h
    · simp at h
    · simp only [Prod.mk.injEq, Except.ok.injEq] at h
      obtain ⟨rfl, rfl⟩ := h
      have hr := (s.access ⟨0, req, a, n, none, none⟩).correctAll_reads req a n
      exact ⟨by rw [ha.mem], ha.trans hr⟩
  · simp [hc] at h

/-- Row requests read in order until none fails: the bytes one after the other. -/
theorem readPieces_ok (req : Nat) (l : List (Nat × Nat)) (s : State) (h : (readPieces req l s).2.2 = 0) :
    (readPieces req l s).2.1 = l.flatMap (fun p => s.mem.read p.1 (64 * p.2))
      ∧ ReadsOn s (readPieces req l s).1 := by
  induction l generalizing s with
  | nil => exact ⟨rfl, ReadsOn.refl s⟩
  | cons p r ih =>
    obtain ⟨a, n⟩ := p
    rcases hr : s.readRow req a n with ⟨t, e⟩
    cases e with
    | error c =>
      exfalso
      simp only [readPieces, hr] at h
      unfold State.readRow at hr
      by_cases hc : s.memGate req a = 0
      · simp only [hc, ne_eq, not_true_eq_false, if_false] at hr
        unfold State.readOut at hr
        split at hr
        · simp only [Prod.mk.injEq, Except.error.injEq] at hr
          rw [← hr.2] at h; exact absurd h (by decide)
        · simp at hr
      · simp only [hc, ne_eq, not_false_eq_true, if_true, Prod.mk.injEq, Except.error.injEq] at hr
        exact hc (hr.2.trans h)
    | ok b =>
      obtain ⟨hb, ht⟩ := State.readRow_ok hr
      simp only [readPieces, hr] at h ⊢
      obtain ⟨h1, h2⟩ := ih t h
      refine ⟨?_, ?_⟩
      · rw [h1, hb, ht.mem]
        rfl
      · exact ht.trans h2

/-- The row pieces of a span cover it, in order. -/
theorem rowPieces_read (m : Memory) (fuel a n : Nat) (h : n < fuel) :
    (rowPieces fuel a n).flatMap (fun p => m.read p.1 (64 * p.2)) = m.read a (64 * n) := by
  induction fuel generalizing a n with
  | zero => omega
  | succ f ih =>
    simp only [rowPieces]
    by_cases h0 : n = 0
    · simp [h0, Memory.read]
    · simp only [h0, if_false, List.flatMap_cons]
      have hs : dpaSector a < 128 := Nat.mod_lt _ (by decide)
      rw [ih (a + 64 * min n (128 - dpaSector a)) (n - min n (128 - dpaSector a)) (by omega), Memory.read_append]
      congr 1
      omega

/-- A span that is read without an error: its bytes, and what its corrected sectors leave. -/
theorem State.readMem_ok (s : State) (req a n : Nat) (h : (s.readMem req a n).2.2 = 0) :
    (s.readMem req a n).2.1 = s.mem.read a (64 * n) ∧ ReadsOn s (s.readMem req a n).1 := by
  obtain ⟨h1, h2⟩ := readPieces_ok req _ s h
  exact ⟨h1.trans (rowPieces_read _ _ _ _ (by omega)), h2⟩

/-- A row request that is accepted stores its bytes. -/
theorem State.writeRow_ok {s t : State} {req a : Nat} {l : List Byte} (h : s.writeRow req a l = (t, 0)) :
    t = { s with regions := t.regions, waits := t.waits, mem := s.mem.write a l } := by
  unfold State.writeRow at h
  by_cases hc : s.memGate req a = 0
  · simp only [hc, ne_eq, not_true_eq_false, if_false, Prod.mk.injEq, and_true] at h
    obtain ⟨w, hw⟩ := s.access_only ⟨0, req, a, l.length / 64, some l, none⟩
    rw [← h, hw]
    rfl
  · simp_all

theorem writePieces_ok (req : Nat) (p : List (Nat × Nat)) (l : List Byte) (s : State) (h : (writePieces req p l s).2 = 0) :
    (writePieces req p l s).1 = { s with
        regions := (writePieces req p l s).1.regions, waits := (writePieces req p l s).1.waits,
        mem := (writePieces req p l s).1.mem } := by
  induction p generalizing s l with
  | nil => rfl
  | cons e r ih =>
    obtain ⟨a, n⟩ := e
    rcases hw : s.writeRow req a (l.take (64 * n)) with ⟨t, c⟩
    by_cases hc : c = 0
    · subst hc
      simp only [writePieces, hw] at h ⊢
      have ht := State.writeRow_ok hw
      rw [ih (l.drop (64 * n)) t h, ht]
    · exfalso
      simp only [writePieces, hw] at h
      exact hc h

/-- Bytes stored piece by piece: the pieces of the list at their addresses, every other byte as before. -/
theorem writePieces_byte (req fuel a n : Nat) (l : List Byte) (s : State) (hf : n < fuel) (hl : l.length = 64 * n)
    (h : (writePieces req (rowPieces fuel a n) l s).2 = 0) (x : Nat) :
    (writePieces req (rowPieces fuel a n) l s).1.mem.byte x
      = if a ≤ x ∧ x < a + 64 * n then l.getD (x - a) 0 else s.mem.byte x := by
  induction fuel generalizing s l a n with
  | zero => omega
  | succ f ih =>
    by_cases h0 : n = 0
    · subst h0
      have : ¬(a ≤ x ∧ x < a + 64 * 0) := by omega
      simp only [rowPieces, if_true, writePieces, this, if_false]
    · simp only [rowPieces, h0, if_false] at h ⊢
      obtain ⟨k, hk⟩ : ∃ k, k = min n (128 - dpaSector a) := ⟨_, rfl⟩
      have hs : dpaSector a < 128 := Nat.mod_lt _ (by decide)
      have hk1 : 1 ≤ k := by omega
      have hkn : k ≤ n := by omega
      rw [← hk] at h ⊢
      rcases hw : s.writeRow req a (l.take (64 * k)) with ⟨t, c⟩
      by_cases hc : c = 0
      · subst hc
        have ht := State.writeRow_ok hw
        simp only [writePieces, hw] at h ⊢
        rw [ih (a + 64 * k) (n - k) (l.drop (64 * k)) t (by omega) (by simp [hl]; omega) h]
        have hm : t.mem = s.mem.write a (l.take (64 * k)) := by rw [ht]
        have hlen : (l.take (64 * k)).length = 64 * k := by simp [hl]; omega
        rw [hm, Memory.byte_write, hlen]
        by_cases hx1 : a + 64 * k ≤ x ∧ x < a + 64 * n
        · rw [if_pos (by omega), if_pos (by omega)]
          simp only [List.getD_eq_getElem?_getD, List.getElem?_drop]
          congr 2
          omega
        · rw [if_neg (by omega)]
          by_cases hx2 : a ≤ x ∧ x < a + 64 * k
          · rw [if_pos hx2, if_pos (by omega)]
            simp only [List.getD_eq_getElem?_getD]
            rw [List.getElem?_take_of_lt (by omega)]
          · rw [if_neg hx2, if_neg (by omega)]
      · exfalso
        simp only [writePieces, hw] at h
        exact hc h

/-- A span of whole sectors that is stored without an error. -/
theorem State.writeMem_ok (s : State) (req a : Nat) (l : List Byte) (n : Nat) (hl : l.length = 64 * n)
    (h : (s.writeMem req a l).2 = 0) :
    (∀ x, (s.writeMem req a l).1.mem.byte x = if a ≤ x ∧ x < a + 64 * n then l.getD (x - a) 0 else s.mem.byte x)
      ∧ (s.writeMem req a l).1 = { s with
          regions := (s.writeMem req a l).1.regions, waits := (s.writeMem req a l).1.waits, mem := (s.writeMem req a l).1.mem } := by
  have hn : l.length / 64 = n := by omega
  refine ⟨fun x => ?_, writePieces_ok req _ l s h⟩
  unfold State.writeMem at h ⊢
  rw [hn] at h ⊢
  exact writePieces_byte req (n + 1) a n l s (by omega) hl h x

/-! Canonical form through the engines' operations. -/

theorem State.report_mem (s : State) (code unit detail : Nat) : (s.report code unit detail).mem = s.mem := by
  rcases s.report_cases code unit detail with h | h <;> rw [h]; rfl

theorem State.logMem_mem (s : State) (kind req a symbol : Nat) : (s.logMem kind req a symbol).mem = s.mem := by
  simp only [State.logMem]
  split
  · rfl
  · rw [State.setAll_fld]

theorem State.uncorrectable_mem (s : State) (req a : Nat) : (s.uncorrectable req a).mem = s.mem := by
  simp only [State.uncorrectable]
  rw [State.report_mem, State.logMem_mem]
  rfl

theorem State.readOut_mem (s : State) (req a n : Nat) : (s.readOut req a n).1.mem = s.mem := by
  unfold State.readOut
  split
  · rw [State.uncorrectable_mem, (s.correctAll_reads req a _).mem]
  · exact (s.correctAll_reads req a n).mem

theorem State.readRow_mem (s : State) (req a n : Nat) : (s.readRow req a n).1.mem = s.mem := by
  simp only [State.readRow]
  split
  · exact State.report_mem _ _ _ _
  · rw [State.readOut_mem, (s.access_reads _).mem]

theorem State.writeRow_wf (s : State) (req a : Nat) (l : List Byte) (h : s.mem.wf = true) :
    (s.writeRow req a l).1.mem.wf = true := by
  simp only [State.writeRow]
  split
  · rw [State.report_mem]; exact h
  · obtain ⟨w, hw⟩ := s.access_only ⟨0, req, a, l.length / 64, some l, none⟩
    rw [hw]
    exact Memory.wf_write _ _ _ h

theorem readPieces_mem (req : Nat) (l : List (Nat × Nat)) (s : State) : (readPieces req l s).1.mem = s.mem := by
  induction l generalizing s with
  | nil => rfl
  | cons p r ih =>
    obtain ⟨a, n⟩ := p
    have h1 := s.readRow_mem req a n
    rcases hr : s.readRow req a n with ⟨t, e⟩
    rw [hr] at h1
    cases e with
    | error c => simpa only [readPieces, hr] using h1
    | ok b => simp only [readPieces, hr]; rw [ih t]; exact h1

theorem writePieces_wf (req : Nat) (p : List (Nat × Nat)) (l : List Byte) (s : State) (h : s.mem.wf = true) :
    (writePieces req p l s).1.mem.wf = true := by
  induction p generalizing s l with
  | nil => exact h
  | cons e r ih =>
    obtain ⟨a, n⟩ := e
    have h1 := s.writeRow_wf req a (l.take (64 * n)) h
    rcases hw : s.writeRow req a (l.take (64 * n)) with ⟨t, c⟩
    rw [hw] at h1
    simp only [writePieces, hw]
    split
    · simp_all
    · simp_all

/-- A read of a span changes no byte. -/
theorem State.readMem_mem (s : State) (req a n : Nat) : (s.readMem req a n).1.mem = s.mem := readPieces_mem _ _ _
/-- A write of a span keeps the canonical form, whether it fails or not. -/
theorem State.writeMem_wf (s : State) (req a : Nat) (l : List Byte) (h : s.mem.wf = true) :
    (s.writeMem req a l).1.mem.wf = true := writePieces_wf _ _ _ _ h

/-! Tile SRAM. -/

/-- A read of SRAM after a write. -/
theorem Tile.sram_write (x : Tile) (a y : Nat) (l : List Byte) :
    Sparse.get 0 y (x.writeSram a l).sram = if a ≤ y ∧ y < a + l.length then l.getD (y - a) 0 else Sparse.get 0 y x.sram :=
  putBytes_get l x.sram a y

@[simp] theorem Tile.readSram_length (x : Tile) (a n : Nat) : (x.readSram a n).length = n := by simp [Tile.readSram]

theorem Tile.readSram_getD (x : Tile) (a n i : Nat) (h : i < n) : (x.readSram a n).getD i 0 = Sparse.get 0 (a + i) x.sram := by
  simp [Tile.readSram, h]

/-! Reads that nothing delays and nothing disturbs. -/

/-- A row that a requester reads at once and without an error: no code, no wait, no sector to correct. -/
abbrev State.calm (s : State) (req a n : Nat) : Bool :=
  s.memGate req a == 0 && !s.mustWait ⟨0, req, a, n, none, none⟩ && (firstBad s.mem.bad (a / 64) n).isNone && s.mem.weak.isEmpty

/-- A calm row is read, and the read changes nothing. -/
theorem State.readRow_calm {s : State} {req a n : Nat} (h : s.calm req a n = true) :
    s.readRow req a n = (s, .ok (s.mem.read a (64 * n))) := by
  simp only [State.calm, Bool.and_eq_true, beq_iff_eq, Bool.not_eq_true', Option.isNone_iff_eq_none, List.isEmpty_iff] at h
  obtain ⟨⟨⟨hg, hw⟩, hb⟩, hk⟩ := h
  unfold State.readRow State.access
  simp [hg, hw, State.readOut, hb, State.correctAll, hk]

/-- A span of calm rows is read, and the read changes nothing. -/
theorem readPieces_calm {s : State} {req : Nat} (l : List (Nat × Nat)) (h : ∀ p ∈ l, s.calm req p.1 p.2 = true) :
    readPieces req l s = (s, l.flatMap (fun p => s.mem.read p.1 (64 * p.2)), 0) := by
  induction l with
  | nil => rfl
  | cons p r ih =>
    obtain ⟨a, n⟩ := p
    have h0 := State.readRow_calm (h (a, n) List.mem_cons_self)
    simp only [readPieces, h0, ih fun q hq => h q (List.mem_cons_of_mem _ hq), List.flatMap_cons]

theorem State.readMem_calm {s : State} {req a n : Nat} (h : ∀ p ∈ rowPieces (n + 1) a n, s.calm req p.1 p.2 = true) :
    s.readMem req a n = (s, s.mem.read a (64 * n), 0) := by
  rw [State.readMem, readPieces_calm _ h, rowPieces_read _ _ _ _ (by omega)]

/-- A span of a partition whose sectors are all calm is read, and the read changes nothing. -/
theorem readPartFrom_calm {s : State} {req part : Nat} (k n : Nat)
    (h : ∀ i < n, (s.partSector part (k + i)).elim false (fun a => s.calm req a 1) = true) :
    ∃ l, readPartFrom req part k n s = (s, l, 0) ∧ l.length = 64 * n
      ∧ l = (List.range n).flatMap fun i => (s.partSector part (k + i)).elim [] fun a => s.mem.read a 64 := by
  induction n generalizing k with
  | zero => exact ⟨[], rfl, rfl, rfl⟩
  | succ n ih =>
    have h0 := h 0 (by omega)
    obtain ⟨l, e, hl, hv⟩ := ih (k + 1) fun i hi => by
      have := h (i + 1) (by omega)
      rwa [show k + (i + 1) = k + 1 + i by omega] at this
    rw [Nat.add_zero] at h0
    cases hp : s.partSector part k with
    | none => rw [hp] at h0; simp at h0
    | some a =>
      rw [hp] at h0
      have hr := State.readRow_calm (s := s) (req := req) (a := a) (n := 1) h0
      refine ⟨s.mem.read a 64 ++ l, ?_, ?_, ?_⟩
      · simp only [readPartFrom, hp, hr, e]
      · rw [List.length_append, hl]; simp [Memory.read]; omega
      · rw [List.range_succ_eq_map, List.flatMap_cons, List.flatMap_map, hv]
        simp only [Nat.add_zero, hp, Option.elim, Nat.succ_eq_add_one, Nat.add_assoc, Nat.add_comm 1]

theorem State.readPart_calm {s : State} {req part off len : Nat}
    (h : ∀ i < len / 64, (s.partSector part (off / 64 + i)).elim false (fun a => s.calm req a 1) = true) :
    ∃ l, s.readPart req part off len = (s, l, 0) ∧ l.length = 64 * (len / 64)
      ∧ l = (List.range (len / 64)).flatMap fun i => (s.partSector part (off / 64 + i)).elim [] fun a => s.mem.read a 64 :=
  readPartFrom_calm _ _ h

/-- A row that a requester writes at once. -/
abbrev State.writable (s : State) (req a n : Nat) : Bool := s.memGate req a == 0 && !s.mustWait ⟨0, req, a, n, some [], none⟩

/-- A span of rows that are written at once is written whole, and no access waits. -/
theorem writePieces_writable {s : State} {req : Nat} (p : List (Nat × Nat)) (l : List Byte) (hl : l.length = 64 * (p.map (·.2)).sum)
    (h : ∀ e ∈ p, s.writable req e.1 e.2 = true) (m : Memory) (f : List Nat) :
    let t : State := { s with mem := m, regions := { s.regions with fixes := f } }
    (writePieces req p l t).2 = 0 ∧ (writePieces req p l t).1.waits = s.waits := by
  induction p generalizing l m f with
  | nil => exact ⟨rfl, rfl⟩
  | cons e r ih =>
    obtain ⟨a, n⟩ := e
    intro t
    have h0 := h (a, n) List.mem_cons_self
    simp only [State.writable, Bool.and_eq_true, beq_iff_eq, Bool.not_eq_true'] at h0
    obtain ⟨hg, hw⟩ := h0
    simp only [List.map_cons, List.sum_cons] at hl
    have hn : (l.take (64 * n)).length / 64 = n := by
      rw [List.length_take, Nat.min_eq_left (by omega)]; omega
    have hg' : t.memGate req a = 0 := hg
    have hw' : t.mustWait ⟨0, req, a, n, some (l.take (64 * n)), none⟩ = false := hw
    have hr : ∃ m' f', t.writeRow req a (l.take (64 * n)) = ({ s with mem := m', regions := { s.regions with fixes := f' } }, 0) := by
      refine ⟨m.write a (l.take (64 * n)), f.filter fun k => !(decide (a ≤ k) && decide (k < a + 64 * n)), ?_⟩
      simp only [State.writeRow, hg', hn, State.access, hw', State.dropFixes, ne_eq, not_true_eq_false, if_false, Bool.false_eq_true]
      rfl
    obtain ⟨m', f', hr⟩ := hr
    simp only [writePieces, hr]
    exact ih (l.drop (64 * n)) (by rw [List.length_drop]; omega) (fun e he => h e (List.mem_cons_of_mem _ he)) m' f'

/-- A span of memory that is written at once is written whole, and no access waits. -/
theorem State.writeMem_writable {s : State} {req a n : Nat} {l : List Byte} (hn : l.length = 64 * n)
    (hl : ((rowPieces (n + 1) a n).map (·.2)).sum = n) (h : ∀ e ∈ rowPieces (n + 1) a n, s.writable req e.1 e.2 = true) :
    (s.writeMem req a l).2 = 0 ∧ (s.writeMem req a l).1.waits = s.waits := by
  have e : l.length / 64 = n := by omega
  rw [State.writeMem, e]
  exact writePieces_writable _ l (by rw [hl]; exact hn) h s.mem s.regions.fixes

end Sys2Proof.Machine
end

