-- ==== Sys2Proof/WellFormed.lean ====
section
/-!
DEFINITION. Which commands are well-formed: operands within the ranges that the spec gives the units, registers and frames they
name. The meanings do not refuse an ill-formed command; a command from the table always satisfies this.
-/
namespace Sys2Proof

open Machine

/-- What the lanes of a port bring: words of 32 bytes, each on one of the port's 32 lanes (R261, R265). -/
def lineOk (rx : LineRx) : Bool := rx.words.all fun w => decide (w.1 < 32) && decide (w.2 < 2 ^ 256)

/-- Whether every operand lies in the range that the spec gives it. -/
def Instr.wf : Instr → Bool
  | .registerWrite m off len value _ _ => decide (1 ≤ m) && decide (m ≤ 36) && decide (off < 2 ^ 26) && off % len == 0 && (len == 4 || len == 8) && decide (value < 2 ^ 64)
  | .nop t n bad => decide (t < 256) && decide (n < 2) && (bad.all fun k => decide (k < 32768))
  | .endStream t n bad => decide (t < 256) && decide (n < 2) && (bad.all fun k => decide (k < 32768))
  | .tag t n bad => decide (t < 256) && decide (n < 2) && (bad.all fun k => decide (k < 32768))
  | .wait t n bad => decide (t < 256) && decide (n < 2) && (bad.all fun k => decide (k < 32768))
  | .waitRelease t n bad => decide (t < 256) && decide (n < 2) && (bad.all fun k => decide (k < 32768))
  | .signal t n bad => decide (t < 256) && decide (n < 2) && (bad.all fun k => decide (k < 32768))
  | .xadd t n bad => decide (t < 256) && decide (n < 2) && (bad.all fun k => decide (k < 32768))
  | .xget t n bad => decide (t < 256) && decide (n < 2) && (bad.all fun k => decide (k < 32768))
  | .bnz t n bad => decide (t < 256) && decide (n < 2) && (bad.all fun k => decide (k < 32768))
  | .kset t n bad => decide (t < 256) && decide (n < 2) && (bad.all fun k => decide (k < 32768))
  | .ld t n bad => decide (t < 256) && decide (n < 2) && (bad.all fun k => decide (k < 32768))
  | .st t n bad => decide (t < 256) && decide (n < 2) && (bad.all fun k => decide (k < 32768))
  | .gld t n bad => decide (t < 256) && decide (n < 2) && (bad.all fun k => decide (k < 32768))
  | .gst t n bad => decide (t < 256) && decide (n < 2) && (bad.all fun k => decide (k < 32768))
  | .hostld t n bad => decide (t < 256) && decide (n < 2) && (bad.all fun k => decide (k < 32768))
  | .hostst t n bad => decide (t < 256) && decide (n < 2) && (bad.all fun k => decide (k < 32768))
  | .pref t n bad => decide (t < 256) && decide (n < 2) && (bad.all fun k => decide (k < 32768))
  | .send t n bad => decide (t < 256) && decide (n < 2) && (bad.all fun k => decide (k < 32768))
  | .recv t n bad => decide (t < 256) && decide (n < 2) && (bad.all fun k => decide (k < 32768))
  | .free t n bad => decide (t < 256) && decide (n < 2) && (bad.all fun k => decide (k < 32768))
  | .sload t n bad => decide (t < 256) && decide (n < 2) && (bad.all fun k => decide (k < 32768))
  | .gbload t n bad => decide (t < 256) && decide (n < 2) && (bad.all fun k => decide (k < 32768))
  | .mpass t n bad => decide (t < 256) && decide (n < 2) && (bad.all fun k => decide (k < 32768))
  | .ouset t n bad => decide (t < 256) && decide (n < 2) && (bad.all fun k => decide (k < 32768))
  | .oufin t n bad => decide (t < 256) && decide (n < 2) && (bad.all fun k => decide (k < 32768))
  | .ousave t n bad => decide (t < 256) && decide (n < 2) && (bad.all fun k => decide (k < 32768))
  | .ourestore t n bad => decide (t < 256) && decide (n < 2) && (bad.all fun k => decide (k < 32768))
  | .chainout t n bad => decide (t < 256) && decide (n < 2) && (bad.all fun k => decide (k < 32768))
  | .chainin t n bad => decide (t < 256) && decide (n < 2) && (bad.all fun k => decide (k < 32768))
  | .chainPairArrival t c => decide (t < 256) && decide (c < 256)
  | .gradout t n bad => decide (t < 256) && decide (n < 2) && (bad.all fun k => decide (k < 32768))
  | .vop t n bad => decide (t < 256) && decide (n < 2) && (bad.all fun k => decide (k < 32768))
  | .normFwd t n bad => decide (t < 256) && decide (n < 2) && (bad.all fun k => decide (k < 32768))
  | .normBwdAcc t n bad => decide (t < 256) && decide (n < 2) && (bad.all fun k => decide (k < 32768))
  | .normBwdFin t n bad => decide (t < 256) && decide (n < 2) && (bad.all fun k => decide (k < 32768))
  | .attnP t n bad => decide (t < 256) && decide (n < 2) && (bad.all fun k => decide (k < 32768))
  | .attnO t n bad => decide (t < 256) && decide (n < 2) && (bad.all fun k => decide (k < 32768))
  | .attnFin t n bad => decide (t < 256) && decide (n < 2) && (bad.all fun k => decide (k < 32768))
  | .attnDterm t n bad => decide (t < 256) && decide (n < 2) && (bad.all fun k => decide (k < 32768))
  | .attnDs t n bad => decide (t < 256) && decide (n < 2) && (bad.all fun k => decide (k < 32768))
  | .xentBlk t n bad => decide (t < 256) && decide (n < 2) && (bad.all fun k => decide (k < 32768))
  | .xentGrad t n bad => decide (t < 256) && decide (n < 2) && (bad.all fun k => decide (k < 32768))
  | .kstore t n bad => decide (t < 256) && decide (n < 2) && (bad.all fun k => decide (k < 32768))
  | .kload t n bad => decide (t < 256) && decide (n < 2) && (bad.all fun k => decide (k < 32768))
  | .gainout t n bad => decide (t < 256) && decide (n < 2) && (bad.all fun k => decide (k < 32768))
  | .xentLoss t n bad => decide (t < 256) && decide (n < 2) && (bad.all fun k => decide (k < 32768))
  | .stalledIssue t n bad => decide (t < 256) && decide (n < 2) && (bad.all fun k => decide (k < 32768))
  | .instructionComplete t _ => decide (t < 256)
  | .meshDelivery t c => decide (t < 256) && decide (c < 256)
  | .creditReturn t c => decide (t < 256) && decide (c < 256)
  | .tileOpenTimeout t => decide (t < 256)
  | .openStep m => decide (1 ≤ m) && decide (m ≤ 36)
  | .deferredOpen => true
  | .abortReq m => decide (1 ≤ m) && decide (m ≤ 36)
  | .regather m => decide (1 ≤ m) && decide (m ≤ 36)
  | .rollback m => decide (1 ≤ m) && decide (m ≤ 36)
  | .sendReady => true
  | .readyFrame p _ rx => decide (p < 4) && lineOk rx
  | .failFrame p _ rx => decide (p < 4) && lineOk rx
  | .commitFrame p _ rx => decide (p < 4) && lineOk rx
  | .abortFrame p _ rx => decide (p < 4) && lineOk rx
  | .aDone p _ rx => decide (p < 4) && lineOk rx
  | .stepTimeout => true
  | .poll p _ rx => decide (p < 4) && lineOk rx
  | .pollReply p _ rx => decide (p < 4) && lineOk rx
  | .pollResend => true
  | .pollClose _ => true
  | .stage m => decide (1 ≤ m) && decide (m ≤ 36)
  | .stageComplete _ _ => true
  | .check m => decide (1 ≤ m) && decide (m ≤ 36)
  | .checkComplete => true
  | .arm m => decide (1 ≤ m) && decide (m ≤ 36)
  | .disarm m => decide (1 ≤ m) && decide (m ≤ 36)
  | .discard m => decide (1 ≤ m) && decide (m ≤ 36)
  | .installation => true
  | .resourceClaim res inst owner arg _ => decide (res < 256) && decide (inst < 2 ^ 16) && decide (owner < 16) && decide (arg < 2 ^ 16)
  | .memRequest req a n _ _ => decide (req < 512) && decide (a < 2 ^ 64) && decide (1 ≤ n) && decide (n ≤ 128)
  | .memRequestAccept _ _ => true
  | .memRequestDone _ _ _ => true
  | .correctedWriteback a => decide (a < 2 ^ 40)
  | .refreshRow w l _ _ => decide (w < 320) && decide (l < 8)
  | .refreshBandRelax w l => decide (w < 320) && decide (l < 8)
  | .scrubRead w l _ _ => decide (w < 320) && decide (l < 8)
  | .hopFrameResend c l _ => decide (c < 5) && decide (l < 8)
  | .layReset m w l => decide (1 ≤ m) && decide (m ≤ 36) && decide (w < 320) && decide (l < 8)
  | .layResetEnd c l => decide (c < 5) && decide (l < 8)
  | .colReset m c => decide (1 ≤ m) && decide (m ≤ 36) && decide (c < 5)
  | .colResetDrained c => decide (c < 5)
  | .colResetDrainTimeout c => decide (c < 5)
  | .colResetEnd c => decide (c < 5)
  | .reduceFlit p _ rx => decide (p < 4) && lineOk rx
  | .originateSegment seg ring => decide (seg < 2 ^ 32) && decide (ring < 2)
  | .heldSliceAdd p c => decide (p < 4) && decide (c < 64)
  | .gatherFlit p _ rx => decide (p < 4) && lineOk rx
  | .skipNotice p _ rx => decide (p < 4) && lineOk rx
  | .skipCopy => true
  | .skipNoticeSend ring => decide (ring < 2)
  | .lowRankSequence j => decide (j < 4096)
  | .lowRankRound1Done j => decide (j < 4096)
  | .lowRankRound2Done j => decide (j < 4096)
  | .digestFlit p _ rx => decide (p < 4) && lineOk rx
  | .digestCompute => true
  | .narrowingSend => true
  | .updateProgramSegment g seg => decide (g < 2 ^ 16) && decide (seg < 2 ^ 32)
  | .updateProgramPass g p seg => decide (g < 2 ^ 16) && decide (p < 4) && decide (seg < 2 ^ 32)
  | .updPass u g seg p => decide (u < 16) && decide (g < 2 ^ 16) && decide (seg < 2 ^ 32) && decide (p < 4)
  | .updEnd u => decide (u < 16)
  | .updWcf u g seg => decide (u < 16) && decide (g < 2 ^ 16) && decide (seg < 2 ^ 32)
  | .updAdd u => decide (u < 16)
  | .updSub u => decide (u < 16)
  | .updMul u => decide (u < 16)
  | .updFma u => decide (u < 16)
  | .updMax u => decide (u < 16)
  | .updMin u => decide (u < 16)
  | .updNeg u => decide (u < 16)
  | .updAbs u => decide (u < 16)
  | .updCmplt u => decide (u < 16)
  | .updSel u => decide (u < 16)
  | .updExp2 u => decide (u < 16)
  | .updLog2 u => decide (u < 16)
  | .updRcp u => decide (u < 16)
  | .updRsqrt u => decide (u < 16)
  | .updSqrt u => decide (u < 16)
  | .updAcc u => decide (u < 16)
  | .updStw u => decide (u < 16)
  | .updStm u => decide (u < 16)
  | .updStf u => decide (u < 16)
  | .wcDerive => true
  | .latePendingCopy g seg => decide (g < 2 ^ 16) && decide (seg < 2 ^ 32)
  | .lateApplication g _ => decide (g < 2 ^ 16)
  | .podExchangeSend g seg pod => decide (g < 2 ^ 16) && decide (seg < 2 ^ 32) && decide (pod < 64)
  | .podCopyReceive qp _ => decide (qp < 1024)
  | .podTimeout g _ => decide (g < 2 ^ 16)
  | .bar0Unsupported off _ => decide (off < 2 ^ 26)
  | .bar2Read x _ => decide (x < 2 ^ 38)
  | .bar2Write x data mask => decide (x < 2 ^ 38) && mask.length == data.length
  | .cxlMemRead hpa share => decide (hpa < 2 ^ 64) && decide (share < 3)
  | .cxlMemWrite hpa data mask => decide (hpa < 2 ^ 64) && data.length == 64 && mask.length == data.length
  | .queueEnable m q size => decide (1 ≤ m) && decide (m ≤ 36) && decide (q < 4) && decide (size < 32)
  | .queueDisable m q => decide (1 ≤ m) && decide (m ≤ 36) && decide (q < 4)
  | .sqTailDoorbell m q v => decide (1 ≤ m) && decide (m ≤ 36) && decide (q < 4) && decide (v < 2 ^ 17)
  | .cqHeadDoorbell m q v => decide (1 ≤ m) && decide (m ≤ 36) && decide (q < 4) && decide (v < 2 ^ 17)
  | .descriptorFetch q bytes => decide (q < 4) && bytes.length == 64
  | .commandStart q => decide (q < 4)
  | .cmdNop q => decide (q < 4)
  | .copy q _ _ => decide (q < 4)
  | .fill q _ => decide (q < 4)
  | .bias q => decide (q < 4)
  | .fcFlush q _ => decide (q < 4)
  | .commandComplete q => decide (q < 4)
  | .bisnpResponse line _ _ => decide (line < 3 * 2 ^ 30)
  | .biasSnoopTimeout p => decide (p < 196608)
  | .farCacheFillDone part line _ _ data _ => decide (part < 2 ^ 16) && decide (line < 2 ^ 58) && data.length == 64
  | .hostSnoop line kind => decide (line < 2 ^ 58) && decide (kind < 3)
  | .linkRecovery => true
  | .linkOutTimeout => true
  | .hotReset => true
  | .functionLevelReset => true
  | .dlDown => true
  | .perst => true
  | .nvmeRead q => decide (q < 4)
  | .nvmeWrite q _ _ => decide (q < 4)
  | .ckptWrite q => decide (q < 4)
  | .ckptReadComplete q _ _ => decide (q < 4)
  | .ckptRestore q => decide (q < 4)
  | .ingestPrefill q => decide (q < 4)
  | .nvmeCompletion _ _ _ => true
  | .nvmeTimeout _ => true
  | .ingestComplete => true
  | .ingestEnable m ctrl part blocks => decide (1 ≤ m) && decide (m ≤ 36) && decide (ctrl < 16) && decide (part < 2 ^ 16) && decide (blocks < 2 ^ 20)
  | .podSetWrite m k timeout part base self count => decide (1 ≤ m) && decide (m ≤ 36) && decide (1 ≤ k) && decide (k ≤ 15) && decide (timeout < 2 ^ 16) && decide (part < 2 ^ 16) && decide (base < 2 ^ 10) && decide (self < 2 ^ 8) && decide (count < 2 ^ 8)
  | .ptpEnable m p => decide (1 ≤ m) && decide (m ≤ 36) && decide (p < 2)
  | .ptpMessage p kind t => decide (p < 2) && decide (kind < 16) && decide (t < 2 ^ 80)
  | .peerRdmaRequest qp _ _ _ _ _ => decide (qp < 1024)
  | .qpError qp => decide (qp < 1024)
  | .ethLinkDown p => decide (p < 2)
  | .linkControlFlit p rx _ => decide (p < 4) && lineOk rx
  | .ackTimer p => decide (p < 4)
  | .linkRetrainDone p bad => decide (p < 4) && decide (bad < 2 ^ 32)
  | .laneFailed p lane power ser _ => decide (p < 4) && decide (lane < 32) && decide (power < 2 ^ 16) && decide (ser < 2 ^ 16)
  | .laneMapSwitch p dir => decide (p < 4) && decide (dir < 2)
  | .laneRetest p lane => decide (p < 4) && decide (lane < 32)
  | .laneRejoin p lane power ser => decide (p < 4) && decide (lane < 32) && decide (power < 2 ^ 16) && decide (ser < 2 ^ 16)
  | .join m ring _ => decide (1 ≤ m) && decide (m ≤ 36) && decide (ring < 2)
  | .switchOpenReached ring => decide (ring < 2)
  | .leave m ring => decide (1 ≤ m) && decide (m ≤ 36) && decide (ring < 2)
  | .rosterReset m => decide (1 ≤ m) && decide (m ≤ 36)
  | .bypassFault ring => decide (ring < 2)
  | .linkUp p serial rx tx margin => decide (p < 4) && decide (serial < 2 ^ 64) && decide (rx < 2 ^ 32) && decide (tx < 2 ^ 32) && decide (margin < 256)
  | .linkDownTimeout p => decide (p < 4)
  | .hold p _ rx => decide (p < 4) && lineOk rx
  | .discover p _ rx => decide (p < 4) && lineOk rx
  | .discoveryTimeout ring => decide (ring < 2)
  | .ringWrap p => decide (p < 4)
  | .syncSend p frac => decide (p < 4) && decide (frac < 2 ^ 16)
  | .delayExchange p frac => decide (p < 4) && decide (frac < 2 ^ 16)
  | .sync p frac rx => decide (p < 4) && decide (frac < 2 ^ 16) && lineOk rx
  | .delayReq p frac rx => decide (p < 4) && decide (frac < 2 ^ 16) && lineOk rx
  | .delayResp p frac _ rx => decide (p < 4) && decide (frac < 2 ^ 16) && lineOk rx
  | .timeHoldover => true
  | .mailboxWrite m n word => decide (1 ≤ m) && decide (m ≤ 36) && decide (n < 32) && decide (word < 2 ^ 64)
  | .heldMessageSend n => decide (n < 32)
  | .mailboxTake m n => decide (1 ≤ m) && decide (m ≤ 36) && decide (n < 32)
  | .mailboxClear m n => decide (1 ≤ m) && decide (m ≤ 36) && decide (n < 32)
  | .mailboxLockClaim m n => decide (1 ≤ m) && decide (m ≤ 36) && decide (n < 32)
  | .mailboxLockRelease m n => decide (1 ≤ m) && decide (m ≤ 36) && decide (n < 32)
  | .mbxBindWrite m n sender receiver => decide (1 ≤ m) && decide (m ≤ 36) && decide (n < 32) && decide (sender < 256) && decide (receiver < 256)
  | .mbxBindLock m => decide (1 ≤ m) && decide (m ≤ 36)
  | .fwWrite m => decide (1 ≤ m) && decide (m ≤ 36)
  | .fwWriteDone _ => true
  | .fwActivate m => decide (1 ≤ m) && decide (m ≤ 36)
  | .fwConfirm m => decide (1 ≤ m) && decide (m ≤ 36)
  | .ownerRequest m _ => decide (1 ≤ m) && decide (m ≤ 36)
  | .devReset m => decide (1 ≤ m) && decide (m ≤ 36)
  | .sbDevReset m => decide (1 ≤ m) && decide (m ≤ 36)
  | .mcReset m => decide (1 ≤ m) && decide (m ≤ 36)
  | .watchdogExpiry => true
  | .jeoftStart => true
  | .doeDiscovery _ => true
  | .getCert _ => true
  | .attest _ => true
  | .enrolEnable m => decide (1 ≤ m) && decide (m ≤ 36)
  | .enrolEnableExpiry => true
  | .errorReport _ => true
  | .hourlyWearRecord => true
  | .smbusWrite off data _ => decide (off < 2 ^ 32) && (data.length == 4 || data.length == 8)
  | .smbusRead off len _ => decide (off < 2 ^ 32) && (len == 4 || len == 8)
  | .powerOn straps _ => decide (straps < 4)
  | .inputLow _ => true
  | .inputHigh _ => true
  | .inputHoldEnd => true
  | .inputLost => true
  | .mateOpen => true
  | .sbVrefLow => true
  | .regulatorFault kind _ _ => decide (kind < 4)
  | .layerRegulatorRecovered c l => decide (c < 5) && decide (1 ≤ l) && decide (l ≤ 8)
  | .powerDivision _ power demand _ _ => power.length == 5 && demand.length == 5
  | .fastLoop _ => true
  | .pwrLimitWrite m watts => decide (1 ≤ m) && decide (m ≤ 36) && decide (watts < 2 ^ 13)
  | .thermalTick c sensors powers _ _ => decide (c < 5) && sensors.length == 64 && powers.length == 64
  | .warnStep c => decide (c < 5)
  | .criticalEntry c => decide (c < 5)
  | .columnStateRelax c => decide (c < 5)
  | .sensorSuspect c r j => decide (c < 5) && decide (r < 64) && decide (j ≤ 8)
  | .suspectClear => true
  | .marginStart m c => decide (1 ≤ m) && decide (m ≤ 36) && decide (c < 8)
  | .marginDone _ => true
  | .tileIdle t => decide (t < 256)
  | .tileSleep t => decide (t < 256)
  | .tileOff t => decide (t < 256)
  | .pllOff k => decide (k < 32)
  | .tileWake t => decide (t < 256)
  | .wakeAdmission => true
  | .counterSelect cmd k scope inst event => decide (k < if cmd then 8 else 64) && decide (scope < 8) && decide (inst < 2 ^ 9) && decide (event < 2 ^ 16)
  | .freezeArm m => decide (1 ≤ m) && decide (m ≤ 36)
  | .freezeDisarm m => decide (1 ≤ m) && decide (m ≤ 36)
  | .freezeEdge => true
  | .resumeAtWrite t => decide (t < 2 ^ 64)
  | .resume => true
  | .digestLogEnable => true
  | .traceEnable => true
  | .replayStart m => decide (1 ≤ m) && decide (m ≤ 36)
  | .replayGatherDone => true
  | .replayRunDone => true
  | .replayCompareDone => true
  | .replayCancel m => decide (1 ≤ m) && decide (m ≤ 36)
  | .tileReset m k mask => decide (1 ≤ m) && decide (m ≤ 36) && decide (k < 32) && decide (mask < 256)
  | .cluReset m k => decide (1 ≤ m) && decide (m ≤ 36) && decide (k < 32)
  | .tileResetEnd k j => decide (k < 32) && decide (j < 8)
  | .cluResetEnd k => decide (k < 32)
  | .hostLinkL0 rate width _ => decide (1 ≤ rate) && decide (rate ≤ 7) && [1, 2, 4, 8].contains width
  | .perstDeassert => true
  | .ethLinkUp p _ => decide (p < 2)
  | .tileWakeDone t => decide (t < 256)
  | .configRequest _ _ _ => true
  | .arpRequest p => decide (p < 2)
  | .namespaceReport ctrl _ _ _ => decide (ctrl < 16)
  | .reservedTypeFlit p rx => decide (p < 4) && lineOk rx

end Sys2Proof
end

