-- ==== Sys2Proof/Tests/Slice0.lean ====
section
/-!
SUPPORT. Small checks of the model: ill-formed commands are refused by the check, and a state and operands meet the premises of every clause
of every statement.
-/
namespace Sys2Proof.Tests

-- The checks below are heavy for the kernel: one at a time.
set_option Elab.async false

open Machine

/-- The state that a command answers. -/
def after (c : Instr) (s : State) : State := match exec c s with
  | .next u => u
  | _ => s

/-- A configuration whose tile 0 runs `ws` forward and has the descriptors `ds`, with `routes` and `chans`; a vent extent and a host extent of
16 pages each are granted to it. -/
def planOf (ws : List Nat) (ds : List Desc := []) (routes : List (Nat × Route) := []) (chans : List (Nat × ChanPlan) := []) : Plan :=
  ⟨[], [⟨ws, 0, [], 0, ds, []⟩], [⟨routes, chans⟩],
    ⟨7, [], [], [⟨1, 1, 16, 2 ^ 33, 3⟩, ⟨2, 7, 16, 0, 3⟩]⟩, [⟨30, 10, 2, 2, 100⟩], RingPlan.empty, 0, [], [], [], []⟩

/-- An open step in which stream 0 of tile 0 issues the first instruction of the plan. -/
def issuing (p : Plan) : State :=
  { State.reset with plan := some p }.setAll [(F.STEP_STATUS_STATE, 1), (F.CFG_STATUS_ACTIVE, 1), (F.PWR_CLU_TILES 0, 0),
    (F.TILE_SEQ_STATUS_STATE 0 0, 1)]

def runs (w : Nat) : State := issuing (planOf [w])

/-- A memory descriptor of 64 sectors of the vent extent, and a host one. -/
def ventDesc : Desc := ⟨2 ^ 33, 4096, 1, 3, 1⟩
def geyserDesc : Desc := ⟨2 ^ 33, 4096, 2, 3, 1⟩
def hostDesc : Desc := ⟨0, 4096, 4, 3, 2⟩
def moves (w : Nat) : State := issuing (planOf [w] [ventDesc, geyserDesc, hostDesc] [(0, ⟨0, 0⟩), (1, ⟨0, 1⟩)] [(0, ⟨64, 4, 2⟩), (1, ⟨0, 0, 0⟩)])


/-- The words of NOP, SIGNAL 15 by 65535, XADD X1 by 2^32 − 1, XGET of the tile's number, and KSET of K0 and K15. -/
theorem witness_ScalarInstructionsComplete :
    Issues 0x00 0 0 0x1F00 [] (runs 0x1F00) ∧ onlyBits [] 0x1F00 = true
    ∧ Issues 0x04 0 0 0xFFFFF0004 [] (runs 0xFFFFF0004) ∧ onlyBits [(35, 16)] 0xFFFFF0004 = true
    ∧ Issues 0x05 0 0 0xFFFFFFFF00010005 [] (runs 0xFFFFFFFF00010005) ∧ onlyBits [(23, 16), (63, 32)] 0xFFFFFFFF00010005 = true
    ∧ Issues 0x06 0 0 0x2F0006 [] (runs 0x2F0006) ∧ onlyBits [(23, 16)] 0x2F0006 = true ∧ bitsOf 0x2F0006 23 20 < 3
    ∧ Issues 0x08 0 0 (2 ^ 96 + 0x10F * 2 ^ 64 + 8) [] (runs (2 ^ 96 + 0x10F * 2 ^ 64 + 8))
    ∧ onlyBits [(23, 16), (72, 32), (127, 96)] (2 ^ 96 + 0x10F * 2 ^ 64 + 8) = true
    ∧ bitsOf (2 ^ 96 + 0x10F * 2 ^ 64 + 8) 19 16 ≠ bitsOf (2 ^ 96 + 0x10F * 2 ^ 64 + 8) 67 64 := by
  refine ⟨?_, ?_, ?_, ?_, ?_, ?_, ?_, ?_, ?_, ?_, ?_, ?_⟩ <;> first | decide +kernel | (constructor <;> decide +kernel)

/-- SIGNAL adds to its counter; XADD wraps X1 at 2^32. -/
theorem test_scalar :
    (after (.signal 0 0 []) (runs 0xFFFFF0004)).g (F.TILE_EVT_COUNT 0 15) = 65535
    ∧ ((after (.xadd 0 0 []) (runs 0xFFFFFFFF00010005)).stream 0 0).xr 1 = 0xFFFFFFFF
    ∧ (after (.nop 0 0 []) (runs 0x1F00)).g (F.TILE_EVT_COUNT 0 15) = 1
    ∧ ((after (.kset 0 0 []) (runs (2 ^ 96 + 0x10F * 2 ^ 64 + 8))).stream 0 0).kr 15 = 1 := by decide +kernel

/-- LD and ST of the last two sectors of a descriptor, GLD and GST of its last row. -/
theorem witness_DescriptorTransfersMoveTheirSectors :
    let ld := 2 * 2 ^ 81 + 4094 * 2 ^ 28 + 0x10
    let gld := 2 ^ 81 + 31 * 2 ^ 28 + 2 ^ 16 + 0x12
    let a := sectorAccess 0 0 ld (moves ld)
    let r := rowAccess 0 0 gld (moves gld)
    (Issues 0x10 0 0 ld [] (moves ld) ∧ onlyBits [(97, 16)] ld = true ∧ a.len ≠ 0
      ∧ accessChecks 0 (moves ld) a [dkVENT, dkREMOTE] [(a.sram, a.len)] a.off a.len true false = 0
      ∧ reserveStall ((moves ld).tile 0) 0 [a.d.span a.off a.len] [sramSpan (a.sram, a.len)] = none
      ∧ ((moves ld).readMem 0 (a.d.base + 64 * a.off) a.len).2.2 = 0
      ∧ Unhindered (moves ld) ((moves ld).readMem 0 (a.d.base + 64 * a.off) a.len).1)
    ∧ (Issues 0x11 0 0 (ld + 1) [] (moves (ld + 1)) ∧ onlyBits [(97, 16)] (ld + 1) = true
      ∧ accessChecks 0 (moves (ld + 1)) a [dkVENT, dkREMOTE] [(a.sram, a.len)] a.off a.len true true = 0
      ∧ firstBad ((moves (ld + 1)).tile 0).badSectors a.sram a.len = none
      ∧ (let r := (moves (ld + 1)).writeMem 0 (a.d.base + 64 * a.off) (((moves (ld + 1)).tile 0).readSram (64 * a.sram) (64 * a.len))
        r.2 = 0 ∧ Unhindered (moves (ld + 1)) r.1))
    ∧ (Issues 0x12 0 0 gld [] (moves gld) ∧ onlyBits [(92, 16)] gld = true ∧ r.len ≠ 0
      ∧ accessChecks 0 (moves gld) r [dkGEYSER] [(r.sram, 128 * r.len)] (128 * r.off) (128 * r.len) (r.sram % 128 == 0) false = 0
      ∧ reserveStall ((moves gld).tile 0) 0 [r.d.span (128 * r.off) (128 * r.len)] [sramSpan (r.sram, 128 * r.len)] = none
      ∧ ((moves gld).readMem 0 (r.d.base + 8192 * r.off) (128 * r.len)).2.2 = 0
      ∧ Unhindered (moves gld) ((moves gld).readMem 0 (r.d.base + 8192 * r.off) (128 * r.len)).1)
    ∧ (Issues 0x13 0 0 (gld + 1) [] (moves (gld + 1)) ∧ onlyBits [(92, 16)] (gld + 1) = true
      ∧ accessChecks 0 (moves (gld + 1)) r [dkGEYSER] [(r.sram, 128 * r.len)] (128 * r.off) (128 * r.len) (r.sram % 128 == 0) true = 0
      ∧ firstBad ((moves (gld + 1)).tile 0).badSectors r.sram (128 * r.len) = none
      ∧ (let q := (moves (gld + 1)).writeMem 0 (r.d.base + 8192 * r.off) (((moves (gld + 1)).tile 0).readSram (64 * r.sram) (8192 * r.len))
        q.2 = 0 ∧ Unhindered (moves (gld + 1)) q.1)) := by
  refine ⟨⟨?_, ?_, ?_, ?_, ?_, ?_, ?_⟩, ⟨?_, ?_, ?_, ?_, ?_⟩, ⟨?_, ?_, ?_, ?_, ?_, ?_, ?_⟩, ?_, ?_, ?_, ?_, ?_⟩ <;> first | decide +kernel | (constructor <;> decide +kernel)

/-- A WAIT for fabric time 0 holds and one for 1 does not; a stalled one is released; BNZ loops to its own index; TAG; END. -/
theorem witness_ControlFlowInstructionsComplete :
    let w := 2 * 2 ^ 16 + 3
    let stalled := (runs w).setAll [(F.TILE_SEQ_STATUS_STATE 0 0, 2), (F.TILE_SEQ_STATUS_STALL 0 0, 2)]
    Issues 0x03 0 0 w [] (runs w) ∧ onlyBits [(37, 16), (127, 64)] w = true ∧ bitsOf w 17 16 = 2 ∧ waitHolds 0 w (runs w) = true
    ∧ Issues 0x03 0 0 (w + 2 ^ 64) [] (runs (w + 2 ^ 64)) ∧ waitHolds 0 (w + 2 ^ 64) (runs (w + 2 ^ 64)) = false
    ∧ (stalled.tileMayIssue 0 = true ∧ stalled.seqState 0 0 = seqSTALLED ∧ stalled.nextWord 0 0 = w ∧ waitHolds 0 w stalled = true
      ∧ stalled.pc 0 0 < 8191 ∧ Settled stalled)
    ∧ (Issues 0x07 0 0 0x10007 [] (runs 0x10007) ∧ onlyBits [(19, 16), (44, 32)] 0x10007 = true
      ∧ bitsOf 0x10007 44 32 < ((runs 0x10007).plan.elim [] fun p => p.prog 0 0).length)
    ∧ Issues 0x02 0 0 0xFFFFFFFF0002 [] (runs 0xFFFFFFFF0002) ∧ onlyBits [(47, 16)] 0xFFFFFFFF0002 = true
    ∧ Issues 0x01 0 0 1 [] (runs 1) ∧ onlyBits [] 1 = true := by
  refine ⟨?_, ?_, ?_, ?_, ?_, ?_, ⟨?_, ?_, ?_, ?_, ?_, ?_⟩, ⟨?_, ?_, ?_⟩, ?_, ?_, ?_, ?_⟩ <;> first | decide +kernel | (constructor <;> decide +kernel)

/-- BNZ counts X1 down from 0 and branches; END leaves its stream STALLED with reason 7; a WAIT that does not hold stalls with reason 2. -/
theorem test_control :
    (after (.bnz 0 0 []) (runs 0x10007)).pc 0 0 = 0
    ∧ (after (.endStream 0 0 []) (runs 1)).g (F.TILE_SEQ_STATUS_STALL 0 0) = 7
    ∧ (after (.wait 0 0 []) (runs (2 ^ 64 + 2 * 2 ^ 16 + 3))).g (F.TILE_SEQ_STATUS_STALL 0 0) = 2
    ∧ ((after (.tag 0 0 []) (runs 0xFFFFFFFF0002)).stream 0 0).oper = 65535 := by decide +kernel

/-- Transfers of length 0. -/
theorem witness_ZeroLengthTransfersComplete :
    ∀ op ∈ [0x10, 0x11, 0x12, 0x13, 0x14, 0x15, 0x16, 0x18], onlyBits [(57, 16)] op = true ∧ bitsOf op 97 41 = 0
      ∧ (runs op).nextWord 0 0 = op ∧ opOf op = op ∧ (runs op).tileMayIssue 0 = true ∧ (runs op).seqState 0 0 = seqISSUING
      ∧ (runs op).granted 0 0 = true ∧ (runs op).pc 0 0 < 8191 ∧ Settled (runs op) := by decide +kernel

/-- HOSTLD, HOSTST and PREF of two sectors over a CXL link, with no far-cache partition. -/
theorem witness_HostTransfersComplete :
    let cxl (s : State) := s.setAll [(F.HIF_STATUS_LINK_UP, 1), (F.HIF_STATUS_CXL, 1)]
    let ld := 2 * 2 ^ 81 + 2 * 2 ^ 16 + 0x14
    let pref := 2 * 2 ^ 60 + 2 * 2 ^ 16 + 0x16
    let s := cxl (moves ld)
    let a := sectorAccess 0 0 ld s
    Issues 0x14 0 0 ld [] s ∧ onlyBits [(97, 16)] ld = true ∧ a.len ≠ 0 ∧ s.cxl = true
    ∧ accessChecks 0 s a [dkHOST] [(a.sram, a.len)] a.off a.len true false = 0
    ∧ reserveStall (s.tile 0) 0 [a.d.span a.off a.len] [sramSpan (a.sram, a.len)] = none
    ∧ s.farParts (.tile 0) = []
    ∧ Issues 0x15 0 0 (ld + 1) [] (cxl (moves (ld + 1))) ∧ accessChecks 0 s a [dkHOST] [(a.sram, a.len)] a.off a.len true true = 0
    ∧ firstBad (s.tile 0).badSectors a.sram a.len = none
    ∧ Issues 0x16 0 0 pref [] (cxl (moves pref)) ∧ onlyBits [(76, 16)] pref = true
    ∧ accessChecks 0 (cxl (moves pref)) ⟨hostDesc, 0, 0, 2⟩ [dkHOST] [] 0 2 true false = 0 := by
  refine ⟨?_, ?_, ?_, ?_, ?_, ?_, ?_, ?_, ?_, ?_, ?_, ?_, ?_⟩ <;> first | decide +kernel | (constructor <;> decide +kernel)

/-- The HOSTST of two sectors sends two lines to the host. -/
theorem test_hostst :
    let ld := 2 * 2 ^ 81 + 2 * 2 ^ 16 + 0x15
    (after (.hostst 0 0 []) ((moves ld).setAll [(F.HIF_STATUS_LINK_UP, 1), (F.HIF_STATUS_CXL, 1)])).outbox.length = 2 := by decide +kernel

/-- A SEND of 4 sectors on route 0, a RECV of the slot it fills, a FREE, the message on its way, and a freed slot. -/
theorem witness_MeshMessagesMove :
    let send := 4 * 2 ^ 41 + 0x18
    let c := ChanPlan.mk 64 4 2
    let s := moves send
    let full := (moves 0x100019).setChan 0 0 fun c => { c with full := [1], used := 1 }
    let held := (moves 0x1A).setStream 0 0 fun y => { y with taken := [(0, 1)] }
    let m : MeshMsg := ⟨0, 0, 0, 0, List.replicate 256 1, [], false, false⟩
    let coming : State := (moves 0).mail m
    let freed := (moves 0).setChan 0 0 fun c => { c with used := 1, freed := [(1, 0, 0)] }
    (Issues 0x18 0 0 send [] s ∧ onlyBits [(57, 16)] send = true ∧ s.dest 0 0 = some (⟨0, 0⟩, c) ∧ addrCode [(0, 4)] (decide (4 ≤ c.slotSectors)) = 0
      ∧ reserveStall (s.tile 0) 0 [sramSpan (0, 4)] [] = none ∧ (s.chan 0 0).used < c.slots)
    ∧ (Issues 0x19 0 0 0x100019 [] full ∧ onlyBits [(23, 16)] 0x100019 = true ∧ full.chanPlan 0 0 = some c ∧ (full.chan 0 0).full = [1])
    ∧ (Issues 0x1A 0 0 0x1A [] held ∧ onlyBits [(19, 16)] 0x1A = true
      ∧ takeFirst (fun e => e.1 == 0) (held.stream 0 0).taken = some ((0, 1), []))
    ∧ (coming.meshFirst 0 0 = some (m, []) ∧ coming.chanPlan 0 0 = some c ∧ coming.working = true ∧ coming.tileAwake 0 = true ∧ Settled coming)
    ∧ ((freed.chan 0 0).freed = [(1, 0, 0)] ∧ freed.chanPlan 0 0 = some c ∧ freed.working = true
      ∧ ((freed.tile 0).flights.any fun f => f.stream == 0 && decide (f.id < 0) && f.rd.any (c.slotSpan 1).meets) = false ∧ Settled freed) := by
  refine ⟨⟨?_, ?_, ?_, ?_, ?_, ?_⟩, ⟨?_, ?_, ?_, ?_⟩, ⟨?_, ?_, ?_⟩, ⟨?_, ?_, ?_, ?_, ?_⟩, ?_, ?_, ?_, ?_, ?_⟩ <;> first | decide +kernel | (constructor <;> decide +kernel)

/-- The message fills slot 0 of its channel, whose sectors are 64 to 67; a RECV puts the slot's sector into X1. -/
theorem test_mesh :
    let m : MeshMsg := ⟨0, 0, 0, 0, List.replicate 256 1, [], false, false⟩
    let u := after (.meshDelivery 0 0) ((moves 0).mail m)
    sramByte u 0 4096 = 1 ∧ sramByte u 0 4351 = 1 ∧ sramByte u 0 4352 = 0 ∧ (u.chan 0 0).full = [0]
    ∧ ((after (.recv 0 0 []) ((moves 0x100019).setChan 0 0 fun c => { c with full := [1], used := 1 })).stream 0 0).xr 1 = 68 := by decide +kernel

/-- The tile's K registers as listed. -/
def withK (k : Sparse Nat) (s : State) : State := s.setStream 0 0 fun y => { y with k := k }

/-- SLOAD of the INT8 block at sector 0 into bank 0 of array 1, GBLOAD into half 1, OUSET of output unit 1. -/
theorem witness_ArrayFeedsLoad :
    let sl := 2 ^ 16 + 0x20
    let gl := 2 ^ 16 + 0x21
    let ou := 0xE0 * 2 ^ 32 + 2 ^ 16 + 0x23
    (Issues 0x20 0 0 sl [] (runs sl) ∧ onlyBits [(41, 16)] sl = true ∧ addrCode [(0, 264)] true = 0
      ∧ reserveStall ((runs sl).tile 0) 0 [sramSpan (0, 264)] [] = none ∧ (((runs sl).tile 0).stat' 1 0).owner = none
      ∧ ((runs sl).tile 0).flights.any (Flight.usesBank 1 0) = false ∧ firstBad ((runs sl).tile 0).badSectors 0 264 = none)
    ∧ (Issues 0x21 0 0 gl [] (runs gl) ∧ onlyBits [(40, 16)] gl = true ∧ (runs gl).g (halfStateF 0 1) = 0)
    ∧ (Issues 0x23 0 0 ou [] (runs ou) ∧ onlyBits [(16, 16), (127, 32)] ou = true ∧ modeOk (bitsOf ou 63 32) = true
      ∧ postopOk (bitsOf ou 95 64) = true) := by
  refine ⟨⟨?_, ?_, ?_, ?_, ?_, ?_, ?_⟩, ⟨?_, ?_, ?_⟩, ?_, ?_, ?_, ?_⟩ <;> first | decide +kernel | (constructor <;> decide +kernel)

/-- A pass of kind 0 on array 0, whose bank 0 holds a block with scales 1.0, from half 0 of the gradient buffer. -/
theorem witness_ArrayPassesRun :
    let w := 2 ^ 24 + 0x22
    let one : Block := ⟨0, [], List.replicate 128 one32⟩
    let s := ((runs w).setTile 0 fun x => (x.setStat 0 0 ⟨some 0, false, one⟩).setHalf 0 ⟨some 0, one⟩).set (halfStateF 0 0) 2
    let x := s.tile 0
    Issues 0x22 0 0 w [] s ∧ mpassFieldsOk w = true ∧ bitsOf w 25 24 = 1 ∧ reserveStall x 0 [] [] = none
    ∧ (halfGate 0 0 0 s).isNone = true ∧ ∀ p ∈ passReqs w, (passGate 0 0 s p (some 0) (x.half 0).block).isNone = true := by
  refine ⟨?_, ?_, ?_, ?_, ?_, ?_⟩ <;> first | decide +kernel | (constructor <;> decide +kernel)

/-- A pair's bytes: 4 for each word of its planes. -/
theorem wordBytes_length (l : List Nat) : (wordBytes l).length = 4 * l.length := by
  simp [wordBytes, leBytes, Nat.mul_comm]
theorem pairBytes_length (l : List Pair) (h : l.length = 16384) : (pairBytes l).length = 64 * 2048 := by
  simp only [pairBytes, List.length_append, wordBytes_length, List.length_map, h]

/-- OUSAVE of an EMPTY bank to SRAM and to memory, OURESTORE from both, CHAINOUT to an armed bank, CHAININ, and the pair that arrives. -/
theorem witness_AccumulatorPairsMove :
    let sv := 0x25
    let svD := 2 ^ 18 + 0x25
    let s := moves sv
    let p := pairTarget 0 0 sv s
    let pD := pairTarget 0 0 svD (moves svD)
    let co := 2 ^ 18 + 0x27
    let ci := 2 ^ 18 + 0x28
    let armed := (moves co).setBank 0 0 1 1 bkWAITCHAIN ⟨[], some 1⟩
    let f : Flight := ⟨0, 0, 0, 0x28, none, 0, [], [], [.bankLive 1 1], false, [], 3, 0, 0, 0, []⟩
    let m : MeshMsg := ⟨0, 9, 0, 1, [], [⟨one32, 0⟩], true, false⟩
    let coming := ((armed.setTile 0 fun x => { x with flights := [f] }).mail m)
    (Issues 0x25 0 0 sv [] s ∧ pairChecks 0 sv p true s = 0 ∧ reserveStall (s.tile 0) 0 [] [p.span] = none
      ∧ (bankTake 0 0 0 0 s).isNone = true ∧ p.toDesc = false)
    ∧ (Issues 0x25 0 0 svD [] (moves svD) ∧ pairChecks 0 svD pD true (moves svD) = 0 ∧ pD.toDesc = true
      ∧ (let r := ((moves svD).setBank 0 0 0 0 bkEMPTY Bank.empty).writeMem 0 (pD.a.d.base + 64 * pD.a.off)
          (pairBytes (((moves svD).bank 0 0 0).planes.map fun q => ⟨noNegZero q.s, noNegZero q.e⟩))
        r.2 = 0 ∧ Unhindered (moves svD) r.1))
    ∧ (Issues 0x26 0 0 (sv + 1) [] (moves (sv + 1)) ∧ pairChecks 0 (sv + 1) p false (moves (sv + 1)) = 0 ∧ s.bankState 0 0 0 = bkEMPTY
      ∧ firstBad (s.tile 0).badSectors p.sram 2048 = none)
    ∧ (Issues 0x26 0 0 (svD + 1) [] (moves (svD + 1)) ∧ pairChecks 0 (svD + 1) pD false (moves (svD + 1)) = 0
      ∧ ((moves (svD + 1)).readMem 0 (pD.a.d.base + 64 * pD.a.off) 2048).2.2 = 0)
    ∧ (Issues 0x27 0 0 co [] armed ∧ onlyBits [(21, 16)] co = true ∧ armed.dest 0 1 = some (⟨0, 1⟩, ⟨0, 0, 0⟩)
      ∧ (bankTake 0 0 0 0 armed).isNone = true ∧ armed.armed 0 1 ≠ 0)
    ∧ (Issues 0x28 0 0 ci [] (moves ci) ∧ onlyBits [(21, 16)] ci = true ∧ (moves ci).chanPlan 0 1 = some ⟨0, 0, 0⟩)
    ∧ (coming.meshFirst 0 1 = some (m, [])
      ∧ ((coming.tile 0).flights.find? fun f => f.op == 0x28 && !f.ready && (coming.bank 0 (f.dst / 2) (f.dst % 2)).chan == some 1) = some f
      ∧ coming.working = true ∧ coming.tileAwake 0 = true ∧ Settled coming) := by
  refine ⟨⟨?_, ?_, ?_, ?_, ?_⟩, ⟨?_, ?_, ?_, State.writeMem_writable (n := 2048) (pairBytes_length _ ?_) ?_ ?_⟩, ⟨?_, ?_, ?_, ?_⟩, ⟨?_, ?_, ?_⟩,
    ⟨?_, ?_, ?_, ?_, ?_⟩, ⟨?_, ?_, ?_⟩, ?_, ?_, ?_, ?_, ?_⟩ <;> first | decide +kernel | (constructor <;> decide +kernel)

/-- The pair that arrives makes the armed bank LIVE. -/
theorem test_chainin :
    let f : Flight := ⟨0, 0, 0, 0x28, none, 0, [], [], [.bankLive 1 1], false, [], 3, 0, 0, 0, []⟩
    let s := ((moves 0).setBank 0 0 1 1 bkWAITCHAIN ⟨[], some 1⟩).setTile 0 fun x => { x with flights := [f] }
    (after (.chainPairArrival 0 1) (s.mail ⟨0, 9, 0, 1, [], [⟨one32, 0⟩], true, false⟩)).bankState 0 1 1 = bkLIVE := by decide +kernel

/-- OUFIN of an EMPTY bank to SRAM as binary32, GRADOUT into the tile's granted segment 5, GAINOUT of one row of 128. -/
def reduces (w : Nat) : State :=
  let p := planOf [w]
  issuing { p with ring := { p.ring with segmentTotal := 8, redPart := 1, grants := [(5, 3)] } }

theorem witness_FinalisedResultsLeave :
    let w := 0x24
    let s := (runs w).setStream 0 0 fun y => { y with setup0 := ⟨0x80, 0, one32⟩ }
    let y := s.stream 0 0
    let q := y.setup 0
    let sp := finSpans y q w
    let gw := 7 * 2 ^ 18 + 0x29
    let gs := reduces gw
    let e := writeBlock 4 0 [[0]] 1
    let aw := 7 * 2 ^ 16 + 0x4C
    let as := withK [(12, 0), (13, 128)] (reduces aw)
    (Issues 0x24 0 0 w [] s ∧ oufinFieldsOk q w = true
      ∧ addrCode (sp.dst.toList ++ sp.bias.toList ++ sp.resid.toList ++ sp.stats.toList) true = 0
      ∧ reserveStall (s.tile 0) 0 [] (sp.dst.toList.map sramSpan) = none ∧ (bankTake 0 0 0 0 s).isNone = true
      ∧ firstNonFinite (writeBlock 4 0 (finalise (s.tile 0) q sp (s.bank 0 0 0) 1 1) 1).2 = none)
    ∧ (Issues 0x29 0 0 gw [] gs ∧ onlyBits [(45, 16)] gw = true ∧ segmentCode 0 [7] gs = 0 ∧ (bankTake 0 0 0 0 gs).isNone = true
      ∧ gs.segAddr 7 = some (2 ^ 33 + 65536 * 7) ∧ firstNonFinite e.2 = none)
    ∧ (Issues 0x4C 0 0 aw [] as ∧ onlyBits [(43, 16)] aw = true ∧ rowLenOk 128 = true ∧ segmentCode 0 [7] as = 0
      ∧ addrCode [(0, 16)] true = 0 ∧ reserveStall (as.tile 0) 0 [sramSpan (0, 16)] [] = none ∧ as.g (F.TILE_VEC_STATUS_BUSY 0) = 0
      ∧ firstBad (as.tile 0).badSectors 0 16 = none) := by
  refine ⟨⟨?_, ?_, ?_, ?_, ?_, ?_⟩, ⟨?_, ?_, ?_, ?_, ?_, ?_⟩, ?_, ?_, ?_, ?_, ?_, ?_, ?_, ?_⟩ <;>
    first | decide +kernel | (constructor <;> decide +kernel)

/-- OUFIN leaves its bank FINALISING. -/
theorem test_oufin :
    (after (.oufin 0 0 []) ((runs 0x24).setStream 0 0 fun y => { y with setup0 := ⟨0x80, 0, one32⟩ })).bankState 0 0 0 = bkFINALISING := by
  decide +kernel

/-- Records of a finished row, an open slot 0 with them, and score slots 0 and 1 full of zeros for stream 0. -/
def opened (s : State) : State := s.openSlot 0 0 0 (KSlot.opened (List.replicate 128 ⟨0, one32, 0, 0⟩))
def scored (s : State) : State :=
  (s.setTile 0 fun x => { x with scoreOwner := [(0, some 0), (1, some 0)],
                                 score := [(0, List.replicate 16384 0), (1, List.replicate 16384 0)] }).set (F.TILE_VEC_STATUS_SB0_FULL 0) 3
/-- K registers for rows of 128: EPS 1, 1/N, VOCAB 128, STATS, GAIN and AUX sectors, ROWLEN 128, binary32 results. -/
def kernelK : Sparse Nat := [(5, one32), (6, 0x3C000000), (8, 128), (10, 2000), (11, 2100), (12, 2200), (13, 128), (15, 0x80)]

/-- VOP of one sector element by element, of one row, and to binary16 in a line. -/
theorem witness_VectorOperationsRun :
    let w := 2 ^ 86 + 0x30
    let s := runs w
    let wr := 8 * 2 ^ 86 + 18 * 2 ^ 16 + 0x30
    let sr := withK [(13, 128)] (runs wr)
    let wl := 2 ^ 86 + 23 * 2 ^ 16 + 0x30
    let sl := withK [(15, 0xA0)] (runs wl)
    let zero (s : State) (n : Nat) := (s.tile 0).words 0 n
    (Issues 0x30 0 0 w [] s ∧ onlyBits [(102, 16), (108, 106)] w = true ∧ vopLenOk 0 1 0 0 = true
      ∧ VecReady 0 0 [(0, 1), (0, 1)] [(0, 1)] [] s
      ∧ firstNonFinite (VecWrite.words 0 (List.zipWith (fun p z => vopElem 0 p.1 p.2 z) ((zero s 16).zip (zero s 16)) (zero s 16))).tally = none)
    ∧ (Issues 0x30 0 0 wr [] sr ∧ onlyBits [(102, 16), (108, 106)] wr = true ∧ vopLenOk 18 8 128 0 = true
      ∧ VecReady 0 0 [(0, 8)] [(0, 1)] [] sr
      ∧ firstNonFinite (VecWrite.words 0 ((chunksOf 128 128 (zero sr 128)).map (vopRow 18))).tally = none)
    ∧ (Issues 0x30 0 0 wl [] sl ∧ onlyBits [(102, 16), (108, 106)] wl = true ∧ vopLenOk 23 1 0 0xA0 = true
      ∧ VecReady 0 0 [(0, 1)] [(0, fmtSectors 5 16)] [] sl ∧ firstNonFinite (VecWrite.linear 0 5 0 (zero sl 16)).tally = none) := by
  refine ⟨⟨?_, ?_, ?_, ?_, ?_⟩, ⟨?_, ?_, ?_, ?_, ?_⟩, ?_, ?_, ?_, ?_, ?_⟩ <;> first | decide +kernel | (constructor <;> decide +kernel)

/-- NORM_BWD_ACC of a row of 128 from score slot 0. -/
theorem witness_NormalisationKernelsRun :
    let w := 2 ^ 48 + 2 ^ 29 + 3000 * 2 ^ 93 + 0x41
    let s := scored (withK kernelK (runs w))
    let x := s.tile 0
    Issues 0x41 0 0 w [] s ∧ kernelFieldsOk w true true false true false true = true ∧ rowLenOk 128 = true ∧ (s.stream 0 0).kr kCOLBLK < 1
    ∧ VecReady 0 0 [(0, 1024), (2000, 16), (2100, 8)] [(3000, 1024), (2200, 16)] [0] s ∧ (kslotGate 0 0 0 true s).isNone = true
    ∧ firstNonFinite (VecWrite.words 3000 (x.scoreWords 0)).tally = none := by
  refine ⟨?_, ?_, ?_, ?_, ?_, ?_, ?_⟩ <;> first | decide +kernel | (constructor <;> decide +kernel)

/-- ATTN_O from score slot 0, and ATTN_FIN of records with l = 1. -/
theorem witness_AttentionKernelsRun :
    let w := 2 ^ 48 + 0x44
    let s := scored (opened (withK kernelK (runs w)))
    let wf := 3000 * 2 ^ 93 + 0x45
    let sf := opened (withK kernelK (runs wf))
    (Issues 0x44 0 0 w [] s ∧ kernelFieldsOk w true false false false false false = true ∧ VecReady 0 0 [] [] [0] s
      ∧ (kslotGate 0 0 0 false s).isNone = true)
    ∧ (Issues 0x45 0 0 wf [] sf ∧ kernelFieldsOk wf false false false true false false = true ∧ (sf.stream 0 0).kmodeOk = true
      ∧ VecReady 0 0 [] [(3000, 1024), (2000, 16)] [] sf ∧ (kslotGate 0 0 0 false sf).isNone = true
      ∧ (after (.attnFin 0 0 []) sf).seqState 0 0 = seqISSUING) := by
  refine ⟨⟨?_, ?_, ?_, ?_⟩, ?_, ?_, ?_, ?_, ?_, ?_⟩ <;> first | decide +kernel | (constructor <;> decide +kernel)

/-- XENT_BLK that opens slot 0, XENT_LOSS, KSTORE and KLOAD. -/
theorem witness_LossAndSlotKernelsRun :
    let w := 2 ^ 48 + 2 ^ 29 + 3000 * 2 ^ 93 + 0x48
    let s := scored (withK kernelK (runs w))
    let sl := opened (withK kernelK (runs 0x4D))
    (Issues 0x48 0 0 w [] s ∧ kernelFieldsOk w true true false true false false = true ∧ VecReady 0 0 [(0, 32), (0, 8)] [(3000, 1024)] [0] s
      ∧ (kslotGate 0 0 0 true s).isNone = true ∧ firstNonFinite (VecWrite.words 3000 ((s.tile 0).scoreWords 0)).tally = none)
    ∧ (Issues 0x4D 0 0 0x4D [] sl ∧ onlyBits [(47, 16)] 0x4D = true ∧ kcRsvdOk 0x4D = true ∧ VecReady 0 0 [(0, 8)] [(2200, 1)] [] sl
      ∧ (kslotGate 0 0 0 false sl).isNone = true ∧ (after (.xentLoss 0 0 []) sl).seqState 0 0 = seqISSUING)
    ∧ (Issues 0x4A 0 0 0x4A [] (opened (runs 0x4A)) ∧ onlyBits [(37, 16)] 0x4A = true ∧ VecReady 0 0 [] [(0, 32)] [] (opened (runs 0x4A)))
    ∧ (Issues 0x4B 0 0 0x4B [] (runs 0x4B) ∧ VecReady 0 0 [(0, 32)] [] [] (runs 0x4B) ∧ (runs 0x4B).g (slotOpenF 0 0) = 0) := by
  refine ⟨⟨?_, ?_, ?_, ?_, ?_⟩, ⟨?_, ?_, ?_, ?_, ?_, ?_⟩, ⟨?_, ?_, ?_⟩, ?_, ?_, ?_⟩ <;> first | decide +kernel | (constructor <;> decide +kernel)

/-- A flight that holds nothing and awaits nothing completes, whatever it brings. -/
theorem witness_FlightsComplete :
    ∀ p ∈ [[Post.statLoaded 1 1], [.passDone 1 1 16 true], [.halfLoaded 1], [.halfRead 1 true], [.bankEmpty 1 1], [.vectorDone [0] 16],
        [.segmentRelease 7 0], [.ending]],
      let f : Flight := ⟨3, 0, 0, 0, evtOf 0x1F00, 0, [], [], p, true, [], 0, 0, 0, 0, []⟩
      let s := (runs 0).setTile 0 fun x => { x with flights := [f] }
      takeFirst (fun g => g.id == f.id) (s.tile 0).flights = some (f, []) ∧ s.working = true ∧ s.tileAwake 0 = true
        ∧ (s.tile 0).mayComplete f = true ∧ Settled s ∧ s.tilesRun = true := by decide +kernel

/-- A NOP held at issue, a transfer held at issue, and one that still waits for a reservation. -/
theorem witness_HeldInstructionsIssue :
    let held (s : State) := s.setAll [(F.TILE_SEQ_STATUS_STATE 0 0, 2), (F.TILE_SEQ_STATUS_STALL 0 0, 1)]
    let ld := 2 * 2 ^ 81 + 0x10
    let f : Flight := ⟨3, 1, 0, 0, none, 0, [⟨.sram, 0, 1⟩], [], [], true, [], 0, 0, 0, 0, []⟩
    let busy := (held (moves ld)).setTile 0 fun x => { x with flights := [f] }
    (∀ s ∈ [held (runs 0), held (moves ld), busy], s.tileMayIssue 0 = true ∧ s.seqState 0 0 = seqSTALLED
      ∧ s.g (F.TILE_SEQ_STATUS_STALL 0 0) ≠ 2 ∧ s.g (F.TILE_SEQ_STATUS_STALL 0 0) ≠ 7 ∧ (ruleOf (opOf (s.nextWord 0 0))).isSome = true
      ∧ s.granted 0 0 = true ∧ s.pc 0 0 < 8191 ∧ Settled s)
    ∧ (∃ r, ruleNop 0 0 0 (held (runs 0)) = .done r ∧ (r.tile 0).flights = ((held (runs 0)).tile 0).flights)
    ∧ (match ruleLd 0 0 ld (held (moves ld)) with
        | .flies r _ => decide (r.fld = (held (moves ld)).fld ∧ (r.tile 0).flights = [] ∧ r.stp.due = none)
        | _ => false) = true
    ∧ (match ruleLd 0 0 ld busy with
        | .wait q => q == 1
        | _ => false) = true := by
  refine ⟨?_, ⟨_, rfl, ?_⟩, ?_, ?_⟩ <;> decide +kernel

/-- Registers set in the state after reset. -/
def regs (l : List (Fld × Nat)) : State := State.reset.setAll l
/-- All lanes of a port in use. -/
def lanes (p : Nat) : List (Fld × Nat) := [(F.RING_P_LANEMAP_RX_MAP p, 0xFFFFFFFF), (F.RING_P_LANEMAP_TX_MAP p, 0xFFFFFFFF)]
/-- A flit's bytes on all lanes of a port, without an error, as the port's first words. -/
def rxOf (b : List Byte) : LineRx := ⟨0, 0, stripe (mapLanes 0xFFFFFFFF) 0 b⟩
/-- Ring A UP with 4 devices, this one at position 0, its two ports up; the device is not the step anchor. -/
def ringed (l : List (Fld × Nat)) : State :=
  regs ([(ringStateF 0, 3), (ringSizeF 0, 4), (F.RING_P_STATUS_LINK 0, 2), (F.RING_P_STATUS_LINK 1, 2), (F.RING_A_ANCHOR_SERIAL, 77)] ++ lanes 0
    ++ lanes 1 ++ l)
/-- The same with this device as the step anchor. -/
def anchored (l : List (Fld × Nat)) : State := let s := ringed l; s.set F.RING_A_ANCHOR_SERIAL s.serial
def withPlan (p : Plan) (s : State) : State := { s with plan := some p }

theorem witness_CommitBoundaryLeaves :
    let s := (regs [(F.STEP_STATUS_STATE, 1), (F.STEP_NUMBER_NUMBER, 2 ^ 64 - 1), (F.STEP_STOP_AT_STEP, 2 ^ 64 - 1)])
    s.red.held = [] ∧ ((s.setAll [(F.STEP_VERSION_VERSION, 1 - s.version), (F.STEP_VERSION_PREV_VALID, 1)]).applyShadow).g F.STEP_STOP_AT_STEP
      = s.g F.STEP_NUMBER_NUMBER ∧ s.shadow = [] ∧ s.ring.jobs.length ≤ 4096 := by decide +kernel

/-- The step number wraps, and the version is inverted. -/
theorem test_commit :
    let u := (regs [(F.STEP_STATUS_STATE, 1), (F.STEP_NUMBER_NUMBER, 2 ^ 64 - 1)]).commitBoundary true
    u.g F.STEP_NUMBER_NUMBER = 0 ∧ u.version = 1 ∧ u.stepState = stCLOSED ∧ u.g F.STEP_COMMITTED_NUMBER = 2 ^ 64 - 1 := by decide +kernel

theorem witness_AbortBoundaryLeaves :
    (regs [(F.STEP_STATUS_STATE, 3), (F.STEP_STATUS_ATTEMPT, 255)]).red.held = []
    ∧ ((regs [(F.STEP_STATUS_STATE, 3), (F.STEP_STATUS_ATTEMPT, 255)]).abortBoundary 0x0202 5 0 0 none).g F.STEP_STATUS_ATTEMPT = 0 := by decide +kernel

theorem witness_OpeningStartsTheStreams :
    let s := withPlan (planOf [0x08]) (regs [])
    s.g F.STEP_STATUS_ABORT_PENDING = 0 ∧ s.ringFault = none ∧ s.red.haltDue = none ∧ s.upd.poison = none ∧ s.upd.spoiled = none ∧ s.g F.ETH_ING_CTRL_EN = 0 ∧ s.stp.held = [] ∧ s.red.held = []
    ∧ s.hasProgram 0 0 = true ∧ s.hasProgram 0 1 = false ∧ s.openStep.seqState 0 0 = seqISSUING ∧ s.openStep.seqState 0 1 = seqIDLE := by
  decide +kernel

/-- States in which the commands of STEP_CTRL are refused, wait and act. -/
theorem witness_StepCommandsAct :
    let closed := regs []
    let planned := withPlan (planOf [0]) closed
    let open' := planned.set F.STEP_STATUS_STATE 1
    let lost := { regs [(F.STEP_STATUS_STATE, 5), (F.STEP_VERSION_PREV_VALID, 1), (F.STEP_COMMITTED_NUMBER, 9)] with
      stp := { StepCtl.init with pollK := some 8 } }
    let frozen := regs [(F.DBG_FREEZE_CTRL_STATE, 2)]
    let waits := (planned.set F.CFG_STATUS_STATE 6)
    (frozen.powered = true ∧ frozen.frozen = true ∧ Settled frozen) ∧ waits.openWaits = true
    ∧ (closed.openWaits = false ∧ closed.openRefusal = some 0x0205 ∧ lost.openRefusal = some 0x0206)
    ∧ (planned.openWaits = false ∧ planned.openRefusal = none)
    ∧ ({ planned with stp := { StepCtl.init with openWaiting := true } }).openWaits = false
    ∧ closed.stepOpen = false ∧ (open'.stepState = stOPEN ∧ open'.ringState 0 = ringBYPASSED ∧ open'.replaying = false ∧ open'.red.held = [])
    ∧ closed.rollbackOk = false ∧ lost.rollbackOk = true := by decide +kernel

/-- The codes and the effects in those states. -/
theorem test_step_commands :
    (after (.openStep 2) (regs [])).g F.STEP_CMD_RESULT_CODE = 0x0205
    ∧ (after (.openStep 2) (withPlan (planOf [0]) (regs []))).stepState = stOPEN
    ∧ (after (.abortReq 2) (withPlan (planOf [0]) (regs [(F.STEP_STATUS_STATE, 1)]))).stepState = stCLOSED
    ∧ (after (.regather 2) (regs [])).g F.STEP_CMD_RESULT_CODE = 0
    ∧ (after (.rollback 2) { regs [(F.STEP_STATUS_STATE, 5), (F.STEP_VERSION_PREV_VALID, 1), (F.STEP_COMMITTED_NUMBER, 9)] with
        stp := { StepCtl.init with pollK := some 8 } }).g F.STEP_NUMBER_NUMBER = 9 := by decide +kernel

/-- READY due on a device alone and on a ring; the anchor's timeout; a tile that does not open; a poll that runs. -/
theorem witness_StepEventsAct :
    let alone := regs [(F.STEP_STATUS_STATE, 1), (F.STEP_STOP_AT_STEP, 1)]
    let member := ringed [(F.STEP_STATUS_STATE, 1)]
    let tile := withPlan (planOf [0]) (regs [(F.STEP_STATUS_STATE, 1)])
    let polling := { anchored [] with poll := ⟨true, 0, []⟩, ringA := { RingCtl.init with new := false, members := [(1, false), (2, true)] } }
    (alone.readyDue = true ∧ alone.ringState 0 = ringBYPASSED ∧ alone.torus = false ∧ alone.red.held = [] ∧ alone.shadow = []
      ∧ alone.g F.STEP_STOP_AT_STEP = alone.g F.STEP_NUMBER_NUMBER ∧ Settled alone)
    ∧ (member.readyDue = true ∧ member.isAnchor = false ∧ member.torus = false)
    ∧ (let s := alone.set F.STEP_TIMEOUT_MS 5; s.working = true ∧ s.isAnchor = true ∧ s.stepOpen = true ∧ s.g F.STEP_TIMEOUT_MS ≠ 0)
    ∧ (tile.working = true ∧ tile.stepOpen = true ∧ tile.programmed 0 = true ∧ (tile.tile 0).acked = false
      ∧ (tile.g (F.STEP_FAILED_TILES_FAILED 0)).testBit 0 = false)
    ∧ (polling.working = true ∧ polling.poll.running = true ∧ polling.pollFull = false ∧ polling.poll.values = [] ∧ polling.red.held = []) := by
  decide +kernel

theorem test_step_events :
    (after .sendReady (regs [(F.STEP_STATUS_STATE, 1), (F.STEP_STOP_AT_STEP, 1)])).g F.STEP_COMMITTED_NUMBER = 1
    ∧ (after .sendReady (ringed [(F.STEP_STATUS_STATE, 1)])).stepState = stREADY
    ∧ (after .stepTimeout (regs [(F.STEP_STATUS_STATE, 1), (F.STEP_TIMEOUT_MS, 5)])).g F.STEP_DECISION_CAUSE = 0x0203
    ∧ (after (.pollClose true) { anchored [] with poll := ⟨true, 0, []⟩ }).poll.running = false := by decide +kernel

/-- A frame of position 3 on port 0, at a member, at the anchor, and of another epoch; an A_DONE of ring B. -/
def frameOf (ty : Nat) : StepFrame := { type := ty, originPos := 3, step := 1 }
def frameRx (ring : Nat) (f : StepFrame) : LineRx := rxOf (f.bytes ring 0)
def stepping : State := ringed [(F.STEP_STATUS_STATE, 1)]
theorem witness_StepFramesAct :
    let m := stepping
    let a := anchored [(F.STEP_STATUS_STATE, 1)]
    let b := regs ([(ringStateF 1, 3), (ringSizeF 1, 4), (F.RING_P_STATUS_LINK 2, 2), (F.RING_P_STATUS_LINK 3, 2), (ringStateF 0, 3),
      (F.RING_A_ANCHOR_SERIAL, 77), (F.STEP_STATUS_STATE, 1)] ++ lanes 2)
    let f (ty : Nat) := frameOf ty
    let bs (ty : Nat) := (f ty).bytes 0 0
    let other := ({ f 1 with epoch := 1 } : StepFrame).bytes 0 0
    Settled m ∧ (FrameComes 0 (rxOf other) 1 other m ∧ (StepFrame.ofBytes other).type = frameREADY ∧ (headerOf other).epoch ≠ m.ringEpoch 0)
    ∧ (∀ ty ∈ [1, 2, 3, 4, 6], StepFrame.ofBytes (bs ty) = f ty)
    ∧ FramePasses 0 (frameRx 0 (f 1)) (bs 1) m ∧ FramePasses 0 (frameRx 0 (f 2)) (bs 2) m ∧ FramePasses 0 (frameRx 0 (f 2)) (bs 2) a
    ∧ FramePasses 0 (frameRx 0 (f 3)) (bs 3) m ∧ FramePasses 0 (frameRx 0 (f 4)) (bs 4) m ∧ FramePasses 0 (frameRx 0 (f 6)) (bs 6) m
    ∧ FramePasses 0 (frameRx 0 (f 7)) (bs 7) a
    ∧ (FramePasses 2 (frameRx 1 { f 5 with originRing := 1 }) (({ f 5 with originRing := 1 } : StepFrame).bytes 1 0) b
      ∧ portRing 2 = 1 ∧ b.stepOpen = true ∧ b.isAnchor = false ∧ b.alone = false)
    ∧ ((f 1).originPos ≠ m.ringPos 0 ∧ (f 1).digest = m.digest64 ∧ m.stepOpen = true ∧ m.thisAttempt (f 1) = true ∧ m.alone = false
      ∧ m.isAnchor = false ∧ m.torus = false)
    ∧ (a.isAnchor = true ∧ a.red.held = [] ∧ a.thisAttempt (f 2) = true ∧ a.alone = false)
    ∧ (m.ringState 0 ≠ ringRECOVERING ∧ m.ringState 1 ≠ ringRECOVERING ∧ (f 4).cause ≠ 0x0204)
    ∧ { m with ringA := { RingCtl.init with new := false } }.answers 0 = true ∧ ({ a with poll := ⟨true, 0, []⟩ }).poll.ring = portRing 0 := by
  refine ⟨?_, ⟨?_, ?_, ?_⟩, ?_, ⟨?_, ?_, ?_⟩, ⟨?_, ?_, ?_⟩, ⟨?_, ?_, ?_⟩, ⟨?_, ?_, ?_⟩, ⟨?_, ?_, ?_⟩, ⟨?_, ?_, ?_⟩, ⟨?_, ?_, ?_⟩,
    ⟨⟨?_, ?_, ?_⟩, ?_, ?_, ?_, ?_⟩, ?_, ?_, ?_, ?_, ?_⟩ <;> first | decide +kernel | (constructor <;> decide +kernel)

theorem test_step_frames :
    (after (.readyFrame 0 false (frameRx 0 (frameOf 1))) stepping).g F.STEP_READY_MAP_READY = 8
    ∧ (after (.failFrame 0 false (frameRx 0 { frameOf 2 with cause := 0x0B02 })) (anchored [(F.STEP_STATUS_STATE, 1)])).g F.STEP_DECISION_CAUSE = 0x0B02
    ∧ (after (.commitFrame 0 false (frameRx 0 (frameOf 3))) stepping).g F.STEP_COMMITTED_NUMBER = 1
    ∧ (after (.abortFrame 0 false (frameRx 0 { frameOf 4 with cause := 0x0201 })) stepping).stepState = stCLOSED := by decide +kernel

/-- The loader's states for each command of CFG_CMD, with an image of 128 bytes. -/
theorem witness_LoaderCommandsAct :
    let at' (st : Nat) := regs [(F.CFG_STATUS_STATE, st), (F.CFG_SRC_LEN_LEN, 128)]
    let held := { at' ldREADY with loader := ⟨128, some { planOf [] with owners := [⟨2, 0, 3, 0⟩] }, false⟩, claims := [⟨2, 0, 4, 0⟩] }
    ((at' ldCHECKING).g F.CFG_STATUS_STATE ≠ ldEMPTY ∧ Settled (at' ldCHECKING) ∧ (at' ldCHECKING).frozen = false)
    ∧ (128 ≤ (at' ldEMPTY).g F.CFG_SRC_LEN_LEN ∧ (at' ldEMPTY).g F.CFG_SRC_LEN_LEN % 64 = 0)
    ∧ ¬(128 ≤ (regs [(F.CFG_SRC_LEN_LEN, 64)]).g F.CFG_SRC_LEN_LEN)
    ∧ ((at' ldSTAGED).g F.CFG_STATUS_STATE = ldSTAGED ∧ (at' ldSTAGED).g F.SEC_STATUS_BOOT ≠ bootRECOVERY)
    ∧ held.claims.any (claimConflict (held.loader.plan.elim [] fun p => p.owners)) = true
    ∧ (at' ldREADY).claims.any (claimConflict []) = false ∧ (at' ldARMED).g F.CFG_STATUS_STATE = ldARMED
    ∧ (regs [(F.DBG_FREEZE_CTRL_STATE, 2)]).frozen = true := by decide +kernel

/-- An image being copied, a check that fails at once on an empty shadow store, a plan ready to install, and claims. -/
theorem witness_LoaderEventsAct :
    let staging := { regs [(F.CFG_STATUS_STATE, ldSTAGING)] with loader := ⟨128, none, false⟩ }
    let checking := regs [(F.CFG_STATUS_STATE, ldCHECKING), (F.SEC_STATUS_BOOT, 1)]
    let inst (r : Nat) := { regs [(F.CFG_STATUS_STATE, ldINSTALLING), (F.CFG_RUN_STATE_RETAIN, r)] with loader := ⟨128, some (planOf [0]), false⟩ }
    let owned := { regs [] with claims := [⟨2, 0, 3, 0⟩] }
    (staging.working = true ∧ staging.g F.CFG_STATUS_STATE = ldSTAGING)
    ∧ (checking.working = true ∧ checking.g F.SEC_STATUS_BOOT = bootRUNNING
      ∧ (match checkImage (checking.sec.keys.filterMap id) (checking.on F.MBX_BIND_LOCK_LOCKED) checking.binding checking.shadowImage with
        | .error e => decide (e.code < 2 ^ 16)
        | .ok _ => false) = true)
    ∧ ((inst 2).working = true ∧ (inst 2).installReady = true ∧ (inst 2).g F.CFG_RUN_STATE_RETAIN = 2)
    ∧ ((inst 0).installReady = true ∧ (inst 0).g F.CFG_RUN_STATE_RETAIN = 0 ∧ (planOf [0]).ring.jobs = [])
    ∧ (ownerAllowed ⟨2, 0, 3, 0⟩ = true ∧ (regs []).ownerOf 2 0 = none ∧ owned.ownerOf 2 0 = some ⟨2, 0, 3, 0⟩
      ∧ ownerAllowed ⟨2, 0, 4, 0⟩ = true) := by decide +kernel

theorem test_loader :
    (after (.stage 2) (regs [(F.CFG_SRC_LEN_LEN, 128)])).g F.CFG_STATUS_STATE = ldSTAGING
    ∧ (after (.stage 2) (regs [(F.CFG_SRC_LEN_LEN, 64)])).g F.CFG_STATUS_LAST_CODE = 0x0103
    ∧ (after .installation { regs [(F.CFG_STATUS_STATE, ldINSTALLING)] with loader := ⟨128, some (planOf [0]), false⟩ }).g F.CFG_STATUS_ACTIVE = 1
    ∧ (after (.resourceClaim 2 0 4 0 false) { regs [] with claims := [⟨2, 0, 3, 0⟩] }).reports.length = 1 := by decide +kernel

/-- A vent request of 2 sectors at the foot of layer 1; the same refused beyond the layers; one held and one waiting. -/
def vent : Nat := 2 ^ 33
theorem witness_MemoryRequestsAct :
    let s := regs []
    let r (data : Option (List Byte)) (mask : Option (List Bool)) (n : Nat) : MemReq := ⟨0, 274, vent, n, data, mask⟩
    let rd := r none none 2
    let held (q : MemReq) : State := { s with regions := { RegionCtl.init with held := [q] } }
    let waits : State := { s with regions := { RegionCtl.init with waiting := [rd] } }
    (rd.ok = true ∧ s.memGate 274 vent = 0 ∧ s.slotFree rd = true ∧ behind s.regions.waiting rd = false ∧ s.biasHolds rd = false)
    ∧ s.memGate 274 0 ≠ 0 ∧ behind [r (some (List.replicate 128 1)) none 2] rd = true
    ∧ (takeFirst (·.id == 0) waits.regions.waiting = some (rd, []) ∧ waits.slotFree rd = true ∧ waits.biasHolds rd = false)
    ∧ takeFirst (·.id == 0) (held (r (some (List.replicate 128 1)) none 2)).regions.held = some (r (some (List.replicate 128 1)) none 2, [])
    ∧ (r (some (List.replicate 64 1)) (some (List.replicate 64 true)) 1).ok = true
    ∧ takeFirst (·.id == 0) (held rd).regions.held = some (rd, []) ∧ vent / 64 ∉ s.mem.bad
    ∧ vent ∈ ({ s with regions := { RegionCtl.init with fixes := [vent] } } : State).regions.fixes := by decide +kernel

/-- A masked host write changes the bytes of its mask alone. -/
theorem test_masked_write :
    let m := List.replicate 63 false ++ [true]
    let q : MemReq := ⟨0, 274, vent, 1, some (List.replicate 64 9), some m⟩
    let u := after (.memRequestDone 0 [] []) { regs [] with regions := { RegionCtl.init with held := [q] } }
    u.mem.cells = [(vent + 63, 9)] := by decide +kernel

theorem witness_LayersAreKept :
    let hot := (regs [(F.REG_LSTATUS_REFRESH_BAND 0 0, 2)])
    (regs []).power.offLayers.contains (319 / 64 * 8 + 7) = false ∧ layerThere 319 7 = true ∧ hot.g (F.REG_LSTATUS_REFRESH_BAND 0 0) ≠ 0 ∧ hot.layerEst 0 0 + 8 ≤ bandLow (hot.g (F.REG_LSTATUS_REFRESH_BAND 0 0))
    ∧ ((regs []).g (F.REG_LCTRL_SCRUB_EN 0 0) ≠ 0 ∧ (regs []).g (F.REG_LSTATUS_RESET_ACTIVE 0 0) = 0)
    ∧ (7 < layersOf 4 ∧ ((regs []).g (F.REG_COLSTATUS_HOP_FAILED 4)).testBit 7 = false)
    ∧ Sparse.get 0 39 ({ regs [] with regions := { RegionCtl.init with hops := [(39, 4)] } } : State).regions.hops = 4 := by decide +kernel

theorem test_hop : ((after (.hopFrameResend 4 7 true) { regs [] with regions := { RegionCtl.init with hops := [(39, 4)] } }).g
    (F.REG_COLSTATUS_HOP_FAILED 4)).testBit 7 = true := by decide +kernel

theorem witness_MemoryResetsAct :
    let drain := regs [(F.REG_COLSTATUS_IN_RESET 4, 1)]
    let rd : MemReq := ⟨0, 274, 4 * 2 ^ 37 + vent, 2, none, none⟩
    let held : State := { drain with regions := { RegionCtl.init with held := [rd] } }
    (layerThere 0 0 = true ∧ (regs []).g (F.REG_LSTATUS_RESET_ACTIVE 0 0) = 0)
    ∧ ((regs [(F.REG_LSTATUS_RESET_ACTIVE 64 5, 1)]).g (F.REG_LSTATUS_RESET_ACTIVE 64 5) ≠ 0)
    ∧ (regs []).colResetOk 4 = true ∧ (regs [(F.STEP_STATUS_STATE, 1)]).colResetOk 4 = false
    ∧ (drain.draining 4 = true ∧ drain.colHeld 4 = false) ∧ (held.draining 4 = true ∧ held.colHeld 4 = true)
    ∧ 4 ∈ ({ drain with regions := { RegionCtl.init with resetting := [4] } } : State).regions.resetting := by decide +kernel

/-- A job of 2 segments on ring A, of which this device (position 0 of 4) passes segment 1 on and owns segment 0. -/
def jobPlan : Plan :=
  let p := planOf [0]
  { p with ring := { p.ring with sizeA := 4, segmentTotal := 8, redPart := 1, jobs := [⟨0, 0, 0, 0, 0, 0, 8, 0⟩] } }
def reducing : State :=
  let s := withPlan jobPlan (ringed [(F.STEP_STATUS_STATE, 1)])
  { s with red := { s.red with released := [0, 1, 2, 3, 4, 5, 6, 7] } }
def sliceAt (seg srcPos added : Nat) : Flit :=
  ⟨{ type := 0, srcPos := srcPos, added := added, offset := 16384 * seg, step := 1 }, List.replicate 120 0⟩

/-- A data flit on all lanes. -/
def flitRx (f : Flit) : LineRx := rxOf f.bytes

/-- A slice of a step that is over, one of a step to come, one of another configuration, one of a halted job, one on a wrong channel. -/
theorem witness_DataFlitsAreJudged :
    let s := reducing
    let h := s.set (F.RED_JOB_STATUS_STATE 0) jobHALTED
    let f := sliceAt 2 3 1
    let g (hdr : Header) : Flit := ⟨hdr, f.payload⟩
    DataComes 1 (rxOf f.bytes) f.bytes f s ∧ DataComes 1 (rxOf f.bytes) f.bytes f h
    ∧ s.gate { f.hdr with step := 9 } = .drop ∧ s.gate { f.hdr with step := 2 } = .hold ∧ s.gate f.hdr = .now
    ∧ s.job 0 = some ⟨0, 0, 0, 0, 0, 0, 8, 0⟩ ∧ NoDecision s ∧ (g { f.hdr with digest := 5 }).hdr.digest ≠ s.digest64
    ∧ (f.hdr.digest = s.digest64 ∧ h.halted 0 = true ∧ h.gate f.hdr = .now) ∧ s.halted 0 = false
    ∧ (g { f.hdr with channel := 1 }).hdr.channel ≠ 0 ∧ s.placeOk 0 f ⟨0, 0, 0, 0, 0, 0, 8, 0⟩ = false := by
  refine ⟨?_, ?_, ?_, ?_, ?_, ?_, ?_, ?_, ?_, ?_, ?_, ?_⟩ <;> first | decide +kernel | (constructor <;> decide +kernel)

theorem test_data_flits :
    let f := sliceAt 2 3 1
    (after (.reduceFlit 1 false (flitRx { f with hdr := { f.hdr with digest := 5 } })) reducing).g F.RED_ERROR_CODE = 0x0501
    ∧ (after (.reduceFlit 0 false (flitRx { f with hdr := { f.hdr with seq := 0 } })) reducing).g F.RED_ERROR_CODE = 0x0505
    ∧ (after (.reduceFlit 1 false (flitRx { f with hdr := { f.hdr with step := 2 } })) reducing).red.held.length = 1 := by decide +kernel

/-- Segment 2 is passed on here, segment 0 is owned here, segment 3 begins here; a slice held for the release; empty memory reads +0. -/
theorem witness_SlicesAreAdded :
    let s := reducing
    let b : Job := ⟨0, 0, 0, 0, 0, 0, 8, 0⟩
    let c := List.replicate 120 0
    let f := sliceAt 2 3 1
    let f0 := sliceAt 0 1 3
    let late : State := { s with red := { s.red with released := [] } }
    let held : State := { s with red := { s.red with held := [⟨1, f⟩] } }
    let heldLate : State := { late with red := { late.red with held := [⟨1, f⟩] } }
    let w := s.way b.dim 0 2
    let v := s.way b.dim 0 3
    (DataComes 1 (rxOf f.bytes) f.bytes f s ∧ Addable 1 f b c s ∧ s.red.held.any (sameQueue 1 f) = false ∧ w.c ≠ w.o ∧ SendsNow s (onward s w) (.data f))
    ∧ (DataComes 1 (rxOf f0.bytes) f0.bytes f0 s ∧ Addable 1 f0 b c s ∧ (s.way b.dim 0 0).c = (s.way b.dim 0 0).o
      ∧ (addSlice (f0.payload.take (sliceLen 0)) c).all finite32 = true)
    ∧ (DataComes 1 (rxOf f.bytes) f.bytes f late ∧ Admitted .slice 1 f b late ∧ late.mayAdd b 0 2 = false)
    ∧ (held.working = true ∧ Settled held ∧ takeFirst (fun e => e.port == 1 && e.flit.hdr.channel == 0 && e.flit.hdr.phase == 0) held.red.held
        = some (⟨1, f⟩, []) ∧ ({ f.hdr with step := 2 } : Header).step ≠ 1 ∧ held.gate { f.hdr with step := 2 } = .hold
      ∧ Addable 1 f b c held ∧ SendsNow held (onward held w) (.data f))
    ∧ (Admitted .slice 1 f b heldLate ∧ heldLate.mayAdd b 0 2 = false)
    ∧ (s.working = true ∧ s.tilesRun = true ∧ s.host.lines = [] ∧ s.jobOf 3 = some 0 ∧ s.job 0 = some b ∧ s.halted 0 = false
      ∧ s.originDue 3 0 b = true ∧ (∀ i < 137, ((s.contribution 3 i).2).isSome = true) ∧ v.c ≠ v.o) := by
  refine ⟨⟨?_, ⟨?_, ?_, ?_, ?_⟩, ?_, ?_, ?_⟩, ⟨?_, ⟨?_, ?_, ?_, ?_⟩, ?_, ?_⟩, ⟨?_, ?_, ?_⟩, ⟨?_, ?_, ?_, ?_, ?_, ⟨?_, ?_, ?_, ?_⟩, ?_⟩, ⟨?_, ?_⟩, ?_⟩
    <;> first | decide +kernel | (constructor <;> decide +kernel)

/-- The owner's sums reach memory: 1.0 from the ring and +0 of its own. -/
theorem test_slice :
    let f := sliceAt 0 1 3
    let u := after (.reduceFlit 1 false (flitRx { f with payload := List.replicate 120 0x3F800000 })) reducing
    u.mem.read (2 ^ 33) 4 = [0, 0, 0x80, 0x3F] ∧ (after (.reduceFlit 1 false (flitRx (sliceAt 2 3 1))) reducing).outbox.length = 2 := by
  decide +kernel

/-- The same with one parameter group over the eight segments, whose copies and shard lie in the vent extent. -/
def groupPlan (j : Job) : Plan :=
  { jobPlan with ring := { jobPlan.ring with jobs := [j], groups := [⟨5, 131072, 0, 0, 0, false, false, 1, 1, 0, 8⟩], layers := [(5, 8)] } }
def grouped (j : Job) (l : List (Fld × Nat)) : State :=
  let s := withPlan (groupPlan j) (ringed ((F.STEP_STATUS_STATE, 1) :: l))
  { s with red := { s.red with released := [0, 1, 2, 3, 4, 5, 6, 7] } }
def plainJob : Job := ⟨0, 0, 0, 0, 0, 0, 8, 0⟩
def nanJob : Job := ⟨0, 0, 0, 1, 0, 0, 8, 0⟩
def gatherAt (k : Nat) : Flit :=
  ⟨{ type := 0, phase := 1, srcPos := 3, added := 1, gkind := k, offset := 16384 * 3, step := 1 }, List.replicate 120 0⟩
def skipFrom (src : Nat) : Flit :=
  ⟨{ type := 0, nan := true, srcPos := src, offset := 0xFFFFFFFFFF, step := 1 }, List.replicate 120 0⟩
def digestAt (k : Nat) : Flit := ⟨{ type := 0, phase := 1, srcPos := 3, added := 1, offset := 3 * 2 ^ 38, step := 1 }, k :: List.replicate 119 0⟩
def healing : State :=
  let s := grouped plainJob [(F.UPD_STATUS_HEALING, 1)]
  { s with upd := { s.upd with heal := [(0, [3])] } }

/-- A gather flit of segment 3 from its owner, one of a heal, the last of each; a notice that has come back and one from another device, before
and after this device knows; a digest and a narrowing, before and after the device has its own. -/
theorem witness_GatherSkipAndDigestFlitsAct :
    let s := grouped plainJob []
    let n := grouped nanJob []
    let k := grouped nanJob [(F.RED_STATUS_SKIP, 1)]
    let last (k : Nat) : Flit := ⟨{ (gatherAt k).hdr with last := true }, (gatherAt k).payload⟩
    let cp (k : Nat) (s : State) := s.writeCopy 3 (480 * 0 - (s.takeTail k 3 0 (List.replicate 480 (0 : Byte))).2.1)
      (s.takeTail k 3 0 (List.replicate 480 (0 : Byte))).2.2
    let own : State := s.setDigest ⟨0, some 7, [], [], [], false⟩
    (DataComes 1 (rxOf (gatherAt 0).bytes) (gatherAt 0).bytes (gatherAt 0) s ∧ Admitted .gather 1 (gatherAt 0) plainJob s
      ∧ Unhindered s (cp 2 s) ∧ (gatherAt 0).hdr.added < 4 / 2 ∧ SendsNow s (s.outPort 0) (.data (gatherAt 0)) ∧ (gatherAt 0).hdr.last = false)
    ∧ (DataComes 1 (rxOf (last 0).bytes) (last 0).bytes (last 0) s ∧ Admitted .gather 1 (last 0) plainJob s ∧ 3 ∉ s.gather.done ∧ s.jobOf 3 = some 0
      ∧ ((s.groupOf 3).bind s.group).isSome = true)
    ∧ (DataComes 1 (rxOf (last 2).bytes) (last 2).bytes (last 2) healing ∧ Admitted .gather 1 (last 2) plainJob healing ∧ Unhindered healing (cp 3 healing)
      ∧ (last 2).hdr.gkind = 2)
    ∧ (DataComes 1 (rxOf (skipFrom 0).bytes) (skipFrom 0).bytes (skipFrom 0) n ∧ Admitted .skip 1 (skipFrom 0) nanJob n ∧ n.coord 0 = 0)
    ∧ (DataComes 1 (rxOf (skipFrom 2).bytes) (skipFrom 2).bytes (skipFrom 2) n ∧ Admitted .skip 1 (skipFrom 2) nanJob n
      ∧ SendsNow n (n.outPort 0) (.data (skipFrom 2)) ∧ n.g F.RED_STATUS_SKIP = 0 ∧ n.g F.RED_ERROR_VALID = 0)
    ∧ (DataComes 1 (rxOf (skipFrom 2).bytes) (skipFrom 2).bytes (skipFrom 2) k ∧ Admitted .skip 1 (skipFrom 2) nanJob k ∧ k.g F.RED_STATUS_SKIP ≠ 0)
    ∧ (DataComes 1 (rxOf (digestAt 1).bytes) (digestAt 1).bytes (digestAt 1) own ∧ Admitted .digest 1 (digestAt 1) plainJob own ∧ NoDecision own
      ∧ (digestAt 1).hdr.added + 1 < max 1 (own.ringSize 0) ∧ SendsNow own (own.outPort 0) (.data (digestAt 1))
      ∧ leAt (wordBytes (digestAt 1).payload) 0 1 = 1 ∧ (own.digestOf 0).own = some 7 ∧ (7 : Nat) ≠ leAt (wordBytes (digestAt 1).payload) 8 8
      ∧ (own.digestOf 0).differs = false ∧ own.g F.UPD_DIG_REPORT_VALID = 0)
    ∧ (DataComes 1 (rxOf (digestAt 2).bytes) (digestAt 2).bytes (digestAt 2) s ∧ Admitted .digest 1 (digestAt 2) plainJob s
      ∧ leAt (wordBytes (digestAt 2).payload) 0 1 = 2)
    ∧ (let f : Flit := ⟨(digestAt 1).hdr, [1, 0, 7] ++ List.replicate 117 0⟩
       let d : GroupDigest := ⟨0, some 7, [(0, 1, 7), (0, 2, 7)], [], [], false⟩
       let e := (s.set F.UPD_STATUS_DIG_PENDING 1).setDigest d
       let v := e.setDigest { d with received := d.received ++ [(0, 3, 7)] }
       DataComes 1 (rxOf f.bytes) f.bytes f e ∧ Admitted .digest 1 f plainJob e ∧ leAt (wordBytes f.payload) 8 8 = 7
         ∧ e.on F.UPD_STATUS_DIG_PENDING = true ∧ v.digestCompared = true ∧ v.mismatching = []) := by
  refine ⟨⟨?_, ?_, ?_, ?_, ?_, ?_⟩, ⟨?_, ?_, ?_, ?_, ?_⟩, ⟨?_, ?_, ?_, ?_⟩, ⟨?_, ?_, ?_⟩, ⟨?_, ?_, ?_, ?_, ?_⟩, ⟨?_, ?_, ?_⟩, ⟨?_, ?_, ?_, ?_, ?_, ?_, ?_, ?_, ?_, ?_⟩, ⟨?_, ?_, ?_⟩, ?_, ?_, ?_, ?_, ?_, ?_⟩
    <;> first | decide +kernel | (constructor <;> decide +kernel)

theorem test_gather_and_digest :
    let s := grouped plainJob []
    let last : Flit := ⟨{ (gatherAt 0).hdr with last := true }, (gatherAt 0).payload⟩
    let u := after (.gatherFlit 1 false (flitRx last)) s
    u.gather.done = [3] ∧ Sparse.get 0 5 u.stp.gather = 1
    ∧ (after (.skipNotice 1 false (flitRx (skipFrom 2))) (grouped nanJob [])).g F.RED_ERROR_CODE = 0x0508
    ∧ (after (.digestFlit 1 false (flitRx (digestAt 1))) (s.setDigest ⟨0, some 7, [], [], [], false⟩)).g F.UPD_DIG_REPORT_VALID = 1 := by
  decide +kernel

/-- A program of instructions given as (opcode, MODE), and a state whose group 0 runs it, its shard in partition `part`. -/
def upd (l : List (Nat × Nat)) : UpdProg :=
  ⟨l.flatMap fun e => (BitVec.ofNat 8 e.1) :: (BitVec.ofNat 8 e.2) :: List.replicate 14 0, List.replicate 64 0⟩
def shard : Nat := vent + 2 ^ 28
def updGroup (part : Nat) (late : Bool) : Group := ⟨5, 131072, 0, 0, 0, late, false, 1, part, 0, 8⟩
def updating (part : Nat) (late : Bool) (l : List (Nat × Nat)) : State :=
  let p := groupPlan plainJob
  let s := withPlan { p with
    progs := [upd l], late := [⟨0, 1, 0, 3, 0⟩], mem := { p.mem with extents := p.mem.extents ++ [⟨3, 1, 16, shard, 3⟩] },
    ring := { p.ring with groups := [updGroup part late] } } (ringed [(F.STEP_STATUS_STATE, 1)])
  { s with red := { s.red with reduced := [0, 1, 2, 3, 4, 5, 6, 7] } }
def runAt (pc : Nat) : URun := ⟨0, 0, 0, 0, none, pc, ⟨[], [], [], [], 0, 1⟩, [], [], [], []⟩
def running (pc : Nat) (l : List (Nat × Nat)) : State :=
  let s := updating 3 false l
  { s with upd := { s.upd with runs := [runAt pc] } }

theorem witness_SkipIsCopiedAndTold :
    let s := withPlan jobPlan (ringed [(F.STEP_STATUS_STATE, 1), (F.RED_STATUS_SKIP, 1)])
    let r := regs []
    let c : State := { s with red := { s.red with skipCopied := true } }
    (s.working = true ∧ Settled s ∧ s.tilesRun = true ∧ s.g F.RED_STATUS_SKIP ≠ 0 ∧ s.red.skipCopied = false ∧ s.ckptHolds s.writeVersion = false
      ∧ NoDecision s ∧ (∀ x ∈ (regs []).extents, x.host = false) ∧ Unhindered s s.endRuns.skipCopy)
    ∧ ((64 : Nat) % 64 = 0 ∧ r.replaying = false ∧ (r.readMem rqUPD vent (64 / 64)).2.2 = 0
      ∧ (r.writeMem rqUPD shard (r.mem.read vent 64)).2 = 0)
    ∧ (c.working = true ∧ Settled c ∧ c.tilesRun = true ∧ c.g F.RED_STATUS_SKIP ≠ 0 ∧ c.ringUp 0 = true ∧ 0 ∈ c.noticeRings ∧ 0 ∉ c.red.noticeSent
      ∧ c.outPort 0 = 0 ∧ c.outPort 1 = 1 ∧ c.canSend 0 (.data (skipFrom 0)) = true ∧ c.canSend 1 (.data (skipFrom 0)) = true
      ∧ (c.port 0).waiting = [] ∧ (c.port 1).passing = []) := by decide +kernel

theorem test_skip :
    let s := withPlan jobPlan (ringed [(F.STEP_STATUS_STATE, 1), (F.RED_STATUS_SKIP, 1)])
    (after .skipCopy s).red.skipCopied = true
    ∧ (after (.skipNoticeSend 0) (after .skipCopy s)).red.noticeOut = [(0, 0), (0, 1)] := by decide +kernel

/-- The sums of a round of a job of one segment and rank 1 are full once they hold 16,384 values. -/
theorem full_of (l : List Nat) (r : Nat) (h : l.length = 16384) (hr : r = 1 ∨ r = 2) :
    (⟨0, [], [], [], [], [(0, l)], [], []⟩ : LowRank).full ⟨0, 0, 1, 0, 1, 1, 1, 0⟩ r = true := by
  have h1 : roundSegs ⟨0, 0, 1, 0, 1, 1, 1, 0⟩ 1 = 1 := by decide +kernel
  have h2 : roundSegs ⟨0, 0, 1, 0, 1, 1, 1, 0⟩ 2 = 1 := by decide +kernel
  rcases hr with rfl | rfl <;> simp [LowRank.full, h1, h2, h]

theorem low_setLow (s : State) (e : LowRank) : (s.setLow e).low e.job = some e := by
  rw [State.low, State.setLow, List.find?_append, List.find?_eq_none.mpr (by simp)]
  simp

/-- A job of no segments begins; one whose first sector has no memory; the ends of the rounds of a job of one segment and rank 1. -/
theorem witness_LowRankSequenceRuns :
    let lows (b : Job) (l : List (Fld × Nat)) : State := grouped b l
    let e0 : Job := ⟨0, 0, 1, 0, 0, 0, 0, 0⟩
    let e1 : Job := ⟨0, 0, 1, 0, 1, 1, 1, 0⟩
    let s := lows e0 []
    let e : LowRank := ⟨0, [], [], [], [], [(0, List.replicate 16384 0)], [], []⟩
    let h (r : Nat) (k : Nat) : State := (lows e1 [(F.RED_JOB_STATUS_ROUND 0, r), (F.RED_STATUS_SKIP, k)]).setLow e
    let n : State := withPlan { groupPlan e1 with ring := { (groupPlan e1).ring with redPart := 9 } } s
    (s.working = true ∧ Settled s ∧ s.ring.jobs.length ≤ 4096 ∧ NoDecision s ∧ s.tilesRun = true ∧ s.job 0 = some e0 ∧ s.halted 0 = false
      ∧ s.jobRings e0 = true ∧ s.red.held = [] ∧ s.low 0 = none ∧ e0.segs.all s.red.released.contains = true
      ∧ (s.localRows e0.segs).2 = some [] ∧ (s.lowUnits 0 s.readVersion e0 0).2 = some (.ok []) ∧ Unhindered s (s.lowBegin 0 e0))
    ∧ (n.working = true ∧ n.job 0 = some e1 ∧ e1.segs.all n.red.released.contains = true ∧ n.jobRings e1 = true)
    ∧ ((h 1 0).low 0 = some e ∧ (h 1 0).round 0 = 1 ∧ (h 1 0).jobRings e1 = true ∧ (h 1 0).halted 0 = false ∧ (h 1 0).red.held = [])
    ∧ e.full e1 1 = true
    ∧ ((h 2 1).low 0 = some e ∧ (h 2 1).round 0 = 2 ∧ (h 2 1).ckptHolds (h 2 1).writeVersion = false ∧ (h 2 1).ownedOfJob e1 = []
      ∧ Unhindered (h 2 1) (((h 2 1).lowStore 0 e1 e []).set (F.RED_JOB_STATUS_ROUND 0) 3))
    ∧ e.full e1 2 = true := by
  refine ⟨?_, ?_, ⟨low_setLow _ _, ?_⟩, full_of _ 1 List.length_replicate (.inl rfl), ⟨low_setLow _ _, ?_⟩,
    full_of _ 2 List.length_replicate (.inr rfl)⟩ <;> decide +kernel

theorem witness_LowRankPoisoned :
    let e : Job := ⟨0, 0, 1, 0, 1, 1, 1, 0⟩
    let s := grouped e []
    let n : State := { s with mem := { s.mem with bad := [vent / 64 + 2047] } }
    n.working = true ∧ n.job 0 = some e ∧ n.low 0 = none ∧ n.partSector 1 2047 = some (vent + 64 * 2047) := by decide +kernel

/-- A group whose digest is due, and one that mismatches and is narrowed. -/
theorem witness_DigestsAreComputed :
    let s := (grouped plainJob [(F.UPD_STATUS_DIG_PENDING, 1), (F.UPD_DIG_CTRL_NARROW_EN, 1)]).fillGathers [(5, 8)]
    let n := s.setDigest ⟨0, some 7, [(0, 1, 7), (0, 2, 7), (0, 3, 8)], [], [], false⟩
    (s.working = true ∧ s.stepOpen = true ∧ Settled s ∧ NoDecision s ∧ s.g F.UPD_STATUS_DIG_PENDING ≠ 0 ∧ s.gatherFull = true ∧ s.gather.kind = none
      ∧ (s.digestOf 0).own = none ∧ s.ring.groups.length = 1)
    ∧ (n.working = true ∧ n.digestCompared = true ∧ 0 ∈ n.narrowSet ∧ (n.digestOf 0).sent = false) := by decide +kernel

/-- Unit 0 at each arithmetic instruction. -/
theorem witness_UpdateArithmeticRuns :
    ∀ op ∈ [0x10, 0x11, 0x12, 0x13, 0x14, 0x15, 0x16, 0x17, 0x18, 0x19, 0x20, 0x21, 0x22, 0x23, 0x24],
      let s := running 1 [(1, 0), (op, 0), (2, 0)]
      s.working = true ∧ s.tilesRun = true ∧ Settled s ∧ s.runOf 0 = some (runAt 1) ∧ s.group 0 = some (updGroup 3 false)
        ∧ (s.progOf (updGroup 3 false)).instrs[1]? = some ⟨op, 0, 0, 0, 0, 0⟩ := by decide +kernel


/-- A pass whose gradient and record can be read starts a run. -/
theorem starts_of {s : State} {gi seg u ver : Nat} {g : Group} {pl : Place} {b c : List Byte} (hg : s.group gi = some g)
    (hp : s.partAt gi (s.ownIndex gi seg) ver = some pl) (hh : pl.host = false) (hu : s.unitOf gi seg = u)
    (h1 : s.readPart (rqUPD + u) s.ring.redPart (65536 * seg) 65536 = (s, b, 0))
    (h2 : s.readMem (rqUPD + u) pl.addr (partBytes g (s.progOf g).instrs / 64) = (s, c, 0)) :
    ∃ inp, s.uStart gi seg 0 none ver g = (s, some ⟨u, gi, seg, 0, none, 0, inp, [], [], [], []⟩) := by
  simp only [State.uStart, State.uInputs, hg, hp, hu, h1, State.unitRead, hh, Bool.false_and, Bool.false_eq_true, if_false, h2, ne_eq,
    not_true_eq_false, or_self]
  exact ⟨_, rfl⟩

theorem run_starts (l : List (Nat × Nat)) (h : l = [(1, 0), (2, 0)] ∨ l = [(3, 1), (1, 0), (2, 0)] ∨ l = [(1, 1), (2, 0)]) :
    let s := updating 3 false l
    ∃ inp, s.uStart 0 0 0 none s.readVersion (updGroup 3 false) = (s, some ⟨0, 0, 0, 0, none, 0, inp, [], [], [], []⟩) := by
  obtain ⟨b, h1, -, -⟩ := State.readPart_calm (s := updating 3 false l) (req := rqUPD + 0) (part := 1) (off := 65536 * 0) (len := 65536)
    (by rcases h with rfl | rfl | rfl <;> decide +kernel)
  exact starts_of (by rfl) (pl := ⟨false, shard⟩) (by rcases h with rfl | rfl | rfl <;> decide +kernel) rfl (by rcases h with rfl | rfl | rfl <;> decide +kernel)
    h1 (State.readMem_calm (by rcases h with rfl | rfl | rfl <;> decide +kernel))
set_option maxRecDepth 20000 in
/-- What that run leaves waits for nothing. -/
theorem run_goes (s : State) (hs : s = updating 3 false [(1, 0), (2, 0)]) :
    ∃ r, s.uStart 0 0 0 none s.readVersion (updGroup 3 false) = (s, some r) ∧ Unhindered s (State.uRun 4 r s) := by
  obtain ⟨b, h1, -, hb⟩ := State.readPart_calm (s := s) (req := rqUPD + 0) (part := 1) (off := 65536 * 0) (len := 65536)
    (by subst hs; decide +kernel)
  have h2 := State.readMem_calm (s := s) (req := rqUPD + 0) (a := shard) (n := 1024) (by subst hs; decide +kernel)
  have hg : s.group 0 = some (updGroup 3 false) := by subst hs; rfl
  have hp : s.partAt 0 (s.ownIndex 0 0) s.readVersion = some ⟨false, shard⟩ := by subst hs; decide +kernel
  have hu : s.unitOf 0 0 = 0 := by subst hs; decide +kernel
  have hr : s.ring.redPart = 1 := by subst hs; rfl
  have hn : partBytes (updGroup 3 false) (s.progOf (updGroup 3 false)).instrs / 64 = 1024 := by subst hs; decide +kernel
  simp only [State.uStart, State.uInputs, hg, hp, hu, hr, h1, State.unitRead, Bool.false_and, Bool.false_eq_true, if_false, hn, h2, ne_eq,
    not_true_eq_false, or_self]
  refine ⟨_, rfl, ?_⟩
  subst hb hs
  decide +kernel

/-- Unit 0 runs and is at the instruction of opcode `op` and MODE `md`. -/
abbrev stands (pc op md : Nat) (l : List (Nat × Nat)) : Prop :=
  let s := running pc l
  s.working = true ∧ s.tilesRun = true ∧ Settled s ∧ NoDecision s ∧ s.runOf 0 = some (runAt pc) ∧ s.group 0 = some (updGroup 3 false)
    ∧ (s.progOf (updGroup 3 false)).instrs[pc]? = some ⟨op, md, 0, 0, 0, 0⟩

/-- Passes due, whose runs begin with PASS and with WCF; one whose record cannot be read; each instruction before unit 0; a factor stored. -/
theorem witness_UpdateProgramsRun :
    let u (l : List (Nat × Nat)) := updating 3 false l
    let bad : State := { u [(1, 0), (2, 0)] with mem := { (u []).mem with bad := [shard / 64] } }
    let scope (l : List (Nat × Nat)) := groupScope ((u l).progOf (updGroup 3 false)).instrs
    let nth (pc : Nat) (l : List (Nat × Nat)) := ((((u l).progOf (updGroup 3 false)).instrs).take pc).countP fun i => i.op == uPASS
    let f := running 1 [(1, 0), (0x42, 2), (2, 0)]
    (∀ l ∈ [[(1, 0), (2, 0)], [(3, 1), (1, 0), (2, 0)], [(1, 1), (2, 0)]], Settled (u l) ∧ NoDecision (u l) ∧ (u l).group 0 = some (updGroup 3 false)
        ∧ (u l).passDue 0 0 0 (updGroup 3 false) = true ∧ (u l).unitOf 0 0 = 0 ∧ (u l).runOf 0 = none)
    ∧ passFirst ((u [(1, 0), (2, 0)]).progOf (updGroup 3 false)).instrs 0 = some uPASS
    ∧ passFirst ((u [(3, 1), (1, 0), (2, 0)]).progOf (updGroup 3 false)).instrs 0 = some uWCF
    ∧ (bad.passDue 0 0 0 (updGroup 3 false) = true ∧ bad.g F.UPD_ERROR_VALID = 0)
    ∧ (stands 0 1 1 [(1, 1), (1, 1), (2, 0)] ∧ scope [(1, 1), (1, 1), (2, 0)] = true ∧ nth 0 [(1, 1), (1, 1), (2, 0)] = 0)
    ∧ (stands 1 1 1 [(1, 1), (1, 1), (2, 0)] ∧ nth 1 [(1, 1), (1, 1), (2, 0)] ≠ 0)
    ∧ (stands 0 1 0 [(1, 0), (1, 0), (2, 0)] ∧ scope [(1, 0), (1, 0), (2, 0)] = false ∧ nth 0 [(1, 0), (1, 0), (2, 0)] = 0)
    ∧ (stands 1 1 0 [(1, 0), (1, 0), (2, 0)] ∧ nth 1 [(1, 0), (1, 0), (2, 0)] ≠ 0)
    ∧ stands 1 2 0 [(1, 0), (2, 0)] ∧ stands 0 3 1 [(3, 1), (1, 0), (2, 0)] ∧ stands 1 0x30 2 [(1, 0), (0x30, 2), (2, 0)]
    ∧ stands 1 0x40 1 [(1, 0), (0x40, 1), (2, 0)] ∧ stands 1 0x41 5 [(1, 0), (0x41, 5), (2, 0)]
    ∧ (∀ p < 3, stands 1 0x42 p [(1, 0), (0x42, p), (2, 0)])
    ∧ (f.replaying = false ∧ (f.outPlace (runAt 1) 0).isSome = true
        ∧ (f.unitWrite 0 ⟨false, shard⟩ (List.replicate 64 0)).2 = 0 ∧ Unhindered f (f.unitWrite 0 ⟨false, shard⟩ (List.replicate 64 0)).1) := by
  refine ⟨?_, ?_, ?_, ?_, ?_, ?_, ?_, ?_, ?_, ?_, ?_, ?_, ?_, ?_, ?_⟩ <;> decide +kernel

/-- A record that cannot be read answers its code. -/
theorem witness_UpdateProgramsRun_bad :
    let bad : State := { updating 3 false [(1, 0), (2, 0)] with mem := { (regs []).mem with bad := [shard / 64] } }
    (bad.uInputs 0 0 0 none bad.readVersion).2 = some (.error 0x0301) ∧ Unhindered bad (bad.uInputs 0 0 0 none bad.readVersion).1 := by
  decide +kernel

/-- A gather under way, and a group of late gradients. -/
def deriving' (p : Nat) : State := { updating p false [(1, 0), (2, 0)] with gather := ⟨some 0, [0, 4], []⟩ }
def lateState (source count : Nat) : State :=
  let s := (updating 3 true [(1, 0), (2, 0)]).setAll [(F.ETH_PODS_COUNT 0, count), (F.ETH_PODS_QP_BASE 0, 5), (F.ETH_PODS_RX_PART 0, 1),
    (F.ETH_PODS_TIMEOUT_MS 0, 3), (F.ETH_PORT_STATUS_LINK_UP 0, 1)]
  { s with plan := s.plan.map fun p => { p with late := [⟨0, 1, source, 3, 0⟩] }, upd := { s.upd with due := [(0, 7)] }, eth := { s.eth with qp := [(64 * 6, 3)] } }

/-- The first segment of a gather of the plan's copies, derived, and one whose record has no memory; a late gradient copied, and applied; a copy
sent to the other pod, one received, and one that has not come in time. -/
theorem witness_CopiesAndLateGradientsMove :
    let d := deriving' 3
    let e := deriving' 9
    let s := lateState 0 0
    let p := lateState 1 2
    let g := updGroup 3 true
    let z : Group := { g with segCount := 0 }
    let a : State := { s with plan := s.plan.map fun p => { p with ring := { p.ring with groups := [z] } },
                              upd := { s.upd with pending := [⟨0, 7, [], [], [], true, false⟩] } }
    (d.working = true ∧ Settled d ∧ NoDecision d ∧ d.group 0 = some (updGroup 3 false) ∧ d.ring.jobs.length ≤ 4096 ∧ d.ringsCarry = true
      ∧ d.upd.healQueue = [] ∧ d.gather.kind ≠ some 2 ∧ d.gather.queue = 0 :: [4] ∧ d.groupOf 0 = some 0 ∧ d.jobOf 0 = some 0
      ∧ d.job 0 = some plainJob ∧ d.halted 0 = false)
    ∧ ((e.masterValues 0 0 0 (updGroup 9 false)).2 = some (.error 0x0302) ∧ e.g F.UPD_ERROR_VALID = 0 ∧ Unhindered e e.deriveNext
      ∧ e.gather.kind ≠ some 3)
    ∧ (s.working = true ∧ s.group 0 = some g ∧ s.stepOpen = true ∧ s.replaying = false ∧ 0 ∈ s.ownedOf g
      ∧ (s.ownedOf g).all s.red.reduced.contains = true
      ∧ (s.pendingOf 0 s.workStep).elim false (fun p => p.copied.contains 0) = false
      ∧ (s.pendingUnit 0 (s.workStep % 5) (s.ownIndex 0 0)).elim false (fun p => !p.host) = true
      ∧ (s.lateOf 0).elim false (fun e => e.source == 1) = false)
    ∧ (a.working = true ∧ Settled a ∧ NoDecision a ∧ a.group 0 = some z ∧ a.lateFirst 0 = some 7 ∧ a.g F.RED_STATUS_SKIP = 0
      ∧ a.ckptHolds a.writeVersion = false ∧ a.pendingOf 0 7 = some ⟨0, 7, [], [], [], true, false⟩ ∧ a.ownedOf z = []
      ∧ Unhindered a (a.lateApply 0 7 (a.lateVersion 0) z []))
    ∧ (p.podSetOf 0 = some 0 ∧ p.stepOpen = true ∧ p.replaying = false ∧ 0 ∈ p.ownedOf g ∧ 0 ∈ p.red.reduced ∧ 1 < p.g (F.ETH_PODS_COUNT 0)
      ∧ 1 ≠ p.g (F.ETH_PODS_SELF 0) ∧ p.g (F.ETH_PODS_QP_BASE 0) + 1 = 6 ∧ p.qpReady 6 = true ∧ (0, p.workStep, 0, 1) ∉ p.upd.podSent
      ∧ (0, 7, 0, 1) ∉ p.upd.podGot)
    ∧ (let m := podMessage 7 0 1 0 0 5
       m.length = 32 ∧ leAt m 0 8 = 7 ∧ leAt m 8 2 = 0 ∧ leAt m 10 1 = 1 ∧ leAt m 12 4 = 0 ∧ leAt m 16 8 = 5)
    ∧ (p.g (F.ETH_PODS_TIMEOUT_MS 0) ≠ 0 ∧ (0, 7) ∈ p.upd.due ∧ p.pendingOf 0 7 = none ∧ p.stepState = stOPEN ∧ p.framesFlow = true
      ∧ p.g F.ETH_ERRLOG_VALID = 0) := by
  refine ⟨?_, ?_, ?_, ?_, ?_, ?_, ?_⟩ <;> decide +kernel

/-- The master of a record that can be read. -/
theorem master_of {s : State} {gi seg ver : Nat} {g : Group} {pl : Place} {b : List Byte}
    (hp : s.partAt gi (s.ownIndex gi seg) ver = some pl) (hh : pl.host = false)
    (h2 : s.readMem (rqUPD + s.unitOf gi seg) pl.addr (masterBytes g / 64) = (s, b, 0)) :
    ∃ v, s.masterValues gi seg ver g = (s, some (.ok v)) := by
  simp only [State.masterValues, hp, State.unitRead, hh, Bool.false_and, Bool.false_eq_true, if_false, h2]
  exact ⟨_, rfl⟩

/-- The master of a segment, the late gradient and its slot, and the copies of a pod are read whole. -/
theorem witness_CopiesAreRead :
    (∃ v, (deriving' 3).masterValues 0 0 0 (updGroup 3 false) = (deriving' 3, some (.ok v)))
    ∧ (∃ l, (lateState 0 0).readPart (rqUPD + 0) 1 0 65536 = (lateState 0 0, l, 0)
        ∧ ((lateState 0 0).writeMem (rqUPD + 0) shard l).2 = 0 ∧ Unhindered (lateState 0 0) ((lateState 0 0).writeMem (rqUPD + 0) shard l).1)
    ∧ (∃ l, (lateState 1 2).readPart rqETH 1 0 65536 = (lateState 1 2, l, 0)) := by
  refine ⟨?_, ?_, ?_⟩
  · exact master_of (pl := ⟨false, shard⟩) (by decide +kernel) rfl (State.readMem_calm (by decide +kernel))
  · obtain ⟨l, h1, hl, -⟩ := State.readPart_calm (s := lateState 0 0) (req := rqUPD + 0) (part := 1) (off := 0) (len := 65536) (by decide +kernel)
    exact ⟨l, h1, State.writeMem_writable (n := 1024) hl (by decide +kernel) (by decide +kernel)⟩
  · obtain ⟨l, h1, -, -⟩ := State.readPart_calm (s := lateState 1 2) (req := rqETH) (part := 1) (off := 0) (len := 65536) (by decide +kernel)
    exact ⟨l, h1⟩

/-- The host link in L0 with CXL, in Recovery, and in training. -/
def hosted (l : List (Fld × Nat)) : State := regs ([(F.HIF_STATUS_LINK_UP, 1), (F.HIF_STATUS_CXL, 1)] ++ l)
def recovering : State := { regs [] with host := { HostCtl.init with recovery := true } }
def training : State := { regs [] with pins := { State.reset.pins with perst := false } }
/-- Memory's first byte as the host has it, a reserved byte, and a byte beyond memory. -/
def hda : Nat := hdaOfDpa vent
def reserved : Nat := reservedAt 7 0

theorem witness_HostAccessesMemory :
    let s := hosted [(F.PAGE_BIAS_BIAS (hda / pageBytes), 1)]
    let b : State := { s with mem := { s.mem with bad := [vent / 64] } }
    let r := hosted [(F.CFG_RUN_STATE_RETAIN, 1)]
    (recovering.powered = true ∧ recovering.host.recovery = true)
    ∧ (training.host.recovery = false ∧ training.powered = true ∧ training.g F.HIF_STATUS_LINK_UP = 0 ∧ training.pins.perst = false)
    ∧ (s.powered = true ∧ s.host.recovery = false ∧ s.g F.HIF_STATUS_LINK_UP ≠ 0 ∧ ¬((3 = 4 ∨ 3 = 8) ∧ 0 % 3 = 0))
    ∧ (hda + 64 ≤ barEnd ∧ s.retained = false ∧ HostReads s hda 64 ∧ HostReads s (hda + 5) 200 ∧ Unhindered s (s.hostRead hda 64)
      ∧ Unhindered s (s.hostRead (hda + 5) 200))
    ∧ (sectorsOf hdaEnd 64 = [hdaEnd] ∧ hostSector hdaEnd = 2 ∧ hdaEnd + 64 ≤ barEnd)
    ∧ (sectorsOf reserved 64 = [reserved] ∧ hostSector reserved = 1 ∧ s.g F.HIF_ERRLOG_VALID = 0)
    ∧ (sectorsOf hda 4 = [hda] ∧ hostSector hda = 0 ∧ dpaOfHda hda / 64 ∈ b.mem.bad ∧ Unhindered b (b.hostRead hda 4))
    ∧ (r.retained = true ∧ r.host.retainedLogged = false ∧ r.host.recovery = false)
    ∧ Unhindered s (s.hostWrite hda (List.replicate 4 1) (List.replicate 4 true))
    ∧ (s.cxl = true ∧ s.host.hdmBase ≤ hda ∧ hda - s.host.hdmBase < hdaEnd ∧ hda % 64 = 0 ∧ HostReads s (hda - s.host.hdmBase) 64
      ∧ s.mayGrant hda = true)
    ∧ Unhindered s (s.hostWrite hda (List.replicate 64 1) (List.replicate 64 true)) := by
  refine ⟨?_, ?_, ?_, ?_, ?_, ?_, ?_, ?_, ?_, ?_, ?_⟩ <;> decide +kernel

theorem test_host :
    (after (.bar2Write hda [7, 8] [false, true]) (hosted [])).mem.cells = [(vent + 1, 8)]
    ∧ (after (.bar2Read hdaEnd 4) (hosted [])).outbox = [.hostReply [0, 0, 0, 0] false]
    ∧ (after (.cxlMemRead hda 1) (hosted [(F.PAGE_BIAS_BIAS (hda / pageBytes), 1)])).host.lines = [(hda / 64, 1)]
    ∧ (after (.bar2Read hda 4) recovering).host.coming.length = 1 := by decide +kernel

/-- A descriptor: opcode, flags, length, source and destination offset, ARG. -/
def descOf (op fl len so dof arg : Nat) : List Byte :=
  leBytes 1 op ++ leBytes 1 fl ++ leBytes 2 9 ++ leBytes 4 len ++ leBytes 8 0 ++ leBytes 8 so ++ leBytes 8 dof ++ leBytes 16 0 ++ leBytes 8 arg ++ leBytes 8 0
def memBuf (a : Nat) : Buf := ⟨2, 3, hdaOfDpa a, 64⟩
def hostBuf : Buf := ⟨1, 3, 0x10000, 64⟩
def cmdOf (d : List Byte) (src dst : Buf) (stage status : Nat) : HostCmd := ⟨0, d, stage, status, 0, src, dst, hostBuf, [], CkptRun.init⟩
def commanded (c : HostCmd) (s : State) : State := s.setQueue 0 fun x => { x with live := true, cmd := some c }

theorem witness_QueuesTakeCommands :
    let s := hosted []
    let e := s.set (F.HIF_Q_CFG_ENABLE 0) 1
    let d := descOf 0 0 0 0 0 0
    let f := (s.set (F.HIF_Q_SQ_TAIL_INDEX 0) 1).setQueue 0 fun x => { x with live := true }
    let g := f.setQueue 0 fun x => { x with fetched := [⟨0, d⟩] }
    (s.fromMaster 1 = true ∧ s.fromMaster 2 = true ∧ s.g (F.HIF_Q_CFG_ENABLE 0) = 0 ∧ (4 ≤ 16 % 32 ∧ 16 % 32 ≤ 16) ∧ ¬(4 ≤ 3 % 32 ∧ 3 % 32 ≤ 16)
      ∧ ¬(4 ≤ 17 % 32 ∧ 17 % 32 ≤ 16) ∧ s.g F.HIF_ERRLOG_VALID = 0)
    ∧ (e.g (F.HIF_Q_CFG_ENABLE 0) ≠ 0 ∧ e.fromMaster 2 = true ∧ 15 < e.qEntries 0 ∧ e.qEntries 0 ≤ 16 ∧ 0 % 2 ^ 17 ≠ ((e.queue 0).cqTail + 1) % (e.queue 0).entries)
    ∧ (f.working = true ∧ f.g F.HIF_STATUS_LINK_UP ≠ 0 ∧ (f.queue 0).live = true ∧ d.length = 64
      ∧ f.g (F.HIF_Q_STATUS_SQ_HEAD 0) ≠ f.g (F.HIF_Q_SQ_TAIL_INDEX 0))
    ∧ (g.working = true ∧ (g.queue 0).fetched = [⟨0, d⟩] ∧ (g.queue 0).live = true ∧ (g.queue 0).cmd = none ∧ (dFlags d).testBit 2 = false)
    ∧ (let d := descOf 0 4 0 0 0 0
       (dFlags d).testBit 2 = true ∧ (g.setQueue 0 fun x => { x with fetched := [⟨0, d⟩] }).earlierRuns 0 = false) := by decide +kernel

theorem test_queue :
    let f := (hosted []).setQueue 0 fun x => { x with live := true, fetched := [⟨0, descOf 0x77 0 0 0 0 0⟩] }
    ((after (.commandStart 0) f).queue 0).cmd.map (·.status) = some 0x0701
    ∧ (after (.queueEnable 1 0 17) (hosted [])).g F.HIF_ERRLOG_CODE = 0x0709 := by decide +kernel

def owned (l : List OwnerEntry) (s : State) : State := { s with claims := l }
def farLine (dirty : Bool) : FarLine := ⟨0, 0, 0x400, List.replicate 64 5, dirty, true⟩

/-- Two sectors copied within memory, from the host and to it, with a far-cache partition and without; filled; a dirty line flushed; pages changed to
HOST and to DEVICE; snoops answered and not; completions. -/
theorem witness_QueueCommandsAct :
    let s := hosted []
    let st (op len arg : Nat) (a b : Buf) (k e : Nat) : HostCmd := cmdOf (descOf op 3 len 0 0 arg) a b k e
    let mm := st 1 2 0 (memBuf vent) (memBuf (vent + 4096)) 0 0
    let hm := st 1 2 0 hostBuf (memBuf vent) 0 0
    let mh := st 1 2 0 (memBuf vent) hostBuf 0 0
    let fi := st 2 2 7 hostBuf (memBuf vent) 0 0
    let fl := st 4 0 0x10001 hostBuf hostBuf 0 0
    let bi (a : Nat) := st 3 16384 a hostBuf (memBuf vent) 0 0
    let far : State := owned [⟨3, 0, 9, 0⟩] s
    let page := hda / pageBytes
    let ch : State := (s.set (F.PAGE_BIAS_CHANGING page) 1).setHost fun h => { h with snoops := [(hda / 64, true)] }
    let don := commanded { st 0 0 0 hostBuf hostBuf 2 0 with flag := hostBuf } s
    ((commanded (st 0 0 0 hostBuf hostBuf 0 0) s).working = true ∧ (commanded (st 0 0 0 hostBuf hostBuf 0 0) s).cmdAt 0 0 0 = some (st 0 0 0 hostBuf hostBuf 0 0))
    ∧ (s.g F.HIF_STATUS_LINK_UP ≠ 0 ∧ (commanded mm s).cmdAt 0 1 0 = some mm ∧ mm.dst.kind ≠ 1 ∧ mm.src.kind ≠ 1
      ∧ (∀ i < 2, s.memGate rqHOST (dpaOfHda (mm.dst.base + 64 * i)) = 0 ∧ s.memGate rqHOST (dpaOfHda (mm.src.base + 64 * i)) = 0
        ∧ ∀ k < 2, dpaOfHda (mm.src.base + 64 * i) ≠ dpaOfHda (mm.dst.base + 64 * k))
      ∧ Unhindered s (s.doCopy 0 mm [] none))
    ∧ ((commanded hm s).cmdAt 0 1 0 = some hm ∧ hm.src.kind = 1 ∧ (commanded hm s).far.lines = []
      ∧ Unhindered s (s.doCopy 0 hm (List.replicate 128 1) none))
    ∧ ((commanded mh s).cmdAt 0 1 0 = some mh ∧ mh.dst.kind = 1 ∧ mh.src.kind ≠ 1 ∧ dLen mh.desc ≠ 0 ∧ Unhindered s (s.doCopy 0 mh [] none)
      ∧ (commanded mh s).farParts .host = [] ∧ Unhindered far (far.doCopy 0 mh [] none) ∧ (commanded mh far).farParts .host ≠ [])
    ∧ ((commanded fi s).cmdAt 0 2 0 = some fi ∧ fi.dst.kind ≠ 1 ∧ Unhindered s (s.doFill 0 fi none))
    ∧ ((commanded fl s).cmdAt 0 4 0 = some fl ∧ ([farLine true].filter fun e => (dArg fl.desc).testBit e.part && e.dirty).length = 1)
    ∧ ((commanded (bi 1) (regs [])).cmdAt 0 3 0 = some (bi 1) ∧ (regs []).cxl = false ∧ s.cxl = true ∧ (∀ p ∈ pagesOf hda 1048576, s.pageBusy p = false)
      ∧ (bi 1).status / 256 ≠ 7)
    ∧ (((pagesOf hda 1048576).filter fun p => (s.set (F.PAGE_BIAS_BIAS page) 1).g (F.PAGE_BIAS_BIAS p) ≠ 0) ≠ []
      ∧ ((pagesOf hda 1048576).filter fun p => s.g (F.PAGE_BIAS_BIAS p) ≠ 0) = []
      ∧ (∀ p ∈ pagesOf hda 1048576, s.pageBusy p = false ∧ s.pageSnooped p = false))
    ∧ (ch.powered = true ∧ (hda / 64, true) ∈ ch.host.snoops ∧ hostSector (64 * (hda / 64)) = 0 ∧ ch.memGate rqHOST (dpaOfHda (64 * (hda / 64))) = 0
      ∧ Unhindered ch (ch.hostWriteSector (64 * (hda / 64)) (List.replicate 64 1) (List.replicate 64 true))
      ∧ ch.g (F.PAGE_BIAS_CHANGING page) ≠ 0 ∧ ch.pageSnooped page = true)
    ∧ (don.working = true ∧ (don.queue 0).cmd.isSome = true ∧ don.cqFull 0 = false ∧ (don.set (F.HIF_Q_CQ_HEAD_INDEX 0) 1).cqFull 0 = true
      ∧ (don.queue 0).cmd.elim false (fun c => decide (2 ≤ c.stage)) = true
      ∧ ((dFlags (descOf 0 3 0 0 0 0)).testBit 1 = true ∧ (dFlags (descOf 0 3 0 0 0 0)).testBit 0 = true)) := by
  refine ⟨?_, ?_, ?_, ?_, ?_, ?_, ?_, ?_, ?_, ?_⟩ <;> decide +kernel

theorem test_commands :
    let c := cmdOf (descOf 1 0 1 0 0 0) hostBuf (memBuf vent) 0 0
    let u := after (.copy 0 (List.replicate 64 9) none) (commanded c (hosted []))
    (u.mem.read vent 2 = [9, 9] ∧ (u.queue 0).cmd.map (·.result) = some 1)
    ∧ (after (.commandComplete 0) u).outbox.length = 2 := by decide +kernel

/-- A line awaited by the host's partition and by an HOSTLD, a write not answered, with a flight and without, and the link's states. -/
theorem witness_HostLinkActs :
    let fl : FarFill := ⟨0, 0x400, true, true, false⟩
    let fill (c : Bool) (s : State) : State := { s with far := { FarCache.init with fills := [⟨0, 0x400, c, true, false⟩] } }
    let f : Flight := ⟨3, 0, 0, 0x14, none, 0, [], [], [], false, [0x400], 100, 0x400, 0, 0, []⟩
    let s := owned [⟨3, 0, 1, 0xFFFF⟩] (hosted [])
    let t := (fill true s).setTile 0 fun x => { x with flights := [f] }
    let w (k : Option (Nat × Nat)) : State := { t with far := { FarCache.init with writes := [⟨0x400, k, false⟩] } }
    let d := List.replicate 64 (1 : Byte)
    (∀ c : Bool, takeFirst (fun e => e.part == 0 && e.line == 0x400 && e.cached == c) (fill c s).far.fills = some (⟨0, 0x400, c, true, false⟩, [])
      ∧ (fill c s).powered = true ∧ (fill c s).g F.HIF_STATUS_LINK_UP ≠ 0 ∧ Settled (fill c s) ∧ NoDecision (fill c s) ∧ (fill c s).g F.HIF_ERRLOG_VALID = 0)
    ∧ (Unhindered t (({ t with far := { t.far with fills := [] } } : State).fillReturns fl d) ∧ t.farLine 0 0x400 = none ∧ (t.farCopy 0x400).isNone = true
      ∧ (t.tile 0).flights = [f] ∧ 0x400 ∈ f.waiting ∧ t.farPart (.tile 0) 0x400 = some 0)
    ∧ (let e : State := { t with far := { t.far with lines := [farLine true] } }
       (e.farLine 0 0x400).isSome = true ∧ Unhindered e (({ e with far := { e.far with fills := [] } } : State).fillReturns fl d))
    ∧ (∀ k ∈ [none, some (0, 3)], takeFirst (fun x => x.line == 0x400) (w k).far.writes = some (⟨0x400, k, false⟩, []) ∧ (w k).powered = true
      ∧ (w k).g F.HIF_STATUS_LINK_UP ≠ 0 ∧ Settled (w k) ∧ NoDecision (w k) ∧ ((w k).tile 0).flights = [f])
    ∧ (s.g F.HIF_STATUS_CXL ≠ 0 ∧ s.linked = true)
    ∧ (training.powered = true ∧ training.pins.perst = false ∧ training.host.coming = [] ∧ Settled training ∧ training.host.recovery = false)
    ∧ (recovering.powered = true ∧ recovering.host.recovery = true)
    ∧ ((regs []).pins.perst = true ∧ (regs []).pins.pwrOk = true) := by
  refine ⟨?_, ?_, ?_, ?_, ?_, ?_, ?_, ?_⟩ <;> decide +kernel

/-- A storage command of queue 0, and its NVMe command on pair 1. -/
def nvmeOp (write : Bool) (blocks : Nat) : NvmeOp := ⟨7, 0, 0, write, 0, blocks, [], some 1⟩
def storing (c : HostCmd) (l : List NvmeOp) (r : List (Fld × Nat)) : State :=
  let s := commanded c (withPlan jobPlan (hosted r))
  { s with eth := { s.eth with ops := l, nextId := 8, spaces := [(0, some 4096)] } }

theorem witness_StorageCommandsAct :
    let st (op n arg k : Nat) (r : CkptRun) : HostCmd := { cmdOf (descOf op 0 n 0 0 arg) (memBuf vent) (memBuf vent) k 0 with ckpt := r }
    let c0 := CkptRun.init
    let ph (k : Nat) : CkptRun := { c0 with phase := k }
    let part : CkptPart := ⟨0, 0, 0, 0, false, vent, 64⟩
    let done (c : HostCmd) (o : NvmeOp) (r : List (Fld × Nat)) : State := storing c [o] r
    let s := hosted []
    let bad : State := { s with mem := { s.mem with bad := [vent / 64] } }
    (∀ c ∈ [(0x40, 0, 0), (0x40, 64, 0), (0x41, 1, 0), (0x48, 0, 0), (0x49, 0, 0), (0x4A, 0, 0)],
        let x := st c.1 c.2.1 c.2.2 0 c0
        let y := storing x [] []
        y.working = true ∧ Settled y ∧ NoDecision y ∧ (∀ o ∈ y.eth.ops, o.id < y.eth.nextId) ∧ y.cmdAt 0 c.1 0 = some x)
    ∧ (readSource rqETH (memBuf vent) 0 [] none (List.range 1) s = (s, s.mem.read vent 64, 0) ∧ s.mem.read vent 64 ≠ []
      ∧ (readSource rqETH (memBuf vent) 0 [] none (List.range 1) bad).2.2 ≠ 0
      ∧ Unhindered bad (readSource rqETH (memBuf vent) 0 [] none (List.range 1) bad).1)
    ∧ (∀ r ∈ [{ ph 2 with reading := some 0 }, { ph 2 with reading := some 0, parts := [part] }],
        let x := st 0x48 0 0 1 r
        (storing x [] []).cmdAt 0 0x48 1 = some x)
    ∧ (readParts [part] [] s = (s, [s.mem.read vent 64], 0) ∧ (readParts [part] [] bad).2.2 ≠ 0 ∧ Unhindered bad (readParts [part] [] bad).1)
    ∧ ((storing (st 0x4A 0 0 0 c0) [] [(F.ETH_ING_CTRL_EN, 1)]).g F.ETH_ING_CTRL_EN ≠ 0
      ∧ ((storing (st 0x4A 0 0 0 c0) [] [(F.ETH_ING_CTRL_EN, 1)]).space 0).isSome = true
      ∧ (storing (st 0x4A 0 0 0 c0) [] [(F.ETH_ING_CTRL_EN, 1), (F.ETH_ING_CTRL_CTRL, 1)]).space 1 = none
      ∧ (storing (st 0x4A 0 0 0 c0) [] []).g F.ETH_ERRLOG_VALID = 0)
    ∧ (∀ e ∈ [(st 0x41 1 0 1 c0, nvmeOp true 1), (st 0x40 64 0 1 c0, nvmeOp false 1), (st 0x48 0 0 1 (ph 1), nvmeOp true 1),
          (st 0x48 0 0 1 (ph 2), nvmeOp true 1), (st 0x48 0 0 1 (ph 3), nvmeOp true 1), (st 0x48 0 0 1 (ph 4), nvmeOp true 1),
          (st 0x49 0 0 1 (ph 5), nvmeOp false 1), (st 0x49 0 (2 ^ 48) 1 (ph 7), nvmeOp false 0)],
        takeFirst (fun o => o.id == 7 && o.pair.isSome) (done e.1 e.2 []).eth.ops = some (e.2, []) ∧ e.2.user < 4
          ∧ ((done e.1 e.2 []).queue 0).cmd = some e.1)
    ∧ ((∀ i < 64, s.memGate rqETH (dpaOfHda (hda + 64 * i)) = 0 ∧ dpaOfHda (hda + 64 * i) % 64 = 0
          ∧ ∀ k < 64, i ≠ k → dpaOfHda (hda + 64 * i) ≠ dpaOfHda (hda + 64 * k))
      ∧ Unhindered s (s.landRead (memBuf vent) 0 (List.replicate 4096 1)).1)
    ∧ (let y := storing (st 0x48 0 0 1 (ph 2)) [nvmeOp true 1] [(F.ETH_PORT_STATUS_LINK_UP 0, 1)]
       let z : State := { y with eth := { y.eth with qp := [(64, 3)], ops := [] } }
       z.freePair 0 = some 1)
    ∧ (recordOk (List.replicate 64 0) = false ∧ (dArg (descOf 0x49 0 0 0 0 (2 ^ 48))).testBit 48 = true
      ∧ (storing (st 0x49 0 0 1 (ph 7)) [] []).eth.restoreBad = false ∧ (storing (st 0x49 0 0 1 (ph 7)) [] []).version < 2)
    ∧ (let y : State := { s with ingest := some 4 }
       y.ingest = some 4 ∧ y.working = true ∧ Settled y ∧ NoDecision y ∧ y.eth.ops.any (·.user == 4) = false)
    ∧ (s.fromMaster 1 = true ∧ s.kindBytes 1 3 < 2 * 1 * 4096
      ∧ (let p := planOf []
         ¬((withPlan { p with mem := { p.mem with extents := [⟨1, 3, 16, vent, 3⟩] } } s).kindBytes 1 3 < 2 * 1 * 4096))) := by
  refine ⟨?_, ?_, ?_, ?_, ?_, ?_, ?_, ?_, ?_, ?_, ?_⟩ <;> decide +kernel

theorem test_storage :
    let c : HostCmd := { cmdOf (descOf 0x48 0 0 0 0 0) hostBuf hostBuf 1 0 with ckpt := { CkptRun.init with phase := 4 } }
    ((after (.nvmeCompletion 7 0 []) (storing c [nvmeOp true 1] [])).queue 0).cmd.map (·.stage) = some 2
    ∧ (after (.namespaceReport 0 512 false 9) (hosted [])).g F.ETH_ERRLOG_CODE = 0x0806 := by decide +kernel

theorem witness_EthernetPortsAct :
    let s := withPlan { planOf [] with late := [] } (hosted [(F.ETH_PORT_STATUS_LINK_UP 0, 1)])
    let p := planOf []
    let w := withPlan { p with mem := { p.mem with extents := [⟨1, 5, 16, vent, 3⟩] } } s
    let mr : List (Nat × Byte) := (leBytes 8 hda ++ leBytes 4 64 ++ [3, 0, 5, 0]).zipIdx.map fun (e : Byte × Nat) => (e.2, e.1)
    let e : State := { s with eth := { s.eth with qp := [(0, 3), (64, 2)], mr := mr.filter fun x => x.2 != 0 } }
    let o : State := { s with claims := [⟨2, 1, 3, 0⟩] }
    let pods := (withPlan { planOf [] with late := [⟨0, 1, 1, 3, 1⟩] } (ringed [(F.STEP_STATUS_STATE, 1), (F.ETH_PODS_COUNT 1, 2), (F.ETH_PODS_QP_BASE 1, 144)]))
    (s.fromMaster 2 = true ∧ w.kindBytes 1 5 ≠ 0 ∧ ¬(w.kindBytes 1 5 < w.podBytes 1 64) ∧ ¬(64 < 64 ∨ 144 < 144 ∨ 1024 < 960 + 64)
      ∧ s.kindBytes 1 5 = 0 ∧ s.g F.ETH_ERRLOG_VALID = 0)
    ∧ (s.g (ptpEnF 0) = 0 ∧ s.ownerOf 2 0 = none ∧ s.ownerOf 2 1 = none ∧ o.ownerOf 2 0 = none ∧ o.ownerOf 2 1 = some ⟨2, 1, 3, 0⟩
      ∧ ({ s with claims := [⟨2, 0, 3, 0⟩] } : State).ownerOf 2 0 = some ⟨2, 0, 3, 0⟩)
    ∧ (e.working = true ∧ e.qpState 0 = 3 ∧ e.qpState 1 = 2 ∧ e.g (F.ETH_PORT_STATUS_LINK_UP (e.qpPort 0)) ≠ 0
      ∧ e.mrAllows 5 (hda + 3) 100 true = true ∧ e.mrAllows 5 (hda + 3) 100 false = true ∧ e.mrAllows 6 hda 100 true = false
      ∧ e.mrAllows 5 hda 4097 false = false)
    ∧ ((∀ h ∈ sectorsOf (hda + 3) 100, e.memGate rqETH (dpaOfHda h) = 0 ∧ dpaOfHda h / 64 ∉ e.mem.bad)
      ∧ Unhindered e (e.peerRead (hda + 3) 100).1 ∧ Unhindered e (e.peerWrite (hda + 3) (List.replicate 100 1)).1)
    ∧ (let q : State := { pods with eth := { pods.eth with qp := [(64 * 145, 3)] } }
       q.working = true ∧ Settled q ∧ NoDecision q ∧ q.qpState 145 = 3 ∧ q.servesStep 145 = true ∧ q.stepState = stOPEN ∧ q.replaying = false
         ∧ q.framesFlow = true)
    ∧ (s.powered = true ∧ (∀ o ∈ s.eth.ops, o.pair.isSome = true) ∧ s.g (F.ETH_PORT_STATUS_LINK_UP 0) ≠ 0) := by
  refine ⟨?_, ?_, ?_, ?_, ?_, ?_⟩ <;> decide +kernel

theorem test_ports :
    (after (.ethLinkDown 0) (hosted [(F.ETH_PORT_STATUS_LINK_UP 0, 1)])).g F.ETH_ERRLOG_CODE = 0x0801
    ∧ (after (.ptpEnable 1 1) (hosted [])).claims = [⟨2, 2, 5, 1⟩, ⟨2, 3, 5, 1⟩] := by decide +kernel

def laned (p lane state : Nat) (s : State) : State := s.setLane p 0 lane fun x => { x with state := state }
def ctl (nak : Bool) (op map : Nat) : LinkControl := ⟨65535, nak, op, map, 9, List.replicate 64 0, 0, 0⟩
def memberRx (ring : Nat) (m : Member) : List Byte := m.bytes ring 0 0

theorem witness_RingLinksAct :
    let s := ringed []
    let t := ringed [(F.RING_P_STATUS_LINK 1, 1), (F.RING_P_PARTNER_SERIAL 1, 5)]
    let r7 := (⟨{ type := 7 }, List.replicate 120 0⟩ : Flit).bytes
    let m9 := memberRx 0 ⟨9, 0, false, false, 0, 5, 0⟩
    let sent (k : Nat) : State := s.setPort 1 fun x => { x with replay := [⟨7, k, .step (frameOf 1)⟩] }
    let c (nak : Bool) (op map : Nat) := (ctl nak op map).bytes 0
    let b := 0xFFFFFFFF
    (s.powered = true ∧ Settled s ∧ s.link 1 = linkUP ∧ (s.port 1).waiting = [] ∧ (s.port 1).passing = [])
    ∧ (s.heard 1 (rxOf r7) = some r7 ∧ reservedFlit r7 = true ∧ 5 ≤ (headerOf r7).type)
    ∧ (s.heard 1 (rxOf m9) = some m9 ∧ reservedFlit m9 = true ∧ (headerOf m9).type < 5 ∧ (headerOf m9).seq = (s.port 1).rxSeq)
    ∧ (∀ e ∈ [(false, 0, 0), (false, 1, 0xFF), (false, 1, 0x7F), (false, 2, 0xFFFF), (true, 0, 0)],
        s.heard 1 (rxOf (c e.1 e.2.1 e.2.2)) = some (c e.1 e.2.1 e.2.2) ∧ (headerOf (c e.1 e.2.1 e.2.2)).type = 4
          ∧ (LinkControl.ofBytes (c e.1 e.2.1 e.2.2)).nak = e.1 ∧ (LinkControl.ofBytes (c e.1 e.2.1 e.2.2)).laneOp = e.2.1
          ∧ (LinkControl.ofBytes (c e.1 e.2.1 e.2.2)).laneMap = e.2.2)
    ∧ (8 ≤ bitCount 0xFF ∧ bitCount 0x7F < 8
      ∧ ((s.setLine 1 fun x => { x with proposed := some 0xFFFF }).line 1).proposed = some 0xFFFF)
    ∧ (((sent 7).port 1).replay.filter (fun e => !ackedBy 65535 e.seq) = [⟨7, 7, .step (frameOf 1)⟩]
      ∧ ((sent 8).port 1).replay.filter (fun e => !ackedBy 65535 e.seq) = [⟨7, 8, .step (frameOf 1)⟩])
    ∧ (((laned 1 31 2 s).lane 1 0 31).state = 2 ∧ ((laned 1 31 3 s).lane 1 0 31).state = 3 ∧ ((laned 1 31 1 s).lane 1 0 31).state = 1)
    ∧ (((s.setLine 1 fun x => { x with rxNext := some (0xFF, 3), txNext := some (0xFF, 3) }).line 1).rxNext = some (0xFF, 3))
    ∧ (s.rxPlan 1 = b ∧ b.testBit 31 = true ∧ 8 ≤ bitCount (b - 2 ^ 31)
      ∧ bitCount ((s.set (F.RING_P_LANEMAP_RX_MAP 1) 0xFF).rxPlan 1 - 2 ^ 0) < 8
      ∧ ((s.set (F.RING_P_LANEMAP_RX_MAP 1) 0xFF).rxPlan 1).testBit 31 = false)
    ∧ (t.link 1 = linkTRAINING ∧ t.g (F.RING_P_PARTNER_SERIAL 1) ≠ 0 ∧ t.powered = true ∧ t.rxPlan 1 = b) := by
  refine ⟨?_, ?_, ?_, ?_, ?_, ?_, ?_, ?_, ?_, ?_⟩ <;> decide +kernel

/-- Lanes 0 to 23, and 0 to 24, fail in retraining: 8 lanes are left, and 7. -/
theorem test_retrain :
    let t := ringed [(F.RING_P_STATUS_LINK 1, 1), (F.RING_P_PARTNER_SERIAL 1, 5)]
    (after (.linkRetrainDone 1 0xFFFFFF) t).link 1 = linkUP ∧ (after (.linkRetrainDone 1 0x1FFFFFF) t).link 1 = linkDOWN
    ∧ ((after (.laneFailed 1 31 0 0 2) (laned 1 31 1 (ringed []))).line 1).proposed = some 0x7FFFFFFF := by decide +kernel

theorem witness_RingMembershipActs :
    let s := regs [(F.RING_SERIAL_SERIAL, 50)]
    let base (l : List (Fld × Nat)) : State := ringed ([(F.RING_SERIAL_SERIAL, 50), (ringClosedF 0, 0)] ++ l)
    let h (sub round serial : Nat) : Member := ⟨sub, 1, false, false, round, serial, 4⟩
    let rec' : State := (base [(ringStateF 0, ringRECOVERING)]).setRingCtl 0 fun r => { r with round := 5, sent := true, found := [⟨7, 0, 0, false, false⟩] }
    let down : State := base [(F.RING_P_STATUS_LINK 1, 0), (ringStateF 0, ringRECOVERING)]
    let far : State := (base [(F.RING_P_STATUS_LINK 1, 0)]).setRoster 0 [50, 1, 2, 3, 4, 5, 6, 7, 8]
    let join : State := (regs [(ringStateF 0, ringJOINING)]).setRingCtl 0 fun r => { r with moving := some true }
    let b (m : Member) := memberRx 0 m
    (s.powered = true ∧ Settled s ∧ s.frozen = false ∧ s.replayLive = false ∧ s.fromMaster 2 = true ∧ s.ringState 0 = ringBYPASSED
      ∧ s.g (ringLeaveF 0) = 0 ∧ s.g (ringFaultF 0) = 0 ∧ (s.set (ringLeaveF 0) 1).g (ringLeaveF 0) ≠ 0)
    ∧ ((base [(F.STEP_STATUS_STATE, 1)]).ringState 0 ≠ ringBYPASSED ∧ (base [(F.STEP_STATUS_STATE, 1)]).stepOpen = true
      ∧ (base []).red.held = [] ∧ (base []).ringState 0 ≠ ringJOINING)
    ∧ (join.ringState 0 = ringJOINING ∧ (join.ringCtl 0).moving = some true ∧ join.powered = true)
    ∧ (((base []).setRingCtl 0 fun r => { r with moving := some false }).ringCtl 0).moving = some false
    ∧ (rec'.ringState 0 = ringRECOVERING ∧ (rec'.ringCtl 0).sent = true ∧ (rec'.ringCtl 0).complete = false)
    ∧ (far.ringLit 0 = true ∧ 2 ≤ far.ringState 0 ∧ far.link 1 ≠ linkUP ∧ 8 ≤ bitCount 0xFF ∧ (9 : Nat) ≠ (far.line 1).lastPartner
      ∧ 3 < far.between 1 4 ∧ far.between 1 8 ≤ 3 ∧ far.g (F.RING_P_STATUS_WRAP 1) = 0)
    ∧ (down.ringState 0 = ringRECOVERING ∧ down.ringLit 0 = true ∧ down.link 1 ≠ linkUP ∧ down.g (F.RING_P_STATUS_WRAP 1) = 0)
    ∧ (∀ e ∈ [(base [], h 1 5 50), (base [], h 1 5 9), (rec', h 1 4 9), (rec', h 1 6 9), (rec', h 1 5 9), (rec', h 2 4 9), (rec', h 2 5 9), (rec', h 2 5 50)],
        e.1.powered = true ∧ e.1.lineUp 1 = true ∧ e.1.heard 1 (rxOf (b e.2)) = some (b e.2) ∧ (headerOf (b e.2)).type = 3
          ∧ (e.1.port 1).rxSeq = (headerOf (b e.2)).seq ∧ e.1.frozen = false ∧ Member.ofBytes (b e.2) = e.2 ∧ e.1.ringLit 0 = true ∧ e.1.serial = 50)
    ∧ ((base []).ringUp 0 = true ∧ lowerRound (rec'.ringCtl 0).round 4 = true ∧ higherRound (rec'.ringCtl 0).round 6 = true
      ∧ (rec'.ringCtl 0).round = 5 ∧ (9, 5, 1) ∉ (rec'.ringCtl 0).holds ∧ ((rec'.ringCtl 0).found.any (·.serial == 9)) = false
      ∧ (rec'.ringCtl 0).ownHops = none ∧ (1 : Nat) ≤ (rec'.ringCtl 0).found.length)
    ∧ (rec'.canSend (rec'.outPort (oppositePort 1)) (.member (h 1 5 9)) = true ∧ (rec'.port 0).waiting = []) := by
  refine ⟨?_, ?_, ?_, ?_, ?_, ?_, ?_, ?_, ?_, ?_⟩ <;> decide +kernel

/-- A roster keeps a dropped member and takes a new one in behind its neighbour (R283). -/
theorem test_rosters :
    newRoster [5, 7, 9] [5, 6, 9] = [5, 6, 7, 9] ∧ newRoster [5, 7, 9] [1, 5, 7, 9] = [1, 5, 7, 9] ∧ newRoster [] [4, 6] = [4, 6] := by decide +kernel

theorem witness_FabricTimeIsKept :
    let s := ringed []
    let tb (f : TimeFlit) := f.bytes 0
    let f (k : Nat) : TimeFlit := ⟨k, 1, 5, 65536 * 1000⟩
    let y : State := s.setLine 1 fun x => { x with asked := some 3, delay := some 4 }
    let z : State := { y with time := 5000000 }
    let v (s : State) := ((s.noteLine 1 (rxOf (tb (f 1)))).setLine 1 fun x => { x with
      sync := x.delay.map fun d => (1, 5, timeDiff (f 1).t (s.stamp 0) + d) }).refreshMaster
    let p := hosted [(ptpEnF 0, 1), (F.ETH_PORT_STATUS_LINK_UP 0, 1)]
    let w (g : PtpPort) (l : List (Fld × Nat)) : State := (p.setAll l).setPtp 0 fun _ => g
    (s.powered = true ∧ Settled s ∧ s.lineUp 1 = true)
    ∧ (∀ k ∈ [1, 2, 3], s.heard 1 (rxOf (tb (f k))) = some (tb (f k)) ∧ (headerOf (tb (f k))).type = 2 ∧ (TimeFlit.ofBytes (tb (f k))).kind = k)
    ∧ ((y.line 1).asked = some 3)
    ∧ ((v s).timeSource ≠ some 1 ∧ (v y).g F.RING_TIME_STATUS_MASTER = 0 ∧ (v y).timeSource = some 1 ∧ ((v y).usable 1).isSome = true
      ∧ (v y).g F.RING_TIME_STATUS_STATE ≠ 1 ∧ (v y).time = 0 ∧ microsecond ≤ (((v z).usable 1).elim 0 (·.2.2)).natAbs
      ∧ (v (z.set F.RING_TIME_STATUS_STATE 1)).g F.RING_TIME_STATUS_STATE = 1)
    ∧ ((ringed [(F.RING_TIME_STATUS_STATE, 1)]).refreshMaster.g F.RING_TIME_STATUS_MASTER = 0
      ∧ (anchored [(F.RING_TIME_STATUS_STATE, 1), (F.RING_SERIAL_SERIAL, 3)]).refreshMaster.g F.RING_TIME_STATUS_MASTER ≠ 0)
    ∧ (p.working = true ∧ p.g (ptpEnF 0) ≠ 0 ∧ p.g (F.ETH_PORT_STATUS_LINK_UP 0) ≠ 0
      ∧ ((w { PtpPort.init with sync := some 7 } [(F.ETH_PTP_CTRL_P2P, 1)]).ptpPort 0).sync = some 7
      ∧ (w { PtpPort.init with sync := some 7 } [(F.ETH_PTP_CTRL_P2P, 1)]).g F.ETH_PTP_CTRL_P2P ≠ 0
      ∧ ((w { PtpPort.init with asked := some (1, 2, 3) } [(F.RING_TIME_STATUS_MASTER, 1)]).ptpPort 0).asked = some (1, 2, 3)
      ∧ (w PtpPort.init [(F.RING_TIME_STATUS_MASTER, 1)]).g F.RING_TIME_STATUS_MASTER ≠ 0
      ∧ ((w { PtpPort.init with peerAsked := some 1 } []).ptpPort 0).peerAsked = some 1
      ∧ ((w { PtpPort.init with peerTold := some (1, 2, 3) } []).ptpPort 0).peerTold = some (1, 2, 3)) := by
  refine ⟨?_, ?_, ?_, ?_, ?_, ?_⟩ <;> decide +kernel

theorem test_time :
    let s := (ringed []).setLine 1 fun x => { x with delay := some 0 }
    (after (.sync 1 0 (rxOf ((⟨1, 1, 5, 65536 * 1000⟩ : TimeFlit).bytes 0))) s).time = 1000
    ∧ (after .timeHoldover (ringed [(F.RING_TIME_STATUS_STATE, 1)])).g F.RING_TIME_STATUS_STATE = 2 := by decide +kernel

/-- A channel bound to `b` and `r`, with further fields. -/
def boxed (b r : Nat) (l : List (Fld × Nat)) : State := regs ([(F.MBX_BIND_SENDER 0, b), (F.MBX_BIND_RECEIVER 0, r), (F.SEC_STATUS_BOOT, bootRUNNING)] ++ l)

theorem witness_MailboxesCarryMessages :
    let full : Fld × Nat := (F.MBX_CH_STATUS_FULL 0, 1)
    let from' (s : State) (m : Nat) : Prop := s.powered = true ∧ s.fromMaster m = true ∧ s.g (F.MBX_BIND_SENDER 0) = m
    let held (m : Nat) (s : State) : State := { s with sec := { s.sec with held := [(1, 9, 5), (0, m, 7)] } }
    let v := boxed 0 0 []
    (v.powered = true ∧ v.fromMaster 3 = true ∧ v.g (F.MBX_BIND_SENDER 0) = 0 ∧ v.g F.SEC_ERRLOG_VALID = 0)
    ∧ from' (boxed 5 0 []) 5
    ∧ (∀ r ∈ [1, 2, 3, 4, 35, 36], from' (boxed 5 r []) 5 ∧ (boxed 5 r []).g (F.MBX_BIND_RECEIVER 0) = r ∧ (boxed 5 r []).receiverReset r = false
      ∧ (boxed 5 r []).g (F.MBX_CH_STATUS_FULL 0) = 0)
    ∧ ((boxed 0xFF 3 []).g (F.MBX_BIND_SENDER 0) = 0xFF ∧ (boxed 0xFF 3 []).g (F.MBX_CH_LOCK_HOLDER 0) = 0
      ∧ (boxed 0xFF 3 [(F.MBX_CH_LOCK_HOLDER 0, 6)]).g (F.MBX_CH_LOCK_HOLDER 0) = 6)
    ∧ ((boxed 5 4 [(F.CLU_CTRL_CLU_RESET 0, 1)]).receiverReset 4 = true ∧ (boxed 5 2 [(F.SEC_STATUS_BOOT, bootROM)]).receiverReset 2 = true
      ∧ (boxed 5 3 [full]).g (F.MBX_CH_STATUS_FULL 0) ≠ 0)
    ∧ (from' (boxed 3 2 [full]) 3 ∧ (boxed 3 2 [full]).g (F.MBX_CH_STATUS_FULL 0) ≠ 0 ∧ (boxed 3 2 [full]).receiverReset 2 = false)
    ∧ (let s := held 5 (boxed 5 3 []); takeFirst (fun e => e.1 == 0) s.sec.held = some ((0, 5, 7), [(1, 9, 5)]) ∧ s.receiverReset 3 = false
      ∧ s.g (F.MBX_CH_STATUS_FULL 0) = 0 ∧ s.g (F.MBX_BIND_SENDER 0) = 5)
    ∧ ((boxed 5 3 [(F.MBX_BIND_LOCK_LOCKED, 1)]).g F.MBX_BIND_LOCK_LOCKED ≠ 0 ∧ (boxed 5 3 []).g F.MBX_BIND_LOCK_LOCKED = 0
      ∧ (boxed 5 3 []).fromMaster 2 = true ∧ (boxed 5 3 []).plan = none)
    ∧ (let p := { planOf [] with owners := [⟨5, 0, 9, 5 + 256 * 4⟩] }; let s := withPlan p (boxed 5 3 [])
      s.plan = some p ∧ (∃ e ∈ p.owners, e.res = 5 ∧ e.inst = 0 ∧ e.arg ≠ 5 + 256 * 3))
    ∧ (F.MBX_BIND_LOCK_LOCKED.key ∉ v.locked ∧ F.MBX_BIND_LOCK_LOCKED.key ∈ { v with locked := [F.MBX_BIND_LOCK_LOCKED.key] }.locked) := by
  refine ⟨?_, ?_, ?_, ?_, ?_, ?_, ?_, ?_, ?_, ?_⟩ <;> decide +kernel

/-- A mailbox message goes out, comes in and is taken (R428 to R430). -/
theorem test_mailbox :
    let s := boxed 5 6 []
    (after (.mailboxWrite 5 0 77) s).g (F.MBX_CH_DATA_WORD 0) = 77 ∧ (after (.mailboxTake 6 0) (after (.mailboxWrite 5 0 77) s)).g (F.MBX_CH_STATUS_FULL 0) = 0
    ∧ (after (.mailboxWrite 7 0 77) s).g (F.MBX_CH_STATUS_FULL 0) = 0 := by decide +kernel

/-- The owner request of a kind for a slot, from owner counter 0, for the device of serial number `serial`, with a signature block of zeros or one
that names the key pair of zeros. -/
def ownerReq (kind slot serial : Nat) (signed : Bool) : List Byte :=
  let body : List Byte := if kind = 1 then List.replicate 1984 0 else []
  let z : KeyPair := ⟨List.replicate 32 0, List.replicate 1952 0⟩
  bytesOf [0x5A, 0x4B, 0x4F, 0x52] ++ leBytes 2 1 ++ leBytes 1 kind ++ leBytes 1 slot ++ leBytes 8 serial ++ leBytes 8 1
    ++ (if kind = 1 then leBytes 32 0xd5f6770d67e013c54ae6dc3aac68d6e41dca2cd97c462ade57aa93ec64eac36e else List.replicate 32 0) ++ List.replicate 72 0 ++ body
    ++ (if signed then leBytes 8 1 ++ sha3 z.ed ++ sha3 z.ml ++ List.replicate 3384 0 else List.replicate 3456 0)
def jeoft (l : List (Fld × Nat)) : State := regs ((F.SEC_STATUS_BOOT, bootRUNNING) :: l)
def keyed (l : List Nat) (s : State) : State :=
  { s with sec := { s.sec with keys := (List.range 4).map fun k => if k ∈ l then some ⟨List.replicate 32 0, List.replicate 1952 0⟩ else none } }


def enrolling : State := jeoft [(F.HIF_STATUS_LINK_UP, 1), (F.SEC_ENROL_ENABLE, 1), (F.SEC_CMD_LEN_LEN, 5568)]

/-! SHA3-256 of the 1,984 zero bytes that `ownerReq` carries, a few blocks a theorem, with the states that FIPS 202 gives. -/
def zeroBlock : List Byte := List.replicate 136 0
def lastBlock : List Byte := List.replicate 80 0 ++ [6] ++ List.replicate 54 0 ++ [0x80]
def absorbed (l : List (List Byte)) (a : List Nat) : List Nat := l.foldl sha3Absorb a
def hashed5 : List Nat :=
    [0xc9f309ff271c6631, 0x9281c8b3825841b4, 0x2219cb1928ca14c4, 0xf50d1d2ae140281a, 0xf0a33a68985b6934, 0xd8a79767500429f6,
    0xbe55a8fff0767faf, 0xbc2a9530cca9d7a8, 0x7e7947debc81b851, 0x772429b40aa052a8, 0x58f891e79ce86365, 0x3110152cadf8860f,
    0x7f6f0628bda22d08, 0xa89fb4db4293cc0a, 0x390bca6688ab09be, 0xfadcbb8bbbedce4b, 0x2d78a388460c4a73, 0xe692f192c06ea9ae,
    0x909de0d99f0083f0, 0x76773fcdc7e9d261, 0x344d00ae9d02c853, 0x9d85cb92ef2a6155, 0xa1a8ecf6537e0b3, 0xa6da3fb1f1688e95,
    0xcfe9307b7db8bed0]
def hashed10 : List Nat :=
    [0x9ef9cee5ab0e88b2, 0xa9c24885890991e2, 0xe352f80ea0d681d0, 0x33fcb71fe6e3f1a5, 0x613cd647dd228937, 0xbfdf736c8655edc7,
    0x3ea54d1bae7c2478, 0xf413d0e4ceaad0a, 0x18768d8d653a5501, 0xdc443e12fcb298d4, 0x77ae7780865ed84f, 0xef501224570ff537,
    0x22f7fab8d94af48d, 0x9a5151a34023f39, 0x809b43a51be75a27, 0xcdd4b143e81d1161, 0xeda0b51a87ca4630, 0x79c58ff39529dbe9,
    0x1d40d3b90b144d9a, 0xefbc96646392fd75, 0xff501e350ab0344c, 0xce71f6076585fcf1, 0x223a47cd3938f9c0, 0x487f75978e547759,
    0x1b64bcc5db35ca11]
theorem absorbed_5 : absorbed (List.replicate 5 zeroBlock) (List.replicate 25 0) = hashed5 := by decide +kernel
theorem absorbed_10 : absorbed (List.replicate 5 zeroBlock) hashed5 = hashed10 := by decide +kernel
theorem absorbed_15 : ((absorbed (List.replicate 4 zeroBlock ++ [lastBlock]) hashed10).take 4).flatMap (leBytes 8) = leBytes 32 0xd5f6770d67e013c54ae6dc3aac68d6e41dca2cd97c462ade57aa93ec64eac36e := by
  decide +kernel
theorem sha3_zeros : sha3 (List.replicate 1984 0) = leBytes 32 0xd5f6770d67e013c54ae6dc3aac68d6e41dca2cd97c462ade57aa93ec64eac36e := by
  have h : chunksOf 136 ((sha3Pad (List.replicate 1984 0)).length / 136) (sha3Pad (List.replicate 1984 0))
      = List.replicate 5 zeroBlock ++ (List.replicate 5 zeroBlock ++ (List.replicate 4 zeroBlock ++ [lastBlock])) := by decide +kernel
  rw [sha3, h, List.foldl_append, List.foldl_append]
  change ((absorbed _ (absorbed _ (absorbed _ _))).take 4).flatMap (leBytes 8) = _
  rw [absorbed_5, absorbed_10, absorbed_15]

/-- An owner request of kind 1 that carries the hash of its body and no signature passes where its form and the state allow it. -/
theorem ownerCheck_enrol {s : State} {r : List Byte}
    (hf : (s.g F.SEC_CMD_LEN_LEN == 5568 && r.length == 5568 && sliceBytes r 0 4 == bytesOf [0x5A, 0x4B, 0x4F, 0x52] && leAt r 4 2 == 1
      && leAt r 6 1 == 1 && decide (leAt r 7 1 ≤ 3) && leAt r 8 8 == s.serial && allZero (sliceBytes r 56 72)) = true)
    (hh : sliceBytes r 24 32 = sha3 (sliceBytes r 128 1984)) (hc : leAt r 16 8 = (s.g F.SEC_OWNER_COUNTER_COUNT + 1) % 2 ^ 64)
    (ha : (s.sec.keys.getD (leAt r 7 1) none).isSome = false) (hz : allZero (sliceBytes r 2112 3456) = true)
    (he : (s.noOwner && s.on F.SEC_ENROL_ENABLE) = true) : s.ownerCheck r = 0 := by
  simp only [Bool.and_eq_true, beq_iff_eq, decide_eq_true_eq] at hf he
  obtain ⟨⟨⟨⟨⟨⟨⟨h1, h2⟩, h3⟩, h4⟩, h5⟩, h6⟩, h7⟩, h8⟩ := hf
  have hl : (sliceBytes r 128 1984).length = 1984 := by simp [sliceBytes, h2]
  simpa [State.ownerCheck, h1, h2, h3, h4, h5, h6, h7, h8, hh, hc, hl, hz, he] using ha

/-- An unsigned request to enrol the first owner passes its checks; the hash of its body is FIPS 202's. -/
theorem test_enrol : enrolling.ownerCheck (ownerReq 1 2 enrolling.serial false) = 0 := by
  refine ownerCheck_enrol (by decide +kernel) ?_ (by decide +kernel) (by decide +kernel) (by decide +kernel) (by decide +kernel)
  have h : sliceBytes (ownerReq 1 2 enrolling.serial false) 128 1984 = List.replicate 1984 0 := by decide +kernel
  rw [h, sha3_zeros]
  decide +kernel

/-- The clauses on a request that passes for kinds 2 and 3, and on an image that passes, turn on the free signature checks of `Config`; their other
premises are met here, and `test_enrol` shows a request that passes. -/
theorem witness_FirmwareAndOwnersAreManaged :
    let up : Fld × Nat := (F.HIF_STATUS_LINK_UP, 1)
    let s := jeoft [up, (F.SEC_CMD_LEN_LEN, 4096)]
    let rom := regs [up]
    let rec' := regs [up, (F.SEC_STATUS_BOOT, bootRECOVERY)]
    let asked (op : Nat) (s : State) : State := { s.setAll [(F.SEC_CMD_BUSY, 1), (F.SEC_CMD_OP, op)] with sec := { s.sec with waits := true } }
    (s.powered = true ∧ Settled s ∧ s.fromMaster 1 = true ∧ s.g F.SEC_CMD_BUSY = 0 ∧ s.boot = bootRUNNING ∧ s.sec.keys.length = 4)
    ∧ ((asked 4 s).g F.SEC_CMD_BUSY ≠ 0 ∧ (asked 4 s).sec.waits = true ∧ (asked 4 s).g F.SEC_CMD_OP = 4 ∧ (asked 4 s).boot = bootRUNNING
      ∧ Settled (asked 4 s))
    ∧ (Settled rom ∧ rom.fromMaster 1 = true ∧ rom.boot = bootROM ∧ Settled rec' ∧ rec'.boot = bootRECOVERY ∧ rom.sec.waits = false
      ∧ rom.g F.SEC_STATUS_PREF ≤ 1)
    ∧ (3648 ≤ s.g F.SEC_CMD_LEN_LEN ∧ s.g F.SEC_CMD_LEN_LEN ≤ 16777216 ∧ (jeoft [up]).g F.SEC_CMD_LEN_LEN < 3648)
    ∧ (s.g (fwValidF s.otherSlot) = 0 ∧ (s.set (fwValidF s.otherSlot) 1).g (fwValidF s.otherSlot) ≠ 0)
    ∧ (s.ownerCheck (ownerReq 2 2 s.serial false) ≠ 0 ∧ (keyed [0, 1] s).sec.keys.length = 4)
    ∧ ({ s with sec := { s.sec with writing := true } }.sec.writing = true ∧ s.fwCheck [] ≠ 0)
    ∧ (let e := (jeoft [(F.SEC_ENROL_ENABLE, 1)]); let z := { e with time := 600000000000 }
      z.powered = true ∧ Settled z ∧ z.g F.SEC_ENROL_ENABLE ≠ 0 ∧ z.sec.enrolAt + 600000000000 ≤ z.time)
    ∧ ((regs [(F.SEC_STATUS_TRIAL, 1), (F.SEC_STATUS_TRIED, 1)]).g F.SEC_STATUS_TRIAL ≠ 0
      ∧ (regs [(F.SEC_STATUS_TRIAL, 1), (F.SEC_STATUS_TRIED, 1)]).g F.SEC_STATUS_TRIED ≠ 0
      ∧ { rom with sec := { rom.sec with asked := [.discovery 2] } }.sec.asked = [.discovery 2]) := by
  refine ⟨?_, ?_, ?_, ?_, ?_, ?_, ?_, ?_, ?_⟩ <;> decide +kernel


/-- A DOE request of 40 bytes: opcode, index, nonce of zeros. -/
def doeReq (op k : Nat) : List Byte := leBytes 1 op ++ leBytes 1 k ++ List.replicate 38 0
def reported (code : Nat) : State := let s := jeoft []; { s with reports := [⟨0, code, 0, 0, 0⟩] }
def sideband (l : List (Fld × Nat)) : State := let s := regs l; { s with pins := { s.pins with pwrOk := true } }

theorem witness_ReportsAndSidebandAnswer :
    let rom := hosted []
    let s := hosted [(F.SEC_STATUS_BOOT, bootRUNNING)]
    let b := sideband []
    (rom.hostLive = true ∧ rom.boot = bootROM ∧ Settled rom ∧ leAt (doeReq 1 0) 0 1 ≠ 2 ∧ leAt (doeReq 2 0) 0 1 = 2)
    ∧ (s.hostLive = true ∧ s.boot ≠ bootROM ∧ Settled s ∧ s.g F.SEC_ERRLOG_VALID = 0)
    ∧ (leAt (doeReq 1 1) 1 1 = 1 ∧ doeForm 1 (doeReq 1 1) = true ∧ leAt (doeReq 3 0) 0 1 ≠ 2 ∧ doeForm 1 (doeReq 3 0) = false
      ∧ 1 < leAt (doeReq 1 2) 1 1 ∧ doeForm 2 (doeReq 2 0) = true ∧ leAt [2#8] 0 1 = 2 ∧ doeForm 2 [2#8] = false)
    ∧ (∀ c ∈ [0x0301, 0x0601], ∃ r, (reported c).reports = [r] ∧ r.code = c ∧ (reported c).powered = true ∧ (reported c).boot ≠ bootROM)
    ∧ (b.sidebandUp = true ∧ Settled b ∧ b.reaches 3 0x10000 = false ∧ b.reaches 3 0x90000 = true ∧ (0x90000 : Nat) % 4 = 0
      ∧ inFamily 0x30008 32 0x40 0x90000 = false ∧ inFamily 0x30018 32 0x40 0x90000 = false ∧ (0x90002 : Nat) % 4 ≠ 0) := by
  refine ⟨?_, ?_, ?_, ?_, ?_⟩
  · decide +kernel
  · decide +kernel
  · decide +kernel
  · intro c hc
    fin_cases hc <;> exact ⟨_, rfl, rfl, by decide +kernel, by decide +kernel⟩
  · decide +kernel

theorem test_sideband : ((after (.smbusRead 0x90000 4 true) (sideband [])).outbox == [.smbus (leBytes 4 4200)]) = true := by decide +kernel

def cold (l : List (Fld × Nat)) : State := { regs l with powered := false }
def withPower (f : PowerCtl → PowerCtl) (s : State) : State := { s with power := f s.power }

theorem witness_SupplyAndBudgetAct :
    let s := regs []
    let o := cold []
    let pin (f : Pins → Pins) : State := { s with pins := f s.pins }
    let l (x : List Nat) (y : List Nat) (z : List Nat) : State := withPower (fun p => { p with faulted := x, offLayers := y, dead := z }) s
    (o.powered = false ∧ (∀ e ∈ o.sec.stored, storedKey e.1 = true) ∧ { o with pins := { o.pins with lostDue := true } }.pins.lostDue = true)
    ∧ (s.powered = true ∧ s.g F.PWR_ERRLOG_VALID = 0 ∧ (s.set F.PWR_STATUS_INPUT_LOW 1).inputHold = true ∧ s.inputHold = false)
    ∧ (s.pins.mateOpen = false ∧ s.pins.vrefLow = false ∧ s.pins.perst = true ∧ (pin fun p => { p with perst := false }).pins.perst = false)
    ∧ (Settled s ∧ NoDecision s ∧ (3 : Nat) ∉ s.power.offClusters ∧ Settled stepping ∧ NoDecision stepping
      ∧ stepping.stepState = stOPEN ∧ stepping.replaying = false ∧ stepping.framesFlow = true)
    ∧ (1 ≤ layersOf 4 ∧ (4 * 8 : Nat) ∉ s.power.dead ∧ (4 * 8 : Nat) ∉ s.power.faulted ∧ (4 * 8 : Nat) ∈ (l [32] [] []).power.faulted)
    ∧ ((4 * 8 : Nat) ∈ (l [32] [32] []).power.offLayers ∧ (4 * 8 : Nat) ∉ (l [32] [32] []).power.dead)
    ∧ (let e := withPower (fun p => { p with credit := 900, recent := List.replicate 9 5100 }) s
      ¬(5000 * 1 < [4000].sum) ∧ 5000 * 10 < (e.power.recent ++ [5200]).sum ∧ [4, 3, 2, 1, 0].find? (fun i => e.power.duty.getD i 0 != 0) = some 4
      ∧ [4, 3, 2, 1, 0].find? (fun i => (withPower (fun p => { p with duty := [0, 0, 0, 0, 0] }) e).power.duty.getD i 0 != 0) = none)
    ∧ (s.fromMaster 2 = true ∧ (2000 : Nat) ≤ 4600 ∧ (4601 : Nat) < 2000 ∨ 4600 < 4601) := by
  refine ⟨?_, ?_, ?_, ?_, ?_, ?_, ?_, ?_⟩ <;> decide +kernel

/-- The limit's bounds, and a division that leaves every class its floor (R449, R467). -/
theorem test_limit :
    (after (.pwrLimitWrite 2 2000) (regs [])).g F.PWR_LIMIT_WATTS = 2000 ∧ (after (.pwrLimitWrite 2 1999) (regs [])).g F.PWR_LIMIT_WATTS = 4200
    ∧ (after (.pwrLimitWrite 2 4601) (regs [])).g F.PWR_LIMIT_WATTS = 4200 := by decide +kernel

/-- Every node of column 0 estimated at `t` quarters of a degree Celsius. -/
def heated (t : Int) (l : List (Fld × Nat)) : State :=
  let s := regs l
  { s with thm := ((List.range 3).map fun j => (nodeKey 0 0 j, ⟨t, t, t, t, t, 0, false⟩)) }

theorem witness_ThermalStatesAct :
    let s := regs []
    let lay := List.replicate 64 (List.replicate 16 (0 : Int))
    let d := (heated 0 []).setNode 0 0 0 ⟨30, 0, 0, 0, 30, 0, false⟩
    let e : State := d.setNode 0 0 1 ⟨0, 0, 0, 0, 0, 0, true⟩
    (s.powered = true ∧ Settled s ∧ lay.length = 64)
    ∧ (s.colState 0 = 0 ∧ (s.set (F.THM_STATUS_COLUMNS) 1).colState 0 = 1)
    ∧ (NoDecision (heated 500 []) ∧ (heated 500 []).nodeAt 0 40 = true ∧ (heated 500 []).colState 0 < 3)
    ∧ ((heated (-40) [(F.THM_STATUS_COLUMNS, 2)]).colState 0 = 2 ∧ (heated (-40) [(F.THM_STATUS_COLUMNS, 2)]).nodeAt 0 (stateEntry 2 - 7) = false)
    ∧ ((d.node 0 0 0).differs = true ∧ (d.node 0 0 0).suspect = false ∧ (e.node 0 0 1).suspect = true ∧ (e.node 0 0 1).differs = false)
    ∧ (s.fromMaster 2 = true ∧ s.power.margin = none ∧ s.colResetOk 0 = true ∧ (regs [(F.STEP_STATUS_STATE, 1)]).colResetOk 0 = false
      ∧ (withPower (fun p => { p with margin := some 0 }) s).power.margin = some 0) := by
  refine ⟨?_, ?_, ?_, ?_, ?_, ?_⟩ <;> decide +kernel

/-- Tile 0 of a state with a plan of nothing to run, and with a word to run in an open step. -/
def clocked (sleep off pll : Nat) (s : State) : State := withPlan { planOf [] with clocks := [⟨30, 10, pll, off, sleep⟩] } s

theorem witness_TilesSleepAndWake :
    let s (p : Nat) : State := clocked 100 2 2 (regs [(F.PWR_CLU_TILES 0, 0x5550 + p), (F.PWR_CLU_PLL 0, 0), (F.CFG_STATUS_ACTIVE, 1)])
    let old (p : Nat) : State := { s p with time := 4000 }
    let w (p : Nat) : State := (issuing (planOf [0])).set (F.PWR_CLU_TILES 0) p
    let q (f : PowerCtl → PowerCtl) : State := withPower f (w 3)
    (tpRUN = 0 ∧ tpIDLE = 1 ∧ tpSLEEP = 2 ∧ tpOFF = 3)
    ∧ ((s 0).powered = true ∧ (s 0).working = true ∧ (s 0).tilePower 0 = tpRUN ∧ (s 0).tileQuiet 0 = true)
    ∧ ((old 1).tilePower 0 = tpIDLE ∧ (old 1).stayed 0 = true ∧ (old 1).tileQuiet 0 = true ∧ ((old 1).clock 0).elim 2 (·.tileDeepest) = 2)
    ∧ ((old 2).tilePower 0 = tpSLEEP ∧ (old 2).stayed 0 = true)
    ∧ (let z := regs [(F.PWR_CLU_PLL 0, 1)]; z.g (F.PWR_CLU_PLL 0) = 1 ∧ z.clusterAsleep 0 = true ∧ (z.clock 0).elim 2 (·.pllDeepest) = 2)
    ∧ ((w 1).working = true ∧ (w 1).tileSupplied 0 = true ∧ (w 1).wakeDue 0 = true ∧ (w 1).tilePower 0 = tpIDLE)
    ∧ ((w 3).wakeDue 0 = true ∧ (w 3).tileSupplied 0 = true ∧ 2 ≤ (w 3).tilePower 0 ∧ (0 : Nat) ∉ (w 3).power.waiting ∧ (0 : Nat) ∉ (w 3).power.admitted)
    ∧ ((0 : Nat) ∈ (q fun p => { p with admitted := [0] }).power.admitted ∧ (q fun p => { p with admitted := [0] }).tileSupplied 0 = true) := by
  refine ⟨?_, ?_, ?_, ?_, ?_, ?_, ?_, ?_⟩ <;> decide +kernel

/-- A sleeping tile with a message for it asks, is admitted with the lowest numbers first, and wakes (R464, R465). -/
theorem test_wake :
    let s := withPower (fun p => { p with waiting := (List.range 40).reverse }) ((issuing (planOf [0])).set (F.PWR_CLU_TILES 0) 2)
    (after .wakeAdmission s).power.admitted.length = 32 ∧ (after .wakeAdmission s).power.admitted.head? = some 0
    ∧ (after (.tileWakeDone 0) (after .wakeAdmission s)).tilePower 0 = tpRUN := by decide +kernel

theorem witness_FreezeAndCountersAct :
    let s := regs []
    let at' (t : Nat) (l : List (Fld × Nat)) : State := { regs l with time := t }
    let armed := at' 50000 [(F.DBG_FREEZE_CTRL_STATE, fzARMED), (F.DBG_FREEZE_AT_TIME, 50000)]
    let fz := at' 70000 [(F.DBG_FREEZE_CTRL_STATE, fzFROZEN), (F.DBG_FREEZE_AT_TIME, 50000), (F.DBG_RESUME_AT_TIME, 60000)]
    let wr : State := { fz with frozen' := { fz.frozen' with writes := [(2, 0x20008, 2)] } }
    (s.powered = true ∧ Settled s ∧ s.g F.DBG_ERRLOG_VALID = 0 ∧ s.stepOpen = false ∧ (regs [(F.STEP_STATUS_STATE, 1)]).stepOpen = true)
    ∧ (eventOk 0 0 = true ∧ eventOk 0xFFFF 0 = false)
    ∧ (s.fromMaster 2 = true ∧ s.freezeState = fzIDLE ∧ s.time + 10000 ≤ (s.set F.DBG_FREEZE_AT_TIME 10000).g F.DBG_FREEZE_AT_TIME
      ∧ s.g F.DBG_FREEZE_AT_TIME < s.time + 10000)
    ∧ (armed.freezeState = fzARMED ∧ armed.g F.DBG_FREEZE_AT_TIME ≤ armed.time ∧ Settled armed)
    ∧ (fz.frozen = true ∧ Settled fz ∧ fz.g F.DBG_RESUME_AT_TIME ≠ 0 ∧ fz.g F.DBG_FREEZE_AT_TIME < fz.g F.DBG_RESUME_AT_TIME
      ∧ fz.g F.DBG_RESUME_AT_TIME ≤ fz.time ∧ fz.frozen'.flits = [] ∧ fz.frozen'.writes = [] ∧ s.frozen = false)
    ∧ (wr.frozen'.writes = [(2, 0x20008, 2)] ∧ wr.frozen'.flits = [])
    ∧ (s.g F.DBG_CAP_CTRL_LOG_EN = 0 ∧ s.g F.DBG_CAP_CTRL_TRACE_EN = 0 ∧ s.ownerOf 1 0 = none
      ∧ (owned [⟨1, 0, 2, 0⟩] s).ownerOf 1 0 = some ⟨1, 0, 2, 0⟩ ∧ (owned [⟨1, 0, 3, 0⟩] s).ownerOf 1 0 = some ⟨1, 0, 3, 0⟩) := by
  refine ⟨?_, ?_, ?_, ?_, ?_, ?_, ?_⟩ <;> decide +kernel

/-- A device between steps whose digest log of the committed step stands, its replay in state `r`. -/
def logged (r : Nat) (l : List (Fld × Nat)) : State :=
  regs ([(F.STEP_VERSION_PREV_VALID, 1), (F.STEP_DECISION_KIND, 1), (F.STEP_COMMITTED_NUMBER, 4), (F.DBG_LOG_STEP_STEP, 4),
    (F.DBG_LOG_STATUS_COMMITTED_VALID, 1), (F.DBG_CAP_CTRL_LOG_EN, 1), (F.DBG_REPLAY_STATUS_STATE, r), (F.CFG_STATUS_ACTIVE, 1)] ++ l)
def withLog (a b : List LogEntry) (s : State) : State := { s with cap := { s.cap with bank0 := a, bank1 := b } }

theorem witness_ReplaysRun :
    let s := logged 0 []
    let g := withPlan (planOf [0]) (logged rpGATHER [])
    let e (v : Nat) : LogEntry := ⟨v, 1, 1, 0, 0, 0, 0, 0, 0⟩
    let c (v : Nat) : State := withLog [e v] [e 1] (logged rpCOMPARING [])
    (s.powered = true ∧ Settled s ∧ s.ring.jobs.length ≤ 4096 ∧ (∀ x ∈ s.images.committed, rwbKey x.1 = true) ∧ s.images.saved = none
      ∧ s.fromMaster 2 = true)
    ∧ (s.replayMay = true ∧ s.red.held = [] ∧ Unhindered s s.replayBegin ∧ (logged 1 []).replayMay = false ∧ (logged 1 []).replayLive = true
      ∧ s.replayLive = false)
    ∧ (g.powered = true ∧ Settled g ∧ g.frozen = false ∧ g.replayState = rpGATHER ∧ g.gather.kind = none ∧ g.red.held = [] ∧ g.tilesSettled = true
      ∧ g.g F.ETH_ING_CTRL_EN = 0 ∧ g.hasProgram 0 0 = true)
    ∧ ((logged rpRUNNING [(F.DBG_REPLAY_STATUS_INCOMPLETE, 1)]).replaying = true ∧ Settled (logged rpRUNNING [(F.DBG_REPLAY_STATUS_INCOMPLETE, 1)])
      ∧ (logged rpRUNNING [(F.DBG_REPLAY_STATUS_INCOMPLETE, 1)]).g F.DBG_REPLAY_STATUS_INCOMPLETE ≠ 0)
    ∧ ((logged rpRUNNING []).streamsEnded = true ∧ (logged rpRUNNING []).jobsReduced = true ∧ (logged rpRUNNING []).replayUpdated = true
      ∧ (logged rpRUNNING []).g F.DBG_REPLAY_STATUS_INCOMPLETE = 0 ∧ Settled (logged rpRUNNING []))
    ∧ ((c 1).replayState = rpCOMPARING ∧ (c 1).frozen = false ∧ (c 1).logBank true ≠ [] ∧ (c 2).logBank false ≠ []) := by
  refine ⟨?_, ?_, ?_, ?_, ?_, ?_⟩ <;> decide +kernel

theorem witness_TileAndClusterResetsAct :
    let s := regs []
    let o := regs [(F.STEP_STATUS_STATE, 1)]
    let r := regs [(F.CLU_CTRL_TILE_RESET 3, 4), (F.CLU_CTRL_CLU_RESET 3, 1)]
    (s.powered = true ∧ s.fromMaster 2 = true ∧ s.resetsMay = true ∧ o.resetsMay = false)
    ∧ ((r.g (F.CLU_CTRL_TILE_RESET 3)).testBit 2 = true ∧ r.g (F.CLU_CTRL_CLU_RESET 3) ≠ 0) := by decide +kernel

theorem witness_RegisterWritesFollowTheirClass :
    let s := regs []
    let o := regs [(F.STEP_STATUS_STATE, 1)]
    (recovering.powered = true ∧ Settled recovering ∧ recovering.host.recovery = true)
    ∧ (s.powered = true ∧ Settled s ∧ s.fromMaster 2 = true ∧ s.host.recovery = false ∧ s.reaches 5 0x10000 = false ∧ s.stepOpen = false
      ∧ o.stepOpen = true ∧ s.frozen = false ∧ F.MBX_BIND_LOCK_LOCKED.key ∉ s.locked)
    ∧ (∀ a ∈ [Access.ro, .rw, .rwb, .rwl, .w1c, .w1s], ∃ off ∈ [0x00000, 0x10038, 0x40010, 0x30900, 0x90000, 0x2000010, 0x50030, 0xB0000],
        (regAt off).elim false (fun r => (r.fieldsAt off).any fun f => f.acc == a) = true) := by
  refine ⟨?_, ?_, ?_⟩ <;> decide +kernel

/-- Registers keep to their access classes at their addresses (R5, R516). -/
theorem test_registers :
    let s := regs []
    (after (.registerWrite 2 0x10038 4 5 false []) s).g F.STEP_TIMEOUT_MS = 5
    ∧ (after (.registerWrite 2 0x10038 8 5 false []) s).g F.STEP_TIMEOUT_MS = 5
    ∧ (after (.registerWrite 5 0x10038 4 5 false []) s).g F.STEP_TIMEOUT_MS = s.g F.STEP_TIMEOUT_MS := by decide +kernel

theorem witness_ResetHolds :
    State.reset.pending = [] ∧ (∀ e ∈ State.reset.sec.stored, storedKey e.1 = true) ∧ Settled State.reset ∧ State.reset.sec.keys.length = 4
    ∧ State.reset.ring.jobs.length ≤ 4096 ∧ State.reset.loader.plan = none := by decide +kernel

theorem witness_MemoryStaysCanonical : Sound State.reset ∧ ∃ u, step State.reset = .next u := ⟨by decide +kernel, _, rfl⟩

/-- Fields at the ends of their ranges fit, and a flit is read back from its bytes on eight lanes, another flit's words on the same lanes after it. -/
theorem witness_HeadersAndFramesAreReadBack :
    let h : Header := { type := 15, seq := 65535, gkind := 3, srcPos := 63, added := 127, ring := 1, phase := 1, attempt := 15, offset := 2 ^ 40 - 1,
                        step := 2 ^ 32 - 1, digest := 2 ^ 64 - 1, epoch := 65535, channel := 63, job := 4095 }
    h.Fits ∧ (frameOf 255).Fits ∧ (⟨255, 255, true, true, 255, 2 ^ 64 - 1, 65535⟩ : Member).Fits ∧ (⟨255, 255, 2 ^ 64 - 1, 2 ^ 80 - 1⟩ : TimeFlit).Fits
    ∧ (ctl true 255 0xFFFFFFFF).Fits ∧ headerOf (flitBytes h (List.replicate 480 7)) = h
    ∧ unstripe (mapLanes 0xFF) 16 3 (stripe (mapLanes 0xFF) 3 (frameOf 1 |>.bytes 0 0)) = some ((frameOf 1).bytes 0 0) := by
  refine ⟨?_, ?_, ?_, ?_, ?_, ?_, ?_⟩
  · constructor <;> decide
  · constructor <;> decide
  · constructor <;> decide
  · constructor <;> decide
  · constructor <;> decide
  · decide +kernel
  · decide +kernel
end Sys2Proof.Tests
end

section
/-!
SUPPORT. What a command leaves of the two things that decide how its answer is formed: the step controller, whose left-over decision
`State.settle` makes, and the accesses marked as waiting, which `State.orWait` and `State.within` look at (log entries 32 and 59).
-/
namespace Sys2Proof.Machine

/-- `u` has the step controller and the marked waits of `s`. -/
structure Steady (s u : State) : Prop where
  stp : u.stp = s.stp
  waits : u.waits = s.waits

theorem Steady.refl (s : State) : Steady s s := ⟨rfl, rfl⟩

theorem Steady.trans {s t u : State} (h : Steady s t) (k : Steady t u) : Steady s u :=
  ⟨k.stp.trans h.stp, k.waits.trans h.waits⟩

theorem Steady.ite {s t u : State} {p : Prop} [Decidable p] (ht : Steady s t) (hu : Steady s u) : Steady s (if p then t else u) := by
  split
  · exact ht
  · exact hu

theorem Steady.foldl {α : Type} {f : State → α → State} (h : ∀ s x, Steady s (f s x)) (l : List α) (s : State) :
    Steady s (l.foldl f s) := by
  induction l generalizing s with
  | nil => exact .refl s
  | cons x l ih => exact (h s x).trans (ih (f s x))

theorem Steady.set (s : State) (f : Fld) (v : Nat) : Steady s (s.set f v) := ⟨rfl, rfl⟩

theorem Steady.setAll (s : State) (l : List (Fld × Nat)) : Steady s (s.setAll l) := by
  rw [s.setAll_fld l]
  exact ⟨rfl, rfl⟩

theorem Steady.toHost (s : State) (l : List Out) : Steady s (s.toHost l) := by
  obtain ⟨o, h, e⟩ := s.toHost_only l
  rw [e]
  exact ⟨rfl, rfl⟩

theorem Steady.readHost (s : State) (addr len : Nat) : Steady s (s.readHost addr len) := .toHost s _

theorem Steady.report (s : State) (code unit detail : Nat) : Steady s (s.report code unit detail) := by
  obtain ⟨l, r, e, -⟩ := s.report_only code unit detail
  rw [e]
  exact ⟨rfl, rfl⟩

theorem Steady.raise (s : State) (v : Nat) : Steady s (s.raise v) := by
  obtain ⟨l, o, m, h, e, -⟩ := s.raise_only v
  rw [e]
  exact ⟨rfl, rfl⟩

theorem Steady.latch (s : State) (valid overflow : Fld) (rec : List (Fld × Nat)) : Steady s (s.latch valid overflow rec) := by
  obtain ⟨l, e, -⟩ := s.latch_only valid overflow rec
  rw [e]
  exact ⟨rfl, rfl⟩

theorem Steady.logSec (s : State) (code master : Nat) : Steady s (s.logSec code master) :=
  ((Steady.latch _ _ _ _).trans (.report _ _ _ _)).trans (.raise _ _)

theorem Steady.traceRec (s : State) (kind inst value : Nat) : Steady s (s.traceRec kind inst value) := by
  obtain ⟨c, e⟩ := s.traceRec_only kind inst value
  rw [e]
  exact ⟨rfl, rfl⟩

/-- A state with nothing to decide, settled after an effect that leaves the step controller alone. -/
theorem Steady.settle {s u : State} (h : Steady s u) (hs : Settled s) : u.settle = u :=
  settle_none (by rw [h.stp]; exact hs)

/-- What a command answers, where its effect is steady. -/
theorem afterCmd_doIf {s : State} {k : State → State} (c : Bool) (h : Steady s (k s)) :
    afterCmd s (doIf c s k) = if c then k s else s := by
  simp [doIf, afterCmd, State.orWait_same h.waits]

theorem afterCmd_act {s : State} {k : State → State} (c : Bool) (h : Steady s (k s)) (hs : Settled s) :
    afterCmd s (act c s k) = if c then k s else s := by
  have e : (k s).settle = k s := h.settle hs
  rw [act, afterCmd_doIf c (by rw [e]; exact h), e]

theorem Steady.doIf {s : State} {k : State → State} {c : Bool} (h : Steady s (k s)) : Steady s (afterCmd s (doIf c s k)) := by
  rw [afterCmd_doIf c h]
  exact .ite h (.refl s)

theorem Steady.act {s : State} {k : State → State} {c : Bool} (h : Steady s (k s)) (hs : Settled s) :
    Steady s (afterCmd s (act c s k)) := by
  rw [afterCmd_act c h hs]
  exact .ite h (.refl s)

/-! The loader's commands (R226). -/

theorem Steady.cfgRefuse (s : State) (code : Nat) : Steady s (s.cfgRefuse code) := (Steady.set s _ code).trans (.report _ _ _ _)

theorem Steady.doStage (s : State) : Steady s s.doStage := by
  unfold State.doStage
  refine .ite (.cfgRefuse s _) (.ite (.cfgRefuse s _) ?_)
  have hb : Steady s (((s.setAll [(F.CFG_STATUS_LAST_CODE, 0), (F.CFG_CMD_STAGE, 1)]).loadState ldSTAGING).setLoader fun _ =>
      ⟨s.g F.CFG_SRC_LEN_LEN, none, false⟩) := ⟨rfl, rfl⟩
  exact hb.trans (.readHost _ _ _)

theorem Steady.doCheck (s : State) : Steady s s.doCheck := .ite (.cfgRefuse s _) ⟨rfl, rfl⟩
theorem Steady.doArm (s : State) : Steady s s.doArm := .ite (.cfgRefuse s _) (.ite (.cfgRefuse s _) ⟨rfl, rfl⟩)
theorem Steady.doDisarm (s : State) : Steady s s.doDisarm := .ite (.cfgRefuse s _) ⟨rfl, rfl⟩
theorem Steady.doDiscard (s : State) : Steady s s.doDiscard := .ite (.cfgRefuse s _) ⟨rfl, rfl⟩

theorem Steady.cfgCmd {s : State} {k : State → State} (m value : Nat) (h : Steady s (k s)) (hs : Settled s) :
    Steady s (afterCmd s (cfgCmd m value s k)) := .act (.ite ⟨rfl, rfl⟩ h) hs

/-! Mailboxes (R429 to R432) and the reset of a receiver (R430, R433). -/

theorem Steady.wakeTile (s : State) (t : Nat) : Steady s (s.wakeTile t) := .ite (.refl s) ⟨rfl, rfl⟩

theorem Steady.wakeReceiver (s : State) (n r : Nat) : Steady s (s.wakeReceiver n r) := by
  unfold State.wakeReceiver
  refine .ite (.raise s _) (.ite ⟨rfl, rfl⟩ (.ite ?_ (.refl s)))
  have hc : Steady s (((s.set (F.CLU_STATUS_CTRL_AWAKE (r - 4)) 1).inc (F.CLU_WAKES_COUNT (r - 4))).set (F.PWR_CLU_PLL (r - 4)) 0) :=
    ⟨rfl, rfl⟩
  exact .ite (hc.trans (.foldl (fun s j => .wakeTile s _) _ _)) hc

theorem Steady.putMessage (s : State) (m n word : Nat) : Steady s (s.putMessage m n word) :=
  ((Steady.setAll s _).trans (.traceRec _ _ _ _)).trans (.wakeReceiver _ _ _)

theorem Steady.mailboxSend (s : State) (m n word : Nat) : Steady s (s.mailboxSend m n word) :=
  .ite ((Steady.set s _ _).trans (.logSec _ _ _)) (.ite (.refl s) (.ite (.ite ⟨rfl, rfl⟩ ((Steady.set s _ _).trans (.logSec _ _ _)))
    (.putMessage s m n word)))

theorem Steady.emptyChannel (s : State) (n : Nat) : Steady s (s.emptyChannel n) := ⟨rfl, rfl⟩

theorem Steady.resetReceiver (s : State) (r : Nat) : Steady s (s.resetReceiver r) := by
  refine .foldl (fun s n => ?_) _ s
  have he : Steady s (if s.g (F.MBX_BIND_RECEIVER n) = r then s.emptyChannel n else s) := .ite (.emptyChannel s n) (.refl s)
  exact he.trans (.ite (.set _ _ _) (.refl _))

end Sys2Proof.Machine
end

section
/-!
SUPPORT. The write of one field by its access class (R3 to R7), and what the register table says of the fields of a class.
-/
namespace Sys2Proof.Machine

/-! Bits of what is written to a field. -/

theorem and_mod_two_le (a b : Nat) : (a &&& b) % 2 ≤ a % 2 := by
  have hm : (a &&& b) % 2 = (a % 2 &&& b % 2) := Nat.and_mod_two_pow (n := 1)
  exact hm ▸ Nat.and_le_left

theorem sub_and_div_two (a b : Nat) : (a - (a &&& b)) / 2 = a / 2 - (a / 2 &&& b / 2) := by
  have hd : (a &&& b) / 2 = (a / 2 &&& b / 2) := Nat.and_div_two
  have hl := and_mod_two_le a b
  omega

theorem sub_and_mod_two (a b : Nat) : (a - (a &&& b)) % 2 = a % 2 - (a % 2 &&& b % 2) := by
  have hm : (a &&& b) % 2 = (a % 2 &&& b % 2) := Nat.and_mod_two_pow (n := 1)
  have hl := and_mod_two_le a b
  have ha : a &&& b ≤ a := Nat.and_le_left
  omega

/-- Taking from a number the bits that another has set clears just these (the write of a W1C field). -/
theorem testBit_sub_and (a b i : Nat) : (a - (a &&& b)).testBit i = (a.testBit i && !b.testBit i) := by
  induction i generalizing a b with
  | zero =>
    rw [Nat.testBit_zero, Nat.testBit_zero, Nat.testBit_zero, sub_and_mod_two]
    rcases Nat.mod_two_eq_zero_or_one a with ha | ha <;> rcases Nat.mod_two_eq_zero_or_one b with hb | hb <;> simp [ha, hb]
  | succ i ih => simp only [Nat.testBit_succ, sub_and_div_two, ih]

theorem testBit_lowBits (w n i : Nat) (h : i < w) : (lowBits w n).testBit i = n.testBit i := by
  simp [lowBits, Nat.testBit_mod_two_pow, h]

/-! One class at a time. -/

theorem set_onlyRegs (s : State) (f : Fld) (v : Nat) : OnlyRegs s (s.set f v) [f] :=
  ⟨rfl, fun j hj => State.g_set_ne s f j v (hj f (by simp))⟩

variable {f : Fld}

theorem writeField_ro (h : f.acc = .ro) (s : State) (v : Nat) : s.writeField f v = s := by simp [State.writeField, h]
theorem writeField_rw (h : f.acc = .rw) (s : State) (v : Nat) : s.writeField f v = s.set f v := by simp [State.writeField, h]
theorem writeField_rwb (h : f.acc = .rwb) (s : State) (v : Nat) : s.writeField f v = s.writeRwb f v := by simp [State.writeField, h]

theorem writeField_rwl_free (h : f.acc = .rwl) {s : State} (hl : f.key ∉ s.locked) (v : Nat) :
    s.writeField f v = { s.set f v with locked := s.locked ++ [f.key] } := by simp [State.writeField, h, hl]

theorem writeField_rwl_locked (h : f.acc = .rwl) {s : State} (hl : f.key ∈ s.locked) (v : Nat) : s.writeField f v = s := by
  simp [State.writeField, h, hl]

/-- A write of an RWL field leaves it locked (R7). -/
theorem key_mem_locked_writeField (h : f.acc = .rwl) (s : State) (v : Nat) : f.key ∈ (s.writeField f v).locked := by
  by_cases hl : f.key ∈ s.locked
  · rwa [writeField_rwl_locked h hl]
  · simp [writeField_rwl_free h hl]

theorem writeField_w1c_testBit (h : f.acc = .w1c) (s : State) (v i : Nat) (hi : i < f.w) :
    ((s.writeField f v).g f).testBit i = ((s.g f).testBit i && !v.testBit i) := by
  simp only [State.writeField, h, State.g_set_same, testBit_lowBits _ _ _ hi, testBit_sub_and]

theorem writeField_w1s_testBit (h : f.acc = .w1s) (s : State) (v i : Nat) (hi : i < f.w) :
    ((s.writeField f v).g f).testBit i = ((s.g f).testBit i || v.testBit i) := by
  simp only [State.writeField, h, State.g_set_same, testBit_lowBits _ _ _ hi, Nat.testBit_or]

/-- R5: while a step is open the value goes to the shadow, and is the only one there for its field. -/
theorem writeRwb_open {s : State} (h : s.stepOpen = true) (f : Fld) (v : Nat) :
    s.writeRwb f v = { s with shadow := s.shadow.filter (fun e => e.1 != f) ++ [(f, lowBits f.w v)] } := by
  simp [State.writeRwb, h]

/-- R6: while no step is open the value takes effect at once; a replay under way keeps it for its end (R507). -/
theorem writeRwb_closed {s : State} (h : s.stepOpen = false) (f : Fld) (v : Nat) :
    ∃ i, s.writeRwb f v = ({ s with images := i }).latchField f (lowBits f.w v) := by
  simp only [State.writeRwb, h]
  exact ⟨_, rfl⟩

theorem latchField_elsewhere (h : f.off < 0xB1000) (s : State) (v : Nat) : s.latchField f v = s.set f v := by
  simp [State.latchField, show ¬(0xB1000 ≤ f.off ∧ f.off < 0xB1800) by omega]

theorem Dom.code_le (d : Dom) : d.code ≤ 5 := by cases d <;> decide

/-- Fields of registers at different offsets have different keys. -/
theorem Fld.key_ne_of_off {f j : Fld} (hf : f.lo < 64) (hj : j.lo < 64) (h : f.off ≠ j.off) : f.key ≠ j.key := by
  have := f.dom.code_le
  have := j.dom.code_le
  unfold Fld.key
  omega

/-- A value that takes effect is read back, where the field is none of the counters that a new selection clears (R487). -/
theorem g_latchField_same (h : 0xB1000 ≤ f.off → f.off < 0xB1800 → f.off % 32 = 0 ∧ f.lo < 64) (s : State) (v : Nat) :
    (s.latchField f v).g f = lowBits f.w v := by
  simp only [State.latchField]
  split
  · next hr =>
    obtain ⟨ha, hl⟩ := h hr.1 hr.2
    have hk {j : Fld} (hl' : j.lo < 64) (ho : j.off % 32 ≠ 0) : f.key ≠ j.key := Fld.key_ne_of_off hl hl' fun e => ho (e ▸ ha)
    rw [State.g_set_ne _ _ _ _ (hk ?_ ?_), State.g_set_ne _ _ _ _ (hk ?_ ?_), State.g_set_ne _ _ _ _ (hk ?_ ?_), State.g_set_same] <;>
      simp only [F.DBG_CTR_STEP_COUNT, F.DBG_CTR_RUN_COUNT, F.DBG_CTR_ABORTED_COUNT] <;> omega
  · exact State.g_set_same s f v

/-! The register table. -/

theorem mem_regTable_of_regAt {off : Nat} {r : Reg} (h : regAt off = some r) : r ∈ regTable ∧ r.hit off = true := by
  unfold regAt at h
  split at h
  · simp at h
  · exact ⟨List.mem_of_find?_eq_some h, by simpa using List.find?_some h⟩

/-- Whether some field of a register is of a class. -/
def Reg.holds (r : Reg) (a : Access) : Bool := r.fields.any fun f => f.2.2.2 == a

/-- Bytes that the members of a family of registers span. -/
def Reg.span (r : Reg) : Nat := match r.dims with
  | [] => 1
  | (n, st) :: _ => n * st

/-- A field at an offset of the table: its register, and what it takes from it. -/
theorem field_of_fieldsAt {r : Reg} {off : Nat} (h : f ∈ r.fieldsAt off) :
    f.off = off ∧ f.dom = r.dom ∧ r.holds f.acc = true ∧ ∃ e ∈ r.fields, f.lo = e.1 := by
  simp only [Reg.fieldsAt, List.mem_map] at h
  obtain ⟨e, he, rfl⟩ := h
  exact ⟨rfl, rfl, List.any_eq_true.2 ⟨e, he, by simp⟩, e, he, rfl⟩

theorem Reg.hit_span {r : Reg} {off : Nat} (hp : ∀ e ∈ r.dims, 0 < e.2) (h : r.hit off = true) : r.base ≤ off ∧ off < r.base + r.span := by
  simp only [Reg.hit, Bool.and_eq_true, decide_eq_true_eq] at h
  obtain ⟨hb, hd⟩ := h
  refine ⟨hb, ?_⟩
  cases hr : r.dims with
  | nil =>
    simp only [hr, dimHit, beq_iff_eq] at hd
    simp only [Reg.span, hr]
    omega
  | cons e l =>
    simp only [hr, dimHit, Bool.and_eq_true, decide_eq_true_eq] at hd
    have := (Nat.div_lt_iff_lt_mul (hp e (by simp [hr]))).1 hd.1
    simp only [Reg.span, hr]
    omega

theorem regTable_strides : ∀ r ∈ regTable, ∀ e ∈ r.dims, 0 < e.2 := by decide +kernel
theorem regTable_bits : ∀ r ∈ regTable, ∀ e ∈ r.fields, e.1 < 64 := by decide +kernel

/-- Of the registers with RWB fields only DBG_CTR_SEL lies among the counters (R484). -/
theorem regTable_rwb : ∀ r ∈ regTable, r.holds .rwb = true →
    r.base + r.span ≤ 0xB1000 ∨ 0xB1800 ≤ r.base ∨ (r.base = 0xB1000 ∧ r.dims = [(64, 32)]) := by decide +kernel

theorem regTable_rwl : ∀ r ∈ regTable, r.holds .rwl = true → Dom.dev.code ≤ r.dom.code := by decide +kernel

theorem rwb_aligned {off : Nat} {r : Reg} (hr : regAt off = some r) (hf : f ∈ r.fieldsAt off) (ha : f.acc = .rwb)
    (h1 : 0xB1000 ≤ f.off) (h2 : f.off < 0xB1800) : f.off % 32 = 0 ∧ f.lo < 64 := by
  obtain ⟨hm, hh⟩ := mem_regTable_of_regAt hr
  obtain ⟨rfl, -, hc, e, he, hlo⟩ := field_of_fieldsAt hf
  obtain ⟨hs1, hs2⟩ := Reg.hit_span (regTable_strides r hm) hh
  refine ⟨?_, hlo ▸ regTable_bits r hm e he⟩
  rcases regTable_rwb r hm (ha ▸ hc) with h | h | ⟨hb, hd⟩
  · omega
  · omega
  · simp only [Reg.hit, hb, hd, dimHit, Bool.and_eq_true, decide_eq_true_eq, beq_iff_eq] at hh
    omega

theorem g_writeField_rwb {off : Nat} {r : Reg} (hr : regAt off = some r) (hf : f ∈ r.fieldsAt off) (ha : f.acc = .rwb) {s : State}
    (ho : s.stepOpen = false) (v : Nat) : (s.writeField f v).g f = v % 2 ^ f.w := by
  obtain ⟨i, hi⟩ := writeRwb_closed ho f v
  rw [writeField_rwb ha, hi, g_latchField_same (rwb_aligned hr hf ha)]
  exact lowBits_lowBits f.w v

/-! Locks after a DEV reset (R7, R11). -/

theorem keyDom_key (f : Fld) : keyDom f.key = f.dom.code := by
  unfold keyDom Fld.key
  cases f.dom <;> simp only [Dom.code] <;> omega

theorem keyDom_of_mem_devReset_locked {s : State} {cause : Nat} {keep : Bool} {k : Nat} (h : k ∈ (s.devReset cause keep).locked) :
    keyDom k < Dom.dev.code := by
  simp only [State.devReset, State.resetUnits, State.resetRegs, List.mem_filter, decide_eq_true_eq] at h
  exact h.2

theorem not_mem_devReset_locked {off : Nat} {r : Reg} (hr : regAt off = some r) (hf : f ∈ r.fieldsAt off) (ha : f.acc = .rwl)
    (s : State) (cause : Nat) (keep : Bool) : f.key ∉ (s.devReset cause keep).locked := by
  intro h
  obtain ⟨-, hd, hc, -⟩ := field_of_fieldsAt hf
  have h1 := keyDom_of_mem_devReset_locked h
  have h2 := regTable_rwl r (mem_regTable_of_regAt hr).1 (ha ▸ hc)
  rw [keyDom_key, hd] at h1
  omega

end Sys2Proof.Machine
end

section
/-!
SUPPORT. A register write (R515, R516, R543): what it answers, and what it does at the registers of the map.
-/
namespace Sys2Proof.Machine

/-- The state in which what a command carries out within itself begins (`State.within`). -/
def State.nested (s : State) : State := { s with waits := s.waits ++ [[]] }

/-- What is carried out within a command and marks no access: its effect, the marks as they were. -/
theorem within_of_steady {s : State} {f : State → State} (h : Steady s.nested (f s.nested)) :
    s.within f = { f s.nested with waits := s.waits } := State.within_same h.waits

theorem Steady.within {s : State} {f : State → State} (h : Steady s.nested (f s.nested)) : Steady s (s.within f) := by
  rw [within_of_steady h]
  exact ⟨h.stp, rfl⟩

theorem exec_registerWrite_recovering {s : State} (hp : s.powered = true) (hr : s.host.recovery = true) (off len v : Nat) (t : Bool)
    (l : List Byte) : exec (.registerWrite 1 off len v t l) s =
      .next { s with host := { s.host with coming := s.host.coming ++ [.registerWrite off len v t l] } } := by
  simp [exec, execRegisterWrite, hostRow, hp, hr, State.setHost]

section
variable {s : State} {m off len v : Nat} {t : Bool} {l : List Byte} (hr : m = 1 → s.host.recovery = false)
include hr

/-- A write that reaches the device, as R515 and R516 take it, changes what its effect on BAR0 changes. -/
theorem exec_registerWrite (hm : s.fromMaster m = true) (hs : Settled s)
    (h : Steady s.nested (s.nested.writeBar0 m off len v ⟨t, l⟩)) :
    exec (.registerWrite m off len v t l) s = .next { s.nested.writeBar0 m off len v ⟨t, l⟩ with waits := s.waits } := by
  have hw : Steady s (s.within fun w => w.writeBar0 m off len v ⟨t, l⟩) := .within h
  have hd : s.registerWrite m off len v t l = .next { s.nested.writeBar0 m off len v ⟨t, l⟩ with waits := s.waits } := by
    rw [State.registerWrite, act_next hm _ _ (by rw [hw.stp]; exact hs) hw.waits, within_of_steady h]
  by_cases h1 : m = 1
  · subst h1
    simp only [State.fromMaster, Bool.and_eq_true, bne_self_eq_false, Bool.false_or] at hm
    simp [exec, execRegisterWrite, hostRow, hr rfl, hm.2, hd]
  · simp [exec, execRegisterWrite, h1, hd]

/-- A write that leaves BAR0 as it is leaves the state as it is, whether the device hears it or not. -/
theorem exec_registerWrite_same (hs : Settled s) (h : s.nested.writeBar0 m off len v ⟨t, l⟩ = s.nested) :
    exec (.registerWrite m off len v t l) s = .next s := by
  by_cases hm : s.fromMaster m = true
  · rw [exec_registerWrite hr hm hs (by rw [h]; exact .refl _), h]
    rfl
  · have hd : s.registerWrite m off len v t l = .next s := act_false (by simpa using hm) s _
    by_cases h1 : m = 1
    · subst h1
      simp [exec, execRegisterWrite, hostRow, hr rfl, hd]
    · simp [exec, execRegisterWrite, h1, hd]

/-- A write whose effect is that of a command does as that command. -/
theorem exec_registerWrite_cmd (hm : s.fromMaster m = true) (hs : Settled s) {c : Instr}
    (h : s.nested.writeBar0 m off len v ⟨t, l⟩ = afterCmd s.nested (exec c s.nested))
    (hc : Steady s.nested (afterCmd s.nested (exec c s.nested))) :
    exec (.registerWrite m off len v t l) s = .next (s.within fun w => afterCmd w (exec c w)) := by
  rw [exec_registerWrite hr hm hs (by rw [h]; exact hc), within_of_steady hc, h]

end

/-! Which accesses reach a register (R515, R516). -/

theorem writeBar0_refused {s : State} {m off len : Nat}
    (h : s.reaches m off = false ∨ off % len ≠ 0 ∨ (len ≠ 4 ∧ len ≠ 8)) (v : Nat) (e : WriteEnv) : s.writeBar0 m off len v e = s := by
  unfold State.writeBar0
  split
  · rfl
  · next hc =>
    rcases h with h | h | ⟨h4, h8⟩
    · simp [h] at hc
    · simp [h] at hc
    · simp [h4, h8]

theorem reaches_above {m : Nat} (h : 37 ≤ m) (s : State) (off : Nat) : s.reaches m off = false := by
  unfold State.reaches
  rw [if_neg (by omega), if_neg (by omega), if_neg (by omega)]

theorem reaches_host {m : Nat} (h : m = 1 ∨ m = 2) (s : State) (off : Nat) : s.reaches m off = true := by
  simp [State.reaches, h]

/-- Cluster controllers and the hub sequencer reach the channels' DATA (R429). -/
theorem reaches_channel {m k : Nat} (h4 : 4 ≤ m) (h36 : m ≤ 36) (hk : k < 32) (s : State) : s.reaches m (0x30000 + 0x40 * k) = true := by
  unfold State.reaches
  rw [if_neg (by omega), if_neg (by omega), if_pos ⟨h4, h36⟩]
  simp only [Bool.and_eq_true, beq_iff_eq, decide_eq_true_eq, Bool.or_eq_true]
  exact ⟨⟨by omega, by omega⟩, .inl (by omega)⟩

/-- The map has at `off` a register of `width` bits with the fields `l`, which the masters `ms` may write (all that reach it, where none is
named). -/
abbrev RegisterAt (off width : Nat) (ms : List Nat) (l : List Fld) : Prop :=
  (regAt off).map (fun r => (r.width, r.masters, r.fieldsAt off)) = some (width, ms, l)

theorem RegisterAt.found {off width : Nat} {ms : List Nat} {l : List Fld} (h : RegisterAt off width ms l) :
    ∃ r, regAt off = some r ∧ r.width = width ∧ r.masters = ms ∧ r.fieldsAt off = l := by
  obtain ⟨r, hr, he⟩ := Option.map_eq_some_iff.1 h
  obtain ⟨hw, hms, hl⟩ := by simpa only [Prod.mk.injEq] using he
  exact ⟨r, hr, hw, hms, hl⟩

theorem writeBar0_word {s : State} {m off : Nat} (hr : s.reaches m off = true) (h4 : off % 4 = 0) {r : Reg} (ha : regAt off = some r)
    (v : Nat) (e : WriteEnv) :
    s.writeBar0 m off 4 v e = if r.width = 32 then s.writeReg m off r (lowBits 32 v) e else s := by
  simp [State.writeBar0, State.write4, hr, h4, ha]

theorem writeBar0_double {s : State} {m off : Nat} (hr : s.reaches m off = true) (h8 : off % 8 = 0) {r : Reg} (ha : regAt off = some r)
    (hw : r.width = 64) (v : Nat) (e : WriteEnv) :
    s.writeBar0 m off 8 v e = s.writeReg m off r (lowBits 64 v) e := by
  simp [State.writeBar0, hr, h8, ha, hw]

theorem registerAt_stepCommitted : RegisterAt 0x10018 64 [] [F.STEP_COMMITTED_NUMBER] := rfl
theorem registerAt_stepTimeout : RegisterAt 0x10038 32 [] [F.STEP_TIMEOUT_MS] := rfl
theorem registerAt_cfgCmd :
    RegisterAt 0x20008 32 [1, 2] [F.CFG_CMD_DISCARD, F.CFG_CMD_DISARM, F.CFG_CMD_ARM, F.CFG_CMD_CHECK, F.CFG_CMD_STAGE] :=
  rfl
theorem registerAt_mbxBindLock : RegisterAt 0x30900 32 [1, 2] [F.MBX_BIND_LOCK_LOCKED] := rfl
theorem registerAt_irqCause : RegisterAt 0x40010 64 [] [F.HIF_IRQ_CAUSE_CAUSE] := rfl
theorem registerAt_freezeAt : RegisterAt 0xB0018 64 [] [F.DBG_FREEZE_AT_TIME] := rfl

theorem registerAt_channelData : ∀ k < 32, RegisterAt (0x30000 + 0x40 * k) 64 [] [F.MBX_CH_DATA_WORD k] := by decide +kernel
theorem registerAt_cluCtrl : ∀ k < 32,
    RegisterAt (0x2000010 + 0x10000 * k) 32 [1, 2] [F.CLU_CTRL_CODE k, F.CLU_CTRL_CLU_RESET k, F.CLU_CTRL_TILE_RESET k] := by
  decide +kernel

end Sys2Proof.Machine
end

section
/-!
SUPPORT. What a write of BAR0 does at the registers that O55 names, and the commands that such a write starts.
-/
namespace Sys2Proof.Machine

/-- A register with one field that does no more than its class. -/
theorem writeFields_one (s : State) (f : Fld) (v : Nat) : s.writeFields [f] [] v = s.writeField f (fieldOf f v) := by
  simp [State.writeFields]

section
variable {m : Nat} (hm : m = 1 ∨ m = 2) (s : State) (v : Nat) (e : WriteEnv)
include hm

theorem writeBar0_stepCommitted : s.writeBar0 m 0x10018 8 v e = s := by
  obtain ⟨r, hr, hw, hms, hf⟩ := registerAt_stepCommitted.found
  rw [writeBar0_double (reaches_host hm s _) (by decide) hr hw]
  simp [State.writeReg, hms, hf, inFamily, writeFields_one, writeField_ro (f := F.STEP_COMMITTED_NUMBER) rfl]

theorem writeBar0_stepTimeout :
    s.writeBar0 m 0x10038 4 v e = s.writeRwb F.STEP_TIMEOUT_MS (fieldOf F.STEP_TIMEOUT_MS (lowBits 32 v)) := by
  obtain ⟨r, hr, hw, hms, hf⟩ := registerAt_stepTimeout.found
  rw [writeBar0_word (reaches_host hm s _) (by decide) hr, if_pos hw]
  simp [State.writeReg, hms, hf, inFamily, writeFields_one, writeField_rwb (f := F.STEP_TIMEOUT_MS) rfl]

theorem writeBar0_irqCause :
    s.writeBar0 m 0x40010 8 v e = s.writeField F.HIF_IRQ_CAUSE_CAUSE (fieldOf F.HIF_IRQ_CAUSE_CAUSE (lowBits 64 v)) := by
  obtain ⟨r, hr, hw, hms, hf⟩ := registerAt_irqCause.found
  rw [writeBar0_double (reaches_host hm s _) (by decide) hr hw]
  simp [State.writeReg, hms, hf, inFamily, writeFields_one]

theorem writeBar0_freezeAt :
    s.writeBar0 m 0xB0018 8 v e = s.set F.DBG_FREEZE_AT_TIME (fieldOf F.DBG_FREEZE_AT_TIME (lowBits 64 v)) := by
  obtain ⟨r, hr, hw, hms, hf⟩ := registerAt_freezeAt.found
  rw [writeBar0_double (reaches_host hm s _) (by decide) hr hw]
  simp [State.writeReg, State.writeDbg, hms, hf, inFamily, writeFields_one, writeField_rw (f := F.DBG_FREEZE_AT_TIME) rfl]

/-- A register of 64 bits ignores a write of four bytes (R516). -/
theorem writeBar0_freezeAt_word : s.writeBar0 m 0xB0018 4 v e = s := by
  obtain ⟨r, hr, hw, -, -⟩ := registerAt_freezeAt.found
  rw [writeBar0_word (reaches_host hm s _) (by decide) hr, if_neg (by simp [hw])]

theorem writeBar0_mbxBindLock :
    s.writeBar0 m 0x30900 4 v e = s.writeField F.MBX_BIND_LOCK_LOCKED (fieldOf F.MBX_BIND_LOCK_LOCKED (lowBits 32 v)) := by
  obtain ⟨r, hr, hw, hms, hf⟩ := registerAt_mbxBindLock.found
  rw [writeBar0_word (reaches_host hm s _) (by decide) hr, if_pos hw]
  rcases hm with rfl | rfl <;> simp [State.writeReg, State.writeMbx, hms, hf, inFamily, writeFields_one]

/-- The loader's command register starts the command of the one bit that is set (R226). -/
theorem writeBar0_cfgCmd : s.writeBar0 m 0x20008 4 v e =
    oneBit (lowBits 5 v) s (afterCmd s (cfgCmd m (lowBits 5 v) s fun s => s.cfgRefuse 0x0119)) fun b =>
      afterCmd s (if b = 1 then execStage m s else if b = 2 then execCheck m s else if b = 4 then execArm m s
        else if b = 8 then execDisarm m s else execDiscard m s) := by
  obtain ⟨r, hr, hw, hms, -⟩ := registerAt_cfgCmd.found
  have hv : lowBits 5 (lowBits 32 v) = lowBits 5 v := Nat.mod_mod_of_dvd v (by decide)
  rw [writeBar0_word (reaches_host hm s _) (by decide) hr, if_pos hw]
  rcases hm with rfl | rfl <;> simp [State.writeReg, hms, hv]

/-- CLU_RESET among the command bits of a cluster's register (R521). -/
theorem writeBar0_cluReset {k : Nat} (hk : k < 32) :
    s.writeBar0 m (0x2000010 + 0x10000 * k) 4 0x100 e = afterCmd s (execCluReset m k s) := by
  obtain ⟨r, hr, hw, hms, -⟩ := (registerAt_cluCtrl k hk).found
  have hf : inFamily 0x2000010 32 0x10000 (0x2000010 + 0x10000 * k) = true := by
    simp only [inFamily, Bool.and_eq_true, decide_eq_true_eq, beq_iff_eq]
    omega
  have hn : (0x2000010 + 0x10000 * k - 0x2000010) / 0x10000 = k := by omega
  have hb : bitOf (lowBits 32 0x100) 8 = true := by decide
  have hq : (r.masters.isEmpty || r.masters.contains m) = true := by rcases hm with rfl | rfl <;> simp [hms]
  rw [writeBar0_word (reaches_host hm s _) (by omega) hr, if_pos hw]
  unfold State.writeReg
  rw [hq, if_neg (by simp), if_neg (by omega), if_neg (by omega), if_neg (by omega), if_neg (by omega), if_neg (by omega), if_neg (by omega),
    if_neg (by omega), if_neg (by omega), if_neg (by omega), if_neg (by omega), if_neg (by omega), if_pos hf]
  simp only [hn, hb, if_true]

end

/-- A write of a channel's DATA is a send on it (R429). -/
theorem writeBar0_channelData {m k : Nat} (h4 : 4 ≤ m) (h36 : m ≤ 36) (hk : k < 32) (s : State) (v : Nat) (e : WriteEnv) :
    s.writeBar0 m (0x30000 + 0x40 * k) 8 v e = afterCmd s (execMailboxWrite m k v s) := by
  obtain ⟨r, hr, hw, hms, -⟩ := (registerAt_channelData k hk).found
  have hf : inFamily 0x30000 32 0x40 (0x30000 + 0x40 * k) = true := by
    simp only [inFamily, Bool.and_eq_true, decide_eq_true_eq, beq_iff_eq]
    omega
  have hn : (0x30000 + 0x40 * k - 0x30000) / 0x40 = k := by omega
  have hv : execMailboxWrite m k (lowBits 64 v) = execMailboxWrite m k v := by
    unfold execMailboxWrite
    rw [show lowBits 64 v % 2 ^ 64 = v % 2 ^ 64 from lowBits_lowBits 64 v]
  rw [writeBar0_double (reaches_channel h4 h36 hk s) (by omega) hr hw]
  unfold State.writeReg
  rw [if_neg (by simp [hms]), if_neg (by omega), if_neg (by omega), if_neg (by omega), if_pos (by omega)]
  simp only [State.writeMbx, hf, hn, hv, if_true]

/-! The loader's commands and the bits that start them. -/

/-- The commands of CFG_CMD, each with its bit (R226). -/
def cfgCommands (m : Nat) : List (Instr × Nat) := [(.stage m, 1), (.check m, 2), (.arm m, 4), (.disarm m, 8), (.discard m, 16)]

theorem writeBar0_cfgCommand {m : Nat} (hm : m = 1 ∨ m = 2) {c : Instr × Nat} (hc : c ∈ cfgCommands m) (s : State) (e : WriteEnv) :
    s.writeBar0 m 0x20008 4 c.2 e = afterCmd s (exec c.1 s) := by
  rw [writeBar0_cfgCmd hm]
  simp only [cfgCommands, List.mem_cons, List.not_mem_nil, or_false] at hc
  rcases hc with rfl | rfl | rfl | rfl | rfl <;> rfl

theorem Steady.cfgCommand {m : Nat} {c : Instr × Nat} (hc : c ∈ cfgCommands m) {s : State} (hs : Settled s) :
    Steady s (afterCmd s (exec c.1 s)) := by
  simp only [cfgCommands, List.mem_cons, List.not_mem_nil, or_false] at hc
  rcases hc with rfl | rfl | rfl | rfl | rfl
  · exact .cfgCmd m 1 (.doStage s) hs
  · exact .cfgCmd m 2 (.doCheck s) hs
  · exact .cfgCmd m 4 (.doArm s) hs
  · exact .cfgCmd m 8 (.doDisarm s) hs
  · exact .cfgCmd m 16 (.doDiscard s) hs

/-- A command of the loader that is heard outside a freeze. -/
theorem afterCmd_cfgCmd {m value : Nat} {s : State} {k : State → State} (hm : m = 1 ∨ m = 2) (hf : s.fromMaster m = true)
    (hz : s.frozen = false) (hs : Settled s) (hk : Steady s (k s)) : afterCmd s (cfgCmd m value s k) = k s := by
  have hc : (s.fromMaster m && (m == 1 || m == 2)) = true := by simp [hf, hm]
  have he : (if s.frozen then { s with frozen' := { s.frozen' with writes := s.frozen'.writes ++ [(m, 0x20008, value)] } } else k s) = k s :=
    if_neg (by simp [hz])
  rw [cfgCmd, afterCmd_act _ (by rw [he]; exact hk) hs, if_pos hc, he]

/-- What a refused command of the loader leaves (R226). -/
theorem cfgRefuse_shows (s : State) (code : Nat) :
    (s.cfgRefuse code).g F.CFG_STATUS_LAST_CODE = lowBits 16 code ∧ (s.cfgRefuse code).loaderState = s.loaderState := by
  obtain ⟨-, -, -, h⟩ := (s.set F.CFG_STATUS_LAST_CODE code).report_only code 0 0
  refine ⟨(h F.CFG_STATUS_LAST_CODE (by decide)).trans (State.g_set_same s _ code), ?_⟩
  exact (h F.CFG_STATUS_STATE (by decide)).trans (State.g_set_ne s _ _ code (by decide))

theorem Steady.mbxBindLock (m : Nat) (s : State) : Steady s (afterCmd s (exec (.mbxBindLock m) s)) := by
  show Steady s (afterCmd s (execMbxBindLock m s))
  exact .doIf ⟨rfl, rfl⟩

theorem Steady.mailboxWrite (m n word : Nat) (s : State) : Steady s (afterCmd s (exec (.mailboxWrite m n word) s)) := by
  show Steady s (afterCmd s (execMailboxWrite m n word s))
  exact .doIf (.mailboxSend s m n _)

theorem Steady.cluReset (m k : Nat) (s : State) : Steady s (afterCmd s (exec (.cluReset m k) s)) := by
  show Steady s (afterCmd s (execCluReset m k s))
  unfold execCluReset cluRequest
  have hr : Steady s (((s.set (F.CLU_CTRL_CODE k) 0).set (F.CLU_CTRL_CLU_RESET k) 1).resetReceiver (4 + k)) :=
    ((Steady.set s _ _).trans (.set _ _ _)).trans (.resetReceiver _ _)
  apply Steady.doIf
  exact .ite hr (.set s _ _)

/-- The first write of LOCKED, where the masters may write it and nothing has locked it yet. -/
theorem afterCmd_mbxBindLock {m : Nat} (hm : m = 1 ∨ m = 2) {s : State} (hf : s.fromMaster m = true)
    (hl : F.MBX_BIND_LOCK_LOCKED.key ∉ s.locked) :
    afterCmd s (exec (.mbxBindLock m) s) = s.writeField F.MBX_BIND_LOCK_LOCKED 1 := by
  have hc : (s.fromMaster m && (m == 1 || m == 2) && !s.locked.contains F.MBX_BIND_LOCK_LOCKED.key) = true := by
    simp [hf, hl, hm]
  rw [writeField_rwl_free rfl hl]
  show afterCmd s (execMbxBindLock m s) = _
  rw [execMbxBindLock, afterCmd_doIf _ ⟨rfl, rfl⟩, if_pos hc]

/-- What the register shows of a value that fits it is the value cut to the field. -/
theorem fieldOf_lowBits {f : Fld} (h0 : f.lo = 0) {n : Nat} (hn : f.w ≤ n) (v : Nat) : fieldOf f (lowBits n v) = lowBits f.w v := by
  simp only [fieldOf, h0, Nat.pow_zero, Nat.div_one, lowBits]
  exact Nat.mod_mod_of_dvd v (Nat.pow_dvd_pow 2 hn)

end Sys2Proof.Machine
end

section
/-!
Register writes follow their class (R3 to R7, R515, R516): the answer of each write that O55 names, and the obligation.
-/
namespace Sys2Proof.Machine

/-- A field of the register table, written by software: what its class makes of it (R3 to R7). -/
theorem writeField_follows_class {off : Nat} {r : Reg} {f : Fld} (hr : regAt off = some r) (hf : f ∈ r.fieldsAt off) (s : State) (v : Nat) :
    let u := s.writeField f v
    (f.acc = .ro → u = s)
    ∧ (f.acc = .rw → u.g f = v % 2 ^ f.w ∧ OnlyRegs s u [f])
    ∧ (f.acc = .rwb → s.stepOpen = false → u.g f = v % 2 ^ f.w)
    ∧ (f.acc = .rwb → s.stepOpen = true → { u with shadow := s.shadow } = s ∧ (f, v % 2 ^ f.w) ∈ u.shadow
      ∧ ∀ x, (f, x) ∈ u.shadow → x = v % 2 ^ f.w)
    ∧ (f.acc = .rwl → f.key ∉ s.locked → u.g f = v % 2 ^ f.w)
    ∧ (f.acc = .rwl → f.key ∈ u.locked ∧ (∀ x, u.writeField f x = u)
      ∧ ∀ cause keep, f.key ∉ (u.devReset cause keep).locked)
    ∧ (f.acc = .w1c → ∀ i < f.w, (u.g f).testBit i = ((s.g f).testBit i && !v.testBit i))
    ∧ (f.acc = .w1s → ∀ i < f.w, (u.g f).testBit i = ((s.g f).testBit i || v.testBit i)) := by
  refine ⟨fun h => writeField_ro h s v, fun h => ?_, fun h ho => g_writeField_rwb hr hf h ho v, fun h ho => ?_, fun h hl => ?_, fun h => ?_,
    fun h i hi => writeField_w1c_testBit h s v i hi, fun h i hi => writeField_w1s_testBit h s v i hi⟩
  · rw [writeField_rw h]
    exact ⟨State.g_set_same s f v, set_onlyRegs s f v⟩
  · rw [writeField_rwb h, writeRwb_open ho]
    refine ⟨rfl, by simp [lowBits], fun x hx => ?_⟩
    simpa [lowBits] using hx
  · rw [writeField_rwl_free h hl]
    exact State.g_set_same s f v
  · have hk := key_mem_locked_writeField h s v
    exact ⟨hk, fun x => writeField_rwl_locked h hk x, not_mem_devReset_locked hr hf h _⟩

section
variable {m v : Nat} {t : Bool} {l : List Byte} {s : State} (hm : m = 1 ∨ m = 2) (hf : s.fromMaster m = true)
  (hr : m = 1 → s.host.recovery = false) (hs : Settled s)
include hm hf hr hs

theorem exec_registerWrite_freezeAt : ∃ u, exec (.registerWrite m 0xB0018 8 v t l) s = .next u
    ∧ u.g F.DBG_FREEZE_AT_TIME = v % 2 ^ 64 ∧ OnlyRegs s u [F.DBG_FREEZE_AT_TIME] := by
  refine ⟨_, exec_registerWrite hr hf hs (by rw [writeBar0_freezeAt hm]; exact .set _ _ _), ?_⟩
  rw [writeBar0_freezeAt hm, fieldOf_lowBits rfl (by decide)]
  refine ⟨?_, set_onlyRegs s _ _⟩
  exact (State.g_set_same s F.DBG_FREEZE_AT_TIME _).trans (lowBits_lowBits 64 v)

theorem exec_registerWrite_irqCause : ∃ u, exec (.registerWrite m 0x40010 8 v t l) s = .next u
    ∧ (∀ i < 48, (u.g F.HIF_IRQ_CAUSE_CAUSE).testBit i = ((s.g F.HIF_IRQ_CAUSE_CAUSE).testBit i && !v.testBit i))
    ∧ OnlyRegs s u [F.HIF_IRQ_CAUSE_CAUSE] := by
  refine ⟨_, exec_registerWrite hr hf hs (by rw [writeBar0_irqCause hm]; exact .set _ _ _), ?_⟩
  rw [writeBar0_irqCause hm, fieldOf_lowBits rfl (by decide)]
  refine ⟨fun i hi => ?_, set_onlyRegs s _ _⟩
  have hw := writeField_w1c_testBit (f := F.HIF_IRQ_CAUSE_CAUSE) rfl s (lowBits 48 v) i hi
  rwa [testBit_lowBits 48 v i hi] at hw

theorem exec_registerWrite_stepTimeout_closed (ho : s.stepOpen = false) : ∃ u, exec (.registerWrite m 0x10038 4 v t l) s = .next u
    ∧ u.g F.STEP_TIMEOUT_MS = v % 2 ^ 32 ∧ KeepsRegs s u [F.STEP_TIMEOUT_MS] ∧ { u with fld := s.fld, images := s.images } = s := by
  have hw : ∃ i, s.nested.writeBar0 m 0x10038 4 v ⟨t, l⟩ = { s.nested with images := i }.set F.STEP_TIMEOUT_MS (v % 2 ^ 32) := by
    obtain ⟨i, hi⟩ := writeRwb_closed (s := s.nested) ho F.STEP_TIMEOUT_MS (lowBits 32 v)
    refine ⟨i, ?_⟩
    rw [writeBar0_stepTimeout hm, fieldOf_lowBits rfl (by decide)]
    refine hi.trans ?_
    rw [latchField_elsewhere (by decide), show lowBits F.STEP_TIMEOUT_MS.w (lowBits 32 v) = v % 2 ^ 32 from lowBits_lowBits 32 v]
  obtain ⟨i, hi⟩ := hw
  refine ⟨_, exec_registerWrite hr hf hs (by rw [hi]; exact ⟨rfl, rfl⟩), ?_⟩
  rw [hi]
  refine ⟨?_, fun j hj => State.g_set_ne s _ j _ (hj _ (by simp)), rfl⟩
  exact (State.g_set_same s F.STEP_TIMEOUT_MS _).trans (lowBits_lowBits 32 v)

theorem exec_registerWrite_stepTimeout_open (ho : s.stepOpen = true) : ∃ u, exec (.registerWrite m 0x10038 4 v t l) s = .next u
    ∧ (F.STEP_TIMEOUT_MS, v % 2 ^ 32) ∈ u.shadow ∧ { u with shadow := s.shadow } = s := by
  have hw : s.nested.writeBar0 m 0x10038 4 v ⟨t, l⟩ =
      { s.nested with shadow := s.shadow.filter (fun e => e.1 != F.STEP_TIMEOUT_MS) ++ [(F.STEP_TIMEOUT_MS, v % 2 ^ 32)] } := by
    rw [writeBar0_stepTimeout hm, fieldOf_lowBits rfl (by decide), writeRwb_open (s := s.nested) ho,
      lowBits_lowBits]
    rfl
  refine ⟨_, exec_registerWrite hr hf hs (by rw [hw]; exact ⟨rfl, rfl⟩), ?_⟩
  rw [hw]
  exact ⟨by simp, rfl⟩

theorem exec_registerWrite_mbxBindLock (hl : F.MBX_BIND_LOCK_LOCKED.key ∉ s.locked) :
    exec (.registerWrite m 0x30900 4 1 t l) s = .next (s.within fun w => afterCmd w (exec (.mbxBindLock m) w)) := by
  refine exec_registerWrite_cmd hr hf hs ?_ (.mbxBindLock m _)
  rw [writeBar0_mbxBindLock hm, afterCmd_mbxBindLock (s := s.nested) hm hf hl]
  rfl

theorem exec_registerWrite_cfgCommand {c : Instr × Nat} (hc : c ∈ cfgCommands m) :
    exec (.registerWrite m 0x20008 4 c.2 t l) s = .next (s.within fun w => afterCmd w (exec c.1 w)) :=
  exec_registerWrite_cmd hr hf hs (writeBar0_cfgCommand hm hc _ _) (.cfgCommand hc hs)

/-- Two bits of CFG_CMD at once start nothing (log entry 72). -/
theorem exec_registerWrite_cfgCmd_two (hz : s.frozen = false) : ∃ u, exec (.registerWrite m 0x20008 4 3 t l) s = .next u
    ∧ u.g F.CFG_STATUS_LAST_CODE = 0x0119 ∧ u.loaderState = s.loaderState := by
  have hw : s.nested.writeBar0 m 0x20008 4 3 ⟨t, l⟩ = s.nested.cfgRefuse 0x0119 := by
    rw [writeBar0_cfgCmd hm]
    exact afterCmd_cfgCmd (s := s.nested) (k := fun s => s.cfgRefuse 0x0119) hm hf hz hs (.cfgRefuse _ _)
  obtain ⟨hg, hl⟩ := cfgRefuse_shows s.nested 0x0119
  refine ⟨_, exec_registerWrite hr hf hs (by rw [hw]; exact .cfgRefuse _ _), ?_⟩
  rw [hw]
  exact ⟨hg, hl⟩

theorem exec_registerWrite_cluReset {k : Nat} (hk : k < 32) :
    exec (.registerWrite m (0x2000010 + 0x10000 * k) 4 0x100 t l) s = .next (s.within fun w => afterCmd w (exec (.cluReset m k) w)) :=
  exec_registerWrite_cmd hr hf hs (writeBar0_cluReset hm _ _ hk) (.cluReset m k _)

end

theorem exec_registerWrite_channelData {m k : Nat} (h4 : 4 ≤ m) (h36 : m ≤ 36) (hk : k < 32) {s : State} (hp : s.powered = true)
    (hs : Settled s) (v : Nat) (t : Bool) (l : List Byte) :
    exec (.registerWrite m (0x30000 + 0x40 * k) 8 v t l) s = .next (s.within fun w => afterCmd w (exec (.mailboxWrite m k v) w)) := by
  have hf : s.fromMaster m = true := by simp [State.fromMaster, hp, show m ≠ 1 by omega]
  exact exec_registerWrite_cmd (by omega) hf hs (writeBar0_channelData h4 h36 hk _ _ _) (.mailboxWrite m k v _)

/-- Settles O55: each class of field by the table (R3 to R7), and the registers it names by what a write does there. -/
theorem registerWritesFollowTheirClass : Obligations.RegisterWritesFollowTheirClass := by
  intro m off len v k t l s does hp hs
  refine ⟨?_, fun hr h => exec_registerWrite_same hr hs (writeBar0_refused (s := s.nested) h _ _), fun h => reaches_above h s off,
    fun r f hr hf => writeField_follows_class hr hf s v, fun hm hf hr => ?_,
    fun h4 h36 hk => exec_registerWrite_channelData h4 h36 hk hp hs v t l⟩
  · rintro rfl hr
    exact exec_registerWrite_recovering hp hr off len v t l
  · refine ⟨exec_registerWrite_same hr hs (writeBar0_stepCommitted hm _ _ _), exec_registerWrite_same hr hs (writeBar0_freezeAt_word hm _ _ _),
      exec_registerWrite_freezeAt hm hf hr hs, exec_registerWrite_irqCause hm hf hr hs, exec_registerWrite_stepTimeout_closed hm hf hr hs,
      exec_registerWrite_stepTimeout_open hm hf hr hs, exec_registerWrite_mbxBindLock hm hf hr hs, fun hl => ?_,
      fun c hc => exec_registerWrite_cfgCommand hm hf hr hs hc, exec_registerWrite_cfgCmd_two hm hf hr hs,
      exec_registerWrite_cluReset hm hf hr hs⟩
    refine exec_registerWrite_same hr hs ?_
    rw [writeBar0_mbxBindLock hm, writeField_rwl_locked (s := s.nested) rfl hl]

end Sys2Proof.Machine
end

section
/-!
SUPPORT. The frame of what the engines do beside their work: registers written, errors logged, jobs' states brought up to date.
`KeepsData K s u` says that the registers of `K` read in `u` as in `s` and that memory, plan, tiles, images and shadows stay; `Spares K s u`
says that the step controller and the reduction engine's work stay as well.
-/
namespace Sys2Proof.Machine

/-- `x` is none of the registers of `K`, which a write of it leaves. -/
abbrev Misses (K : Fld → Prop) (x : Fld) : Prop := ∀ f, K f → f.key ≠ x.key

/-- From `s` to `u` the registers of `K` read the same, and memory, plan, tiles, images, shadows and marked waits are as they were. -/
structure KeepsData (K : Fld → Prop) (s u : State) : Prop where
  regs : ∀ f, K f → u.g f = s.g f
  plan : u.plan = s.plan
  tiles : u.tiles = s.tiles
  mesh : u.mesh = s.mesh
  mem : u.mem = s.mem
  images : u.images = s.images
  loader : u.loader = s.loader
  shadow : u.shadow = s.shadow
  waits : u.waits = s.waits

/-- The step controller and the reduction engine's work stay as well. -/
structure Spares (K : Fld → Prop) (s u : State) : Prop extends KeepsData K s u where
  stp : u.stp = s.stp
  red : u.red = s.red

section
variable {K K' : Fld → Prop} {s t u : State}

theorem KeepsData.trans (h : KeepsData K s t) (k : KeepsData K t u) : KeepsData K s u :=
  ⟨fun f hf => (k.regs f hf).trans (h.regs f hf), k.plan.trans h.plan, k.tiles.trans h.tiles, k.mesh.trans h.mesh, k.mem.trans h.mem,
    k.images.trans h.images, k.loader.trans h.loader, k.shadow.trans h.shadow, k.waits.trans h.waits⟩

theorem KeepsData.ring (h : KeepsData K s u) : u.ring = s.ring := by simp only [State.ring, h.plan]
theorem KeepsData.job (h : KeepsData K s u) (j : Nat) : u.job j = s.job j := by simp only [State.job, h.ring]
theorem KeepsData.jobs (h : KeepsData K s u) : u.jobs = s.jobs := by simp only [State.jobs, h.ring]

theorem KeepsData.refl (K : Fld → Prop) (s : State) : KeepsData K s s := ⟨fun _ _ => rfl, rfl, rfl, rfl, rfl, rfl, rfl, rfl, rfl⟩

theorem KeepsData.ite {p : Prop} [Decidable p] (ht : KeepsData K s t) (hu : KeepsData K s u) : KeepsData K s (if p then t else u) := by
  split
  · exact ht
  · exact hu

theorem KeepsData.withStp (K : Fld → Prop) (s : State) (c : StepCtl) : KeepsData K s { s with stp := c } :=
  ⟨fun _ _ => rfl, rfl, rfl, rfl, rfl, rfl, rfl, rfl, rfl⟩
theorem KeepsData.withRed (K : Fld → Prop) (s : State) (r : RedCtl) : KeepsData K s { s with red := r } :=
  ⟨fun _ _ => rfl, rfl, rfl, rfl, rfl, rfl, rfl, rfl, rfl⟩

theorem Spares.refl (K : Fld → Prop) (s : State) : Spares K s s := ⟨.refl K s, rfl, rfl⟩

theorem Spares.trans (h : Spares K s t) (k : Spares K t u) : Spares K s u :=
  ⟨h.toKeepsData.trans k.toKeepsData, k.stp.trans h.stp, k.red.trans h.red⟩

theorem KeepsData.mono (hk : ∀ f, K f → K' f) (h : KeepsData K' s u) : KeepsData K s u :=
  { h with regs := fun f hf => h.regs f (hk f hf) }

theorem Spares.mono (hk : ∀ f, K f → K' f) (h : Spares K' s u) : Spares K s u := ⟨h.toKeepsData.mono hk, h.stp, h.red⟩

theorem Spares.steady (h : Spares K s u) : Steady s u := ⟨h.stp, h.waits⟩

theorem Spares.ite {p : Prop} [Decidable p] (ht : Spares K s t) (hu : Spares K s u) : Spares K s (if p then t else u) := by
  split
  · exact ht
  · exact hu

theorem Spares.foldl {α : Type} {f : State → α → State} (l : List α) (h : ∀ x ∈ l, ∀ s, Spares K s (f s x)) (s : State) :
    Spares K s (l.foldl f s) := by
  induction l generalizing s with
  | nil => exact .refl K s
  | cons x l ih => exact (h x (by simp) s).trans (ih (fun y hy => h y (by simp [hy])) (f s x))

/-- Beside registers only reports, outputs, ports, logs, the watch and the update units' work differ. -/
theorem Spares.of_eq {l r o P m q c w x} (e : u = { s with
      fld := l, reports := r, outbox := o, ports := P, msi := m, host := q, cap := c, num := w, upd := x })
    (g : ∀ f, K f → u.g f = s.g f) : Spares K s u := by
  subst e
  exact ⟨⟨g, rfl, rfl, rfl, rfl, rfl, rfl, rfl, rfl⟩, rfl, rfl⟩

theorem Spares.cap (K : Fld → Prop) (s : State) (c) : Spares K s { s with cap := c } := .of_eq rfl fun _ _ => rfl
theorem Spares.num (K : Fld → Prop) (s : State) (w) : Spares K s { s with num := w } := .of_eq rfl fun _ _ => rfl
theorem Spares.upd (K : Fld → Prop) (s : State) (x) : Spares K s { s with upd := x } := .of_eq rfl fun _ _ => rfl

theorem Spares.set {x : Fld} (h : Misses K x) (s : State) (v : Nat) : Spares K s (s.set x v) :=
  .of_eq rfl fun f hf => State.g_set_ne s x f v (h f hf)

theorem Spares.setAll {l : List (Fld × Nat)} (h : ∀ e ∈ l, Misses K e.1) (s : State) : Spares K s (s.setAll l) := by
  induction l generalizing s with
  | nil => exact .refl K s
  | cons e l ih => exact (Spares.set (h e (by simp)) s e.2).trans (ih (fun x hx => h x (by simp [hx])) _)

/-! Logs, interrupts and reports. -/

theorem Spares.report (h : Misses K F.NVS_HIST_DROPPED_COUNT) (s : State) (code unit detail : Nat) :
    Spares K s (s.report code unit detail) := by
  obtain ⟨l, r, e, g⟩ := s.report_only code unit detail
  exact .of_eq e fun f hf => g f (h f hf)

theorem Spares.raise (h : Misses K F.HIF_IRQ_CAUSE_CAUSE) (s : State) (v : Nat) : Spares K s (s.raise v) := by
  obtain ⟨l, o, m, q, e, g⟩ := s.raise_only v
  exact .of_eq e fun f hf => g f (h f hf)

theorem Spares.latch {valid overflow : Fld} {rec : List (Fld × Nat)} (hv : Misses K valid) (ho : Misses K overflow)
    (hr : ∀ e ∈ rec, Misses K e.1) (s : State) : Spares K s (s.latch valid overflow rec) :=
  .ite (.set ho s 1) ((Spares.set hv s 1).trans (.setAll hr _))

theorem Spares.traceRec (K : Fld → Prop) (s : State) (kind inst value : Nat) : Spares K s (s.traceRec kind inst value) := by
  obtain ⟨c, e⟩ := s.traceRec_only kind inst value
  exact .of_eq e fun f _ => by rw [e]; rfl

/-! Jobs. -/

theorem Spares.refreshJob {j : Nat} (h : Misses K (F.RED_JOB_STATUS_STATE j)) (s : State) : Spares K s (s.refreshJob j) := by
  unfold State.refreshJob
  split
  · exact .refl K s
  · exact .ite (.refl K s) (.set h s _)

theorem Spares.refreshJobs (hj : ∀ j ∈ s.jobs, Misses K (F.RED_JOB_STATUS_STATE j)) (hr : Misses K F.RED_STATUS_REDUCED_JOBS) :
    Spares K s s.refreshJobs :=
  (Spares.foldl s.jobs (fun j h s => .refreshJob (hj j h) s) s).trans (.set hr _ _)

end

end Sys2Proof.Machine
end

section
/-!
SUPPORT. What a boundary does beside its decision: counters and logs closed, streams stopped, what belongs to the attempt forgotten
(R158, R242, R485, R505).
-/
namespace Sys2Proof.Machine

/-- A list of writes to different fields: each field reads what was written to it. -/
theorem g_setAll_of_mem {l : List (Fld × Nat)} (hd : (l.map fun e => e.1.key).Nodup) {e : Fld × Nat} (h : e ∈ l) (s : State) :
    (s.setAll l).g e.1 = lowBits e.1.w e.2 := by
  induction l generalizing s with
  | nil => simp at h
  | cons a l ih =>
    obtain ⟨ha, hl⟩ := List.nodup_cons.1 hd
    rcases List.mem_cons.1 h with rfl | h
    · have hne : ∀ x ∈ l, e.1.key ≠ x.1.key := fun x hx he => ha (List.mem_map.2 ⟨x, hx, he.symm⟩)
      exact (State.g_setAll_ne l _ e.1 hne).trans (State.g_set_same s e.1 e.2)
    · exact ih hl h _

section
variable {K K' : Fld → Prop}

/-! Counters (R485, R488). -/

theorem Spares.closeCounters_abort {n : Nat} (h : ∀ k < n, Misses K (F.DBG_CTR_STEP_COUNT k) ∧ Misses K (F.DBG_CTR_ABORTED_COUNT k))
    (s : State) : Spares K s (closeCounters false n s) := by
  induction n with
  | zero => exact .refl K s
  | succ k ih =>
    obtain ⟨hs, ha⟩ := h k (by omega)
    exact ((ih fun j hj => h j (by omega)).trans (.set ha _ _)).trans (.set hs _ _)

theorem Spares.closeCommand {n : Nat} (scope : Nat) (h : ∀ c < n, ∀ x ∈ [F.DBG_CMD_LAST_COUNT c, F.DBG_CMD_LAST_SEQ c, F.DBG_CMD_LIVE_COUNT c,
    F.DBG_CMD_LIVE_SEQ c], Misses K x) (s : State) : Spares K s (closeCommand scope n s) := by
  induction n with
  | zero => exact .refl K s
  | succ c ih =>
    refine (ih fun j hj => h j (by omega)).trans (.ite (.setAll ?_ _) (.refl K _))
    simpa using h c (by omega)

theorem ctr_keys_ne (j k : Nat) (hj : j ≠ k) : (F.DBG_CTR_STEP_COUNT j).key ≠ (F.DBG_CTR_STEP_COUNT k).key
    ∧ (F.DBG_CTR_ABORTED_COUNT j).key ≠ (F.DBG_CTR_ABORTED_COUNT k).key := by
  simp only [Fld.key, F.DBG_CTR_STEP_COUNT, F.DBG_CTR_ABORTED_COUNT, Dom.code]
  omega

theorem ctr_step_ne_aborted (j k : Nat) : (F.DBG_CTR_STEP_COUNT j).key ≠ (F.DBG_CTR_ABORTED_COUNT k).key := by
  simp only [Fld.key, F.DBG_CTR_STEP_COUNT, F.DBG_CTR_ABORTED_COUNT, Dom.code]
  omega

/-- At an abort a counter's count of the step goes to the aborted one (R485). -/
theorem g_closeCounters_abort {k n : Nat} (h : k < n) (s : State) :
    (closeCounters false n s).g (F.DBG_CTR_STEP_COUNT k) = 0
      ∧ (closeCounters false n s).g (F.DBG_CTR_ABORTED_COUNT k) = s.g (F.DBG_CTR_STEP_COUNT k) % 2 ^ 48 := by
  induction n with
  | zero => omega
  | succ n ih =>
    have hsa := ctr_step_ne_aborted
    by_cases hk : k = n
    · subst hk
      have hs : (closeCounters false k s).g (F.DBG_CTR_STEP_COUNT k) = s.g (F.DBG_CTR_STEP_COUNT k) := by
        refine (Spares.closeCounters_abort (K := (· = F.DBG_CTR_STEP_COUNT k)) (fun j hj => ⟨?_, ?_⟩) s).regs _ rfl
        · rintro f rfl
          exact (ctr_keys_ne k j (by omega)).1
        · rintro f rfl
          exact hsa k j
      refine ⟨State.g_set_same _ _ 0, (State.g_set_ne _ _ _ _ (hsa k k).symm).trans ((State.g_set_same _ _ _).trans ?_)⟩
      rw [hs]
      rfl
    · obtain ⟨h1, h2⟩ := ih (by omega)
      obtain ⟨hks, hka⟩ := ctr_keys_ne k n hk
      exact ⟨(State.g_set_ne _ _ _ _ hks).trans ((State.g_set_ne _ _ _ _ (hsa k n)).trans h1),
        (State.g_set_ne _ _ _ _ (hsa n k).symm).trans ((State.g_set_ne _ _ _ _ hka).trans h2)⟩

/-! The digest log and the record of the decision (R491, R505). -/

theorem Spares.logBoundary_abort (hc : Misses K F.DBG_LOG_STATUS_OPEN_COUNT) (hf : Misses K F.DBG_LOG_STATUS_OPEN_FULL) (s : State) :
    Spares K s (s.logBoundary false) := by
  unfold State.logBoundary
  refine .ite (.refl K s) ?_
  have hl := ((Spares.cap K s { s.cap with fullLogged := false }).trans (.set hc _ 0)).trans (.set hf _ 0)
  exact .ite (hl.trans (.cap K _ _)) (hl.trans (.cap K _ _))

/-- What an abort writes to STEP_DECISION and STEP_BOUNDARY_TIME (R251). -/
def State.abortRecord (s : State) (cause detail pos ring : Nat) (viaPoll : Bool) : List (Fld × Nat) :=
  [(F.STEP_DECISION_KIND, 2), (F.STEP_DECISION_SKIPPED, 0), (F.STEP_DECISION_VIA_POLL, bit viaPoll), (F.STEP_DECISION_CAUSE_POS, pos),
    (F.STEP_DECISION_CAUSE_RING, ring), (F.STEP_DECISION_DETAIL, detail), (F.STEP_DECISION_CAUSE, cause),
    (F.STEP_DECISION_ATTEMPT, s.g F.STEP_STATUS_ATTEMPT), (F.STEP_BOUNDARY_TIME_TIME, s.time)]

theorem Spares.watchBoundary (h : ∀ x ∈ [F.NUM_BANK_INFO_KIND, F.NUM_BANK_INFO_ATTEMPT, F.NUM_BANK_INFO_STEP], Misses K x) (s : State)
    (kind : Nat) : Spares K s (s.watchBoundary kind) := by
  exact (Spares.num K s _).trans (.setAll (by simpa using h) _)

/-- Beside that record a decision closes the numerics watch, traces and interrupts. -/
theorem Spares.decision_abort (h : ∀ x ∈ [F.NUM_BANK_INFO_KIND, F.NUM_BANK_INFO_ATTEMPT, F.NUM_BANK_INFO_STEP, F.HIF_IRQ_CAUSE_CAUSE], Misses K x)
    (s : State) (cause detail pos ring : Nat) (viaPoll : Bool) :
    Spares K (s.setAll (s.abortRecord cause detail pos ring viaPoll)) (s.decision 2 cause detail pos ring viaPoll) :=
  ((Spares.traceRec K _ _ _ _).trans (.watchBoundary (fun x hx => h x (by simp at hx ⊢; tauto)) _ _)).trans (.raise (h _ (by simp)) _ _)

/-! Streams and jobs. -/

theorem Spares.stopTiles (h : ∀ t n, Misses K (F.TILE_SEQ_STATUS_STATE t n) ∧ Misses K (F.TILE_SEQ_STATUS_STALL t n)) (s : State) :
    Spares K s s.stopTiles :=
  .foldl _ (fun t _ s => .foldl _ (fun n _ s => .ite ((Spares.set (h t n).1 s _).trans (.set (h t n).2 _ _)) (.refl K s)) s) s

theorem Spares.lateBoundary (K : Fld → Prop) (s : State) (commit : Bool) : Spares K s (s.lateBoundary commit) := .upd K s _

theorem Spares.clearHalts {s : State} (h : ∀ j ∈ s.jobs, Misses K (F.RED_JOB_STATUS_STATE j)) : Spares K s s.clearHalts :=
  .foldl _ (fun j hj s => .ite (.set (h j hj) s _) (.refl K s)) s

/-- The engines' work of the attempt and what the step controller holds of it forgotten (R331, R242). -/
def State.forgetAttempt (s : State) : State :=
  { s with
    red := { RedCtl.init with
      held := s.red.held, digestLatched := s.red.digestLatched, haltDue := s.red.haltDue, tails := s.red.tails.filter fun t => decide (2 ≤ t.kind) }
    upd := { s.upd with runs := [], done := [], totals := [], crcs := [], due := [], podSent := [], digests := [], matched := false }
    stp := { s.stp with failed := none, due := none, adone := [], segsNamed := [] } }

/-- The fields of a job that an attempt's end clears. -/
def attemptJobFields (j : Nat) : List Fld := [F.RED_JOB_STATUS_STATE j, F.RED_JOB_STATUS_ROUND j, F.RED_JOB_STATUS_REDUCED j]
/-- The other registers that it clears. -/
def attemptFields : List Fld :=
  [F.RED_STATUS_SKIP, F.RED_STATUS_HALTED, F.RED_STATUS_NOTICE_OUT, F.UPD_STATUS_BUSY, F.UPD_STATUS_DIG_PENDING, F.STEP_READY_MAP_READY,
    F.RED_STATUS_REDUCED_JOBS]

/-- The registers of a job and of the engines as the end of an attempt leaves them; `halts` are the halted jobs. -/
def State.resetJob (halts : List Nat) (s : State) (j : Nat) : State :=
  s.setAll [(F.RED_JOB_STATUS_STATE j, if halts.contains j then jobHALTED else jobIDLE), (F.RED_JOB_STATUS_ROUND j, 0),
    (F.RED_JOB_STATUS_REDUCED j, 0)]
def attemptWrites (halts : List Nat) : List (Fld × Nat) :=
  [(F.RED_STATUS_SKIP, 0), (F.RED_STATUS_HALTED, bit (!halts.isEmpty)), (F.RED_STATUS_NOTICE_OUT, 0), (F.UPD_STATUS_BUSY, 0),
    (F.UPD_STATUS_DIG_PENDING, 0), (F.STEP_READY_MAP_READY, 0)]

theorem clearAttempt_eq (s : State) : s.clearAttempt =
    (s.jobs.foldl (State.resetJob (s.jobs.filter s.halted)) (s.forgetAttempt.setAll (attemptWrites (s.jobs.filter s.halted)))).refreshJobs :=
  rfl

theorem Spares.resetJob {j : Nat} (h : ∀ x ∈ attemptJobFields j, Misses K x) (halts : List Nat) (s : State) :
    Spares K s (s.resetJob halts j) :=
  .setAll (by simpa [attemptJobFields] using h) s

theorem Spares.clearAttempt {s : State} (h : ∀ x ∈ attemptFields, Misses K x) (hj : ∀ j ∈ s.jobs, ∀ x ∈ attemptJobFields j, Misses K x) :
    Spares K s.forgetAttempt s.clearAttempt := by
  have hw : ∀ e ∈ attemptWrites (s.jobs.filter s.halted), Misses K e.1 := fun e he => h e.1 (by
    have hm : e.1 ∈ (attemptWrites (s.jobs.filter s.halted)).map (·.1) := List.mem_map_of_mem he
    exact List.mem_append_left [F.RED_STATUS_REDUCED_JOBS] hm)
  have hr := (Spares.setAll hw s.forgetAttempt).trans
    (Spares.foldl s.jobs (fun j hm => .resetJob (hj j hm) (s.jobs.filter s.halted)) _)
  rw [clearAttempt_eq]
  refine hr.trans (.refreshJobs (fun j hm => ?_) (h _ (by simp [attemptFields])))
  exact hj j (hr.jobs ▸ hm) _ (by simp [attemptJobFields])

/-! Healing (R360). -/

theorem Spares.logUpd (h : ∀ x ∈ [F.UPD_ERROR_VALID, F.UPD_ERROR_OVERFLOW, F.UPD_ERROR_CODE, F.UPD_ERROR_UNIT, F.UPD_ERROR_SEGMENT,
    F.NVS_HIST_DROPPED_COUNT, F.HIF_IRQ_CAUSE_CAUSE], Misses K x) (s : State) (code unit seg : Nat) : Spares K s (s.logUpd code unit seg) := by
  simp only [List.mem_cons, List.not_mem_nil, or_false, forall_eq_or_imp, forall_eq] at h
  obtain ⟨hv, ho, hc, hu, hg, hn, hi⟩ := h
  exact ((Spares.latch hv ho (by simpa using ⟨hc, hu, hg⟩) s).trans (.report hn ..)).trans (.raise hi ..)

/-- The registers that the begin of a heal, and its end, may change. -/
def healFields : List Fld :=
  [F.UPD_STATUS_HEALING, F.UPD_DIG_REPORT_HEALED, F.UPD_ERROR_VALID, F.UPD_ERROR_OVERFLOW, F.UPD_ERROR_CODE, F.UPD_ERROR_UNIT, F.UPD_ERROR_SEGMENT,
    F.NVS_HIST_DROPPED_COUNT, F.HIF_IRQ_CAUSE_CAUSE]

theorem Spares.healBegin (h : ∀ x ∈ healFields, Misses K x) (s : State) : Spares K s s.healBegin := by
  have hd (s : State) : Spares K s s.healDone := by
    refine .ite (((Spares.set (h _ (by simp [healFields])) s 0).trans (.set (h F.UPD_DIG_REPORT_HEALED (by simp [healFields])) _ 1)).trans
      ((Spares.upd K _ _).trans (.logUpd (fun x hx => h x ?_) _ _ _ _))) (.refl K s)
    exact List.mem_cons_of_mem _ (List.mem_cons_of_mem _ hx)
  exact .ite (.refl K s) (((Spares.upd K s _).trans (.set (h _ (by simp [healFields])) _ 1)).trans (hd _))

end

/-! Held flits. -/

/-- With no flit held there is nothing to look at again. -/
theorem retryHeld_nil {s : State} (h : s.red.held = []) (digest : Nat → Flit → State → State) : s.retryHeld digest = s := by
  have hr : { s.red with held := [] } = s.red := by rw [← h]
  simp [State.retryHeld, h, hr]

end Sys2Proof.Machine
end

section
/-!
What an abort boundary leaves (R23, R242, R251, R254, R485): the boundary in its parts, what each part leaves of the registers of the step
controller and the counters, and the obligation.
-/
namespace Sys2Proof.Machine

/-! The parts of an abort boundary. -/

/-- Shadows dropped, counters closed, and the decision recorded. -/
def State.abortRecorded (s : State) (cause detail pos ring : Nat) (viaPoll : Bool) : State :=
  ((closeCommand 4 8 (closeCounters false 64 { s with shadow := [] })).logBoundary false).decision 2 cause detail pos ring viaPoll

/-- All-gather flits kept for the boundary that the abort replaces are let go (R24). -/
def State.dropGathers (n : Nat) (s : State) : State :=
  let t := (s.red.held.filter (HeldFlit.nextGather n)).foldl (fun s e => s.freeCredit e.port e.flit.hdr.channel) s
  { t with red := { t.red with held := t.red.held.filter fun e => !e.nextGather n } }

/-- No halt left for the next attempt (R319). -/
def State.noHaltDue (s : State) : State := { s with red := { s.red with haltDue := none } }

/-- Streams stopped, and what belongs to the attempt forgotten. -/
def State.abortCleared (s : State) (wasOpen : Bool) : State :=
  ((if wasOpen then s.stopTiles else s).lateBoundary false).noHaltDue.clearHalts.clearAttempt

/-- ATTEMPT moved on, the step closed, the abort counted. -/
def State.abortCounted (s : State) (wasOpen : Bool) (poll : Option Nat) : State :=
  let t := s.setAll [(F.STEP_STATUS_ATTEMPT, poll.getD (s.g F.STEP_STATUS_ATTEMPT + 1)), (F.STEP_STATUS_ABORT_PENDING, 0)]
  (if wasOpen then t.set F.STEP_STATUS_STATE stCLOSED else t).inc F.STEP_ABORTS_COUNT

/-- An armed loader has an installation due (R230). -/
def State.abortArmed (s : State) : State :=
  if s.g F.CFG_STATUS_STATE = 5 then { s with loader := { s.loader with due := true } } else s

/-! Registers. -/

/-- The registers of the step controller and the loader's state, and, where the registers of `jobs` jobs end below them, the counters. -/
def Apart (jobs : Nat) (f : Fld) : Prop :=
  f.lo < 64 ∧ (f.off < 0x20008 ∧ f.off ≠ 0x10050 ∨ jobs ≤ 4096 ∧ 0xB1000 ≤ f.off ∧ f.off < 0xB1800)

/-- Those of them that the record of a decision and the closing of counters leave. -/
def Kept (jobs : Nat) (f : Fld) : Prop :=
  f.lo < 64 ∧ (f.off < 0x20008 ∧ f.off ∉ [0x10040, 0x10048, 0x10050]
    ∨ jobs ≤ 4096 ∧ 0xB1000 ≤ f.off ∧ f.off < 0xB1800 ∧ f.off % 32 = 16)

/-- The fields that the step controller writes at the end of an abort. -/
def countedFields : List Fld := [F.STEP_STATUS_ATTEMPT, F.STEP_STATUS_ABORT_PENDING, F.STEP_STATUS_STATE, F.STEP_ABORTS_COUNT]

section
variable {n : Nat}

theorem Kept.apart {f : Fld} (h : Kept n f) : Apart n f := by
  obtain ⟨hl, ⟨ho, hn⟩ | ⟨hj, h1, h2, -⟩⟩ := h
  · exact ⟨hl, .inl ⟨ho, fun e => hn (by simp [e])⟩⟩
  · exact ⟨hl, .inr ⟨hj, h1, h2⟩⟩

theorem misses_apart {x : Fld}
    (h : x.lo < 64 ∧ (0x20008 ≤ x.off ∨ x.off = 0x10050) ∧ (n ≤ 4096 → x.off < 0xB1000 ∨ 0xB1800 ≤ x.off)) : Misses (Apart n) x := by
  rintro f ⟨hf, ho⟩
  exact Fld.key_ne_of_off hf h.1 (by omega)

/-- The registers at fixed places that a boundary's work changes. -/
def boundaryFields : List Fld :=
  attemptFields ++ healFields ++ [F.NUM_BANK_INFO_KIND, F.NUM_BANK_INFO_ATTEMPT, F.NUM_BANK_INFO_STEP, F.DBG_LOG_STATUS_OPEN_COUNT,
    F.DBG_LOG_STATUS_OPEN_FULL]

theorem misses_apart_boundary : ∀ x ∈ boundaryFields, Misses (Apart n) x := by
  have h : ∀ x ∈ boundaryFields, x.lo < 64 ∧ (0x20008 ≤ x.off ∨ x.off = 0x10050) ∧ (x.off < 0xB1000 ∨ 0xB1800 ≤ x.off) := by decide
  intro x hx
  obtain ⟨hl, ho, hc⟩ := h x hx
  exact misses_apart ⟨hl, ho, fun _ => hc⟩

theorem misses_apart_job {j : Nat} (h : j < n) : ∀ x ∈ attemptJobFields j, Misses (Apart n) x := by
  simp only [attemptJobFields, List.mem_cons, List.not_mem_nil, or_false, forall_eq_or_imp, forall_eq]
  refine ⟨misses_apart ?_, misses_apart ?_, misses_apart ?_⟩ <;>
    simp only [F.RED_JOB_STATUS_STATE, F.RED_JOB_STATUS_ROUND, F.RED_JOB_STATUS_REDUCED] <;> omega

theorem misses_apart_jobState {s : State} (h : s.jobs = List.range n) : ∀ j ∈ s.jobs, Misses (Apart n) (F.RED_JOB_STATUS_STATE j) :=
  fun j hj => misses_apart_job (List.mem_range.1 (h ▸ hj)) _ (by simp [attemptJobFields])

theorem misses_apart_stream (t k : Nat) :
    Misses (Apart n) (F.TILE_SEQ_STATUS_STATE t k) ∧ Misses (Apart n) (F.TILE_SEQ_STATUS_STALL t k) := by
  refine ⟨misses_apart ?_, misses_apart ?_⟩ <;> simp only [F.TILE_SEQ_STATUS_STATE, F.TILE_SEQ_STATUS_STALL] <;> omega

theorem misses_apart_command {c : Nat} :
    ∀ x ∈ [F.DBG_CMD_LAST_COUNT c, F.DBG_CMD_LAST_SEQ c, F.DBG_CMD_LIVE_COUNT c, F.DBG_CMD_LIVE_SEQ c], Misses (Apart n) x := by
  simp only [List.mem_cons, List.not_mem_nil, or_false, forall_eq_or_imp, forall_eq]
  refine ⟨misses_apart ?_, misses_apart ?_, misses_apart ?_, misses_apart ?_⟩ <;>
    simp only [F.DBG_CMD_LAST_COUNT, F.DBG_CMD_LAST_SEQ, F.DBG_CMD_LIVE_COUNT, F.DBG_CMD_LIVE_SEQ] <;> omega

theorem misses_kept_counter (k : Nat) :
    Misses (Kept n) (F.DBG_CTR_STEP_COUNT k) ∧ Misses (Kept n) (F.DBG_CTR_ABORTED_COUNT k) := by
  constructor <;> rintro f ⟨hf, ho⟩ <;> refine Fld.key_ne_of_off hf ?_ ?_ <;>
    simp only [F.DBG_CTR_STEP_COUNT, F.DBG_CTR_ABORTED_COUNT] <;> omega

theorem abortRecord_fields (s : State) (cause detail pos ring : Nat) (viaPoll : Bool) :
    ∀ e ∈ s.abortRecord cause detail pos ring viaPoll, e.1.lo < 64 ∧ e.1.off ∈ [0x10040, 0x10048] := by
  simp only [State.abortRecord, List.mem_cons, List.not_mem_nil, or_false, forall_eq_or_imp, forall_eq]
  decide

theorem misses_kept_record (s : State) (cause detail pos ring : Nat) (viaPoll : Bool) :
    ∀ e ∈ s.abortRecord cause detail pos ring viaPoll, Misses (Kept n) e.1 := by
  rintro e he f ⟨hf, ho⟩
  obtain ⟨hl, hm⟩ := abortRecord_fields s _ _ _ _ _ e he
  simp only [List.mem_cons, List.not_mem_nil, or_false] at hm ho
  exact Fld.key_ne_of_off hf hl (by omega)

end

/-! What the parts leave. -/

section
variable {n : Nat} {s : State}

theorem spares_abortLog (s : State) : Spares (Apart n) s ((closeCommand 4 8 s).logBoundary false) :=
  (Spares.closeCommand 4 (fun _ _ => misses_apart_command) s).trans
    (.logBoundary_abort (misses_apart_boundary _ (by decide)) (misses_apart_boundary _ (by decide)) _)

theorem spares_abortDecision (s : State) (cause detail pos ring : Nat) (viaPoll : Bool) :
    Spares (Apart n) (s.setAll (s.abortRecord cause detail pos ring viaPoll)) (s.decision 2 cause detail pos ring viaPoll) :=
  .decision_abort (fun x hx => misses_apart_boundary x (by
    have hs : [F.NUM_BANK_INFO_KIND, F.NUM_BANK_INFO_ATTEMPT, F.NUM_BANK_INFO_STEP, F.HIF_IRQ_CAUSE_CAUSE] ⊆ boundaryFields := by decide
    exact hs hx)) ..

/-- Up to its record an abort leaves all but counters and record. -/
theorem spares_abortRecorded (s : State) (cause detail pos ring : Nat) (viaPoll : Bool) :
    Spares (Kept n) { s with shadow := [] } (s.abortRecorded cause detail pos ring viaPoll) :=
  ((Spares.closeCounters_abort (fun k _ => misses_kept_counter k) _).trans ((spares_abortLog _).mono fun _ => Kept.apart)).trans
    ((Spares.setAll (misses_kept_record _ cause detail pos ring viaPoll) _).trans ((spares_abortDecision ..).mono fun _ => Kept.apart))

/-- The decision as the record shows it (R251). -/
theorem g_abortRecorded_decision (s : State) (cause detail pos ring : Nat) (viaPoll : Bool) :
    let u := s.abortRecorded cause detail pos ring viaPoll
    u.g F.STEP_DECISION_KIND = 2 ∧ u.g F.STEP_DECISION_CAUSE = cause % 2 ^ 16 ∧ u.g F.STEP_DECISION_DETAIL = detail % 2 ^ 16 := by
  obtain ⟨t, ht⟩ : ∃ t, t = (closeCommand 4 8 (closeCounters false 64 { s with shadow := [] })).logBoundary false := ⟨_, rfl⟩
  have hd : ((t.abortRecord cause detail pos ring viaPoll).map fun e => e.1.key).Nodup := by
    simp only [State.abortRecord, List.map_cons, List.map_nil]
    decide
  have hg (f : Fld) (v : Nat) (he : (f, v) ∈ t.abortRecord cause detail pos ring viaPoll) (ha : Apart 0 f) :
      (s.abortRecorded cause detail pos ring viaPoll).g f = lowBits f.w v := by
    rw [State.abortRecorded, ← ht, (spares_abortDecision (n := 0) t cause detail pos ring viaPoll).regs f ha]
    exact g_setAll_of_mem hd he t
  refine ⟨hg F.STEP_DECISION_KIND 2 (by simp [State.abortRecord]) ?_, hg F.STEP_DECISION_CAUSE cause (by simp [State.abortRecord]) ?_,
    hg F.STEP_DECISION_DETAIL detail (by simp [State.abortRecord]) ?_⟩ <;> exact ⟨by decide, .inl (by decide)⟩

/-- A counter's registers. -/
theorem apart_counter (hn : n ≤ 4096) {k : Nat} (hk : k < 64) :
    (Apart n (F.DBG_CTR_STEP_COUNT k) ∧ ∀ x ∈ countedFields ++ [F.CFG_STATUS_STATE], (F.DBG_CTR_STEP_COUNT k).key ≠ x.key)
      ∧ (Apart n (F.DBG_CTR_ABORTED_COUNT k) ∧ ∀ x ∈ countedFields ++ [F.CFG_STATUS_STATE], (F.DBG_CTR_ABORTED_COUNT k).key ≠ x.key)
      ∧ Kept n (F.DBG_CTR_RUN_COUNT k) ∧ ∀ x ∈ countedFields ++ [F.CFG_STATUS_STATE], (F.DBG_CTR_RUN_COUNT k).key ≠ x.key := by
  have hlow : ∀ x ∈ countedFields ++ [F.CFG_STATUS_STATE], x.lo < 64 ∧ x.off < 0xB1000 := by decide
  have hne (f : Fld) (h : f.lo < 64 ∧ 0xB1000 ≤ f.off) : ∀ x ∈ countedFields ++ [F.CFG_STATUS_STATE], f.key ≠ x.key := fun x hx =>
    Fld.key_ne_of_off h.1 (hlow x hx).1 (by have := (hlow x hx).2; omega)
  have hs : (F.DBG_CTR_STEP_COUNT k).lo < 64 ∧ 0xB1000 ≤ (F.DBG_CTR_STEP_COUNT k).off ∧ (F.DBG_CTR_STEP_COUNT k).off < 0xB1800 := by
    simp only [F.DBG_CTR_STEP_COUNT]
    omega
  have ha : (F.DBG_CTR_ABORTED_COUNT k).lo < 64 ∧ 0xB1000 ≤ (F.DBG_CTR_ABORTED_COUNT k).off ∧ (F.DBG_CTR_ABORTED_COUNT k).off < 0xB1800 := by
    simp only [F.DBG_CTR_ABORTED_COUNT]
    omega
  have hr : (F.DBG_CTR_RUN_COUNT k).lo < 64 ∧ 0xB1000 ≤ (F.DBG_CTR_RUN_COUNT k).off ∧ (F.DBG_CTR_RUN_COUNT k).off < 0xB1800
      ∧ (F.DBG_CTR_RUN_COUNT k).off % 32 = 16 := by
    simp only [F.DBG_CTR_RUN_COUNT]
    omega
  exact ⟨⟨⟨hs.1, .inr ⟨hn, hs.2⟩⟩, hne _ ⟨hs.1, hs.2.1⟩⟩, ⟨⟨ha.1, .inr ⟨hn, ha.2⟩⟩, hne _ ⟨ha.1, ha.2.1⟩⟩,
    ⟨hr.1, .inr ⟨hn, hr.2⟩⟩, hne _ ⟨hr.1, hr.2.1⟩⟩

/-- The counters after an abort (R485). -/
theorem g_abortRecorded_counters (hn : n ≤ 4096) (s : State) (cause detail pos ring : Nat) (viaPoll : Bool) {k : Nat} (hk : k < 64) :
    let u := s.abortRecorded cause detail pos ring viaPoll
    u.g (F.DBG_CTR_STEP_COUNT k) = 0 ∧ u.g (F.DBG_CTR_ABORTED_COUNT k) = s.g (F.DBG_CTR_STEP_COUNT k) % 2 ^ 48 := by
  have hg {f : Fld} (ha : Apart n f) (ho : 0xB1000 ≤ f.off) : (s.abortRecorded cause detail pos ring viaPoll).g f =
      (closeCounters false 64 { s with shadow := [] }).g f := by
    rw [State.abortRecorded, (spares_abortDecision ..).regs f ha, State.g_setAll_ne, (spares_abortLog _).regs f ha]
    intro e he
    obtain ⟨hl, hm⟩ := abortRecord_fields _ _ _ _ _ _ e he
    simp only [List.mem_cons, List.not_mem_nil, or_false] at hm
    exact Fld.key_ne_of_off ha.1 hl (by omega)
  obtain ⟨⟨hs, -⟩, ⟨ha, -⟩, -⟩ := apart_counter hn hk
  obtain ⟨h1, h2⟩ := g_closeCounters_abort hk { s with shadow := [] }
  exact ⟨(hg hs (by simp [F.DBG_CTR_STEP_COUNT]; omega)).trans h1, (hg ha (by simp [F.DBG_CTR_ABORTED_COUNT]; omega)).trans h2⟩

theorem keepsData_noHaltDue (K : Fld → Prop) (s : State) : KeepsData K s s.noHaltDue := .withRed K s _

theorem keepsData_forgetAttempt (K : Fld → Prop) (s : State) : KeepsData K s s.forgetAttempt :=
  ⟨fun _ _ => rfl, rfl, rfl, rfl, rfl, rfl, rfl, rfl, rfl⟩

/-- What the end of the attempt's work leaves: no failure on record, and held flits as they were. -/
theorem abortCleared_keeps (hn : s.jobs = List.range n) (wasOpen : Bool) :
    KeepsData (Apart n) s (s.abortCleared wasOpen) ∧ (s.abortCleared wasOpen).stp.failed = none
      ∧ (s.abortCleared wasOpen).red.held = s.red.held := by
  have hstop : Spares (Apart n) s ((if wasOpen then s.stopTiles else s).lateBoundary false) :=
    (Spares.ite (.stopTiles misses_apart_stream s) (.refl _ s)).trans (.lateBoundary _ _ _)
  have hdue := hstop.toKeepsData.trans (keepsData_noHaltDue _ _)
  have hhalts := Spares.clearHalts (misses_apart_jobState (hdue.jobs.trans hn))
  have hkept := hdue.trans hhalts.toKeepsData
  have hclear := Spares.clearAttempt (fun x hx => misses_apart_boundary (n := n) x (List.mem_append_left _ (List.mem_append_left _ hx)))
    fun j hj => misses_apart_job (List.mem_range.1 (hkept.jobs.trans hn ▸ hj))
  refine ⟨(hkept.trans (keepsData_forgetAttempt _ _)).trans hclear.toKeepsData, ?_, ?_⟩
  · exact congrArg StepCtl.failed hclear.stp
  · refine (congrArg RedCtl.held hclear.red).trans ?_
    exact (congrArg RedCtl.held hhalts.red).trans (congrArg RedCtl.held hstop.red :)

theorem spares_abortCounted (s : State) (wasOpen : Bool) (poll : Option Nat) :
    Spares (fun f => ∀ x ∈ countedFields, f.key ≠ x.key) s (s.abortCounted wasOpen poll) := by
  have hm : ∀ x ∈ countedFields, Misses (fun f => ∀ x ∈ countedFields, f.key ≠ x.key) x := fun x hx f hf => hf x hx
  have hs := ((Spares.set (hm F.STEP_STATUS_ATTEMPT (by simp [countedFields])) s (poll.getD (s.g F.STEP_STATUS_ATTEMPT + 1))).trans
    (.set (hm F.STEP_STATUS_ABORT_PENDING (by simp [countedFields])) _ 0))
  exact (Spares.ite (hs.trans (.set (hm _ (by simp [countedFields])) _ _)) hs).trans (.set (hm _ (by simp [countedFields])) _ _)

theorem g_abortCounted (s : State) (wasOpen : Bool) (poll : Option Nat) :
    let u := s.abortCounted wasOpen poll
    u.stepState = (if wasOpen then stCLOSED else s.stepState)
      ∧ u.g F.STEP_STATUS_ATTEMPT = poll.getD (s.g F.STEP_STATUS_ATTEMPT + 1) % 2 ^ 8
      ∧ u.g F.STEP_STATUS_ABORT_PENDING = 0 ∧ u.g F.STEP_ABORTS_COUNT = (s.g F.STEP_ABORTS_COUNT + 1) % 2 ^ 48 := by
  cases wasOpen <;>
    simp (disch := decide) only [State.abortCounted, State.stepState, State.setAll, State.inc, State.addTo, State.g_set_ne, State.g_set_same,
      Bool.false_eq_true, reduceIte] <;>
    refine ⟨?_, rfl, rfl, rfl⟩ <;> trivial

/-- An abort boundary is its parts. -/
theorem abortBoundary_eq (s : State) (cause detail pos ring : Nat) (poll : Option Nat) :
    s.abortBoundary cause detail pos ring poll =
      (((((((s.abortRecorded cause detail pos ring poll.isSome).dropGathers (s.g F.STEP_NUMBER_NUMBER)).abortCleared s.stepOpen).abortCounted
        s.stepOpen poll).abortArmed).healBegin.refreshJobs).retryHeld State.takeDigest).armSettle :=
  rfl

theorem dropGathers_nil {s : State} (h : s.red.held = []) (n : Nat) : s.dropGathers n = s := by
  have hr : { s.red with held := [] } = s.red := by rw [← h]
  simp [State.dropGathers, h, hr]

/-- What the arming of an installation changes. -/
theorem abortArmed_only (s : State) :
    ∃ l, s.abortArmed = { s with loader := l } ∧ (l.due = true ↔ s.g F.CFG_STATUS_STATE = 5 ∨ s.loader.due = true) := by
  unfold State.abortArmed
  split
  · next h => exact ⟨_, rfl, by simp [h]⟩
  · next h => exact ⟨s.loader, rfl, by simp [h]⟩

theorem tilesSettled_congr {s u : State} (ht : u.tiles = s.tiles) (hm : u.mesh = s.mesh) : u.tilesSettled = s.tilesSettled := by
  simp [State.tilesSettled, State.tile, ht, hm]

/-- What an armed installation that may begin changes (R230). -/
theorem armSettle_cases (s : State) :
    (s.armSettle.g F.CFG_STATUS_STATE = if s.loader.due = true ∧ s.tilesSettled = true then 6 else s.g F.CFG_STATUS_STATE)
      ∧ (∀ f : Fld, f.key ≠ F.CFG_STATUS_STATE.key → s.armSettle.g f = s.g f)
      ∧ s.armSettle = { s with fld := s.armSettle.fld, loader := s.armSettle.loader } := by
  unfold State.armSettle
  split
  · next h =>
    rw [Bool.and_eq_true] at h
    exact ⟨(State.g_set_same _ _ 6).trans (if_pos h).symm, fun f hf => State.g_set_ne _ _ f 6 hf, rfl⟩
  · next h =>
    rw [Bool.and_eq_true] at h
    exact ⟨(if_neg h).symm, fun _ _ => rfl, rfl⟩

/-- The end of an abort boundary: a heal and an armed installation may begin (R230, R360). -/
def State.abortEnded (s : State) : State := ((s.abortArmed.healBegin.refreshJobs).retryHeld State.takeDigest).armSettle

theorem abortEnded_keeps (hn : s.jobs = List.range n) (hh : s.red.held = []) :
    (∀ f, Apart n f → f.key ≠ F.CFG_STATUS_STATE.key → s.abortEnded.g f = s.g f)
      ∧ s.abortEnded.g F.CFG_STATUS_STATE = (if (s.g F.CFG_STATUS_STATE = 5 ∨ s.loader.due = true) ∧ s.tilesSettled = true then 6
          else s.g F.CFG_STATUS_STATE)
      ∧ s.abortEnded.mem = s.mem ∧ s.abortEnded.images = s.images ∧ s.abortEnded.shadow = s.shadow ∧ s.abortEnded.stp = s.stp := by
  obtain ⟨l, ha, hdue⟩ := abortArmed_only s
  obtain ⟨a, hae⟩ : ∃ a : State, a = { s with loader := l } := ⟨_, rfl⟩
  rw [← hae] at ha
  have hreg (f : Fld) : a.g f = s.g f := by rw [hae]; rfl
  have hsettled : a.tilesSettled = s.tilesSettled := tilesSettled_congr (by rw [hae]) (by rw [hae])
  have hheal : Spares (Apart n) a a.healBegin := .healBegin (fun x hx =>
    misses_apart_boundary x (List.mem_append_left _ (List.mem_append_right _ hx))) a
  have hjobs : a.jobs = List.range n := by rw [hae]; exact hn
  have he := hheal.trans (.refreshJobs (misses_apart_jobState (hheal.jobs.trans hjobs)) (misses_apart_boundary _ (by decide)))
  obtain ⟨e, hee⟩ : ∃ e, e = a.healBegin.refreshJobs := ⟨_, rfl⟩
  rw [← hee] at he
  have hu : s.abortEnded = e.armSettle := by
    rw [State.abortEnded, ha, ← hee, retryHeld_nil]
    rw [he.red, hae]
    exact hh
  obtain ⟨hcfg, hother, hrest⟩ := armSettle_cases e
  rw [hu]
  refine ⟨fun f hf hc => ?_, ?_, ?_, ?_, ?_, ?_⟩
  · rw [hother f hc, he.regs f hf, hreg]
  · have hl : a.loader.due = l.due := by rw [hae]
    rw [hcfg, he.regs _ ⟨by decide, .inl (by decide)⟩, hreg, he.loader, hl, tilesSettled_congr he.tiles he.mesh, hsettled]
    simp only [hdue]
  all_goals rw [hrest]
  · exact he.mem.trans (by rw [hae])
  · exact he.images.trans (by rw [hae])
  · exact he.shadow.trans (by rw [hae])
  · exact he.stp.trans (by rw [hae])

end

/-! The whole boundary, where no flit is held. -/

/-- An abort boundary up to where the step controller moves on. -/
def State.abortWork (s : State) (cause detail pos ring : Nat) (viaPoll : Bool) : State :=
  (s.abortRecorded cause detail pos ring viaPoll).abortCleared s.stepOpen

section
variable {s : State} (hheld : s.red.held = []) (cause detail pos ring : Nat) (poll : Option Nat)
include hheld

theorem abortBoundary_of_abortWork : s.abortBoundary cause detail pos ring poll =
    ((s.abortWork cause detail pos ring poll.isSome).abortCounted s.stepOpen poll).abortEnded := by
  rw [abortBoundary_eq, dropGathers_nil]
  · rfl
  · rw [(spares_abortRecorded (n := 0) s cause detail pos ring poll.isSome).red]
    exact hheld

theorem abortWork_keeps (viaPoll : Bool) :
    let n := s.ring.jobs.length
    let w := s.abortWork cause detail pos ring viaPoll
    KeepsData (Kept n) { s with shadow := [] } w ∧ (∀ f, Apart n f → w.g f = (s.abortRecorded cause detail pos ring viaPoll).g f)
      ∧ w.stp.failed = none ∧ w.red.held = [] := by
  intro n w
  have hr := spares_abortRecorded (n := n) s cause detail pos ring viaPoll
  obtain ⟨hc, hfailed, hred⟩ := abortCleared_keeps (hr.jobs.trans rfl) s.stepOpen
  refine ⟨hr.toKeepsData.trans (hc.mono fun _ => Kept.apart), hc.regs, hfailed, ?_⟩
  exact hred.trans ((congrArg RedCtl.held hr.red).trans hheld)

/-- What the boundary adds to its work: ATTEMPT, ABORT_PENDING, STATE and the count of aborts, and an installation that begins. -/
theorem abortBoundary_keeps :
    let n := s.ring.jobs.length
    let w := s.abortWork cause detail pos ring poll.isSome
    let u := s.abortBoundary cause detail pos ring poll
    (∀ f, Apart n f → (∀ x ∈ countedFields ++ [F.CFG_STATUS_STATE], f.key ≠ x.key) → u.g f = w.g f)
      ∧ (∀ f ∈ countedFields, u.g f = (w.abortCounted s.stepOpen poll).g f)
      ∧ u.g F.CFG_STATUS_STATE = (if (w.g F.CFG_STATUS_STATE = 5 ∨ w.loader.due = true) ∧ w.tilesSettled = true then 6
          else w.g F.CFG_STATUS_STATE)
      ∧ u.mem = w.mem ∧ u.images = w.images ∧ u.shadow = w.shadow ∧ u.stp = w.stp := by
  intro n w u
  obtain ⟨hw, -, -, hwheld⟩ := abortWork_keeps hheld cause detail pos ring poll.isSome
  have ht := spares_abortCounted w s.stepOpen poll
  have hjobs : (w.abortCounted s.stepOpen poll).jobs = List.range n := ht.jobs.trans (hw.jobs.trans rfl)
  obtain ⟨hregs, hcfg, hmem, himages, hshadow, hstp⟩ := abortEnded_keeps hjobs (by rw [ht.red, hwheld])
  rw [← abortBoundary_of_abortWork hheld cause detail pos ring poll] at hregs hcfg hmem himages hshadow hstp
  refine ⟨fun f hf hm => ?_, fun f hf => ?_, ?_, hmem.trans ht.mem, himages.trans ht.images, hshadow.trans ht.shadow, hstp.trans ht.stp⟩
  · rw [hregs f hf (hm _ (by simp)), ht.regs f fun x hx => hm x (List.mem_append_left _ hx)]
  · have h : ∀ f ∈ countedFields, f.lo < 64 ∧ (f.off < 0x20008 ∧ f.off ≠ 0x10050) ∧ f.key ≠ F.CFG_STATUS_STATE.key := by decide
    obtain ⟨hl, ho, hk⟩ := h f hf
    exact hregs f ⟨hl, .inl ho⟩ hk
  · rw [hcfg, ht.regs _ (by decide), ht.loader, tilesSettled_congr ht.tiles ht.mesh]

end

/-- Settles O18: the decision's record and the counters are set first, the work of the attempt leaves them, and the step controller moves on
last. -/
theorem abortBoundaryLeaves : Obligations.AbortBoundaryLeaves := by
  intro s cause detail pos ring poll u hheld
  obtain ⟨hkeep, hwork, hfailed, -⟩ := abortWork_keeps hheld cause detail pos ring poll.isSome
  obtain ⟨hother, hcounted, hcfg, hmem, himages, hshadow, hstp⟩ := abortBoundary_keeps hheld cause detail pos ring poll
  obtain ⟨w, hw⟩ : ∃ w, w = s.abortWork cause detail pos ring poll.isSome := ⟨_, rfl⟩
  rw [← hw] at hkeep hwork hfailed hcounted hcfg hmem himages hshadow hstp
  rw [show s.abortBoundary cause detail pos ring poll = u from rfl] at hcounted hcfg hmem himages hshadow hstp
  obtain ⟨hstate, hattempt, hpending, haborts⟩ := g_abortCounted w s.stepOpen poll
  obtain ⟨hkind, hcause, hdetail⟩ := g_abortRecorded_decision s cause detail pos ring poll.isSome
  have hrecord (f : Fld) (hf : Apart s.ring.jobs.length f) (hm : ∀ x ∈ countedFields ++ [F.CFG_STATUS_STATE], f.key ≠ x.key) :
      u.g f = (s.abortRecorded cause detail pos ring poll.isSome).g f := (hother f hf hm).trans (hw ▸ hwork f hf)
  have hkept (f : Fld) (hf : Kept s.ring.jobs.length f) : w.g f = s.g f := hkeep.regs f hf
  have hstay (f : Fld) (hf : Kept s.ring.jobs.length f) (hm : ∀ x ∈ countedFields ++ [F.CFG_STATUS_STATE], f.key ≠ x.key) : u.g f = s.g f :=
    (hother f hf.apart hm).trans (hw ▸ hkept f hf)
  have kept {f : Fld} (h : f.lo < 64 ∧ f.off < 0x20008 ∧ f.off ∉ [0x10040, 0x10048, 0x10050]) : Kept s.ring.jobs.length f := ⟨h.1, .inl h.2⟩
  have apart {f : Fld} (h : f.lo < 64 ∧ f.off < 0x20008 ∧ f.off ≠ 0x10050) : Apart s.ring.jobs.length f := ⟨h.1, .inl h.2⟩
  clear_value u
  refine ⟨?_, hstay F.STEP_COMMITTED_NUMBER (kept (by decide)) (by decide), hstay F.STEP_NUMBER_NUMBER (kept (by decide)) (by decide),
    hstay F.STEP_VERSION_VERSION (kept (by decide)) (by decide), ?_, ?_, ?_,
    (hrecord F.STEP_DECISION_KIND (apart (by decide)) (by decide)).trans hkind,
    (hrecord F.STEP_DECISION_CAUSE (apart (by decide)) (by decide)).trans hcause,
    (hrecord F.STEP_DECISION_DETAIL (apart (by decide)) (by decide)).trans hdetail,
    hstay F.STEP_MB_COUNT_COUNT (kept (by decide)) (by decide), ?_, hshadow.trans hkeep.shadow, himages.trans hkeep.images,
    (congrArg StepCtl.failed hstp).trans hfailed, fun x => by rw [hmem, hkeep.mem], fun hj k hk => ?_⟩
  · refine (hcounted _ (by simp [countedFields])).trans (hstate.trans ?_)
    rw [State.stepState, hkept _ (kept (by decide))]
    rfl
  · exact (hcounted _ (by simp [countedFields])).trans (hattempt.trans (by rw [hkept _ (kept (by decide))]))
  · exact (hcounted _ (by simp [countedFields])).trans hpending
  · exact (hcounted _ (by simp [countedFields])).trans (haborts.trans (by rw [hkept _ (kept (by decide))]))
  · rw [hcfg, hkept _ (kept (by decide)), hkeep.loader, tilesSettled_congr hkeep.tiles hkeep.mesh]
    rfl
  · obtain ⟨⟨hs, ms⟩, ⟨ha, ma⟩, hr, mr⟩ := apart_counter hj hk
    obtain ⟨hstep, haborted⟩ := g_abortRecorded_counters hj s cause detail pos ring poll.isSome hk
    exact ⟨(hrecord _ hs ms).trans hstep, (hrecord _ ha ma).trans haborted, hstay _ hr mr⟩

end Sys2Proof.Machine
end

section
/-!
SUPPORT. A data flit that comes in order at a port (R264 to R271): what the link layer leaves, and what its row answers.
-/
namespace Sys2Proof.Machine

/-! The link layer. -/

/-- Only what leaves the device, and the ports, have changed. -/
def OnlyPorts (s u : State) : Prop := ∃ o P, u = { s with outbox := o, ports := P }

theorem OnlyPorts.refl (s : State) : OnlyPorts s s := ⟨_, _, rfl⟩

theorem OnlyPorts.trans {s t u : State} (h : OnlyPorts s t) (k : OnlyPorts t u) : OnlyPorts s u := by
  obtain ⟨o, P, rfl⟩ := h
  obtain ⟨o', P', rfl⟩ := k
  exact ⟨o', P', rfl⟩

theorem OnlyPorts.spares {s u : State} (h : OnlyPorts s u) (K : Fld → Prop) : Spares K s u := by
  obtain ⟨o, P, rfl⟩ := h
  exact .of_eq rfl fun _ _ => rfl

theorem OnlyPorts.setPort (s : State) (p : Nat) (f : Port → Port) : OnlyPorts s (s.setPort p f) := ⟨_, _, rfl⟩
theorem OnlyPorts.holdCredit (s : State) (p c : Nat) : OnlyPorts s (s.holdCredit p c) := .setPort s p _
theorem OnlyPorts.freeCredit (s : State) (p c : Nat) : OnlyPorts s (s.freeCredit p c) := .setPort s _ _
theorem OnlyPorts.emit (s : State) (o : Out) : OnlyPorts s (s.emit o) := ⟨_, s.ports, rfl⟩
theorem OnlyPorts.shine (s : State) (p : Nat) (b : List Byte) : OnlyPorts s (s.shine p b) := (OnlyPorts.setPort s p _).trans (.emit _ _)
theorem OnlyPorts.sendControl (s : State) (p : Nat) (nak : Bool) (laneOp laneMap mapAt : Nat) :
    OnlyPorts s (s.sendControl p nak laneOp laneMap mapAt) := ((OnlyPorts.setPort s p _).trans (.emit _ _)).trans (.shine _ p _)

/-- A flit that comes in its order is accepted (R271). -/
theorem arrive_inOrder {s : State} {p seq : Nat} (h : (s.port p).rxSeq = seq) :
    (s.arrive p seq).2 = true ∧ OnlyPorts s (s.arrive p seq).1 := by
  unfold State.arrive
  rw [if_pos h.symm]
  refine ⟨rfl, ?_⟩
  dsimp only
  split
  · exact (OnlyPorts.setPort s _ _).trans (.sendControl _ _ _ _ _ _)
  · exact .setPort s _ _

/-- The registers beside those of the ring ports. -/
abbrev OffLine (f : Fld) : Prop := f.lo < 64 ∧ (f.off < 0x50800 ∨ 0x50A00 ≤ f.off)

theorem misses_offLine {p : Nat} (hp : p < 4) :
    Misses OffLine (F.RING_P_FEC_CORR_COUNT p) ∧ Misses OffLine (F.RING_P_FEC_UNCORR_COUNT p) := by
  constructor <;> rintro f ⟨hl, ho⟩ <;> refine Fld.key_ne_of_off hl ?_ ?_ <;>
    simp only [F.RING_P_FEC_CORR_COUNT, F.RING_P_FEC_UNCORR_COUNT] <;> omega

section
variable {p : Nat} {rx : LineRx} {f : Flit} {s : State}

theorem spares_noteLine (hp : p < 4) (rx : LineRx) : Spares OffLine s (s.noteLine p rx) :=
  (((OnlyPorts.setPort s p _).spares _).trans (.set (misses_offLine hp).1 _ _)).trans (.set (misses_offLine hp).2 _ _)

theorem port_noteLine : (s.noteLine p rx).port p = { s.port p with rxWord := (s.port p).rxWord + 16 } := by
  simp [State.noteLine, State.port, State.setPort, State.addTo]

theorem arrive_noteLine (h : (s.port p).rxSeq = f.hdr.seq) :
    ((s.noteLine p rx).arrive p f.hdr.seq).2 = true ∧ OnlyPorts (s.noteLine p rx) ((s.noteLine p rx).arrive p f.hdr.seq).1 :=
  arrive_inOrder (by rw [port_noteLine]; exact h)

/-- What a data flit that comes in order leaves before anything is done with it. -/
theorem spares_dataTaken (hp : p < 4) (h : (s.port p).rxSeq = f.hdr.seq) : Spares OffLine s (s.dataTaken p rx f) := by
  have ha := (arrive_noteLine (rx := rx) h).2.trans (.holdCredit _ p f.hdr.channel)
  exact (spares_noteLine hp rx).trans (ha.spares _)

end

/-! What the rules about a flit read. -/

section
variable {K : Fld → Prop} {s u : State}

theorem KeepsData.ringState (h : KeepsData OffLine s u) (r : Nat) : u.ringState r = s.ringState r := by
  unfold State.ringState ringStateF
  split <;> exact h.regs _ (by decide)

theorem KeepsData.ringEpoch (h : KeepsData OffLine s u) (r : Nat) : u.ringEpoch r = s.ringEpoch r := by
  unfold State.ringEpoch ringEpochF
  split <;> exact h.regs _ (by decide)

theorem KeepsData.ringSize (h : KeepsData OffLine s u) (r : Nat) : u.ringSize r = s.ringSize r := by
  unfold State.ringSize ringSizeF
  rw [h.ringState]
  split
  · rfl
  · split <;> exact h.regs _ (by decide)

theorem KeepsData.coord (h : KeepsData OffLine s u) (r : Nat) : u.coord r = s.coord r := by
  unfold State.coord
  rw [h.ringState, h.regs F.RED_COORD_A (by decide), h.regs F.RED_COORD_B (by decide)]

theorem KeepsData.way (h : KeepsData OffLine s u) (dim r seg : Nat) : u.way dim r seg = s.way dim r seg := by
  simp only [State.way, h.ringSize, h.coord]

theorem KeepsData.gatherLenOf (h : KeepsData K s u) (g : Nat) : u.gatherLenOf g = s.gatherLenOf g := by
  have hp : u.progOf = s.progOf := funext fun q => by rw [State.progOf, h.plan]; rfl
  have hf : u.wcForm = s.wcForm := funext fun i => funext fun q => by rw [State.wcForm, hp, State.numOf, h.plan]; rfl
  rw [State.gatherLenOf, State.group, hf, h.ring]
  rfl

theorem KeepsData.groupOf (h : KeepsData K s u) (seg : Nat) : u.groupOf seg = s.groupOf seg := by
  have hj : u.job = s.job := funext h.job
  simp only [State.groupOf, State.jobOf, hj, h.ring]

/-- R313 reads the plan, and the rings' sizes, states and coordinates. -/
theorem KeepsData.placeOk (h : KeepsData OffLine s u) (p : Nat) (f : Flit) (b : Job) : u.placeOk p f b = s.placeOk p f b := by
  have hg : u.gatherLenOf = s.gatherLenOf := funext h.gatherLenOf
  simp only [State.placeOk, State.ownsPhase, h.ringSize, h.way, h.coord, h.groupOf, hg]

theorem KeepsData.stepState (h : KeepsData OffLine s u) : u.stepState = s.stepState := h.regs _ (by decide)
theorem KeepsData.stepOpen (h : KeepsData OffLine s u) : u.stepOpen = s.stepOpen := by rw [State.stepOpen, h.stepState]; rfl
theorem KeepsData.replaying (h : KeepsData OffLine s u) : u.replaying = s.replaying := by
  rw [State.replaying, h.regs F.DBG_REPLAY_STATUS_STATE (by decide)]
  rfl

theorem KeepsData.workStep (h : KeepsData OffLine s u) : u.workStep = s.workStep := by
  rw [State.workStep, h.replaying, h.regs F.STEP_COMMITTED_NUMBER (by decide), h.regs F.STEP_NUMBER_NUMBER (by decide)]
  rfl

theorem KeepsData.workAttempt (h : KeepsData OffLine s u) : u.workAttempt = s.workAttempt := by
  rw [State.workAttempt, h.replaying, h.regs F.STEP_DECISION_ATTEMPT (by decide), h.regs F.STEP_STATUS_ATTEMPT (by decide)]
  rfl

theorem KeepsData.tilesRun (h : KeepsData OffLine s u) : u.tilesRun = s.tilesRun := by
  rw [State.tilesRun, h.stepOpen, h.regs F.DBG_REPLAY_STATUS_STATE (by decide)]
  rfl

/-- Where a flit's step and attempt place it is read off the step controller, the replay and the update units. -/
theorem KeepsData.gate (h : KeepsData OffLine s u) (x : Header) : u.gate x = s.gate x := by
  unfold State.gate State.on
  rw [h.workStep, h.workAttempt, h.stepState, h.stepOpen, h.tilesRun, h.regs F.STEP_NUMBER_NUMBER (by decide),
    h.regs F.DBG_REPLAY_STATUS_STATE (by decide), h.regs F.STEP_STATUS_ATTEMPT (by decide), h.regs F.UPD_STATUS_HEALING (by decide)]

end

/-! The row. -/

/-- The row of a data flit on its way out, by its kind (R323, R328, R357). -/
def dataRow (p : Nat) (rx : LineRx) (f : Flit) : Instr :=
  if isSum f.hdr.kind then .reduceFlit p false rx else if isGather f.hdr.kind then .gatherFlit p false rx
  else if f.hdr.kind = .digest then .digestFlit p false rx else .skipNotice p false rx

/-- That row is the one of a set of kinds that the flit's is in. -/
theorem exec_dataRow_eq (p : Nat) (rx : LineRx) (f : Flit) (s : State) :
    ∃ kinds : FlitKind → Bool, kinds f.hdr.kind = true ∧ exec (dataRow p rx f) s = flitRow kinds p false rx s := by
  unfold dataRow
  split
  · next h => exact ⟨isSum, h, rfl⟩
  · next hs =>
    split
    · next h => exact ⟨isGather, h, rfl⟩
    · next hg =>
      split
      · next h => exact ⟨(· == .digest), by simp [h], rfl⟩
      · next hd =>
        refine ⟨(· == .skip), ?_, rfl⟩
        cases hk : f.hdr.kind with
        | slice => exact absurd (by simp [hk, isSum]) hs
        | gather => exact absurd (by simp [hk, isGather]) hg
        | round r sum => cases sum <;> simp_all [isSum, isGather]
        | digest => exact absurd hk hd
        | skip => rfl

/-- A flit that comes in order, outside a freeze and in its ring's epoch, comes to the reduction engine (R271, R285, R289). -/
theorem dataFlit_inOrder {p : Nat} {rx : LineRx} {l : List Byte} {f : Flit} {s : State}
    (h : DataComes p rx l f { s with red := { s.red with held := [] } }) (digest : Nat → Flit → State → State) :
    (s.noteLine p rx).dataFlit digest p false f = (s.dataTaken p rx f).takeFlit digest p f := by
  have hd := (spares_dataTaken (rx := rx) h.port (s := s) (f := f) h.order).toKeepsData
  have hin : (s.noteLine p rx).arrive p f.hdr.seq = (((s.noteLine p rx).arrive p f.hdr.seq).1, true) :=
    Prod.ext rfl (arrive_noteLine (s := s) h.order).1
  have hrun : (s.dataTaken p rx f).frozen = false := by
    rw [State.frozen, hd.regs F.DBG_FREEZE_CTRL_STATE (by decide)]
    exact h.running
  have hpass : s.ringState (portRing p) ≠ ringRECOVERING := h.passing
  have hepoch : f.hdr.epoch = s.ringEpoch (portRing p) := h.epoch
  unfold State.dataFlit
  rw [hin]
  show (if (s.dataTaken p rx f).frozen then _ else (s.dataTaken p rx f).enterFlit digest p false f) = _
  rw [if_neg (by simp [hrun]), State.enterFlit, if_neg (by simp [hd.ringEpoch, hepoch]), if_neg (by rw [hd.ringState]; exact hpass)]
  rfl

/-- A flit whose channel may have flits held: its row gives it to the reduction engine behind the link layer. -/
theorem exec_dataRow {p : Nat} {rx : LineRx} {l : List Byte} {f : Flit} {s : State}
    (h : DataComes p rx l f { s with red := { s.red with held := [] } }) :
    exec (dataRow p rx f) s = .next (((s.dataTaken p rx f).takeFlit State.takeDigest p f).settle.orWait s) := by
  obtain ⟨kinds, hk, he⟩ := exec_dataRow_eq p rx f s
  have hheard : s.heard p rx = some l := h.heard
  have hc : (s.powered && decide (p < 4) && s.lineUp p
      && (s.heard p rx).all fun b => (headerOf b).type == 0 && kinds (headerOf b).kind) = true := by
    have hp : s.powered = true := h.powered
    have hu : s.lineUp p = true := h.up
    have hf : f.hdr = headerOf l := congrArg Flit.hdr h.flit
    have ht : f.hdr.type = 0 := hf ▸ h.type
    simp [hp, hu, hheard, h.port, ht, ← hf, hk]
  rw [he, flitRow, lineRow, act, doIf, if_pos hc]
  simp only [hheard, ← h.flit]
  rw [dataFlit_inOrder h]

end Sys2Proof.Machine
end

section
/-!
SUPPORT. What a failure recorded against the attempt leaves (R249, R512), and what the halt of a job leaves (R319).
-/
namespace Sys2Proof.Machine

/-! Frames that leave. -/

theorem OnlyPorts.ite {s t u : State} {p : Prop} [Decidable p] (ht : OnlyPorts s t) (hu : OnlyPorts s u) :
    OnlyPorts s (if p then t else u) := by
  split
  · exact ht
  · exact hu

theorem OnlyPorts.sendItem (s : State) (p q : Nat) (i : PortItem) : OnlyPorts s (s.sendItem p q i) := (OnlyPorts.emit s _).trans (.shine _ p _)

/-- A frame counts no event where it leaves. -/
theorem OnlyPorts.portSend_step (s : State) (p : Nat) (f : StepFrame) : OnlyPorts s (s.portSend p (.step f)) :=
  .ite ((OnlyPorts.setPort s p _).trans (.sendItem _ p _ _)) (.setPort s p _)

theorem OnlyPorts.sendOn (s : State) (ring : Nat) (f : StepFrame) : OnlyPorts s (s.sendOn ring f) :=
  .ite ((OnlyPorts.portSend_step s _ _).trans (.portSend_step _ _ _)) (.refl s)

theorem OnlyPorts.sendAll (s : State) (f : StepFrame) : OnlyPorts s (s.sendAll f) := by
  have hb : OnlyPorts s (s.sendBoth 0 f) := .ite ((OnlyPorts.sendOn s 0 _).trans (.sendOn _ _ _)) (.sendOn s 0 _)
  exact .ite (.refl s) hb

theorem OnlyPorts.dropJob (s : State) (j : Nat) : OnlyPorts s (s.dropJob j) := by
  unfold State.dropJob
  generalize List.range 4 = l
  induction l generalizing s with
  | nil => exact .refl s
  | cons p l ih => exact (OnlyPorts.setPort s p _).trans (ih _)

/-! A failure. -/

/-- The registers that a failure leaves: all but those of the step's and the replay's status. -/
abbrev OffStatus (f : Fld) : Prop := f.lo < 64 ∧ f.off ∉ [0x10000, 0xB0208]

/-- What tells a device that it is the step anchor, and whether frames flow (R248). -/
def anchorFields : List Fld := [F.RING_STATUS_A_STATE, F.RING_TIME_STATUS_MASTER, F.RING_A_ANCHOR_SERIAL, F.RING_SERIAL_SERIAL]

theorem KeepsData.anchor {K : Fld → Prop} {s u : State} (h : KeepsData K s u) (hk : ∀ f ∈ anchorFields, K f) :
    u.isAnchor = s.isAnchor ∧ u.framesFlow = s.framesFlow := by
  have hg (f) (hf : f ∈ anchorFields) : u.g f = s.g f := h.regs f (hk f hf)
  have hr : u.ringState 0 = s.ringState 0 := hg _ (by decide)
  constructor
  · rw [State.isAnchor, hr, State.torus, h.plan, State.on, hg F.RING_TIME_STATUS_MASTER (by decide), hg F.RING_A_ANCHOR_SERIAL (by decide),
      State.serial, hg F.RING_SERIAL_SERIAL (by decide)]
    rfl
  · rw [State.framesFlow, State.ringUp, hr]
    rfl

section
variable (s : State) (code detail : Nat)

/-- A FAIL as it leaves, before the anchor notes it. -/
def State.failSent : State := (s.set F.STEP_STATUS_STATE stFAIL).sendAll (s.failFrame code detail)

theorem sendFail_eq : s.sendFail code detail =
    if s.framesFlow then
      (if (s.failSent code detail).isAnchor then
        { s.failSent code detail with stp := { (s.failSent code detail).stp with due := some (code, detail, (s.failSent code detail).ringPos 0, 0) } }
      else s.failSent code detail)
    else s := by
  unfold State.sendFail
  cases s.framesFlow <;> rfl

theorem spares_failSent : Spares OffStatus s (s.failSent code detail) := by
  refine (Spares.set ?_ s stFAIL).trans ((OnlyPorts.sendAll _ _).spares _)
  rintro f ⟨hl, ho⟩
  exact Fld.key_ne_of_off hl (by decide) fun e => ho (e ▸ by decide)

theorem stepState_failSent : (s.failSent code detail).stepState = stFAIL :=
  (((OnlyPorts.sendAll (s.set F.STEP_STATUS_STATE stFAIL) (s.failFrame code detail)).spares fun _ => True).regs _ trivial).trans
    (State.g_set_same s F.STEP_STATUS_STATE stFAIL)

theorem sendFail_keeps : KeepsData OffStatus s (s.sendFail code detail) ∧ (s.sendFail code detail).red = s.red := by
  have h := spares_failSent s code detail
  rw [sendFail_eq]
  constructor
  · exact .ite (.ite (h.toKeepsData.trans (.withStp _ _ _)) h.toKeepsData) (.refl _ s)
  · split
    · split <;> exact h.red
    · rfl

theorem sendFail_due (ha : s.isAnchor = false) : (s.sendFail code detail).stp.due = s.stp.due := by
  have h := spares_failSent s code detail
  have hn : (s.failSent code detail).isAnchor = false := (h.anchor (by decide)).1.trans ha
  rw [sendFail_eq, hn]
  split
  · exact congrArg StepCtl.due h.stp
  · rfl

theorem stepState_sendFail (hf : s.framesFlow = true) : (s.sendFail code detail).stepState = stFAIL := by
  rw [sendFail_eq, if_pos hf]
  split <;> exact stepState_failSent s code detail

/-- Whatever a failure does, it leaves the data, the work of the reduction and the registers beside the two statuses. -/
theorem recordFail_keeps : KeepsData OffStatus s (s.recordFail code detail) ∧ (s.recordFail code detail).red = s.red := by
  have hset : Misses OffStatus F.DBG_REPLAY_STATUS_INCOMPLETE := by
    rintro f ⟨hl, ho⟩
    exact Fld.key_ne_of_off hl (by decide) fun e => ho (e ▸ by decide)
  unfold State.recordFail
  split
  · exact ⟨(Spares.set hset s 1).toKeepsData, rfl⟩
  · split
    · exact ⟨.refl _ s, rfl⟩
    · dsimp only
      split
      · obtain ⟨hk, hr⟩ := sendFail_keeps { s with stp := { s.stp with failed := s.stp.failed <|> some (code, detail) } } code detail
        exact ⟨(KeepsData.withStp _ s _).trans hk, hr⟩
      · exact ⟨.withStp _ s _, rfl⟩

/-- A failure decides nothing but at the anchor of an OPEN attempt (R249, R250). -/
theorem recordFail_due (h : NoDecision s) : (s.recordFail code detail).stp.due = s.stp.due := by
  unfold State.recordFail
  split
  · rfl
  · next hr =>
    split
    · rfl
    · dsimp only
      split
      · next ho =>
        have ha : s.isAnchor = false := by
          rcases h with h | h | h
          · exact h
          · exact absurd h hr
          · exact absurd ho h
        exact sendFail_due { s with stp := { s.stp with failed := s.stp.failed <|> some (code, detail) } } code detail ha
      · rfl

/-- FAIL goes out for an OPEN attempt (R249). -/
theorem stepState_recordFail (hr : s.replaying = false) (ho : s.stepState = stOPEN) (hf : s.framesFlow = true) :
    (s.recordFail code detail).stepState = stFAIL := by
  have hop : s.stepOpen = true := by rw [State.stepOpen, ho]; rfl
  unfold State.recordFail
  rw [if_neg (by simp [hr]), if_neg (by simp [hop])]
  exact (if_pos ho).symm ▸ stepState_sendFail { s with stp := { s.stp with failed := s.stp.failed <|> some (code, detail) } } code detail hf

end

/-! A halted job (R319, R332). -/

/-- The registers that a record in the log of the reduction leaves. -/
abbrev OffLog (f : Fld) : Prop := f.lo < 64 ∧ f.off ∉ [0x60020, 0xA0210, 0x40010]

/-- The registers that it may change. -/
def logFields : List Fld :=
  [F.RED_ERROR_VALID, F.RED_ERROR_OVERFLOW, F.RED_ERROR_CODE, F.RED_ERROR_PORT, F.RED_ERROR_JOB, F.NVS_HIST_DROPPED_COUNT, F.HIF_IRQ_CAUSE_CAUSE]

theorem misses_offLog : ∀ x ∈ logFields, Misses OffLog x := by
  have h : ∀ x ∈ logFields, x.lo < 64 ∧ x.off ∈ [0x60020, 0xA0210, 0x40010] := by decide
  rintro x hx f ⟨hl, ho⟩
  exact Fld.key_ne_of_off hl (h x hx).1 fun e => ho (e ▸ (h x hx).2)

section
variable (s : State) (code port job : Nat)

/-- What the log latches. -/
def redRecord : List (Fld × Nat) := [(F.RED_ERROR_CODE, code), (F.RED_ERROR_PORT, port), (F.RED_ERROR_JOB, job)]

theorem spares_logRed_latch {K : Fld → Prop} (hn : Misses K F.NVS_HIST_DROPPED_COUNT) (hi : Misses K F.HIF_IRQ_CAUSE_CAUSE) :
    Spares K (s.latch F.RED_ERROR_VALID F.RED_ERROR_OVERFLOW (redRecord code port job)) (s.logRed code port job) :=
  (Spares.report hn _ _ _ _).trans (.raise hi _ _)

theorem spares_logRed : Spares OffLog s (s.logRed code port job) :=
  (Spares.latch (misses_offLog _ (by decide)) (misses_offLog _ (by decide))
    (by simpa [redRecord] using ⟨misses_offLog _ (by decide), misses_offLog _ (by decide), misses_offLog _ (by decide)⟩) s).trans
    (spares_logRed_latch s code port job (misses_offLog _ (by decide)) (misses_offLog _ (by decide)))

/-- The first error since VALID was cleared latches (R332). -/
theorem g_logRed (h : s.g F.RED_ERROR_VALID = 0) :
    let u := s.logRed code port job
    u.g F.RED_ERROR_VALID = 1 ∧ u.g F.RED_ERROR_CODE = code % 2 ^ 16 ∧ u.g F.RED_ERROR_PORT = port % 2 ^ 2
      ∧ u.g F.RED_ERROR_JOB = job % 2 ^ 12 := by
  have hl := spares_logRed_latch (K := fun f => f.key ≠ F.NVS_HIST_DROPPED_COUNT.key ∧ f.key ≠ F.HIF_IRQ_CAUSE_CAUSE.key) s code port job
    (fun _ hf => hf.1) (fun _ hf => hf.2)
  have he : s.latch F.RED_ERROR_VALID F.RED_ERROR_OVERFLOW (redRecord code port job) =
      s.setAll ((F.RED_ERROR_VALID, 1) :: redRecord code port job) := by
    rw [State.latch, if_neg (by simp [State.on, h])]
    rfl
  have hd : (((F.RED_ERROR_VALID, 1) :: redRecord code port job).map fun e => e.1.key).Nodup := by
    simp only [redRecord, List.map_cons, List.map_nil]
    decide
  have hg (f : Fld) (v : Nat) (hm : (f, v) ∈ (F.RED_ERROR_VALID, 1) :: redRecord code port job)
      (hk : f.key ≠ F.NVS_HIST_DROPPED_COUNT.key ∧ f.key ≠ F.HIF_IRQ_CAUSE_CAUSE.key) : (s.logRed code port job).g f = lowBits f.w v := by
    rw [hl.regs f hk, he]
    exact g_setAll_of_mem hd hm s
  exact ⟨hg F.RED_ERROR_VALID 1 (by simp) (by decide), hg F.RED_ERROR_CODE code (by simp [redRecord]) (by decide),
    hg F.RED_ERROR_PORT port (by simp [redRecord]) (by decide), hg F.RED_ERROR_JOB job (by simp [redRecord]) (by decide)⟩

end

end Sys2Proof.Machine
end

section
/-!
What becomes of a data flit before its kind matters (R24, R309, R313, R318, R319): the halt of a job, and the obligation.
-/
namespace Sys2Proof.Machine

/-! Jobs that stay halted. -/

theorem jobState_keys_ne {i j : Nat} (h : i ≠ j) : (F.RED_JOB_STATUS_STATE j).key ≠ (F.RED_JOB_STATUS_STATE i).key := by
  simp only [Fld.key, F.RED_JOB_STATUS_STATE, Dom.code]
  omega

/-- A job that is halted is not brought up to date (R319, R329). -/
theorem jobState_refreshJob {s : State} {j : Nat} (h : s.jobState j = jobHALTED) (i : Nat) : (s.refreshJob i).jobState j = jobHALTED := by
  by_cases hi : i = j
  · subst hi
    unfold State.refreshJob
    split
    · exact h
    · rw [if_pos (by simp [State.halted, h])]
      exact h
  · have hm : Misses (· = F.RED_JOB_STATUS_STATE j) (F.RED_JOB_STATUS_STATE i) := by
      rintro f rfl
      exact jobState_keys_ne hi
    exact ((Spares.refreshJob hm s).regs _ rfl).trans h

theorem jobState_refreshJobs {s : State} {j : Nat} (h : s.jobState j = jobHALTED) : s.refreshJobs.jobState j = jobHALTED := by
  have hfold (l : List Nat) : ∀ s : State, s.jobState j = jobHALTED → (l.foldl State.refreshJob s).jobState j = jobHALTED := by
    induction l with
    | nil => exact fun _ h => h
    | cons i l ih => exact fun s h => ih _ (jobState_refreshJob h i)
  refine (State.g_set_ne _ _ _ _ ?_).trans (hfold s.jobs s h)
  simp only [Fld.key, F.RED_JOB_STATUS_STATE, F.RED_STATUS_REDUCED_JOBS, Dom.code]
  omega

/-! The halt of a job. -/

/-- A job stopped: none of its flits leaves, and the status shows it (R319). -/
def State.jobStopped (s : State) (j : Nat) : State :=
  (((s.dropJob j).set (F.RED_JOB_STATUS_STATE j) jobHALTED).set F.RED_STATUS_HALTED 1).refreshJobs

/-- The registers that this leaves: all but those of the reduction's status and of its jobs. -/
abbrev OffJobs (f : Fld) : Prop := f.lo < 64 ∧ f.off ≠ 0x60000 ∧ (f.off < 0x68000 ∨ 0x70000 ≤ f.off)

theorem misses_offJobs {x : Fld} (h : x.lo < 64 ∧ (x.off = 0x60000 ∨ 0x68000 ≤ x.off ∧ x.off < 0x70000)) : Misses OffJobs x := by
  rintro f ⟨hl, ho, hr⟩
  exact Fld.key_ne_of_off hl h.1 (by omega)

section
variable {s : State} {j : Nat}

theorem misses_offJobs_jobState (h : j < 4096) : Misses OffJobs (F.RED_JOB_STATUS_STATE j) := misses_offJobs (by
  simp only [F.RED_JOB_STATUS_STATE]
  omega)

theorem spares_jobStopped (hj : j < s.ring.jobs.length) (hn : s.ring.jobs.length ≤ 4096) : Spares OffJobs s (s.jobStopped j) := by
  have hm {i : Nat} (hi : i < s.ring.jobs.length) : Misses OffJobs (F.RED_JOB_STATUS_STATE i) := misses_offJobs_jobState (by omega)
  have h := (((OnlyPorts.dropJob s j).spares OffJobs).trans (.set (hm hj) _ jobHALTED)).trans
    (.set (misses_offJobs (x := F.RED_STATUS_HALTED) (by decide)) _ 1)
  refine h.trans (.refreshJobs (fun i hi => ?_) (misses_offJobs (by decide)))
  rw [h.jobs] at hi
  exact hm (List.mem_range.1 hi)

theorem g_jobStopped (s : State) (j : Nat) :
    (s.jobStopped j).g (F.RED_JOB_STATUS_STATE j) = jobHALTED ∧ (s.jobStopped j).g F.RED_STATUS_HALTED = 1 := by
  have hne : (F.RED_JOB_STATUS_STATE j).key ≠ F.RED_STATUS_HALTED.key := by
    simp only [Fld.key, F.RED_JOB_STATUS_STATE, F.RED_STATUS_HALTED, Dom.code]
    omega
  have hm (i : Nat) : Misses (· = F.RED_STATUS_HALTED) (F.RED_JOB_STATUS_STATE i) := by
    rintro f rfl
    simp only [Fld.key, F.RED_JOB_STATUS_STATE, F.RED_STATUS_HALTED, Dom.code]
    omega
  constructor
  · exact jobState_refreshJobs ((State.g_set_ne _ _ _ 1 hne).trans (State.g_set_same _ (F.RED_JOB_STATUS_STATE j) jobHALTED))
  · refine ((Spares.refreshJobs (fun i _ => hm i) ?_).regs _ rfl).trans (State.g_set_same _ F.RED_STATUS_HALTED 1)
    rintro f rfl
    decide

end

/-- A fault of the reduction: against the attempt, or against the next one. -/
theorem redFault_keeps (s : State) (code : Nat) :
    KeepsData OffStatus s (s.redFault code) ∧ (s.redFault code).red.digestLatched = s.red.digestLatched := by
  unfold State.redFault
  split
  · obtain ⟨hk, hr⟩ := recordFail_keeps s code 0xFFFF
    exact ⟨hk, by rw [hr]⟩
  · exact ⟨.withRed _ s _, rfl⟩

theorem redFault_due {s : State} (h : NoDecision s) (code : Nat) : (s.redFault code).stp.due = s.stp.due := by
  unfold State.redFault
  split
  · exact recordFail_due s code 0xFFFF h
  · rfl

theorem stepState_redFault {s : State} (hr : s.replaying = false) (ho : s.stepState = stOPEN) (hf : s.framesFlow = true) (code : Nat) :
    (s.redFault code).stepState = stFAIL := by
  have hop : s.stepOpen = true := by rw [State.stepOpen, ho]; rfl
  unfold State.redFault
  rw [if_pos (by simp [hop])]
  exact stepState_recordFail s code 0xFFFF hr ho hf

/-- Job `j` halts between `s` and `u` with a code met at port `p` (R319, R332): the job's state, the error record, the attempt failed, and
memory as it was. -/
structure HaltsJob (s : State) (j p code : Nat) (u : State) : Prop where
  state : u.g (F.RED_JOB_STATUS_STATE j) = jobHALTED
  status : u.g F.RED_STATUS_HALTED = 1
  record : s.g F.RED_ERROR_VALID = 0 → u.g F.RED_ERROR_VALID = 1 ∧ u.g F.RED_ERROR_CODE = code ∧ u.g F.RED_ERROR_PORT = p
    ∧ u.g F.RED_ERROR_JOB = j % 2 ^ 12
  fails : s.replaying = false → s.stepState = stOPEN → s.framesFlow = true → u.stepState = stFAIL
  mem : SameMem s u

/-- The registers that a halt goes by. -/
def haltReads : List Fld := [F.RED_ERROR_VALID, F.DBG_REPLAY_STATUS_STATE, F.STEP_STATUS_STATE] ++ anchorFields

section
variable {K : Fld → Prop} {s t u v : State} {j p code : Nat} {b : Job}

/-- Where a failure stands is read off those registers. -/
theorem KeepsData.failure (h : KeepsData K s t) (hk : ∀ f ∈ [F.DBG_REPLAY_STATUS_STATE, F.STEP_STATUS_STATE] ++ anchorFields, K f) :
    t.replaying = s.replaying ∧ t.stepState = s.stepState ∧ t.framesFlow = s.framesFlow ∧ (NoDecision s → NoDecision t) := by
  have hr : t.replaying = s.replaying := by
    rw [State.replaying, h.regs _ (hk F.DBG_REPLAY_STATUS_STATE (by decide))]
    rfl
  have ho : t.stepState = s.stepState := h.regs _ (hk F.STEP_STATUS_STATE (by decide))
  obtain ⟨ha, hf⟩ := h.anchor fun f hm => hk f (List.mem_append_right _ hm)
  exact ⟨hr, ho, hf, fun hd => by rwa [NoDecision, hr, ho, ha]⟩

theorem HaltsJob.of (h : KeepsData K s t) (hk : ∀ f ∈ haltReads, K f) (hh : HaltsJob t j p code u) : HaltsJob s j p code u := by
  obtain ⟨hr, ho, hf, -⟩ := h.failure fun f hm => hk f (List.mem_cons_of_mem _ hm)
  have hv := h.regs _ (hk F.RED_ERROR_VALID (by decide))
  exact ⟨hh.state, hh.status, fun e => hh.record (hv.trans e), fun e1 e2 e3 => hh.fails (hr.trans e1) (ho.trans e2) (hf.trans e3),
    fun x => (hh.mem x).trans (by rw [h.mem])⟩

theorem HaltsJob.onlyPorts (hh : HaltsJob s j p code u) (h : OnlyPorts u v) : HaltsJob s j p code v := by
  have hs := h.spares fun _ => True
  have hg (f : Fld) : v.g f = u.g f := hs.regs f trivial
  refine ⟨(hg _).trans hh.state, (hg _).trans hh.status, fun e => ?_, fun e1 e2 e3 => (hg _).trans (hh.fails e1 e2 e3), fun x => ?_⟩
  · simp only [hg]
    exact hh.record e
  · rw [hs.mem]
    exact hh.mem x

theorem haltJob_eq (hb : s.job j = some b) (port code : Nat) :
    s.haltJob j port code = ((s.jobStopped j).logRed code port j).redFault code := by
  rw [State.haltJob, hb]
  rfl

theorem lt_of_job (hb : s.job j = some b) : j < s.ring.jobs.length := (List.getElem?_eq_some_iff.1 hb).1

/-- The halt of a job of the plan. -/
theorem haltJob_halts (hb : s.job j = some b) (hn : s.ring.jobs.length ≤ 4096) (hp : p < 4) (hc : code < 2 ^ 16) :
    HaltsJob s j p code (s.haltJob j p code) := by
  have hstop := spares_jobStopped (lt_of_job hb) hn
  obtain ⟨hstate, hstatus⟩ := g_jobStopped s j
  have hlog := spares_logRed (s.jobStopped j) code p j
  obtain ⟨hr, ho, hf, -⟩ := hstop.failure (by decide)
  obtain ⟨hr', ho', hf', -⟩ := hlog.failure (by decide)
  obtain ⟨hfault, -⟩ := redFault_keeps ((s.jobStopped j).logRed code p j) code
  have hjob : OffLog (F.RED_JOB_STATUS_STATE j) ∧ OffStatus (F.RED_JOB_STATUS_STATE j) := by
    have := lt_of_job hb
    simp only [F.RED_JOB_STATUS_STATE, OffLog, OffStatus, List.mem_cons, List.not_mem_nil, or_false]
    omega
  rw [haltJob_eq hb]
  refine ⟨?_, ?_, fun e => ?_, fun e1 e2 e3 => ?_, fun x => ?_⟩
  · rw [hfault.regs _ hjob.2, hlog.regs _ hjob.1, hstate]
  · rw [hfault.regs _ (by decide), hlog.regs _ (by decide), hstatus]
  · obtain ⟨h1, h2, h3, h4⟩ := g_logRed (s.jobStopped j) code p j ((hstop.regs _ (by decide)).trans e)
    rw [hfault.regs F.RED_ERROR_VALID (by decide), hfault.regs F.RED_ERROR_CODE (by decide), hfault.regs F.RED_ERROR_PORT (by decide),
      hfault.regs F.RED_ERROR_JOB (by decide)]
    exact ⟨h1, h2.trans (Nat.mod_eq_of_lt hc), h3.trans (Nat.mod_eq_of_lt hp), h4⟩
  · exact stepState_redFault (hr'.trans (hr.trans e1)) (ho'.trans (ho.trans e2)) (hf'.trans (hf.trans e3)) code
  · rw [hfault.mem, hlog.mem, hstop.mem]

/-- What the halt leaves of the answer's form, and of the latched digest. -/
theorem haltJob_keeps (hb : s.job j = some b) (hn : s.ring.jobs.length ≤ 4096) (p code : Nat) :
    let u := s.haltJob j p code
    (NoDecision s → u.stp.due = s.stp.due) ∧ u.waits = s.waits ∧ u.red.digestLatched = s.red.digestLatched
      ∧ u.g F.RED_MISMATCH_DIGEST_DIGEST64 = s.g F.RED_MISMATCH_DIGEST_DIGEST64 := by
  have hstop := spares_jobStopped (lt_of_job hb) hn
  have hlog := spares_logRed (s.jobStopped j) code p j
  obtain ⟨-, -, -, hd⟩ := hstop.failure (by decide)
  obtain ⟨-, -, -, hd'⟩ := hlog.failure (by decide)
  obtain ⟨hfault, hred⟩ := redFault_keeps ((s.jobStopped j).logRed code p j) code
  rw [haltJob_eq hb]
  refine ⟨fun h => ?_, ?_, ?_, ?_⟩
  · rw [redFault_due (hd' (hd h)), hlog.stp, hstop.stp]
  · rw [hfault.waits, hlog.waits, hstop.waits]
  · rw [hred, hlog.red, hstop.red]
  · rw [hfault.regs _ (by decide), hlog.regs _ (by decide), hstop.regs _ (by decide)]

end

/-! The judgement. -/

section
variable {p : Nat} {rx : LineRx} {l : List Byte} {f : Flit} {b : Job} {s : State}

theorem dataComes_noneHeld (h : DataComes p rx l f s) : DataComes p rx l f { s with red := { s.red with held := [] } } :=
  { h with first := rfl }

/-- The answer of a data flit's row, where what is done with the flit leaves nothing to decide and marks no access. -/
theorem exec_dataRow_next (h : DataComes p rx l f { s with red := { s.red with held := [] } }) {u : State}
    (hu : (s.dataTaken p rx f).takeFlit State.takeDigest p f = u) (hd : u.stp.due = none) (hw : u.waits = s.waits) :
    exec (dataRow p rx f) s = .next u := by
  rw [exec_dataRow h, hu, settle_none hd, State.orWait_same hw]

/-- A flit behind a held one of its channel waits (R268, R309). -/
theorem takeFlit_behind (h : DataComes p rx l f { s with red := { s.red with held := [] } }) (hq : s.red.held.any (sameQueue p f) = true) :
    (s.dataTaken p rx f).takeFlit State.takeDigest p f = (s.dataTaken p rx f).holdFlit p f := by
  have ht : Spares OffLine s (s.dataTaken p rx f) := spares_dataTaken h.port h.order
  rw [State.takeFlit, ht.red, if_pos hq]

/-- A flit that comes first of its channel goes where its step and attempt place it (R24, R318). -/
theorem takeFlit_first (h : DataComes p rx l f s) :
    (s.gate f.hdr = .drop →
      (s.dataTaken p rx f).takeFlit State.takeDigest p f = (s.dataTaken p rx f).freeCredit p f.hdr.channel)
    ∧ (s.gate f.hdr = .hold → (s.dataTaken p rx f).takeFlit State.takeDigest p f = (s.dataTaken p rx f).holdFlit p f)
    ∧ (s.gate f.hdr = .now →
      (s.dataTaken p rx f).takeFlit State.takeDigest p f = (s.dataTaken p rx f).deliver State.takeDigest p f) := by
  have ht : Spares OffLine s (s.dataTaken p rx f) := spares_dataTaken h.port h.order
  refine ⟨fun hg => ?_, fun hg => ?_, fun hg => ?_⟩ <;>
    simp [State.takeFlit, ht.red, h.first, ht.stepState, h.inStep, ht.gate, hg]

/-! What a delivered flit meets before its kind (R313, R319). -/

theorem deliver_mismatch {t : State} (hd : f.hdr.digest ≠ t.digest64) (digest : Nat → Flit → State → State) :
    t.deliver digest p f = (t.mismatch f.hdr.job p f.hdr.digest).freeCredit p f.hdr.channel := by
  simp [State.deliver, hd]

theorem deliver_halted {t : State} (hd : f.hdr.digest = t.digest64) (hb : t.job f.hdr.job = some b) (hh : t.halted f.hdr.job = true)
    (digest : Nat → Flit → State → State) : t.deliver digest p f = t.freeCredit p f.hdr.channel := by
  simp [State.deliver, hd, hb, hh]

theorem deliver_misplaced {t : State} (hd : f.hdr.digest = t.digest64) (hb : t.job f.hdr.job = some b) (hh : t.halted f.hdr.job = false)
    (hp : f.hdr.channel ≠ b.channel ∨ t.placeOk p f b = false) (digest : Nat → Flit → State → State) :
    t.deliver digest p f = (t.haltJob f.hdr.job p 0x0505).freeCredit p f.hdr.channel := by
  have hq : f.hdr.channel ≠ b.channel ∨ (!t.placeOk p f b) = true := by simpa using hp
  unfold State.deliver
  simp only [hb]
  rw [if_neg (by simp [hd]), if_neg (by simp [hh]), if_pos hq]

/-- What a mismatch latches before it halts the job (R319). -/
def State.mismatchLatched (s : State) (digest : Nat) : State :=
  if s.red.digestLatched then s
  else { s.set F.RED_MISMATCH_DIGEST_DIGEST64 digest with red := { s.red with digestLatched := true } }

theorem mismatch_eq (s : State) (j port digest : Nat) : s.mismatch j port digest = (s.mismatchLatched digest).haltJob j port 0x0501 := rfl

theorem mismatchLatched_keeps (s : State) (digest : Nat) :
    KeepsData (fun f => f.key ≠ F.RED_MISMATCH_DIGEST_DIGEST64.key) s (s.mismatchLatched digest) ∧ (s.mismatchLatched digest).stp = s.stp
      ∧ (s.red.digestLatched = false → (s.mismatchLatched digest).g F.RED_MISMATCH_DIGEST_DIGEST64 = digest % 2 ^ 64
        ∧ (s.mismatchLatched digest).red.digestLatched = true) := by
  unfold State.mismatchLatched
  split
  · next h => exact ⟨.refl _ s, rfl, fun hn => by simp [hn] at h⟩
  · exact ⟨(Spares.set (fun _ hf => hf) s digest).toKeepsData.trans (.withRed _ _ _), rfl, fun _ => ⟨State.g_set_same s _ digest, rfl⟩⟩

/-- The answer where the flit's job halts in a state `t` on the way that has the step controller and the marked waits of `s`. -/
theorem exec_dataRow_halts (h : DataComes p rx l f s) {t : State} {K : Fld → Prop} (ht : KeepsData K s t) (hk : ∀ x ∈ haltReads, K x)
    (hstp : t.stp = s.stp) (hb : s.job f.hdr.job = some b) (hd : NoDecision s) {code : Nat} (hc : code < 2 ^ 16)
    (hu : (s.dataTaken p rx f).takeFlit State.takeDigest p f = (t.haltJob f.hdr.job p code).freeCredit p f.hdr.channel) :
    exec (dataRow p rx f) s = .next ((t.haltJob f.hdr.job p code).freeCredit p f.hdr.channel)
      ∧ HaltsJob s f.hdr.job p code ((t.haltJob f.hdr.job p code).freeCredit p f.hdr.channel) := by
  have hbt : t.job f.hdr.job = some b := (ht.job _).trans hb
  have hn : t.ring.jobs.length ≤ 4096 := by rw [ht.ring]; exact h.jobs
  obtain ⟨-, -, -, hdt⟩ := ht.failure fun x hx => hk x (List.mem_cons_of_mem _ hx)
  obtain ⟨hdue, hwaits, -⟩ := haltJob_keeps hbt hn p code
  have hfree := OnlyPorts.freeCredit (t.haltJob f.hdr.job p code) p f.hdr.channel
  have hspares := hfree.spares fun _ => True
  refine ⟨exec_dataRow_next (dataComes_noneHeld h) hu ?_ ?_, .of ht hk ((haltJob_halts hbt hn h.port hc).onlyPorts hfree)⟩
  · rw [hspares.stp, hdue (hdt hd), hstp]
    exact h.settled
  · rw [hspares.waits, hwaits, ht.waits]

end

/-- Settles O28: behind the link layer the flit's channel, its step and attempt, its configuration and its place are looked at in this order,
and what the first of them tells is done. -/
theorem dataFlitsAreJudged : Obligations.DataFlitsAreJudged := by
  intro p rx l f b s row j halts
  have keeps (h : DataComes p rx l f { s with red := { s.red with held := [] } }) : Spares OffLine s (s.dataTaken p rx f) :=
    spares_dataTaken h.port h.order
  have settles (h : DataComes p rx l f { s with red := { s.red with held := [] } }) {u : State} (hu : Steady (s.dataTaken p rx f) u)
      (he : (s.dataTaken p rx f).takeFlit State.takeDigest p f = u) : exec row s = .next u := by
    have hs := (keeps h).steady.trans hu
    exact exec_dataRow_next h he ((congrArg StepCtl.due hs.stp).trans h.settled) hs.waits
  have free : Steady (s.dataTaken p rx f) ((s.dataTaken p rx f).freeCredit p f.hdr.channel) := ⟨rfl, rfl⟩
  have hold : Steady (s.dataTaken p rx f) ((s.dataTaken p rx f).holdFlit p f) := ⟨rfl, rfl⟩
  refine ⟨fun h hq => settles h hold (takeFlit_behind h hq), fun h => ?_⟩
  obtain ⟨hdrop, hhold, hnow⟩ := takeFlit_first h
  have hn := dataComes_noneHeld h
  have ht := keeps hn
  have hhalted : (s.dataTaken p rx f).halted f.hdr.job = s.halted f.hdr.job :=
    congrArg (· == jobHALTED) (ht.regs (F.RED_JOB_STATUS_STATE f.hdr.job) (by
      simp only [OffLine, F.RED_JOB_STATUS_STATE]
      omega))
  have hdigest : (s.dataTaken p rx f).digest64 = s.digest64 := ht.regs _ (by decide)
  refine ⟨fun hg => settles hn free (hdrop hg), fun hg => settles hn hold (hhold hg), fun hg hb hd hne => ?_,
    fun hg hb he hh => settles hn free ((hnow hg).trans (deliver_halted (he.trans hdigest.symm) ((ht.job _).trans hb) (hhalted.trans hh) _)),
    fun hg hb hd he hh hp => ?_⟩
  · obtain ⟨hm, hstp, hlatch⟩ := mismatchLatched_keeps (s.dataTaken p rx f) f.hdr.digest
    have hk : KeepsData (fun x => OffLine x ∧ x.key ≠ F.RED_MISMATCH_DIGEST_DIGEST64.key) s ((s.dataTaken p rx f).mismatchLatched f.hdr.digest) :=
      (ht.toKeepsData.mono fun _ hx => hx.1).trans (hm.mono fun _ hx => hx.2)
    have hu := (hnow hg).trans (deliver_mismatch (hdigest ▸ hne) _)
    rw [mismatch_eq] at hu
    obtain ⟨he, hh⟩ := exec_dataRow_halts h hk (show ∀ x ∈ haltReads, OffLine x ∧ x.key ≠ F.RED_MISMATCH_DIGEST_DIGEST64.key by decide)
      (hstp.trans ht.stp) hb hd (by decide) hu
    obtain ⟨-, -, hred, hreg⟩ := haltJob_keeps ((hk.job _).trans hb) (by rw [hk.ring]; exact h.jobs) p 0x0501
    refine ⟨_, he, ⟨hh.state, hh.status, hh.record, hh.fails, hh.mem⟩, fun hl => ?_⟩
    obtain ⟨hg1, hg2⟩ := hlatch (by rw [ht.red]; exact hl)
    exact ⟨hreg.trans hg1, hred.trans hg2⟩
  · have hp' : f.hdr.channel ≠ b.channel ∨ (s.dataTaken p rx f).placeOk p f b = false := by rw [ht.placeOk]; exact hp
    have hu := (hnow hg).trans (deliver_misplaced (he.trans hdigest.symm) ((ht.job _).trans hb) (hhalted.trans hh) hp' _)
    obtain ⟨he, hh⟩ := exec_dataRow_halts h ht.toKeepsData (by decide) ht.stp hb hd (by decide) hu
    exact ⟨_, he, hh.state, hh.status, hh.record, hh.fails, hh.mem⟩

end Sys2Proof.Machine
end

section
/-!
SUPPORT. The registers of a tile's units: where they lie beside the registers of its streams, and what the operations over accumulator banks
write there.
-/
namespace Sys2Proof.Machine

/-! Places of fields. -/

/-- Fields at different places of the register map have different keys. -/
theorem Fld.key_ne_of_place {f j : Fld} (hf : f.lo < 64) (hj : j.lo < 64) (h : f.off ≠ j.off ∨ f.lo ≠ j.lo) : f.key ≠ j.key := by
  have := f.dom.code_le
  have := j.dom.code_le
  unfold Fld.key
  omega

theorem Fld.key_ne_of_dom {f j : Fld} (h : f.dom.code ≠ j.dom.code) : f.key ≠ j.key := fun e =>
  h (by rw [← keyDom_key f, ← keyDom_key j, e])

/-- A field of the units of tile `t` (R58 to R98), behind the fields of its streams and of its event counters. -/
structure UnitFld (t : Nat) (f : Fld) : Prop where
  dom : f.dom = .tile
  lo : f.lo < 64
  off : 0x1000400 + 0x10000 * t ≤ f.off

/-- The fields of the units, those of array `i` among them. -/
def unitFields (t i : Nat) : List Fld :=
  [F.TILE_ARR_STATUS_BUSY t i, F.TILE_ARR_STATUS_PREC t i, F.TILE_ARR_STATUS_KIND t i, F.TILE_ARR_STATUS_SBANK t i,
    F.TILE_ARR_STATUS_LOADING t i, F.TILE_ARR_STATUS_C_LAST t i, F.TILE_ARR_PASSES_PASSES t i, F.TILE_VEC_STATUS_BUSY t,
    F.TILE_VEC_STATUS_SFU_BUSY t, F.TILE_VEC_STATUS_SB0_FULL t, F.TILE_VEC_STATUS_SB1_FULL t, F.TILE_SFU_RESULTS_RESULTS t]

theorem unitFld_of_mem {t i : Nat} {f : Fld} (h : f ∈ unitFields t i) : UnitFld t f := by
  simp only [unitFields, List.mem_cons, List.not_mem_nil, or_false] at h
  rcases h with rfl | rfl | rfl | rfl | rfl | rfl | rfl | rfl | rfl | rfl | rfl | rfl <;>
    refine ⟨rfl, ?_, ?_⟩ <;>
    simp only [F.TILE_ARR_STATUS_BUSY, F.TILE_ARR_STATUS_PREC, F.TILE_ARR_STATUS_KIND, F.TILE_ARR_STATUS_SBANK, F.TILE_ARR_STATUS_LOADING,
      F.TILE_ARR_STATUS_C_LAST, F.TILE_ARR_PASSES_PASSES, F.TILE_VEC_STATUS_BUSY, F.TILE_VEC_STATUS_SFU_BUSY, F.TILE_VEC_STATUS_SB0_FULL,
      F.TILE_VEC_STATUS_SB1_FULL, F.TILE_SFU_RESULTS_RESULTS] <;>
    omega

/-- The offset of an output unit's status register, which holds the states and owners of both its banks (R74, R77). -/
theorem bankStateF_place (t ou b : Nat) :
    UnitFld t (bankStateF t ou b) ∧ (bankStateF t ou b).off = 0x1000440 + 0x10000 * t + 0x8 * ou
      ∧ (bankStateF t ou b).lo = (if b = 0 then 28 else 30) ∧ (bankStateF t ou b).w = 2 := by
  unfold bankStateF
  split
  · exact ⟨⟨rfl, by simp [F.TILE_OU_STATUS_BANK0_STATE], by simp only [F.TILE_OU_STATUS_BANK0_STATE]; omega⟩, rfl, rfl, rfl⟩
  · exact ⟨⟨rfl, by simp [F.TILE_OU_STATUS_BANK1_STATE], by simp only [F.TILE_OU_STATUS_BANK1_STATE]; omega⟩, rfl, rfl, rfl⟩

theorem bankStreamF_place (t ou b : Nat) :
    UnitFld t (bankStreamF t ou b) ∧ (bankStreamF t ou b).off = 0x1000440 + 0x10000 * t + 0x8 * ou
      ∧ (bankStreamF t ou b).lo = (if b = 0 then 26 else 27) ∧ (bankStreamF t ou b).w = 1 := by
  unfold bankStreamF
  split
  · exact ⟨⟨rfl, by simp [F.TILE_OU_STATUS_BANK0_STREAM], by simp only [F.TILE_OU_STATUS_BANK0_STREAM]; omega⟩, rfl, rfl, rfl⟩
  · exact ⟨⟨rfl, by simp [F.TILE_OU_STATUS_BANK1_STREAM], by simp only [F.TILE_OU_STATUS_BANK1_STREAM]; omega⟩, rfl, rfl, rfl⟩

theorem unitFld_bankState (t ou b : Nat) : UnitFld t (bankStateF t ou b) := (bankStateF_place t ou b).1
theorem unitFld_bankStream (t ou b : Nat) : UnitFld t (bankStreamF t ou b) := (bankStreamF_place t ou b).1

/-- The state and the form of a half stand in the gradient buffer's status register (R71). -/
theorem halfStateF_place (t h : Nat) :
    UnitFld t (halfStateF t h) ∧ (halfStateF t h).off = 0x1000450 + 0x10000 * t
      ∧ (halfStateF t h).lo = (if h = 0 then 28 else 30) ∧ (halfStateF t h).w = 2 := by
  unfold halfStateF
  split
  · exact ⟨⟨rfl, by simp [F.TILE_SGB_STATUS_HALF0_STATE], by simp only [F.TILE_SGB_STATUS_HALF0_STATE]; omega⟩, rfl, rfl, rfl⟩
  · exact ⟨⟨rfl, by simp [F.TILE_SGB_STATUS_HALF1_STATE], by simp only [F.TILE_SGB_STATUS_HALF1_STATE]; omega⟩, rfl, rfl, rfl⟩

theorem halfFormF_place (t h : Nat) :
    UnitFld t (halfFormF t h) ∧ (halfFormF t h).off = 0x1000450 + 0x10000 * t
      ∧ (halfFormF t h).lo = (if h = 0 then 22 else 25) ∧ (halfFormF t h).w = 3 := by
  unfold halfFormF
  split
  · exact ⟨⟨rfl, by simp [F.TILE_SGB_STATUS_HALF0_FORM], by simp only [F.TILE_SGB_STATUS_HALF0_FORM]; omega⟩, rfl, rfl, rfl⟩
  · exact ⟨⟨rfl, by simp [F.TILE_SGB_STATUS_HALF1_FORM], by simp only [F.TILE_SGB_STATUS_HALF1_FORM]; omega⟩, rfl, rfl, rfl⟩

theorem unitFld_halfState (t h : Nat) : UnitFld t (halfStateF t h) := (halfStateF_place t h).1
theorem unitFld_halfForm (t h : Nat) : UnitFld t (halfFormF t h) := (halfFormF_place t h).1

theorem UnitFld.key_ne {t : Nat} {f j : Fld} (hf : UnitFld t f) (hj : UnitFld t j) (h : f.off ≠ j.off ∨ f.lo ≠ j.lo) : f.key ≠ j.key :=
  Fld.key_ne_of_place hf.lo hj.lo h

theorem halfForm_key_ne_state (t h k : Nat) : (halfFormF t h).key ≠ (halfStateF t k).key := by
  obtain ⟨hf, -, hl, -⟩ := halfFormF_place t h
  obtain ⟨hj, -, hk, -⟩ := halfStateF_place t k
  exact hf.key_ne hj (.inr (by rw [hl, hk]; split <;> split <;> decide))

theorem bankStream_key_ne_state (t ou b ou' b' : Nat) : (bankStreamF t ou b).key ≠ (bankStateF t ou' b').key := by
  obtain ⟨hf, -, hl, -⟩ := bankStreamF_place t ou b
  obtain ⟨hj, -, hk, -⟩ := bankStateF_place t ou' b'
  exact hf.key_ne hj (.inr (by rw [hl, hk]; split <;> split <;> decide))

/-- The registers that the issue of an instruction may change lie before those of the units. -/
theorem issueFields_place {t n : Nat} (hn : n < 2) {x : Fld} (h : x ∈ issueFields t n) :
    x.dom = .tile ∧ x.lo < 64 ∧ x.off < 0x10000C0 + 0x10000 * t := by
  simp only [issueFields, List.mem_append, List.mem_cons, List.mem_map, List.mem_range, List.not_mem_nil, or_false] at h
  rcases h with (rfl | rfl | rfl | rfl | rfl) | ⟨c, hc, rfl⟩ <;>
    refine ⟨rfl, ?_, ?_⟩ <;>
    simp only [F.TILE_SEQ_STATUS_STATE, F.TILE_SEQ_STATUS_STALL, F.TILE_SEQ_STATUS_PC, F.TILE_SEQ_STATUS_OPCODE, F.TILE_SEQ_ISSUED_ISSUED,
      F.TILE_EVT_COUNT] <;>
    omega

theorem issue_key_ne_unit {t n : Nat} (hn : n < 2) {f : Fld} (hf : UnitFld t f) : ∀ x ∈ issueFields t n, x.key ≠ f.key := fun x hx => by
  obtain ⟨-, hl, ho⟩ := issueFields_place hn hx
  have := hf.off
  exact Fld.key_ne_of_place hl hf.lo (.inl (by omega))

theorem countFields_dom {x : Fld} (h : x ∈ countFields) : x.dom = .dev := by
  simp only [countFields, List.mem_append, List.mem_map] at h
  rcases h with ⟨k, -, rfl⟩ | ⟨k, -, rfl⟩ <;> rfl

/-- No register of a tile is one that a corrected read changes. -/
theorem correctFields_dom {m : Memory} {x : Fld} (h : x ∈ correctFields m) : x.dom ≠ .tile := by
  simp only [correctFields, List.mem_append, List.mem_cons, List.mem_flatMap] at h
  rcases h with h | rfl | ⟨e, -, h⟩
  · rw [countFields_dom h]; decide
  · decide
  · simp only [layerErrors, List.mem_cons, List.not_mem_nil, or_false] at h
    rcases h with rfl | rfl | rfl | rfl | rfl | rfl | rfl | rfl | rfl | rfl <;> exact (show Dom.aon ≠ Dom.tile by decide)

theorem key_ne_of_tile {f x : Fld} (hf : f.dom = .tile) (hx : x.dom ≠ .tile) : f.key ≠ x.key :=
  Fld.key_ne_of_dom (by
    rw [hf]
    cases h : x.dom <;> simp_all [Dom.code])

/-- Counting leaves the registers of the tiles. -/
theorem State.g_count_tile (s : State) (ev inst k : Nat) {f : Fld} (hf : f.dom = .tile) : (s.count ev inst k).g f = s.g f :=
  State.g_count_ne _ _ _ _ _ fun x hx => key_ne_of_tile hf (by rw [countFields_dom hx]; decide)

/-- A read of bonded memory leaves the registers of the tiles. -/
theorem ReadsOn.g_tile {s r : State} (h : ReadsOn s r) {f : Fld} (hf : f.dom = .tile) : r.g f = s.g f :=
  h.regs f fun _ hx => key_ne_of_tile hf (correctFields_dom hx)

/-! Accumulator banks. -/

section
variable (s : State) (t n ou b st : Nat) (v : Bank)

theorem State.setBank_tile :
    (s.setBank t n ou b st v).tile t = { s.tile t with banks := Sparse.put Bank.empty (2 * ou + b) v (s.tile t).banks } :=
  State.tile_setTile_same s t fun x => { x with banks := Sparse.put Bank.empty (2 * ou + b) v x.banks }

theorem State.setBank_tile_ne {x : Nat} (h : x ≠ t) : (s.setBank t n ou b st v).tile x = s.tile x :=
  State.tile_setTile_ne s t x (fun x => { x with banks := Sparse.put Bank.empty (2 * ou + b) v x.banks }) h

@[simp] theorem State.bank_setBank : (s.setBank t n ou b st v).bank t ou b = v := by
  rw [State.bank, State.setBank_tile]
  exact Sparse.get_put_same ..

theorem State.bank_setBank_ne {o c : Nat} (h : 2 * o + c ≠ 2 * ou + b) : (s.setBank t n ou b st v).bank t o c = s.bank t o c := by
  rw [State.bank, State.setBank_tile]
  exact Sparse.get_put_ne _ _ _ _ _ _ h

theorem State.bankState_setBank (h : st < 4) : (s.setBank t n ou b st v).bankState t ou b = st := by
  rw [State.bankState, State.setBank, State.g_set_ne _ _ _ _ (bankStream_key_ne_state t ou b ou b).symm, State.g_set_same,
    (bankStateF_place t ou b).2.2.2]
  exact Nat.mod_eq_of_lt h

theorem State.bankStream_setBank (h : n < 2) : (s.setBank t n ou b st v).g (bankStreamF t ou b) = n := by
  rw [State.setBank, State.g_set_same, (bankStreamF_place t ou b).2.2.2]
  exact Nat.mod_eq_of_lt h

theorem State.g_setBank_ne {f : Fld} (h1 : f.key ≠ (bankStateF t ou b).key) (h2 : f.key ≠ (bankStreamF t ou b).key) :
    (s.setBank t n ou b st v).g f = s.g f := by
  rw [State.setBank, State.g_set_ne _ _ _ _ h2, State.g_set_ne _ _ _ _ h1, State.g_setTile]

end

/-- Reservations that are free let a transfer go ahead (R126). -/
theorem reserved_free {t n : Nat} {rd wr : List Span} {s : State} (h : reserveStall (s.tile t) n rd wr = none) (k : State → Verdict) :
    reserved t n rd wr s k = k s := by
  simp only [reserved, h]

/-! Stationary banks and halves. -/

theorem Tile.stat_setStat (x : Tile) (arr sb : Nat) (v : StatBank) : (x.setStat arr sb v).stat' arr sb = v := Sparse.get_put_same ..

theorem Tile.half_setHalf (x : Tile) (h : Nat) (v : Half) : (x.setHalf h v).half h = v := by
  unfold Tile.half Tile.setHalf
  split <;> rfl

theorem Tile.setHalf_only (x : Tile) (h : Nat) (v : Half) : ∃ a b, x.setHalf h v = { x with half0 := a, half1 := b } := by
  unfold Tile.setHalf
  split
  · exact ⟨v, x.half1, rfl⟩
  · exact ⟨x.half0, v, rfl⟩

/-! What the operations of a rule leave of its issue. -/

section
variable {t n : Nat} {s r q : State} (c : Calm t n s r)
include c

theorem Calm.setUnit (hn : n < 2) {f : Fld} (hf : UnitFld t f) (v : Nat) : Calm t n s (r.set f v) := c.set f v (issue_key_ne_unit hn hf)

theorem Calm.setAll_unit (hn : n < 2) (l : List (Fld × Nat)) (hl : ∀ e ∈ l, UnitFld t e.1) : Calm t n s (r.setAll l) := by
  have hg : ∀ x ∈ issueFields t n, (r.setAll l).g x = r.g x := fun x hx => State.g_setAll_ne l r x fun e he =>
    issue_key_ne_unit hn (hl e he) x hx
  rw [State.setAll_fld] at hg ⊢
  exact c.of hg rfl rfl ⟨rfl, rfl⟩ rfl

theorem Calm.setBank (hn : n < 2) (m ou b st : Nat) (v : Bank) : Calm t n s (r.setBank t m ou b st v) :=
  ((c.tile t _ rfl ⟨rfl, rfl⟩).setUnit hn (unitFld_bankState t ou b) st).setUnit hn (unitFld_bankStream t ou b) m

theorem Calm.count (hn : n < 2) (ev inst k : Nat) : Calm t n s (r.count ev inst k) := by
  have hg : ∀ x ∈ issueFields t n, (r.count ev inst k).g x = r.g x := fun x hx => State.g_count_tile r ev inst k (issueFields_place hn hx).1
  obtain ⟨l, h⟩ := r.count_only ev inst k
  rw [h] at hg ⊢
  exact c.of hg rfl rfl ⟨rfl, rfl⟩ rfl

end

theorem sram_upset (s : State) (t : Nat) (bad : List Nat) : ((s.upset t bad).tile t).sram = (s.tile t).sram := by rw [s.upset_tile t bad]

theorem bank_upset (s : State) (t : Nat) (bad : List Nat) (ou b : Nat) : (s.upset t bad).bank t ou b = s.bank t ou b := by
  rw [State.bank, State.upset_tile]; rfl

theorem bitsOf_lt (w hi lo k : Nat) (h : hi + 1 - lo ≤ k) : bitsOf w hi lo < 2 ^ k :=
  lt_of_lt_of_le (Nat.mod_lt _ (by positivity)) (Nat.pow_le_pow_right (by decide) h)

end Sys2Proof.Machine

namespace Sys2Proof

open Machine

/-! What an instruction in flight leaves, from what its rule leaves. -/

section
variable {t n w : Nat} {j : Job'} {r s u : State} (h : FliesFrom t n w j r s u)
include h

theorem FliesFrom.g_unit (hn : n < 2) {f : Fld} (hf : UnitFld t f) : u.g f = r.g f :=
  h.regs f fun x hx => (issue_key_ne_unit hn hf x hx).symm

theorem FliesFrom.bank (ou b : Nat) : u.bank t ou b = r.bank t ou b := by
  have e := congrArg (fun x : Tile => Sparse.get Bank.empty (2 * ou + b) x.banks) h.inside
  exact e

theorem FliesFrom.stat (arr sb : Nat) : (u.tile t).stat' arr sb = (r.tile t).stat' arr sb := by
  have e := congrArg (fun x : Tile => x.stat' arr sb) h.inside
  exact e

theorem FliesFrom.half (k : Nat) : (u.tile t).half k = (r.tile t).half k := by
  have e := congrArg (fun x : Tile => x.half k) h.inside
  exact e

theorem FliesFrom.mem : u.mem = r.mem := by
  have e := congrArg State.mem h.rest
  exact e

theorem FliesFrom.mesh : u.mesh = r.mesh := by
  have e := congrArg State.mesh h.rest
  exact e

theorem FliesFrom.stp : u.stp = r.stp := by
  have e := congrArg State.stp h.rest
  exact e

theorem FliesFrom.num : u.num = r.num := by
  have e := congrArg State.num h.rest
  exact e

theorem FliesFrom.onlyTile (hr : OnlyTile t s r) : OnlyTile t s u := fun v hv => (h.others v hv).trans (hr v hv)

theorem FliesFrom.keepsSram (hr : (r.tile t).sram = (s.tile t).sram) : KeepsSram t s u 0 0 := fun x _ => by
  rw [sramByte, h.sram, hr]; rfl

end

theorem onlyTile_upset (s : State) (t : Nat) (bad : List Nat) : OnlyTile t s (s.upset t bad) := fun v hv => State.upset_tile_ne s t v bad hv

theorem OnlyTile.trans {t : Nat} {s r u : State} (h : OnlyTile t s r) (k : OnlyTile t r u) : OnlyTile t s u :=
  fun v hv => (k v hv).trans (h v hv)

theorem sameMem_of_eq {s u : State} (h : u.mem = s.mem) : SameMem s u := fun x => by rw [h]

end Sys2Proof
end

section
/-!
SUPPORT. The completion of an instruction in flight (R131, R135): what every part of it leaves as it was, what the parts bring, and what the
whole row `instructionComplete` answers.
-/
namespace Sys2Proof.Machine

/-! The flight that completes. -/

/-- What `takeFirst` takes is the head of what satisfies the test, and the list without it. -/
theorem find_of_takeFirst {α : Type} {p : α → Bool} {l r : List α} {x : α} (h : takeFirst p l = some (x, r)) :
    l.find? p = some x ∧ ∀ q : α → Bool, q x = false → (∀ y ∈ r, q y = true) → l.filter q = r := by
  induction l generalizing r with
  | nil => simp [takeFirst] at h
  | cons y l ih =>
    unfold takeFirst at h
    by_cases hp : p y = true
    · rw [if_pos hp] at h
      cases h
      exact ⟨List.find?_cons_of_pos hp, fun q hx hr => by
        rw [List.filter_cons_of_neg (by simp [hx])]
        exact List.filter_eq_self.2 hr⟩
    · rw [if_neg hp] at h
      obtain ⟨⟨z, r'⟩, ht, e⟩ := Option.map_eq_some_iff.1 h
      cases e
      obtain ⟨hf, hq⟩ := ih ht
      exact ⟨by rw [List.find?_cons_of_neg hp, hf], fun q hx hr => by
        rw [List.filter_cons_of_pos (hr y (by simp)), hq q hx fun z hz => hr z (by simp [hz])]⟩

/-! The digest log's part. -/

theorem Flushes.setSpans (t n : Nat) (s : State) (g : List SpanLog → List SpanLog) :
    Flushes t s (s.setStream t n fun y => { y with spans := g y.spans }) := by
  refine ⟨⟨_, _, _, _, _, _, _, rfl⟩, fun _ _ => rfl, fun v hv => State.tile_setStream_ne _ _ _ _ _ hv, ?_⟩
  simp only [State.setStream, State.tile_setTile_same, Tile.setStream]
  split
  · exact ⟨_, (s.tile t).s1.spans, rfl⟩
  · exact ⟨(s.tile t).s0.spans, _, rfl⟩

theorem lateCrc_flushes (t : Nat) (f : Flight) (s : State) : Flushes t s (s.lateCrc t f) := by
  simp only [State.lateCrc]
  split
  · exact .setSpans t f.stream s _
  · exact .refl t s

theorem lateCrc_rest (t : Nat) (f : Flight) (s : State) : { s.lateCrc t f with tiles := s.tiles } = s := by
  simp only [State.lateCrc]
  split <;> rfl

section
variable {t : Nat} {s u : State} (h : Flushes t s u)
include h

theorem Flushes.core : Tile.core (u.tile t) = Tile.core (s.tile t) := by
  obtain ⟨a, b, e⟩ := h.tile
  rw [e]; rfl

theorem Flushes.sram : (u.tile t).sram = (s.tile t).sram := by
  obtain ⟨a, b, e⟩ := h.tile
  rw [e]

theorem Flushes.flights : (u.tile t).flights = (s.tile t).flights := by
  obtain ⟨a, b, e⟩ := h.tile
  rw [e]

theorem Flushes.mem : u.mem = s.mem := by
  obtain ⟨l, c, r, o, m, q, T, e⟩ := h.rest
  rw [e]

theorem Flushes.red : u.red = s.red := by
  obtain ⟨l, c, r, o, m, q, T, e⟩ := h.rest
  rw [e]

theorem Flushes.steady : Steady s u := by
  obtain ⟨l, c, r, o, m, q, T, e⟩ := h.rest
  rw [e]
  exact ⟨rfl, rfl⟩

end

/-! What completion leaves. -/

/-- What comes about when a flight completes leaves the other tiles, SRAM and memory, the flights and the blocks that wait in them, the
event counters, the step controller and the marked waits. -/
structure PostKeeps (t : Nat) (s u : State) : Prop where
  others : OnlyTile t s u
  sram : (u.tile t).sram = (s.tile t).sram
  ids : (u.tile t).flights.map (·.id) = (s.tile t).flights.map (·.id)
  fills : ∀ g ∈ (u.tile t).flights, ∃ k ∈ (s.tile t).flights, ∀ e ∈ g.fills, e ∈ k.fills
  events : ∀ c < 16, u.g (F.TILE_EVT_COUNT t c) = s.g (F.TILE_EVT_COUNT t c)
  mem : u.mem = s.mem
  steady : Steady s u

section
variable {t : Nat} {s r u : State}

theorem PostKeeps.refl (t : Nat) (s : State) : PostKeeps t s s :=
  ⟨fun _ _ => rfl, rfl, rfl, fun g hg => ⟨g, hg, fun _ h => h⟩, fun _ _ => rfl, rfl, .refl s⟩

theorem PostKeeps.trans (h : PostKeeps t s r) (k : PostKeeps t r u) : PostKeeps t s u where
  others := h.others.trans k.others
  sram := k.sram.trans h.sram
  ids := k.ids.trans h.ids
  fills := fun g hg => by
    obtain ⟨g', hg', hk⟩ := k.fills g hg
    obtain ⟨g'', hg'', hh⟩ := h.fills g' hg'
    exact ⟨g'', hg'', fun e he => hh e (hk e he)⟩
  events := fun c hc => (k.events c hc).trans (h.events c hc)
  mem := k.mem.trans h.mem
  steady := h.steady.trans k.steady

/-- What changes neither tiles nor memory nor the event counters. -/
theorem PostKeeps.of_tiles (ht : u.tiles = s.tiles) (he : ∀ c < 16, u.g (F.TILE_EVT_COUNT t c) = s.g (F.TILE_EVT_COUNT t c))
    (hm : u.mem = s.mem) (hs : Steady s u) : PostKeeps t s u := by
  have h (v : Nat) : u.tile v = s.tile v := by rw [State.tile, ht]; rfl
  exact ⟨fun v _ => h v, by rw [h], by rw [h], fun g hg => ⟨g, by rwa [h] at hg, fun _ h => h⟩, he, hm, hs⟩

theorem PostKeeps.setUnit (s : State) {f : Fld} (hf : UnitFld t f) (v : Nat) : PostKeeps t s (s.set f v) :=
  .of_tiles rfl (fun c hc => State.g_set_ne _ _ _ _ (issue_key_ne_unit (n := 0) (by decide) hf _ (evt_mem t 0 c hc))) rfl ⟨rfl, rfl⟩

theorem PostKeeps.setTile (s : State) (f : Tile → Tile) (hs : (f (s.tile t)).sram = (s.tile t).sram)
    (hf : (f (s.tile t)).flights = (s.tile t).flights) : PostKeeps t s (s.setTile t f) := by
  have e : (s.setTile t f).tile t = f (s.tile t) := State.tile_setTile_same s t f
  exact ⟨fun v hv => State.tile_setTile_ne s t v f hv, by rw [e, hs], by rw [e, hf], fun g hg => ⟨g, by rwa [e, hf] at hg, fun _ h => h⟩,
    fun _ _ => rfl, rfl, ⟨rfl, rfl⟩⟩

theorem PostKeeps.count (s : State) (ev inst k : Nat) : PostKeeps t s (s.count ev inst k) := by
  have hg : ∀ c < 16, (s.count ev inst k).g (F.TILE_EVT_COUNT t c) = s.g (F.TILE_EVT_COUNT t c) := fun c _ =>
    State.g_count_tile s ev inst k rfl
  obtain ⟨l, h⟩ := s.count_only ev inst k
  rw [h] at hg ⊢
  exact .of_tiles rfl hg rfl ⟨rfl, rfl⟩

theorem PostKeeps.ite {p : Prop} [Decidable p] (hr : PostKeeps t s r) (hu : PostKeeps t s u) : PostKeeps t s (if p then r else u) := by
  split
  · exact hr
  · exact hu

theorem PostKeeps.setBank (s : State) (n ou b st : Nat) (v : Bank) : PostKeeps t s (s.setBank t n ou b st v) :=
  ((PostKeeps.setTile s _ rfl rfl).trans (.setUnit _ (unitFld_bankState t ou b) st)).trans (.setUnit _ (unitFld_bankStream t ou b) n)

theorem PostKeeps.setHalf (s : State) (h : Nat) (v : Half) : PostKeeps t s (s.setTile t fun x => x.setHalf h v) := by
  obtain ⟨a, b, e⟩ := (s.tile t).setHalf_only h v
  exact .setTile s _ (by rw [e]) (by rw [e])

end

/-! Halves of the gradient buffer. -/

section
variable {t : Nat} {s : State}

/-- No block that waits for a half holds a non-finite element. -/
abbrev NoTraps (t : Nat) (s : State) : Prop := ∀ g ∈ (s.tile t).flights, ∀ e ∈ g.fills, e.trap = none

theorem PostKeeps.noTraps {u : State} (h : PostKeeps t s u) (hs : NoTraps t s) : NoTraps t u := fun g hg e he => by
  obtain ⟨k, hk, hf⟩ := h.fills g hg
  exact hs k hk e (hf e he)

/-- The flight that has waited longest for a half, with its block (R114). -/
def Tile.awaits (x : Tile) (h : Nat) : Option (Flight × HalfFill) :=
  x.flights.findSome? fun g => (g.fills.find? fun e => e.half == h).map fun e => (g, e)

theorem Tile.mem_of_awaits {x : Tile} {h : Nat} {g : Flight} {e : HalfFill} (ha : x.awaits h = some (g, e)) :
    g ∈ x.flights ∧ e ∈ g.fills ∧ e.half = h := by
  obtain ⟨k, hk, hm⟩ := List.exists_of_findSome?_eq_some ha
  obtain ⟨d, hd, he⟩ := Option.map_eq_some_iff.1 hm
  cases he
  exact ⟨hk, List.mem_of_find?_eq_some hd, by simpa using List.find?_some hd⟩

/-- A flight no longer waits for a half. -/
def Flight.unblock (id h : Nat) (g : Flight) : Flight :=
  if g.id = id then { g with fills := g.fills.filter fun k => k.half != h } else g

theorem Flight.unblock_id (id h : Nat) (g : Flight) : (g.unblock id h).id = g.id := by
  unfold Flight.unblock
  split <;> rfl

theorem Flight.unblock_fills (id h : Nat) (g : Flight) : ∀ e ∈ (g.unblock id h).fills, e ∈ g.fills := by
  unfold Flight.unblock
  split
  · exact fun e he => (List.mem_filter.1 he).1
  · exact fun e he => he

theorem fillFreed_eq (s : State) (t h : Nat) : s.fillFreed t h = match (s.tile t).awaits h with
    | none => s
    | some (f, e) => (s.setTile t fun x => { x with flights := x.flights.map (Flight.unblock f.id h) }).fillHalf t f.stream f.layer f.oper e :=
  rfl

theorem PostKeeps.unblock (s : State) (id h : Nat) :
    PostKeeps t s (s.setTile t fun x => { x with flights := x.flights.map (Flight.unblock id h) }) := by
  have e := State.tile_setTile_same s t fun x => { x with flights := x.flights.map (Flight.unblock id h) }
  refine ⟨fun v hv => State.tile_setTile_ne s t v _ hv, by rw [e], ?_, fun g hg => ?_, fun _ _ => rfl, rfl, ⟨rfl, rfl⟩⟩
  · rw [e]
    simp only [List.map_map]
    exact List.map_congr_left fun g _ => g.unblock_id id h
  · rw [e] at hg
    obtain ⟨k, hk, rfl⟩ := List.mem_map.1 hg
    exact ⟨k, hk, k.unblock_fills id h⟩

/-- A block without a non-finite element goes into a half and is counted. -/
theorem fillHalf_eq (s : State) (t n layer oper : Nat) (e : HalfFill) (h : e.trap = none) :
    s.fillHalf t n layer oper e =
      (((s.setTile t fun x => x.setHalf e.half ⟨some n, e.block⟩).set (halfStateF t e.half) 1).set (halfFormF t e.half) e.block.form).tally
        layer oper e.tally := by
  simp [State.fillHalf, State.counted, h]

theorem PostKeeps.fillHalf (s : State) (n layer oper : Nat) {e : HalfFill} (h : e.trap = none) :
    PostKeeps t s (s.fillHalf t n layer oper e) := by
  rw [fillHalf_eq s t n layer oper e h]
  exact (((PostKeeps.setHalf s e.half _).trans (.setUnit _ (unitFld_halfState t e.half) 1)).trans
    (.setUnit _ (unitFld_halfForm t e.half) _)).trans (.of_tiles rfl (fun _ _ => rfl) rfl ⟨rfl, rfl⟩)

theorem PostKeeps.fillFreed (hs : NoTraps t s) (h : Nat) : PostKeeps t s (s.fillFreed t h) := by
  rw [fillFreed_eq]
  cases ha : (s.tile t).awaits h with
  | none => exact .refl t s
  | some p =>
    obtain ⟨hg, he, -⟩ := Tile.mem_of_awaits ha
    exact (PostKeeps.unblock s p.1.id h).trans (.fillHalf _ _ _ _ (hs _ hg _ he))

/-- A half given back, before a block that waits for it is looked for (R71). -/
def State.halfCleared (s : State) (t h : Nat) : State :=
  ((s.setTile t fun x => x.setHalf h Half.free).set (halfStateF t h) 0).set (halfFormF t h) 0

theorem freeHalf_eq (s : State) (t h : Nat) : s.freeHalf t h = (s.halfCleared t h).fillFreed t h := rfl

theorem PostKeeps.halfCleared (s : State) (h : Nat) : PostKeeps t s (s.halfCleared t h) :=
  ((PostKeeps.setHalf s h Half.free).trans (.setUnit _ (unitFld_halfState t h) 0)).trans (.setUnit _ (unitFld_halfForm t h) 0)

theorem PostKeeps.freeHalf (hs : NoTraps t s) (h : Nat) : PostKeeps t s (s.freeHalf t h) := by
  have hc := PostKeeps.halfCleared (t := t) s h
  exact hc.trans (.fillFreed (hc.noTraps hs) h)

theorem halfCleared_tile (s : State) (t h : Nat) : ∃ a b, (s.halfCleared t h).tile t = { s.tile t with half0 := a, half1 := b } := by
  obtain ⟨a, b, e⟩ := (s.tile t).setHalf_only h Half.free
  exact ⟨a, b, (State.tile_setTile_same s t fun x => x.setHalf h Half.free).trans e⟩

/-- A half that no block awaits is FREE (R71). -/
theorem freeHalf_free {h : Nat} (ha : (s.tile t).awaits h = none) :
    (s.freeHalf t h).g (halfStateF t h) = 0 ∧ ((s.freeHalf t h).tile t).half h = Half.free := by
  have ha' : ((s.halfCleared t h).tile t).awaits h = none := by
    obtain ⟨a, b, e⟩ := halfCleared_tile s t h
    rw [e]; exact ha
  rw [freeHalf_eq, fillFreed_eq, ha']
  refine ⟨?_, ?_⟩
  · rw [State.halfCleared, State.g_set_ne _ _ _ _ (halfForm_key_ne_state t h h).symm, State.g_set_same]
    exact Nat.zero_mod _
  · rw [State.halfCleared, State.tile_set, State.tile_set, State.tile_setTile_same, Tile.half_setHalf]

/-- A half that a block awaits takes that block, and is loading (R114). -/
theorem freeHalf_filled {h : Nat} {g : Flight} {e : HalfFill} (ha : (s.tile t).awaits h = some (g, e)) (hs : NoTraps t s) :
    (s.freeHalf t h).g (halfStateF t h) = 1 ∧ ((s.freeHalf t h).tile t).half h = ⟨some g.stream, e.block⟩ := by
  have ha' : ((s.halfCleared t h).tile t).awaits h = some (g, e) := by
    obtain ⟨a, b, q⟩ := halfCleared_tile s t h
    rw [q]; exact ha
  obtain ⟨hg, he, rfl⟩ := Tile.mem_of_awaits ha
  rw [freeHalf_eq, fillFreed_eq, ha']
  simp only [fillHalf_eq _ _ _ _ _ _ (hs g hg e he), State.g_tally, State.tally_tile, State.tile_set, State.tile_setTile_same, Tile.half_setHalf,
    and_true]
  rw [State.g_set_ne _ _ _ _ (halfForm_key_ne_state t e.half e.half).symm, State.g_set_same, (halfStateF_place t e.half).2.2.2]
  rfl

/-- A half given back changes the tile's halves and what its flights wait for, and nothing else of the tile. -/
theorem freeHalf_tile (hs : NoTraps t s) (h : Nat) :
    ∃ a b l, (s.freeHalf t h).tile t = { s.tile t with half0 := a, half1 := b, flights := l } := by
  obtain ⟨a, b, hc⟩ := halfCleared_tile s t h
  have hn : NoTraps t (s.halfCleared t h) := (PostKeeps.halfCleared s h).noTraps hs
  rw [freeHalf_eq, fillFreed_eq]
  cases ha : ((s.halfCleared t h).tile t).awaits h with
  | none => exact ⟨a, b, _, hc⟩
  | some p =>
    obtain ⟨hg, he, -⟩ := Tile.mem_of_awaits ha
    simp only [fillHalf_eq _ _ _ _ _ _ (hn _ hg _ he), State.tally_tile, State.tile_set, State.tile_setTile_same, hc]
    obtain ⟨c, d, e⟩ := Tile.setHalf_only
      { s.tile t with half0 := a, half1 := b, flights := (s.tile t).flights.map (Flight.unblock p.1.id h) } p.2.half ⟨some p.1.stream, p.2.block⟩
    exact ⟨c, d, _, e⟩

end

end Sys2Proof.Machine
end

section
/-!
SUPPORT. What each part of a completion brings (R131, R135), and the answer of the row `instructionComplete`.
-/
namespace Sys2Proof.Machine

section
variable {t : Nat} {s : State}

/-! The score slots that a vector instruction frees (R94). -/

def State.freeSlot (t : Nat) (s : State) (i : Nat) : State :=
  (setScoreFull s t i false).setTile t fun x =>
    { x with score := Sparse.put [] i [] x.score, scoreOwner := Sparse.put none i none x.scoreOwner }

/-- The field that shows whether a score slot is full. -/
def scoreFullF (t i : Nat) : Fld := if i < 2 then F.TILE_VEC_STATUS_SB0_FULL t else F.TILE_VEC_STATUS_SB1_FULL t

theorem unitFld_scoreFull (t i : Nat) : UnitFld t (scoreFullF t i) := by
  unfold scoreFullF
  split <;> exact unitFld_of_mem (i := 0) (by simp [unitFields])

theorem PostKeeps.freeSlots (slots : List Nat) (s : State) : PostKeeps t s (slots.foldl (State.freeSlot t) s) := by
  induction slots generalizing s with
  | nil => exact .refl t s
  | cons i slots ih =>
    have hi : PostKeeps t s (setScoreFull s t i false) := .setUnit s (unitFld_scoreFull t i) _
    exact (hi.trans (.setTile _ _ rfl rfl)).trans (ih _)

theorem g_freeSlots {f : Fld} (hf : ∀ i, f.key ≠ (scoreFullF t i).key) (slots : List Nat) (s : State) :
    (slots.foldl (State.freeSlot t) s).g f = s.g f := by
  induction slots generalizing s with
  | nil => rfl
  | cons i slots ih =>
    rw [List.foldl_cons, ih]
    exact State.g_setBit_ne s _ f _ false (hf i)

theorem flights_freeSlots (slots : List Nat) (s : State) : ((slots.foldl (State.freeSlot t) s).tile t).flights = (s.tile t).flights := by
  induction slots generalizing s with
  | nil => rfl
  | cons i slots ih =>
    rw [List.foldl_cons, ih, State.freeSlot, State.tile_setTile_same]
    rfl

/-! Everything a stream holds is given back (R71, R124). -/

/-- The stationary banks of stream `n` released. -/
def State.statsReleased (s : State) (t n : Nat) : State :=
  s.setTile t fun x => { x with stat := x.stat.filter fun e => e.2.owner != some n }

theorem releaseAll_eq (s : State) (t n : Nat) : ∃ r, (r = s.statsReleased t n ∨ r = (s.statsReleased t n).freeHalf t 0)
    ∧ (s.releaseAll t n = r ∨ s.releaseAll t n = r.freeHalf t 1) := by
  obtain ⟨r, hr⟩ : ∃ r, r = if ((s.statsReleased t n).tile t).half0.owner == some n then (s.statsReleased t n).freeHalf t 0
      else s.statsReleased t n := ⟨_, rfl⟩
  have hu : s.releaseAll t n = if (r.tile t).half1.owner == some n then r.freeHalf t 1 else r := by rw [hr]; rfl
  refine ⟨r, ?_, ?_⟩
  · rw [hr]
    split
    · exact .inr rfl
    · exact .inl rfl
  · rw [hu]
    split
    · exact .inr rfl
    · exact .inl rfl

theorem PostKeeps.releaseAll (hs : NoTraps t s) (n : Nat) : PostKeeps t s (s.releaseAll t n) := by
  have h0 : PostKeeps t s (s.statsReleased t n) := .setTile s _ rfl rfl
  obtain ⟨r, hr, hu⟩ := releaseAll_eq s t n
  have h1 : PostKeeps t s r := by
    rcases hr with rfl | rfl
    · exact h0
    · exact h0.trans (.freeHalf (h0.noTraps hs) 0)
  rcases hu with e | e <;> rw [e]
  · exact h1
  · exact h1.trans (.freeHalf (h1.noTraps hs) 1)

/-- No stationary bank is the stream's any more. -/
theorem releaseAll_stat (hs : NoTraps t s) (n : Nat) : ∀ e ∈ ((s.releaseAll t n).tile t).stat, e.2.owner ≠ some n := by
  have h0 : PostKeeps t s (s.statsReleased t n) := .setTile s _ rfl rfl
  have hfree (r : State) (hr : NoTraps t r) (k : Nat) : ((r.freeHalf t k).tile t).stat = (r.tile t).stat := by
    obtain ⟨a, b, l, e⟩ := freeHalf_tile hr k
    rw [e]
  have hstat : ((s.statsReleased t n).tile t).stat = (s.tile t).stat.filter fun e => e.2.owner != some n := by
    rw [State.statsReleased, State.tile_setTile_same]
  obtain ⟨r, hr, hu⟩ := releaseAll_eq s t n
  have h1 : NoTraps t r ∧ (r.tile t).stat = (s.tile t).stat.filter fun e => e.2.owner != some n := by
    rcases hr with rfl | rfl
    · exact ⟨h0.noTraps hs, hstat⟩
    · exact ⟨(h0.trans (.freeHalf (h0.noTraps hs) 0)).noTraps hs, (hfree _ (h0.noTraps hs) 0).trans hstat⟩
  have h2 : ((s.releaseAll t n).tile t).stat = (s.tile t).stat.filter fun e => e.2.owner != some n := by
    rcases hu with e | e <;> rw [e]
    · exact h1.2
    · exact (hfree r h1.1 1).trans h1.2
  intro e he
  rw [h2] at he
  simpa using (List.mem_filter.1 he).2

/-! Each part. -/

theorem PostKeeps.statLoaded (s : State) (n id arr sb : Nat) : PostKeeps t s (s.post t n id (.statLoaded arr sb)) :=
  (PostKeeps.setTile s _ rfl rfl).trans (.setUnit _ (unitFld_of_mem (i := arr) (by simp [unitFields])) _)

theorem PostKeeps.passDone (s : State) (n id arr sb k : Nat) (release : Bool) :
    PostKeeps t s (s.post t n id (.passDone arr sb k release)) := by
  have h1 : PostKeeps t s (s.addTo (F.TILE_ARR_PASSES_PASSES t arr) k) :=
    .setUnit s (unitFld_of_mem (i := arr) (by simp [unitFields])) _
  have hb : UnitFld t (F.TILE_ARR_STATUS_BUSY t arr) := unitFld_of_mem (i := arr) (by simp [unitFields])
  have h2 (v : Nat) := (h1.trans (.count _ 0x0001 t k)).trans (.setUnit _ hb v)
  exact .ite ((h2 _).trans (.setTile _ _ rfl rfl)) (h2 _)

theorem PostKeeps.halfLoaded (s : State) (n id h : Nat) : PostKeeps t s (s.post t n id (.halfLoaded h)) :=
  .setUnit s (unitFld_halfState t h) 2

theorem PostKeeps.vectorDone (s : State) (n id : Nat) (slots : List Nat) (sfu : Nat) :
    PostKeeps t s (s.post t n id (.vectorDone slots sfu)) := by
  have hu (f : Fld) (h : f ∈ unitFields t 0) (s : State) (v : Nat) : PostKeeps t s (s.set f v) := .setUnit s (unitFld_of_mem h) v
  exact ((((hu (F.TILE_VEC_STATUS_BUSY t) (by simp [unitFields]) s 0).trans
    (hu (F.TILE_VEC_STATUS_SFU_BUSY t) (by simp [unitFields]) _ 0)).trans
    (hu (F.TILE_SFU_RESULTS_RESULTS t) (by simp [unitFields]) _ _)).trans (.count _ 0x0003 t 1)).trans (.freeSlots slots _)

theorem PostKeeps.setStream (s : State) (n : Nat) (f : Stream → Stream) : PostKeeps t s (s.setStream t n f) := by
  refine .setTile s (fun x => x.setStream n f) ?_ ?_ <;> unfold Tile.setStream <;> split <;> rfl

theorem PostKeeps.seqTo {n : Nat} (hn : n < 2) (s : State) (st : Nat) : PostKeeps t s (s.seqTo t n st) := by
  have hset (f : Fld) (hl : f.lo < 64) (ho : f.off = (F.TILE_SEQ_STATUS_STATE t n).off) (s : State) (v : Nat) : PostKeeps t s (s.set f v) :=
    .of_tiles rfl (fun c _ => State.g_set_ne _ _ _ _ (Fld.key_ne_of_place (by simp [F.TILE_EVT_COUNT]) hl (.inl (by
      rw [ho]
      simp only [F.TILE_EVT_COUNT, F.TILE_SEQ_STATUS_STATE]
      omega)))) rfl ⟨rfl, rfl⟩
  exact (hset (F.TILE_SEQ_STATUS_STATE t n) (by simp [F.TILE_SEQ_STATUS_STATE]) rfl s st).trans
    (hset (F.TILE_SEQ_STATUS_STALL t n) (by simp [F.TILE_SEQ_STATUS_STALL]) rfl _ 0)

theorem PostKeeps.ending (hs : NoTraps t s) {n : Nat} (hn : n < 2) (id : Nat) : PostKeeps t s (s.post t n id .ending) :=
  ((PostKeeps.releaseAll hs n).trans (.seqTo hn _ seqIDLE)).trans (.setStream _ n fun y => { y with ended := true })

/-- What every part of a completion leaves. -/
theorem post_keeps (hs : NoTraps t s) {n : Nat} (hn : n < 2) (id : Nat) (p : Post) : PostKeeps t s (s.post t n id p) := by
  cases p with
  | statLoaded arr sb => exact .statLoaded s n id arr sb
  | passDone arr sb k release => exact .passDone s n id arr sb k release
  | halfLoaded h => exact .halfLoaded s n id h
  | halfRead h release => exact .ite (.freeHalf hs h) (.refl t s)
  | bankEmpty ou b => exact .setBank s 0 ou b bkEMPTY Bank.empty
  | bankLive ou b => exact .setUnit s (unitFld_bankState t ou b) bkLIVE
  | vectorDone slots sfu => exact .vectorDone s n id slots sfu
  | segmentRelease seg attempt => exact .ite (.of_tiles rfl (fun _ _ => rfl) rfl ⟨rfl, rfl⟩) (.refl t s)
  | ending => exact .ending hs hn id

/-- The parts of a completion one after another. -/
def State.posts (s : State) (t n id : Nat) (l : List Post) : State := l.foldl (fun s p => s.post t n id p) s

theorem posts_keep (hs : NoTraps t s) {n : Nat} (hn : n < 2) (id : Nat) (l : List Post) : PostKeeps t s (s.posts t n id l) := by
  induction l generalizing s with
  | nil => exact .refl t s
  | cons p l ih =>
    have hp := post_keeps hs hn id p
    exact hp.trans (ih (hp.noTraps hs))

/-- Only END and a releasing pass change what other flights wait for. -/
theorem post_flights {n id : Nat} {p : Post} (he : p ≠ .ending) (hr : ∀ h, p ≠ .halfRead h true) (s : State) :
    ((s.post t n id p).tile t).flights = (s.tile t).flights := by
  have hcount (s : State) (ev inst k : Nat) : ((s.count ev inst k).tile t).flights = (s.tile t).flights := by
    obtain ⟨l, e⟩ := s.count_only ev inst k
    rw [e]; rfl
  cases p with
  | statLoaded arr sb => simp [State.post, Tile.setStat]
  | passDone arr sb k release => cases release <;> simp [State.post, Tile.setStat, State.addTo, hcount]
  | halfLoaded h => rfl
  | halfRead h release =>
    cases release with
    | true => exact absurd rfl (hr h)
    | false => rfl
  | bankEmpty ou b => simp [State.post, State.setBank_tile]
  | bankLive ou b => rfl
  | vectorDone slots sfu =>
    exact (flights_freeSlots slots _).trans (hcount _ _ _ _)
  | segmentRelease seg attempt => simp only [State.post, State.releaseSegment]; split <;> rfl
  | ending => exact absurd rfl he

theorem posts_flights {n id : Nat} {l : List Post} (hl : ∀ p ∈ l, p ≠ .ending ∧ ∀ h, p ≠ .halfRead h true) (s : State) :
    ((s.posts t n id l).tile t).flights = (s.tile t).flights := by
  induction l generalizing s with
  | nil => rfl
  | cons p l ih =>
    obtain ⟨he, hr⟩ := hl p (by simp)
    exact (ih (fun q hq => hl q (by simp [hq])) _).trans (post_flights he hr s)

end

/-! The row. -/

/-- A flight `f` gone from tile `t`, its event counted, beside what its completion has left in `r`. -/
structure Lands (t : Nat) (f : Flight) (r u : State) : Prop where
  flights : (u.tile t).flights = (r.tile t).flights.filter fun g => g.id != f.id
  core : Tile.core (u.tile t) = Tile.core (r.tile t)
  sram : (u.tile t).sram = (r.tile t).sram
  others : OnlyTile t r u
  regs : ∀ x : Fld, 0x1000000 ≤ x.off → (∀ c, f.evt = some c → x.key ≠ (F.TILE_EVT_COUNT t c).key) → u.g x = r.g x
  events : ∀ c, u.g (F.TILE_EVT_COUNT t c) =
    if f.evt = some c then (r.g (F.TILE_EVT_COUNT t c) + 1) % 2 ^ 32 else r.g (F.TILE_EVT_COUNT t c)
  mem : u.mem = r.mem
  red : u.red = r.red
  steady : Steady r u

theorem Lands.g_unit {t : Nat} {f : Flight} {r u : State} (h : Lands t f r u) (he : ∀ c, f.evt = some c → c < 16) {x : Fld}
    (hx : UnitFld t x) : u.g x = r.g x :=
  h.regs x (by have := hx.off; omega) fun c hc => (issue_key_ne_unit (n := 0) (by decide) hx _ (evt_mem t 0 c (he c hc))).symm

/-- What remains to do once the parts of a completion are done. -/
def State.landed (s : State) (t : Nat) (f : Flight) : State :=
  (((s.setTile t fun x => { x with flights := x.flights.filter fun g => g.id != f.id }).event t f.evt).flush t f.stream).armSettle

theorem landed_lands (t : Nat) (f : Flight) (r : State) : Lands t f r (r.landed t f) := by
  obtain ⟨a, ha⟩ : ∃ a, a = r.setTile t fun x => { x with flights := x.flights.filter fun g => g.id != f.id } := ⟨_, rfl⟩
  obtain ⟨b, hb⟩ : ∃ b, b = a.event t f.evt := ⟨_, rfl⟩
  obtain ⟨c, hc⟩ : ∃ c, c = b.flush t f.stream := ⟨_, rfl⟩
  have hat : a.tile t = { r.tile t with flights := (r.tile t).flights.filter fun g => g.id != f.id } := by
    rw [ha]; exact State.tile_setTile_same r t _
  have hbe : b = { a with fld := b.fld } := by rw [hb]; exact State.event_fld a t f.evt
  have hbt (v : Nat) : b.tile v = a.tile v := by rw [hbe]; rfl
  have hfl : Flushes t b c := by rw [hc]; exact flushSpans_flushes t f.stream _ b
  obtain ⟨-, hsreg, hse⟩ := armSettle_cases c
  have hst (v : Nat) : c.armSettle.tile v = c.tile v := by rw [hse]; rfl
  have hu : r.landed t f = c.armSettle := by rw [hc, hb, ha]; rfl
  have hreg (x : Fld) (hx : 0x1000000 ≤ x.off) : c.armSettle.g x = b.g x := by
    rw [hsreg x (by simp only [Fld.key, F.CFG_STATUS_STATE, Dom.code]; omega), hfl.regs x hx]
  have hag (x : Fld) : a.g x = r.g x := by rw [ha]; rfl
  rw [hu]
  refine ⟨?_, ?_, ?_, ?_, ?_, ?_, ?_, ?_, ?_⟩
  · rw [hst, hfl.flights, hbt, hat]
  · rw [hst, hfl.core, hbt, hat]; rfl
  · rw [hst, hfl.sram, hbt, hat]
  · intro v hv
    rw [hst, hfl.others v hv, hbt, ha, State.tile_setTile_ne r t v _ hv]
  · intro x hx hne
    rw [hreg x hx, hb, State.g_event_ne _ _ _ _ hne, hag]
  · intro k
    rw [hreg _ (by simp only [F.TILE_EVT_COUNT]; omega), hb]
    by_cases hk : f.evt = some k
    · rw [if_pos hk, hk]
      show (a.inc _).g _ = _
      rw [State.g_inc_same, hag]
      rfl
    · rw [if_neg hk, State.g_event_ne _ _ _ _ fun d hd => evt_key_ne_evt t k d fun e => hk (e ▸ hd), hag]
  · rw [hse]
    show c.mem = _
    rw [hfl.mem, hbe, ha]; rfl
  · rw [hse]
    show c.red = _
    rw [hfl.red, hbe, ha]; rfl
  · have hcs : Steady b c := hfl.steady
    have hs : Steady r b := by rw [hbe, ha]; exact ⟨rfl, rfl⟩
    have he : Steady c c.armSettle := by rw [hse]; exact ⟨rfl, rfl⟩
    exact (hs.trans hcs).trans he

/-- An instruction in flight that may complete completes. -/
theorem exec_instructionComplete {t : Nat} {s r : State} {f : Flight} (hfind : ((s.tile t).flights.find? fun g => g.id == f.id) = some f)
    (hw : s.working = true) (ha : s.tileAwake t = true) (hm : (s.tile t).mayComplete f = true) (hs : Settled s)
    (hr : r = (s.lateCrc t f).posts t f.stream f.id f.post) (hk : PostKeeps t (s.lateCrc t f) r) :
    ∃ u, exec (.instructionComplete t f.id) s = .next u ∧ Lands t f r u := by
  have hl := landed_lands t f r
  have hst : Steady s (r.landed t f) := ((lateCrc_flushes t f s).steady.trans hk.steady).trans hl.steady
  refine ⟨r.landed t f, ?_, hl⟩
  show execInstructionComplete t f.id s = _
  unfold execInstructionComplete
  rw [hfind]
  have hc : (s.working && s.tileAwake t && (s.tile t).mayComplete f) = true := by simp [hw, ha, hm]
  subst hr
  exact act_next hc s (fun s => ((s.lateCrc t f).posts t f.stream f.id f.post).landed t f)
    ((congrArg StepCtl.due hst.stp).trans hs) hst.waits

end Sys2Proof.Machine
end

section
/-!
Flights complete (R71, R72, R114, R121, R124, R131, R135): what each part of a completion brings, and the obligation.
-/
namespace Sys2Proof.Machine

section
variable (t n id : Nat) (s : State)

theorem post_statLoaded (arr sb : Nat) :
    ((s.post t n id (.statLoaded arr sb)).tile t).stat' arr sb = { (s.tile t).stat' arr sb with loading := false } := by
  simp only [State.post, State.tile_set, State.tile_setTile_same, Tile.stat_setStat]

theorem post_passDone (arr sb k : Nat) (release : Bool) :
    (s.post t n id (.passDone arr sb k release)).g (F.TILE_ARR_PASSES_PASSES t arr) = (s.g (F.TILE_ARR_PASSES_PASSES t arr) + k) % 2 ^ 48
      ∧ ((s.post t n id (.passDone arr sb k release)).tile t).stat' arr sb =
          if release then StatBank.free else (s.tile t).stat' arr sb := by
  have hb : (F.TILE_ARR_PASSES_PASSES t arr).key ≠ (F.TILE_ARR_STATUS_BUSY t arr).key := by
    simp only [Fld.key, F.TILE_ARR_PASSES_PASSES, F.TILE_ARR_STATUS_BUSY, Dom.code]
    omega
  have hg := (s.addTo (F.TILE_ARR_PASSES_PASSES t arr) k).g_count_tile 0x0001 t k (f := F.TILE_ARR_PASSES_PASSES t arr) rfl
  have ht : ((s.addTo (F.TILE_ARR_PASSES_PASSES t arr) k).count 0x0001 t k).tile t = s.tile t := by
    obtain ⟨l, e⟩ := (s.addTo (F.TILE_ARR_PASSES_PASSES t arr) k).count_only 0x0001 t k
    rw [e]; rfl
  rw [State.g_addTo_same] at hg
  have hpass (v : Nat) := (State.g_set_ne _ _ _ v hb).trans hg
  cases release with
  | true => exact ⟨hpass _, by simp only [State.post, if_true, State.tile_setTile_same, Tile.stat_setStat]⟩
  | false => exact ⟨hpass _, congrArg (fun x : Tile => x.stat' arr sb) ht⟩

theorem post_halfLoaded (h : Nat) : (s.post t n id (.halfLoaded h)).g (halfStateF t h) = 2 := by
  rw [State.post, State.g_set_same, (halfStateF_place t h).2.2.2]
  rfl

theorem scoreFull_key_ne {t : Nat} {f : Fld}
    (hf : f ∈ [F.TILE_VEC_STATUS_BUSY t, F.TILE_VEC_STATUS_SFU_BUSY t, F.TILE_SFU_RESULTS_RESULTS t]) (i : Nat) :
    f.key ≠ (scoreFullF t i).key := by
  simp only [List.mem_cons, List.not_mem_nil, or_false] at hf
  unfold scoreFullF
  rcases hf with rfl | rfl | rfl <;> split <;>
    simp only [Fld.key, F.TILE_VEC_STATUS_BUSY, F.TILE_VEC_STATUS_SFU_BUSY, F.TILE_SFU_RESULTS_RESULTS, F.TILE_VEC_STATUS_SB0_FULL,
      F.TILE_VEC_STATUS_SB1_FULL, Dom.code] <;> omega

theorem post_vectorDone (slots : List Nat) (sfu : Nat) :
    (s.post t n id (.vectorDone slots sfu)).g (F.TILE_VEC_STATUS_BUSY t) = 0
      ∧ (s.post t n id (.vectorDone slots sfu)).g (F.TILE_VEC_STATUS_SFU_BUSY t) = 0
      ∧ (s.post t n id (.vectorDone slots sfu)).g (F.TILE_SFU_RESULTS_RESULTS t) = (s.g (F.TILE_SFU_RESULTS_RESULTS t) + sfu) % 2 ^ 48 := by
  have hg {f : Fld} (hd : f.dom = .tile) (hf : ∀ i, f.key ≠ (scoreFullF t i).key) : (s.post t n id (.vectorDone slots sfu)).g f =
      (((s.set (F.TILE_VEC_STATUS_BUSY t) 0).set (F.TILE_VEC_STATUS_SFU_BUSY t) 0).addTo (F.TILE_SFU_RESULTS_RESULTS t) sfu).g f :=
    (g_freeSlots hf slots _).trans (State.g_count_tile _ _ _ _ hd)
  have h1 : (F.TILE_VEC_STATUS_BUSY t).key ≠ (F.TILE_VEC_STATUS_SFU_BUSY t).key := by
    simp only [Fld.key, F.TILE_VEC_STATUS_BUSY, F.TILE_VEC_STATUS_SFU_BUSY, Dom.code]; omega
  have h2 : (F.TILE_VEC_STATUS_BUSY t).key ≠ (F.TILE_SFU_RESULTS_RESULTS t).key := by
    simp only [Fld.key, F.TILE_VEC_STATUS_BUSY, F.TILE_SFU_RESULTS_RESULTS, Dom.code]; omega
  have h3 : (F.TILE_VEC_STATUS_SFU_BUSY t).key ≠ (F.TILE_SFU_RESULTS_RESULTS t).key := by
    simp only [Fld.key, F.TILE_VEC_STATUS_SFU_BUSY, F.TILE_SFU_RESULTS_RESULTS, Dom.code]; omega
  refine ⟨(hg rfl (scoreFull_key_ne (by simp))).trans ?_, (hg rfl (scoreFull_key_ne (by simp))).trans ?_,
    (hg rfl (scoreFull_key_ne (by simp))).trans ?_⟩
  · rw [State.g_addTo_ne _ _ _ _ h2, State.g_set_ne _ _ _ _ h1, State.g_set_same]
    rfl
  · rw [State.g_addTo_ne _ _ _ _ h3, State.g_set_same]
    rfl
  · rw [State.g_addTo_same, State.g_set_ne _ _ _ _ h3.symm, State.g_set_ne _ _ _ _ h2.symm]
    rfl

/-- A segment of the open attempt is released to its ring job (R19). -/
theorem mem_released {s : State} {seg : Nat} (h : s.tilesRun = true) :
    seg ∈ (s.post t n id (.segmentRelease seg s.workAttempt)).red.released := by
  simp only [State.post, State.releaseSegment, h, beq_self_eq_true, Bool.true_and]
  split
  · simp
  · next hc => simpa using hc

theorem Tile.ended_core (x : Tile) (n : Nat) : (Tile.stream (Tile.core x) n).ended = (x.stream n).ended := by
  unfold Tile.stream
  split <;> rfl

/-- END leaves its stream IDLE and ended, with no stationary bank of its own (R121, R124, R135). -/
theorem post_ending {t n id : Nat} {s : State} (hs : NoTraps t s) :
    (s.post t n id .ending).seqState t n = seqIDLE ∧ ((s.post t n id .ending).stream t n).ended = true
      ∧ ∀ e ∈ ((s.post t n id .ending).tile t).stat, e.2.owner ≠ some n := by
  have hk : (F.TILE_SEQ_STATUS_STATE t n).key ≠ (F.TILE_SEQ_STATUS_STALL t n).key := by
    simp only [Fld.key, F.TILE_SEQ_STATUS_STATE, F.TILE_SEQ_STATUS_STALL, Dom.code]; omega
  refine ⟨?_, ?_, ?_⟩
  · show (((s.releaseAll t n).seqTo t n seqIDLE)).g (F.TILE_SEQ_STATUS_STATE t n) = seqIDLE
    rw [State.seqTo, State.g_set_ne _ _ _ _ hk, State.g_set_same]
    rfl
  · exact congrArg Stream.ended (State.stream_setStream_same _ t n _)
  · have e : ((s.post t n id .ending).tile t).stat = ((s.releaseAll t n).tile t).stat := by
      simp only [State.post, State.setStream, State.tile_setTile_same]
      unfold Tile.setStream
      split <;> rfl
    rw [e]
    exact releaseAll_stat hs n

end

/-- Everything that a completed flight leaves or brings but what its parts bring (R131, R135). -/
theorem instructionComplete_answers {t : Nat} {s : State} {f : Flight} {rest : List Flight}
    (htake : takeFirst (fun g => g.id == f.id) (s.tile t).flights = some (f, rest)) (hrest : ∀ g ∈ rest, g.id ≠ f.id)
    (hw : s.working = true) (ha : s.tileAwake t = true) (hm : (s.tile t).mayComplete f = true) (hs : Settled s)
    (hk : PostKeeps t (s.lateCrc t f) ((s.lateCrc t f).posts t f.stream f.id f.post)) :
    ∃ u, exec (.instructionComplete t f.id) s = .next u ∧ Lands t f ((s.lateCrc t f).posts t f.stream f.id f.post) u
      ∧ (u.tile t).flights.map (·.id) = rest.map (·.id)
      ∧ ((∀ p ∈ f.post, p ≠ .ending ∧ ∀ h, p ≠ .halfRead h true) → (u.tile t).flights = rest)
      ∧ OnlyTile t s u ∧ KeepsSram t s u 0 0 ∧ SameMem s u := by
  obtain ⟨hfind, hfilter⟩ := find_of_takeFirst htake
  obtain ⟨u, he, hl⟩ := exec_instructionComplete hfind hw ha hm hs rfl hk
  have hf := lateCrc_flushes t f s
  have hgone : (s.tile t).flights.filter (fun g => g.id != f.id) = rest := hfilter _ (by simp) (by simpa using hrest)
  refine ⟨u, he, hl, ?_, fun hp => ?_, ?_, fun x _ => ?_, ?_⟩
  · calc (u.tile t).flights.map (·.id)
        = ((((s.lateCrc t f).posts t f.stream f.id f.post).tile t).flights.map (·.id)).filter (· != f.id) := by
          rw [hl.flights, List.filter_map]; rfl
      _ = ((s.tile t).flights.map (·.id)).filter (· != f.id) := by rw [hk.ids, hf.flights]
      _ = rest.map (·.id) := by rw [List.filter_map, ← hgone]; rfl
  · rw [hl.flights, posts_flights hp, hf.flights, hgone]
  · exact (OnlyTile.trans (fun v hv => hf.others v hv) hk.others).trans hl.others
  · rw [sramByte, hl.sram, hk.sram, hf.sram]; rfl
  · exact sameMem_of_eq ((hl.mem.trans hk.mem).trans hf.mem)

end Sys2Proof.Machine

namespace Sys2Proof

open Machine

/-- Settles O15: the flight leaves its tile and its event is counted, and each part of its completion brings what it brings. -/
theorem flightsComplete : Obligations.FlightsComplete := by
  intro t w s f rest htake hrest hevt hn hw ha hm hs htraps awaits
  have hf := lateCrc_flushes t f s
  have hrest' := lateCrc_rest t f s
  obtain ⟨s1, hs1⟩ : ∃ s1, s1 = s.lateCrc t f := ⟨_, rfl⟩
  have hN : NoTraps t s1 := by rw [NoTraps, hs1, hf.flights]; exact htraps
  have hk : PostKeeps t s1 (s1.posts t f.stream f.id f.post) := posts_keep hN hn f.id f.post
  rw [← hs1] at hf hrest'
  obtain ⟨u, he, hl, hids, hgone, hothers, hsram, hmem⟩ :=
    instructionComplete_answers htake hrest hw ha hm hs (by rw [← hs1]; exact hk)
  rw [← hs1] at hl
  have hu (x : Fld) (hx : UnitFld t x) : u.g x = (s1.posts t f.stream f.id f.post).g x :=
    hl.g_unit (fun c hc => evtOf_lt (hevt ▸ hc)) hx
  have hsg (x : Fld) (hx : UnitFld t x) : s1.g x = s.g x := hf.regs x (by have := hx.off; omega)
  have hstat (arr sb : Nat) : (s1.tile t).stat' arr sb = (s.tile t).stat' arr sb := by
    have e := congrArg (fun x : Tile => x.stat' arr sb) hf.core
    exact e
  have hustat (arr sb : Nat) : (u.tile t).stat' arr sb = ((s1.posts t f.stream f.id f.post).tile t).stat' arr sb := by
    have e := congrArg (fun x : Tile => x.stat' arr sb) hl.core
    exact e
  refine ⟨u, he, hids, fun c hc => ?_, hgone, hothers, hsram, hmem, ?_, ?_, ?_, ?_, ?_, ?_, ?_, ?_⟩
  · rw [hl.events, hk.events c hc, hf.regs _ (by simp only [F.TILE_EVT_COUNT]; omega), hevt]
  · intro arr sb _ hp
    rw [hustat, hp]
    exact (post_statLoaded t f.stream f.id s1 arr sb).trans (by rw [hstat])
  · intro arr sb k release _ hp
    obtain ⟨hpass, hbank⟩ := post_passDone t f.stream f.id s1 arr sb k release
    have hb : UnitFld t (F.TILE_ARR_PASSES_PASSES t arr) := unitFld_of_mem (i := arr) (by simp [unitFields])
    rw [hustat, hu _ hb, hp]
    exact ⟨hpass.trans (by rw [hsg _ hb]), hbank.trans (by rw [hstat])⟩
  · intro h _ hp
    rw [hu _ (unitFld_halfState t h), hp]
    exact post_halfLoaded t f.stream f.id s1 h
  · intro h _ hp
    have hhalf : (u.tile t).half h = ((s1.posts t f.stream f.id f.post).tile t).half h := by
      have e := congrArg (fun x : Tile => x.half h) hl.core
      exact e
    have haw : awaits h = (s1.tile t).awaits h := by rw [Tile.awaits, hf.flights]
    rw [haw, hhalf, hu _ (unitFld_halfState t h), hp]
    exact ⟨fun hnone => freeHalf_free hnone, fun g e hsome => freeHalf_filled hsome hN⟩
  · intro ou b _ _ hp
    have hbank : u.bank t ou b = (s1.posts t f.stream f.id f.post).bank t ou b := by
      have e := congrArg (fun x : Tile => Sparse.get Bank.empty (2 * ou + b) x.banks) hl.core
      exact e
    rw [hbank, State.bankState, hu _ (unitFld_bankState t ou b), hp]
    exact ⟨State.bankState_setBank s1 t 0 ou b bkEMPTY Bank.empty (by decide), State.bank_setBank s1 t 0 ou b bkEMPTY Bank.empty⟩
  · intro slots sfu hp
    obtain ⟨hbusy, hsfu, hres⟩ := post_vectorDone t f.stream f.id s1 slots sfu
    have hm0 {x : Fld} (hx : x ∈ unitFields t 0) : UnitFld t x := unitFld_of_mem hx
    have hr : UnitFld t (F.TILE_SFU_RESULTS_RESULTS t) := hm0 (by simp [unitFields])
    rw [hu _ (hm0 (by simp [unitFields])), hu _ (hm0 (by simp [unitFields])), hu _ hr, hp]
    exact ⟨hbusy, hsfu, hres.trans (by rw [hsg _ hr])⟩
  · intro seg hp hrun
    have hatt : s1.workAttempt = s.workAttempt := by
      have e := congrArg State.workAttempt hrest'
      exact e
    have hr1 : s1.tilesRun = true := by
      have e := congrArg State.tilesRun hrest'
      exact e.trans hrun
    rw [hl.red, hp, ← hatt]
    exact mem_released t f.stream f.id hr1
  · intro hp
    obtain ⟨hidle, hended, hbanks⟩ := post_ending (n := f.stream) (id := f.id) hN
    have hcore : (u.stream t f.stream).ended = ((s1.posts t f.stream f.id f.post).stream t f.stream).ended := by
      have e := congrArg (fun x : Tile => (x.stream f.stream).ended) hl.core
      exact (Tile.ended_core _ _).symm.trans (e.trans (Tile.ended_core _ _))
    have hustat' : (u.tile t).stat = ((s1.posts t f.stream f.id f.post).tile t).stat := by
      have e := congrArg Tile.stat hl.core
      exact e
    refine ⟨?_, ?_, ?_⟩
    · rw [State.seqState, hl.regs, hp]
      · exact hidle
      · simp only [F.TILE_SEQ_STATUS_STATE]; omega
      · intro c hc
        exact Fld.key_ne_of_place (by simp [F.TILE_SEQ_STATUS_STATE]) (by simp [F.TILE_EVT_COUNT]) (.inl (by
          simp only [F.TILE_SEQ_STATUS_STATE, F.TILE_EVT_COUNT]; omega))
    · rw [hcore, hp]; exact hended
    · rw [hustat', hp]; exact hbanks

end Sys2Proof
end

section
/-!
Array feeds (R59, R60, R69, R149): what SLOAD, GBLOAD and OUSET leave when they issue.
-/
namespace Sys2Proof.Machine

section
variable {t n w : Nat} {v : State}

/-- SLOAD into a bank that is free or the stream's own and that no flight uses (R60, R124). -/
theorem ruleSload_flies {arr sb form src : Nat} {rd : List Span} (harr : arr = bitsOf w 16 16) (hsb : sb = bitsOf w 17 17)
    (hform : form = bitsOf w 20 18) (hsrc : src = sramOp (v.stream t n) w 21) (hrd : rd = [sramSpan (src, formSectors form)])
    (hw : onlyBits [(41, 16)] w = true) (h3 : form ≤ 3) (ha : addrCode [(src, formSectors form)] true = 0)
    (hr : reserveStall (v.tile t) n rd [] = none)
    (ho : ((v.tile t).stat' arr sb).owner = none ∨ ((v.tile t).stat' arr sb).owner = some n)
    (hu : (v.tile t).flights.any (Flight.usesBank arr sb) = false) (hb : firstBad (v.tile t).badSectors src (formSectors form) = none) :
    ruleSload t n w v =
      .flies ((v.setTile t fun x => x.setStat arr sb ⟨some n, true, x.block form src⟩).set (F.TILE_ARR_STATUS_LOADING t arr) 1)
        { rd := rd, post := [.statLoaded arr sb] } := by
  subst harr hsb hform hsrc hrd
  have hfield : (!onlyBits [(41, 16)] w || decide (3 < bitsOf w 20 18)) = false := by simp [hw, h3]
  have hown : ¬((((v.tile t).stat' (bitsOf w 16 16) (bitsOf w 17 17)).owner.isSome
      ∧ ((v.tile t).stat' (bitsOf w 16 16) (bitsOf w 17 17)).owner ≠ some n)
      ∨ (v.tile t).flights.any (Flight.usesBank (bitsOf w 16 16) (bitsOf w 17 17)) = true) := by
    rcases ho with h | h <;> simp [h, hu]
  simp only [ruleSload, hfield, ha, reserved_free hr, hb, if_neg hown, Option.isSome_none, ne_eq, not_true_eq_false, if_false,
    Bool.false_eq_true]

/-- GBLOAD into a half that is free (R69, R125). -/
theorem ruleGbload_flies {h form src : Nat} {rd : List Span} (hh : h = bitsOf w 16 16) (hform : form = bitsOf w 19 17)
    (hsrc : src = sramOp (v.stream t n) w 20) (hrd : rd = [sramSpan (src, formSectors form)])
    (hw : onlyBits [(40, 16)] w = true) (h3 : form ≤ 3) (ha : addrCode [(src, formSectors form)] true = 0)
    (hr : reserveStall (v.tile t) n rd [] = none) (h0 : v.g (halfStateF t h) = 0)
    (hb : firstBad (v.tile t).badSectors src (formSectors form) = none) :
    ruleGbload t n w v =
      .flies (((v.setTile t fun x => x.setHalf h ⟨some n, x.block form src⟩).set (halfStateF t h) 1).set (halfFormF t h) form)
        { rd := rd, post := [.halfLoaded h] } := by
  subst hh hform hsrc hrd
  have hfield : (!onlyBits [(40, 16)] w || decide (3 < bitsOf w 19 17)) = false := by simp [hw, h3]
  simp only [ruleGbload, hfield, ha, reserved_free hr, hb, h0, Option.isSome_none, ne_eq, not_true_eq_false, if_false, Bool.false_eq_true]

/-- What OUSET makes of its stream (R149). -/
def Stream.withSetup (w : Nat) (q : OuSetup) (y : Stream) : Stream := if bitOf w 16 then { y with setup1 := q } else { y with setup0 := q }

theorem ruleOuset_done {q : OuSetup} (hq : q = ⟨bitsOf w 63 32, bitsOf w 95 64, bitsOf w 127 96⟩)
    (hw : onlyBits [(16, 16), (127, 32)] w = true) (hm : modeOk q.mode = true) (hp : postopOk q.postop = true) :
    ruleOuset t n w v = .done (v.setStream t n (Stream.withSetup w q)) := by
  subst hq
  simp only [ruleOuset, hw, hm, hp, Bool.not_true, Bool.false_eq_true, if_false]
  rfl

theorem Stream.withSetup_x (w : Nat) (q : OuSetup) (y : Stream) : (y.withSetup w q).x = y.x ∧ (y.withSetup w q).k = y.k := by
  unfold Stream.withSetup
  split <;> exact ⟨rfl, rfl⟩

theorem bitOf_iff (w i : Nat) : bitOf w i = decide (bitsOf w i i = 1) := by
  simp [bitOf, bitsOf, Nat.testBit_eq_decide_div_mod_eq]

/-- The setup of the output unit that the word names is new, the other as it was. -/
theorem Stream.setup_withSetup (w : Nat) (q : OuSetup) (y : Stream) (o : Nat) (ho : o < 2) :
    (y.withSetup w q).setup o = if o = bitsOf w 16 16 then q else y.setup o := by
  have hb := bitsOf_lt w 16 16 1 (by decide)
  unfold Stream.withSetup Stream.setup
  rw [bitOf_iff]
  by_cases h1 : bitsOf w 16 16 = 1
  · obtain rfl | rfl : o = 0 ∨ o = 1 := by omega
    · simp [h1]
    · simp [h1]
  · have h0 : bitsOf w 16 16 = 0 := by omega
    obtain rfl | rfl : o = 0 ∨ o = 1 := by omega
    · simp [h0]
    · simp [h0]

end

/-- A load in flight, with its data come, may complete (R60, R69). -/
theorem mayComplete_load {x : Tile} {f : Flight} {p : Post} (hr : f.ready = true) (hw : f.waiting = []) (hf : f.fills = []) (hp : f.post = [p])
    (he : p ≠ .ending) (hh : ∀ h, p ≠ .halfRead h true) : x.mayComplete f = true := by
  unfold Tile.mayComplete
  rw [hr, hw, hf, hp]
  cases p with
  | ending => exact absurd rfl he
  | halfRead h release =>
    cases release with
    | true => exact absurd rfl (hh h)
    | false => rfl
  | _ => rfl

end Sys2Proof.Machine

namespace Sys2Proof

open Machine

/-- Settles O11: SLOAD and GBLOAD issue into their bank or half, OUSET into its stream's setup, and the completion of a load ends it. -/
theorem arrayFeedsLoad : Obligations.ArrayFeedsLoad := by
  intro t n w bad s v x
  refine ⟨?_, ?_, ?_, ?_⟩
  · intro arr sb form src rd h hw h3 ha hr ho hu hb
    have hunit : UnitFld t (F.TILE_ARR_STATUS_LOADING t arr) := unitFld_of_mem (i := arr) (by simp [unitFields])
    obtain ⟨u, he, hf⟩ := flies_of h rfl ruleSload
      (ruleSload_flies rfl rfl rfl (by rw [State.upset_stream]) rfl hw h3 ha hr ho hu hb)
      (((Calm.upset s t n bad).tile t (fun y => y.setStat arr sb ⟨some n, true, y.block form src⟩) rfl ⟨rfl, rfl⟩).setUnit h.stream hunit 1)
    refine ⟨u, he, hf, ?_, ?_, ?_⟩
    · rw [hf.stat, State.tile_set, State.tile_setTile_same, Tile.stat_setStat]
    · rw [hf.g_unit h.stream hunit, State.g_set_same]
      rfl
    · exact hf.keepsSram (by rw [State.tile_set, State.tile_setTile_same]; exact sram_upset s t bad)
  · intro k form src rd h hw h3 ha hr h0 hb
    have hk : ∀ y : Tile, ∃ a b, y.setHalf k ⟨some n, y.block form src⟩ = { y with half0 := a, half1 := b } := fun y => y.setHalf_only k _
    have hc : Calm t n s (v.setTile t fun y => y.setHalf k ⟨some n, y.block form src⟩) := (Calm.upset s t n bad).tile t _
      (by obtain ⟨a, b, e⟩ := hk (v.tile t); rw [e]) (by obtain ⟨a, b, e⟩ := hk (v.tile t); rw [e]; exact ⟨rfl, rfl⟩)
    obtain ⟨u, he, hf⟩ := flies_of h rfl ruleGbload
      (ruleGbload_flies rfl rfl (by rw [State.upset_stream]) rfl hw h3 ha hr ((s.g_upset t bad _).trans h0) hb)
      ((hc.setUnit h.stream (unitFld_halfState t k) 1).setUnit h.stream (unitFld_halfForm t k) form)
    refine ⟨u, he, hf, ?_, ?_, ?_, ?_⟩
    · rw [hf.half, State.tile_set, State.tile_set, State.tile_setTile_same, Tile.half_setHalf]
    · rw [hf.g_unit h.stream (unitFld_halfState t k), State.g_set_ne _ _ _ _ (halfForm_key_ne_state t k k).symm, State.g_set_same,
        (halfStateF_place t k).2.2.2]
      rfl
    · rw [hf.g_unit h.stream (unitFld_halfForm t k), State.g_set_same, (halfFormF_place t k).2.2.2]
      exact Nat.mod_eq_of_lt (lt_of_le_of_lt h3 (by decide))
    · refine hf.keepsSram ?_
      obtain ⟨a, b, e⟩ := hk (v.tile t)
      rw [State.tile_set, State.tile_set, State.tile_setTile_same, e]
      exact sram_upset s t bad
  · intro ou q h hw hm hp
    obtain ⟨u, he, hi, hc, hu⟩ := issueOp_stream h rfl ruleOuset (Stream.withSetup w q) (ruleOuset_done rfl hw hm hp)
    have hou : ou < 2 := bitsOf_lt w 16 16 1 (by decide)
    refine ⟨u, he, hi, hc, ?_, fun o hne ho => ?_, ?_, ?_⟩
    · rw [hu, Stream.setup_withSetup w q _ ou hou, if_pos rfl]
    · rw [hu, Stream.setup_withSetup w q _ o ho, if_neg hne]
    · rw [hu, (Stream.withSetup_x w q _).1]
    · rw [hu, (Stream.withSetup_x w q _).2]
  · intro f rest k htake hrest hready hwait hfills hw ha hs
    have hf := lateCrc_flushes t f s
    refine ⟨fun sb _ hp => ?_, fun _ hp => ?_⟩
    · have hk : PostKeeps t (s.lateCrc t f) ((s.lateCrc t f).posts t f.stream f.id f.post) := by
        rw [hp]
        exact .statLoaded _ f.stream f.id k sb
      have hm : (s.tile t).mayComplete f = true := mayComplete_load hready hwait hfills hp (by simp) (by simp)
      obtain ⟨u, he, hl, -, hgone, hothers, hsram, -⟩ := instructionComplete_answers htake hrest hw ha hm hs hk
      have e := congrArg (fun y : Tile => (y.stat' k sb).loading) hl.core
      refine ⟨u, he, hgone (by simp [hp]), ?_, hothers, hsram⟩
      refine Eq.trans e ?_
      rw [hp]
      exact congrArg StatBank.loading (post_statLoaded t f.stream f.id (s.lateCrc t f) k sb)
    · have hk : PostKeeps t (s.lateCrc t f) ((s.lateCrc t f).posts t f.stream f.id f.post) := by
        rw [hp]
        exact .halfLoaded _ f.stream f.id k
      have hm : (s.tile t).mayComplete f = true := mayComplete_load hready hwait hfills hp (by simp) (by simp)
      obtain ⟨u, he, hl, -, hgone, hothers, hsram, -⟩ := instructionComplete_answers htake hrest hw ha hm hs hk
      refine ⟨u, he, hgone (by simp [hp]), ?_, ?_, hothers, hsram⟩
      · obtain ⟨hu, -, hlo, -⟩ := halfStateF_place t k
        rw [hl.regs _ (by have := hu.off; omega) fun c _ => Fld.key_ne_of_place hu.lo (by simp [F.TILE_EVT_COUNT]) (.inr (by
          rw [hlo]
          simp only [F.TILE_EVT_COUNT]
          split <;> decide)), hp]
        exact post_halfLoaded t f.stream f.id (s.lateCrc t f) k
      · have e := congrArg (fun y : Tile => y.half k) hl.core
        have e1 := congrArg (fun y : Tile => y.half k) hf.core
        rw [hp] at e
        exact e.trans e1

end Sys2Proof
end

section
/-!
Array passes run (R62 to R77, R150): what one pass leaves, what the passes of an MPASS leave together, and the obligation.
-/
namespace Sys2Proof.Machine

/-- The fields that show an array's last pass (TILE_ARRn_STATUS). -/
def passStatus (t prec : Nat) (p : PassReq) (c : Int) : List (Fld × Nat) :=
  [(F.TILE_ARR_STATUS_BUSY t p.arr, 1), (F.TILE_ARR_STATUS_PREC t p.arr, prec), (F.TILE_ARR_STATUS_KIND t p.arr, p.kind),
    (F.TILE_ARR_STATUS_SBANK t p.arr, p.sb), (F.TILE_ARR_STATUS_C_LAST t p.arr, patternOf 9 c)]

theorem passStatus_place {t prec : Nat} {p : PassReq} {c : Int} {e : Fld × Nat} (h : e ∈ passStatus t prec p c) :
    UnitFld t e.1 ∧ e.1.off = 0x1000400 + 0x10000 * t + 0x8 * p.arr := by
  simp only [passStatus, List.mem_cons, List.not_mem_nil, or_false] at h
  rcases h with rfl | rfl | rfl | rfl | rfl <;> exact ⟨unitFld_of_mem (i := p.arr) (by simp [unitFields]), rfl⟩

/-- What a pass contributes to its accumulator bank, from the stationary block and the precision that its array is set to (R46, R73). -/
def passSum (t n : Nat) (p : PassReq) (a : Block) (s : State) : List Nat :=
  (contributions p.kind (((s.stream t n).setup p.arr).mode % 8) a ((s.tile t).stat' p.arr p.sb).block).1

/-- An array and a bank that the tile has. -/
abbrev PassReq.Real (p : PassReq) : Prop := p.arr < 2 ∧ p.ab < 2

/-- A pass has run: its contributions are in its bank, which is LIVE and its stream's, and its array is busy. -/
structure PassRan (t n : Nat) (p : PassReq) (xs : List Nat) (s u : State) : Prop where
  bank : u.bank t p.arr p.ab = (s.bank t p.arr p.ab).accumulate xs
  state : u.bankState t p.arr p.ab = bkLIVE
  owner : u.g (bankStreamF t p.arr p.ab) = n
  busy : u.g (F.TILE_ARR_STATUS_BUSY t p.arr) = 1

/-- The bank and the array of a pass are as they were. -/
structure PassKeeps (t : Nat) (p : PassReq) (s u : State) : Prop where
  bank : u.bank t p.arr p.ab = s.bank t p.arr p.ab
  state : u.bankState t p.arr p.ab = s.bankState t p.arr p.ab
  owner : u.g (bankStreamF t p.arr p.ab) = s.g (bankStreamF t p.arr p.ab)
  busy : u.g (F.TILE_ARR_STATUS_BUSY t p.arr) = s.g (F.TILE_ARR_STATUS_BUSY t p.arr)

theorem PassKeeps.trans {t : Nat} {p : PassReq} {s r u : State} (h : PassKeeps t p s r) (k : PassKeeps t p r u) : PassKeeps t p s u :=
  ⟨k.bank.trans h.bank, k.state.trans h.state, k.owner.trans h.owner, k.busy.trans h.busy⟩

theorem PassRan.keeps {t n : Nat} {p : PassReq} {xs : List Nat} {s r u : State} (h : PassRan t n p xs s r) (k : PassKeeps t p r u) :
    PassRan t n p xs s u :=
  ⟨k.bank.trans h.bank, k.state.trans h.state, k.owner.trans h.owner, k.busy.trans h.busy⟩

/-- A later pass finds the bank that an earlier one has left. -/
theorem PassKeeps.ran {t n : Nat} {p : PassReq} {xs : List Nat} {s r u : State} (h : PassKeeps t p s r) (k : PassRan t n p xs r u) :
    PassRan t n p xs s u :=
  ⟨k.bank.trans (by rw [h.bank]), k.state, k.owner, k.busy⟩

section
variable {t n : Nat} {a : Block}

theorem runPass_eq (p : PassReq) (s : State) : runPass t n p a s =
    (s.setBank t n p.arr p.ab bkLIVE ((s.bank t p.arr p.ab).accumulate (passSum t n p a s))).setAll
      (passStatus t (((s.stream t n).setup p.arr).mode % 8) p
        (contributions p.kind (((s.stream t n).setup p.arr).mode % 8) a ((s.tile t).stat' p.arr p.sb).block).2) := by
  simp only [runPass, passSum]
  generalize contributions p.kind (((s.stream t n).setup p.arr).mode % 8) a ((s.tile t).stat' p.arr p.sb).block = q
  obtain ⟨xs, c⟩ := q
  rfl

theorem setAll_tile (s : State) (l : List (Fld × Nat)) (v : Nat) : (s.setAll l).tile v = s.tile v := by
  rw [State.setAll_fld]; rfl

/-- A pass changes nothing of its tile but the accumulator banks. -/
theorem runPass_tile (p : PassReq) (s : State) : ∃ b, (runPass t n p a s).tile t = { s.tile t with banks := b } := by
  rw [runPass_eq, setAll_tile, State.setBank_tile]
  exact ⟨_, rfl⟩

theorem passSum_runPass (p q : PassReq) (s : State) : passSum t n q a (runPass t n p a s) = passSum t n q a s := by
  obtain ⟨b, e⟩ := runPass_tile (t := t) (n := n) (a := a) p s
  unfold passSum State.stream
  rw [e]; rfl

theorem runPass_calm {s r : State} (c : Calm t n s r) (hn : n < 2) (p : PassReq) : Calm t n s (runPass t n p a r) := by
  rw [runPass_eq]
  exact (c.setBank hn n p.arr p.ab bkLIVE _).setAll_unit hn _ fun e he => (passStatus_place he).1

theorem bank_setAll (s : State) (l : List (Fld × Nat)) (ou b : Nat) : (s.setAll l).bank t ou b = s.bank t ou b := by
  rw [State.bank, setAll_tile]; rfl

/-- A unit's field at another offset than the arrays' status keeps its value through the status of a pass. -/
theorem g_passStatus {s : State} {prec : Nat} {p : PassReq} {c : Int} {f : Fld} (hf : UnitFld t f)
    (ho : f.off ≠ 0x1000400 + 0x10000 * t + 0x8 * p.arr) : (s.setAll (passStatus t prec p c)).g f = s.g f :=
  State.g_setAll_ne _ s f fun e he => by
    obtain ⟨hu, hp⟩ := passStatus_place he
    exact hf.key_ne hu (.inl (by rw [hp]; exact ho))

theorem runPass_ran (hn : n < 2) (p : PassReq) (s : State) : PassRan t n p (passSum t n p a s) s (runPass t n p a s) := by
  obtain ⟨hs, hso, -⟩ := bankStateF_place t p.arr p.ab
  obtain ⟨ho, hoo, -⟩ := bankStreamF_place t p.arr p.ab
  rw [runPass_eq]
  refine ⟨?_, ?_, ?_, ?_⟩
  · rw [bank_setAll, State.bank_setBank]
  · rw [State.bankState, g_passStatus hs (by omega)]
    exact State.bankState_setBank s t n p.arr p.ab bkLIVE _ (by decide)
  · rw [g_passStatus ho (by omega)]
    exact State.bankStream_setBank s t n p.arr p.ab bkLIVE _ hn
  · rw [g_setAll_of_mem (e := (F.TILE_ARR_STATUS_BUSY t p.arr, 1)) ?_ (by simp [passStatus])]
    · rfl
    · simp only [passStatus, List.map_cons, List.map_nil, List.nodup_cons, List.mem_cons, List.not_mem_nil, or_false, Fld.key,
        F.TILE_ARR_STATUS_BUSY, F.TILE_ARR_STATUS_PREC, F.TILE_ARR_STATUS_KIND, F.TILE_ARR_STATUS_SBANK, F.TILE_ARR_STATUS_C_LAST, Dom.code,
        List.nodup_nil, not_false_eq_true, and_true]
      omega

theorem runPass_keeps {p q : PassReq} (hp : p.Real) (hq : q.Real) (hne : q.arr ≠ p.arr) (s : State) :
    PassKeeps t q s (runPass t n p a s) := by
  obtain ⟨hp1, hp2⟩ := hp
  obtain ⟨hq1, hq2⟩ := hq
  obtain ⟨hs, hso, -⟩ := bankStateF_place t q.arr q.ab
  obtain ⟨ho, hoo, -⟩ := bankStreamF_place t q.arr q.ab
  obtain ⟨hs', hso', -⟩ := bankStateF_place t p.arr p.ab
  obtain ⟨ho', hoo', -⟩ := bankStreamF_place t p.arr p.ab
  have hb : UnitFld t (F.TILE_ARR_STATUS_BUSY t q.arr) := unitFld_of_mem (i := q.arr) (by simp [unitFields])
  have hbo : (F.TILE_ARR_STATUS_BUSY t q.arr).off = 0x1000400 + 0x10000 * t + 0x8 * q.arr := rfl
  have hg {f : Fld} (hf : UnitFld t f) (h1 : f.off ≠ 0x1000400 + 0x10000 * t + 0x8 * p.arr)
      (h2 : f.off ≠ 0x1000440 + 0x10000 * t + 0x8 * p.arr) : (runPass t n p a s).g f = s.g f := by
    rw [runPass_eq, g_passStatus hf h1, State.g_setBank_ne _ _ _ _ _ _ _ (hf.key_ne hs' (.inl (by omega)))
      (hf.key_ne ho' (.inl (by omega)))]
  refine ⟨?_, hg hs (by omega) (by omega), hg ho (by omega) (by omega), hg hb (by omega) (by omega)⟩
  rw [runPass_eq, bank_setAll, State.bank_setBank_ne _ _ _ _ _ _ _ (by omega)]

theorem passSum_upset (p : PassReq) (s : State) (bad : List Nat) : passSum t n p a (s.upset t bad) =
    (contributions p.kind (((s.stream t n).setup p.arr).mode % 8) a (((s.upset t bad).tile t).stat' p.arr p.sb).block).1 := by
  rw [passSum, State.upset_stream]

/-- Passes one after another. -/
def runPasses (t n : Nat) (a : Block) (l : List PassReq) (s : State) : State := l.foldl (fun s p => runPass t n p a s) s

theorem runPasses_calm {s r : State} (c : Calm t n s r) (hn : n < 2) (l : List PassReq) : Calm t n s (runPasses t n a l r) := by
  induction l generalizing r with
  | nil => exact c
  | cons p l ih => exact ih (runPass_calm c hn p)

theorem runPasses_sram (l : List PassReq) (s : State) : ((runPasses t n a l s).tile t).sram = (s.tile t).sram := by
  induction l generalizing s with
  | nil => rfl
  | cons p l ih =>
    obtain ⟨b, e⟩ := runPass_tile (t := t) (n := n) (a := a) p s
    exact (ih _).trans (by rw [e])

theorem runPasses_keeps {q : PassReq} (hq : q.Real) {l : List PassReq} (hl : ∀ p ∈ l, p.Real ∧ q.arr ≠ p.arr) (s : State) :
    PassKeeps t q s (runPasses t n a l s) := by
  induction l generalizing s with
  | nil => exact ⟨rfl, rfl, rfl, rfl⟩
  | cons p l ih =>
    obtain ⟨hp, hne⟩ := hl p (by simp)
    exact (runPass_keeps hp hq hne s).trans (ih (fun r hr => hl r (by simp [hr])) _)

/-- Passes on different arrays all run, each from the state before them all. -/
theorem runPasses_ran (hn : n < 2) {l : List PassReq} (hreal : ∀ p ∈ l, p.Real) (hd : l.Pairwise fun p q => p.arr ≠ q.arr) (s : State) :
    ∀ p ∈ l, PassRan t n p (passSum t n p a s) s (runPasses t n a l s) := by
  induction l generalizing s with
  | nil => simp
  | cons q l ih =>
    obtain ⟨hq, hd⟩ := List.pairwise_cons.1 hd
    have hl : ∀ p ∈ l, p.Real := fun p hp => hreal p (by simp [hp])
    intro p hp
    rcases List.mem_cons.1 hp with rfl | hp
    · exact (runPass_ran hn p s).keeps (runPasses_keeps (hreal p (by simp)) (fun r hr => ⟨hl r hr, hq r hr⟩) _)
    · have h := ih hl hd (runPass t n q a s) p hp
      rw [passSum_runPass] at h
      exact (runPass_keeps (hreal q (by simp)) (hl p hp) (hq p hp).symm s).ran h

end

/-- The passes of an MPASS are on different arrays, with banks that there are (R148, R150). -/
theorem passReqs_real (w : Nat) : (∀ p ∈ passReqs w, p.Real) ∧ (passReqs w).Pairwise fun p q => p.arr ≠ q.arr := by
  have hb (i : Nat) : bitsOf w i i ≤ 1 := Nat.le_of_lt_succ (bitsOf_lt w i i 1 (by omega))
  simp only [passReqs]
  split
  · simp [PassReq.Real, hb]
  · split <;> simp [PassReq.Real, hb]

/-- An MPASS that meets nothing at issue runs its passes (R150, R156). -/
theorem ruleMpass_flies {t n w sel src prec : Nat} {v r : State} {y : Stream} {reqs : List PassReq} {rd : List Span} {a : Block}
    (hy : v.stream t n = y) (hsel : sel = bitsOf w 25 24) (hreqs : reqs = passReqs w) (hsrc : src = sramOp y w 26)
    (hprec : prec = (y.setup (if bitsOf w 17 16 = 1 then 1 else 0)).mode % 8)
    (hrd : rd = if sel = 0 then [sramSpan (src, formSectors prec)] else [])
    (ha : a = if sel = 0 then (v.tile t).block prec src else ((v.tile t).half (sel - 1)).block) (hrun : r = runPasses t n a reqs v)
    (hw : mpassFieldsOk w = true) (hkind : sel = 0 → reqs.any (fun p => p.kind == kW) = false)
    (haddr : sel = 0 → addrCode [(src, formSectors prec)] true = 0) (hr : reserveStall (v.tile t) n rd [] = none)
    (hhalf : sel ≠ 0 → halfGate t n (sel - 1) v = none) (hb : sel = 0 → firstBad (v.tile t).badSectors src (formSectors prec) = none)
    (hgate : ∀ p ∈ reqs, passGate t n v p (if sel = 0 then none else some (sel - 1)) a = none) :
    ruleMpass t n w v = .flies (if sel = 0 then r else r.set (halfStateF t (sel - 1)) 3)
      { rd := rd, post := reqs.map (fun p => Post.passDone p.arr p.sb (passesOf ((y.setup p.arr).mode % 8)).length (bitOf w 47))
          ++ (if sel = 0 then [] else [.halfRead (sel - 1) (bitOf w 48)]) } := by
  have hgates : (reqs.findSome? fun p => passGate t n v p (if sel = 0 then none else some (sel - 1)) a) = none :=
    List.findSome?_eq_none_iff.2 hgate
  subst hy hsel hreqs hsrc hprec hrd ha hrun
  unfold ruleMpass
  by_cases h0 : bitsOf w 25 24 = 0
  · simp only [h0, if_true] at *
    simp only [hw, hkind, haddr, reserved_free hr, hgates, hb, Bool.not_true, Bool.false_eq_true, ne_eq, not_true_eq_false, if_false, and_false,
      Option.isSome_none]
    rfl
  · have hfree := hhalf h0
    simp only [h0, if_false] at *
    simp only [hw, reserved_free hr, hfree, hgates, Bool.not_true, Bool.false_eq_true, ne_eq, not_true_eq_false, if_false, false_and]
    rfl

end Sys2Proof.Machine

namespace Sys2Proof

open Machine

/-- Settles O12: the passes of the word are on different arrays, so each finds its bank and its stationary block as they were at issue. -/
theorem arrayPassesRun : Obligations.ArrayPassesRun := by
  intro t n w bad s v x y sel reqs src prec rd a r h hw hkind haddr hr hhalf hb hgate
  have hy : v.stream t n = y := State.upset_stream s t bad n
  obtain ⟨hreal, hdistinct⟩ := passReqs_real w
  have hrun : r = runPasses t n a reqs v := rfl
  have hcalm : Calm t n s r := runPasses_calm (Calm.upset s t n bad) h.stream reqs
  have hk : UnitFld t (halfStateF t (sel - 1)) := unitFld_halfState t (sel - 1)
  have hcalm' : Calm t n s (if sel = 0 then r else r.set (halfStateF t (sel - 1)) 3) := by
    split
    · exact hcalm
    · exact hcalm.setUnit h.stream hk 3
  obtain ⟨u, he, hf⟩ := flies_of h rfl ruleMpass
    (ruleMpass_flies (v := v) hy rfl rfl rfl rfl rfl rfl hrun hw hkind haddr hr hhalf hb hgate) hcalm'
  have htile : (if sel = 0 then r else r.set (halfStateF t (sel - 1)) 3).tile t = r.tile t := by split <;> rfl
  have hreg {f : Fld} (hu : UnitFld t f) (ho : f.off ≠ 0x1000450 + 0x10000 * t) : u.g f = r.g f := by
    rw [hf.g_unit h.stream hu]
    split
    · rfl
    · exact State.g_set_ne _ _ _ _ (hu.key_ne hk (.inl (by rw [(halfStateF_place t (sel - 1)).2.1]; exact ho)))
  refine ⟨u, he, hf, fun p hp => ?_, hf.keepsSram ?_⟩
  · obtain ⟨hs, hso, -⟩ := bankStateF_place t p.arr p.ab
    obtain ⟨ho, hoo, -⟩ := bankStreamF_place t p.arr p.ab
    have hbusy : UnitFld t (F.TILE_ARR_STATUS_BUSY t p.arr) := unitFld_of_mem (i := p.arr) (by simp [unitFields])
    have hbo : (F.TILE_ARR_STATUS_BUSY t p.arr).off = 0x1000400 + 0x10000 * t + 0x8 * p.arr := rfl
    obtain ⟨harr, -⟩ := hreal p hp
    obtain ⟨hbank, hstate, howner, hran⟩ := runPasses_ran (a := a) h.stream hreal hdistinct v p hp
    refine ⟨?_, ?_, ?_, ?_⟩
    · have hu : u.bank t p.arr p.ab = r.bank t p.arr p.ab := by rw [hf.bank, State.bank, htile, State.bank]
      rw [passSum_upset, bank_upset] at hbank
      exact hu.trans hbank
    · rw [State.bankState, hreg hs (by omega)]
      exact hstate
    · rw [hreg ho (by omega)]
      exact howner
    · rw [hreg hbusy (by omega)]
      exact hran
  · rw [htile]
    exact (runPasses_sram reqs v).trans (sram_upset s t bad)

end Sys2Proof
end

section
/-!
SUPPORT. What transfers to and from bonded memory leave of an instruction's issue, and the lengths of what accumulator pairs are written as.
-/
namespace Sys2Proof.Machine

/-! Lengths. -/

theorem length_leBytes (n v : Nat) : (leBytes n v).length = n := by
  induction n generalizing v with
  | zero => rfl
  | succ n ih => simp [leBytes, ih]

theorem length_wordBytes (l : List Nat) : (wordBytes l).length = 4 * l.length := by
  simp [wordBytes, List.length_flatMap, length_leBytes, Nat.mul_comm]

theorem Bank.length_planes (b : Bank) : b.planes.length = 16384 := by
  simp only [Bank.planes, List.length_append, List.length_take, List.length_replicate]
  omega

theorem length_pairBytes (l : List Pair) : (pairBytes l).length = 8 * l.length := by
  simp only [pairBytes, List.length_append, length_wordBytes, List.length_map]
  omega

/-! Transfers. -/

/-- Counting a move changes counters only, none of a tile (R484). -/
theorem countMove_only (t kind k : Nat) (s : State) :
    ∃ l, countMove t kind k s = { s with fld := l } ∧ ∀ f : Fld, f.dom = .tile → (countMove t kind k s).g f = s.g f := by
  have hc (ev j : Nat) : ∃ l, s.count ev t j = { s with fld := l } ∧ ∀ f : Fld, f.dom = .tile → (s.count ev t j).g f = s.g f := by
    obtain ⟨l, e⟩ := s.count_only ev t j
    exact ⟨l, e, fun f hf => s.g_count_tile ev t j hf⟩
  unfold countMove
  split
  · exact hc 0x0020 k
  · split
    · exact hc 0x0022 k
    · exact hc 0x0021 (k / 128)

/-- A transfer between a tile and bonded memory: the tiles' registers and contents, the step controller and the mesh stay. -/
structure Moves (s u : State) : Prop where
  regs : ∀ f : Fld, f.dom = .tile → u.g f = s.g f
  tiles : u.tiles = s.tiles
  stp : u.stp = s.stp
  plan : u.plan = s.plan

theorem Moves.refl (s : State) : Moves s s := ⟨fun _ _ => rfl, rfl, rfl, rfl⟩

theorem Moves.trans {s r u : State} (h : Moves s r) (k : Moves r u) : Moves s u :=
  ⟨fun f hf => (k.regs f hf).trans (h.regs f hf), k.tiles.trans h.tiles, k.stp.trans h.stp, k.plan.trans h.plan⟩

theorem Moves.tile {s u : State} (h : Moves s u) (v : Nat) : u.tile v = s.tile v := by rw [State.tile, h.tiles]; rfl

theorem Moves.countMove (t kind k : Nat) (s : State) : Moves s (countMove t kind k s) := by
  obtain ⟨l, e, hg⟩ := countMove_only t kind k s
  rw [e] at hg ⊢
  exact ⟨hg, rfl, rfl, rfl⟩

theorem Moves.writeMem {s : State} {req a : Nat} {l : List Byte} {n : Nat} (hl : l.length = 64 * n) (h : (s.writeMem req a l).2 = 0) :
    Moves s (s.writeMem req a l).1 := by
  obtain ⟨-, e⟩ := s.writeMem_ok req a l n hl h
  rw [e]
  exact ⟨fun _ _ => rfl, rfl, rfl, rfl⟩

theorem Moves.readMem {s : State} {req a n : Nat} (h : (s.readMem req a n).2.2 = 0) : Moves s (s.readMem req a n).1 := by
  obtain ⟨-, hr⟩ := s.readMem_ok req a n h
  refine ⟨fun f hf => hr.g_tile hf, ?_, ?_, ?_⟩ <;> rw [hr.rest]

/-- A transfer of which no access waits leaves the issue of its instruction alone. -/
theorem Calm.moves {t n : Nat} {s r q : State} (c : Calm t n s r) (hn : n < 2) (h : Moves r q) (hw : Unhindered s q) : Calm t n s q :=
  c.of (fun x hx => h.regs x (issueFields_place hn hx).1) (by rw [h.stp]) (by rw [h.tile]) (by rw [State.stream, h.tile]; exact ⟨rfl, rfl⟩)
    (hw.trans c.waits.symm)

theorem countMove_waits (t kind k : Nat) (s : State) : (countMove t kind k s).waits = s.waits := by
  obtain ⟨l, e, -⟩ := countMove_only t kind k s
  rw [e]

theorem countMove_mem (t kind k : Nat) (s : State) : (countMove t kind k s).mem = s.mem := by
  obtain ⟨l, e, -⟩ := countMove_only t kind k s
  rw [e]

end Sys2Proof.Machine
end

section
/-!
Accumulator pairs move (R79 to R81, R147): what OUSAVE, OURESTORE, CHAINOUT and CHAININ do when nothing holds them, the pair that arrives,
and the obligation.
-/
namespace Sys2Proof.Machine

section
variable {t n w ou b : Nat} {v : State} {p : PairTarget} {out : List Byte}

/-- A bank whose pair has left it (log entry 77). -/
def State.emptied (s : State) (t ou b : Nat) : State := s.setBank t 0 ou b bkEMPTY Bank.empty

theorem ruleOusave_sram (hou : ou = bitsOf w 16 16) (hb : b = bitsOf w 17 17) (hp : p = pairTarget t n w v)
    (hout : out = pairBytes ((v.bank t ou b).planes.map fun q => ⟨noNegZero q.s, noNegZero q.e⟩)) (hc : pairChecks t w p true v = 0)
    (hr : reserveStall (v.tile t) n [] [p.span] = none) (ht : bankTake t n ou b v = none) (hd : p.toDesc = false) :
    ruleOusave t n w v = .flies ((v.emptied t ou b).setTile t fun x => x.writeSram (64 * p.sram) out)
      { wr := [p.span], written := some out } := by
  subst hou hb hp hout
  simp only [ruleOusave, hc, reserved_free hr, ht, hd, ne_eq, not_true_eq_false, if_false, Bool.false_eq_true]
  rfl

theorem ruleOusave_memory (hou : ou = bitsOf w 16 16) (hb : b = bitsOf w 17 17) (hp : p = pairTarget t n w v)
    (hout : out = pairBytes ((v.bank t ou b).planes.map fun q => ⟨noNegZero q.s, noNegZero q.e⟩)) (hc : pairChecks t w p true v = 0)
    (hr : reserveStall (v.tile t) n [] [p.span] = none) (ht : bankTake t n ou b v = none) (hd : p.toDesc = true)
    (hw : ((v.emptied t ou b).writeMem t (p.a.d.base + 64 * p.a.off) out).2 = 0) :
    ruleOusave t n w v = .flies (countMove t p.a.d.kind 2048 ((v.emptied t ou b).writeMem t (p.a.d.base + 64 * p.a.off) out).1)
      { wr := [p.span], written := some out } := by
  subst hou hb hp hout
  unfold State.emptied at hw ⊢
  simp only [ruleOusave, hc, reserved_free hr, ht, hd, hw, ne_eq, not_true_eq_false, if_false, if_true]

theorem ruleOurestore_sram (hou : ou = bitsOf w 16 16) (hb : b = bitsOf w 17 17) (hp : p = pairTarget t n w v)
    (hc : pairChecks t w p false v = 0) (hr : reserveStall (v.tile t) n [p.span] [] = none) (he : v.bankState t ou b = bkEMPTY)
    (hd : p.toDesc = false) (hbad : firstBad (v.tile t).badSectors p.sram 2048 = none) :
    ruleOurestore t n w v = .flies (v.setBank t n ou b bkLIVE ⟨pairsOfBytes ((v.tile t).readSram (64 * p.sram) 131072), none⟩)
      { rd := [p.span] } := by
  subst hou hb hp
  have hf : bankFill t (bitsOf w 16 16) (bitsOf w 17 17) v = none := by simp [bankFill, he]
  simp only [ruleOurestore, hc, reserved_free hr, hf, hd, hbad, ne_eq, not_true_eq_false, if_false, Bool.false_eq_true, Option.isSome_none]

theorem ruleOurestore_memory {r : State × List Byte × Nat} (hou : ou = bitsOf w 16 16) (hb : b = bitsOf w 17 17)
    (hp : p = pairTarget t n w v) (hrd : r = v.readMem t (p.a.d.base + 64 * p.a.off) 2048) (hc : pairChecks t w p false v = 0)
    (hr : reserveStall (v.tile t) n [p.span] [] = none) (he : v.bankState t ou b = bkEMPTY) (hd : p.toDesc = true) (h0 : r.2.2 = 0) :
    ruleOurestore t n w v = .flies
      ((countMove t p.a.d.kind (r.2.1.length / 64) r.1).setBank t n ou b bkLIVE ⟨pairsOfBytes r.2.1, none⟩) { rd := [p.span] } := by
  subst hou hb hp hrd
  have hf : bankFill t (bitsOf w 16 16) (bitsOf w 17 17) v = none := by simp [bankFill, he]
  simp only [ruleOurestore, hc, reserved_free hr, hf, hd, h0, ne_eq, not_true_eq_false, if_false, if_true]

theorem ruleChainout_flies {q : Route} {k : ChanPlan} (hou : ou = bitsOf w 16 16) (hb : b = bitsOf w 17 17)
    (hw : onlyBits [(21, 16)] w = true) (hd : v.dest t (bitsOf w 21 18) = some (q, k)) (hk : k.slots = 0)
    (ht : bankTake t n ou b v = none) (ha : v.armed q.tile q.chan ≠ 0) :
    ruleChainout t n w v = .flies
      ((v.mail ⟨t, (v.tile t).nextId, q.tile, q.chan, [], (v.bank t ou b).planes, true, false⟩).emptied t ou b)
      { ready := false, written := some (pairBytes (v.bank t ou b).planes) } := by
  subst hou hb
  simp only [ruleChainout, hw, hd, hk, ht, ha, Bool.not_true, Bool.false_eq_true, ne_eq, not_true_eq_false, if_false]
  rfl

theorem ruleChainin_flies {k : ChanPlan} (hou : ou = bitsOf w 16 16) (hb : b = bitsOf w 17 17) (hw : onlyBits [(21, 16)] w = true)
    (hd : v.chanPlan t (bitsOf w 21 18) = some k) (hk : k.slots = 0) (he : v.bankState t ou b = bkEMPTY) :
    ruleChainin t n w v = .flies (v.setBank t n ou b bkWAITCHAIN ⟨[], some (bitsOf w 21 18)⟩) { ready := false, dst := 2 * ou + b } := by
  subst hou hb
  have hf : bankFill t (bitsOf w 16 16) (bitsOf w 17 17) v = none := by simp [bankFill, he]
  simp only [ruleChainin, hw, hd, hk, hf, Bool.not_true, Bool.false_eq_true, ne_eq, not_true_eq_false, if_false]

end

/-! The pair that arrives. -/

/-- A flight that an outside event has made ready. -/
def Flight.arrived (id : Nat) (f : Flight) : Flight := if f.id = id then { f with ready := true } else f

theorem Flight.arrived_id (id : Nat) (f : Flight) : (f.arrived id).id = f.id := by
  unfold Flight.arrived
  split <;> rfl

theorem Flight.ready_arrived {id : Nat} {f : Flight} (h : f.id = id ∨ f.ready = true) : (f.arrived id).ready = true := by
  unfold Flight.arrived
  split
  · rfl
  · next hne => exact h.resolve_left hne

/-- A flight of a tile made ready. -/
def State.arrive' (s : State) (t id : Nat) : State := s.setTile t fun x => { x with flights := x.flights.map (Flight.arrived id) }

theorem arrive_tile (s : State) (t id : Nat) : (s.arrive' t id).tile t = { s.tile t with flights := (s.tile t).flights.map (Flight.arrived id) } :=
  State.tile_setTile_same s t fun x => { x with flights := x.flights.map (Flight.arrived id) }

theorem arrive_ready (s : State) (t id : Nat) : ∀ g ∈ ((s.arrive' t id).tile t).flights, g.id = id → g.ready = true := by
  rw [arrive_tile]
  intro g hg he
  obtain ⟨f, -, rfl⟩ := List.mem_map.1 hg
  exact Flight.ready_arrived (.inl ((f.arrived_id id).symm.trans he))

/-- What was ready stays ready, on whatever tile a flight becomes so. -/
theorem arrive_keeps {s : State} {t id : Nat} (h : ∀ g ∈ (s.tile t).flights, g.id = id → g.ready = true) (v k : Nat) :
    ∀ g ∈ ((s.arrive' v k).tile t).flights, g.id = id → g.ready = true := by
  intro g hg he
  by_cases hv : t = v
  · subst hv
    rw [arrive_tile] at hg
    obtain ⟨f, hf, rfl⟩ := List.mem_map.1 hg
    exact Flight.ready_arrived (.inr (h f hf ((f.arrived_id k).symm.trans he)))
  · rw [State.arrive', State.tile_setTile_ne _ _ _ _ hv] at hg
    exact h g hg he

theorem arrive_bank (s : State) (v id t ou b : Nat) : (s.arrive' v id).bank t ou b = s.bank t ou b := by
  unfold State.bank
  by_cases hv : t = v
  · subst hv
    rw [arrive_tile]
  · rw [State.arrive', State.tile_setTile_ne _ _ _ _ hv]

theorem rouse_fld (s : State) (t : Nat) : s.rouse t = { s with fld := (s.rouse t).fld } := by
  unfold State.rouse
  split <;> rfl

/-- What the arrival of a chained pair leaves before an armed installation is looked at (R147). -/
def State.paired (s : State) (t : Nat) (f : Flight) (m : MeshMsg) (rest : List MeshMsg) : State :=
  (({ s.rouse t with mesh := rest }.setBank t f.stream (f.dst / 2) (f.dst % 2) bkLIVE ⟨m.pairs, none⟩).arrive' t f.id).arrive' m.srcTile m.flight

theorem paired_rest (s : State) (t : Nat) (f : Flight) (m : MeshMsg) (rest : List MeshMsg) :
    { s.paired t f m rest with fld := s.fld, tiles := s.tiles, mesh := s.mesh } = s := by
  obtain ⟨l, e⟩ : ∃ l, s.rouse t = { s with fld := l } := ⟨_, rouse_fld s t⟩
  unfold State.paired
  rw [e]
  rfl

theorem exec_chainPairArrival {t c : Nat} {s : State} {f : Flight} {m : MeshMsg} {rest : List MeshMsg}
    (hm : s.meshFirst t c = some (m, rest))
    (hf : ((s.tile t).flights.find? fun f => f.op == 0x28 && !f.ready && (s.bank t (f.dst / 2) (f.dst % 2)).chan == some c) = some f)
    (hw : s.working = true) (ha : s.tileAwake t = true) (hc : m.chain = true) (hs : Settled s) :
    exec (.chainPairArrival t c) s = .next (s.paired t f m rest).armSettle := by
  show execChainPairArrival t c s = _
  have hr := paired_rest s t f m rest
  obtain ⟨-, -, he⟩ := armSettle_cases (s.paired t f m rest)
  have hst : Steady s (s.paired t f m rest).armSettle := by
    rw [he]
    refine ⟨?_, ?_⟩
    · have e := congrArg State.stp hr
      exact e
    · have e := congrArg State.waits hr
      exact e
  have hcond : (s.working && s.tileAwake t && m.chain) = true := by simp [hw, ha, hc]
  simp only [execChainPairArrival, hm, hf]
  exact act_next hcond s (fun s => (s.paired t f m rest).armSettle) ((congrArg StepCtl.due hst.stp).trans hs) hst.waits

end Sys2Proof.Machine

namespace Sys2Proof

open Machine

/-- What an instruction in flight leaves whose rule has put a pair in a bank, or emptied it, and else has left its tile alone. -/
theorem FliesFrom.setBank {t n w m ou b st : Nat} {j : Job'} {r s u : State} {x : Bank} (h : FliesFrom t n w j (r.setBank t m ou b st x) s u)
    (hn : n < 2) (hm : m < 2) (hst : st < 4) (hsram : (r.tile t).sram = (s.tile t).sram) (honly : OnlyTile t s r) (hmem : r.mem = s.mem) :
    u.bank t ou b = x ∧ u.bankState t ou b = st ∧ u.g (bankStreamF t ou b) = m ∧ KeepsSram t s u 0 0 ∧ SameMem s u ∧ OnlyTile t s u := by
  refine ⟨(h.bank ou b).trans (State.bank_setBank r t m ou b st x), (h.g_unit hn (unitFld_bankState t ou b)).trans ?_,
    (h.g_unit hn (unitFld_bankStream t ou b)).trans (State.bankStream_setBank r t m ou b st x hm), h.keepsSram ?_,
    sameMem_of_eq (h.mem.trans hmem), h.onlyTile (honly.trans fun v hv => State.setBank_tile_ne r t m ou b st x hv)⟩
  · exact State.bankState_setBank r t m ou b st x hst
  · rw [State.setBank_tile]
    exact hsram

/-- Settles O13: each of the four instructions takes its pair out of its bank or puts one in when it issues, and the pair that arrives by
CHAININ makes its bank LIVE. -/
theorem accumulatorPairsMove : Obligations.AccumulatorPairsMove := by
  intro t n w c bad s v ou b p dpa out
  have hbank : v.bank t ou b = s.bank t ou b := bank_upset s t bad ou b
  have hsram : (v.tile t).sram = (s.tile t).sram := sram_upset s t bad
  have honly : OnlyTile t s v := onlyTile_upset s t bad
  have hstate : v.bankState t ou b = s.bankState t ou b := State.g_upset s t bad _
  have hout : out = pairBytes ((v.bank t ou b).planes.map fun q => ⟨noNegZero q.s, noNegZero q.e⟩) := by rw [hbank]
  have hlen : out.length = 64 * 2048 := by
    rw [length_pairBytes, List.length_map, Bank.length_planes]
  have hcalm (hn : n < 2) : Calm t n s (v.emptied t ou b) := (Calm.upset s t n bad).setBank hn 0 ou b bkEMPTY Bank.empty
  have honlyE : OnlyTile t s (v.emptied t ou b) := honly.trans fun x hx => State.setBank_tile_ne v t 0 ou b bkEMPTY Bank.empty hx
  have hE1 : (v.emptied t ou b).bank t ou b = Bank.empty := State.bank_setBank v t 0 ou b bkEMPTY Bank.empty
  have hE2 : (v.emptied t ou b).bankState t ou b = bkEMPTY := State.bankState_setBank v t 0 ou b bkEMPTY Bank.empty (by decide)
  have hE3 : ((v.emptied t ou b).tile t).sram = (s.tile t).sram := by
    rw [State.emptied, State.setBank_tile]; exact hsram
  refine ⟨fun h hc hr ht hm => ?_, fun h hc hr he hm hb => ?_, fun q k h hw hd hk ht ha => ?_, fun k h hw hd hk he => ?_,
    fun m rest f hm hf hdst hstream hw ha hc hs => ?_⟩
  · cases hd : p.toDesc with
    | false =>
      obtain ⟨u, he, hf⟩ := flies_of h rfl ruleOusave (ruleOusave_sram rfl rfl rfl hout hc hr ht hd)
        ((hcalm h.stream).tile t (fun x => x.writeSram (64 * p.sram) out) rfl ⟨rfl, rfl⟩)
      refine ⟨u, he, hf.takesOff, ?_, ?_, fun _ => ⟨?_, sameMem_of_eq hf.mem⟩, fun h => absurd h (by simp), hf.onlyTile ?_⟩
      · rw [hf.bank, State.bank, State.tile_setTile_same]
        exact hE1
      · exact (hf.g_unit h.stream (unitFld_bankState t ou b)).trans hE2
      · rw [hf.sram, State.tile_setTile_same]
        exact congrArg (fun m => putBytes m (64 * p.sram) out) hE3
      · exact honlyE.trans fun x hx => State.tile_setTile_ne _ t x _ hx
    | true =>
      obtain ⟨hw0, hwaits⟩ := hm hd
      have hmv : Moves (v.emptied t ou b) ((v.emptied t ou b).writeMem t dpa out).1 := .writeMem hlen hw0
      have hall := hmv.trans (.countMove t p.a.d.kind 2048 _)
      obtain ⟨u, he, hf⟩ := flies_of h rfl ruleOusave (ruleOusave_memory rfl rfl rfl hout hc hr ht hd hw0)
        ((hcalm h.stream).moves h.stream hall ((countMove_waits _ _ _ _).trans hwaits))
      have hbyte := ((v.emptied t ou b).writeMem_ok t dpa out 2048 hlen hw0).1
      have hmem : u.mem = ((v.emptied t ou b).writeMem t dpa out).1.mem := hf.mem.trans (countMove_mem _ _ _ _)
      refine ⟨u, he, hf.takesOff, ?_, ?_, fun h => absurd h (by simp), fun _ => ⟨hf.keepsSram ?_, fun x hx => ?_, fun i hi => ?_⟩,
        hf.onlyTile ?_⟩
      · rw [hf.bank, State.bank, hall.tile]
        exact hE1
      · exact ((hf.g_unit h.stream (unitFld_bankState t ou b)).trans (hall.regs _ (unitFld_bankState t ou b).dom)).trans hE2
      · rw [hall.tile]; exact hE3
      · rw [hmem, hbyte, if_neg (by omega)]; rfl
      · rw [hmem, hbyte, if_pos (by omega), Nat.add_sub_cancel_left]
      · exact fun x hx => (hall.tile x).trans (honlyE x hx)
  · cases hd : p.toDesc with
    | false =>
      obtain ⟨u, hu, hf⟩ := flies_of h rfl ruleOurestore (ruleOurestore_sram rfl rfl rfl hc hr (hstate.trans he) hd (hb hd))
        ((Calm.upset s t n bad).setBank h.stream n ou b bkLIVE _)
      obtain ⟨h1, h2, h3, h4⟩ := hf.setBank h.stream h.stream (by decide) hsram honly rfl
      refine ⟨u, hu, hf.takesOff, ?_, h2, h3, h4⟩
      rw [h1, if_neg (by simp), Tile.readSram, hsram]
      rfl
    | true =>
      obtain ⟨h0, hwaits⟩ := hm hd
      have hmv := (Moves.readMem h0).trans (.countMove t p.a.d.kind ((v.readMem t dpa 2048).2.1.length / 64) _)
      obtain ⟨hbytes, hreads⟩ := v.readMem_ok t dpa 2048 h0
      obtain ⟨u, hu, hf⟩ := flies_of h rfl ruleOurestore (ruleOurestore_memory rfl rfl rfl rfl hc hr (hstate.trans he) hd h0)
        (((Calm.upset s t n bad).moves h.stream hmv ((countMove_waits _ _ _ _).trans hwaits)).setBank h.stream n ou b bkLIVE _)
      obtain ⟨h1, h2, h3, h4⟩ := hf.setBank h.stream h.stream (by decide) (by rw [hmv.tile]; exact hsram)
        (honly.trans fun x _ => hmv.tile x) ((countMove_mem _ _ _ _).trans hreads.mem)
      refine ⟨u, hu, hf.takesOff, ?_, h2, h3, h4⟩
      rw [h1, if_pos rfl]
      exact congrArg (fun l => (⟨pairsOfBytes l, none⟩ : Bank)) hbytes
  · have hid : (v.tile t).nextId = (s.tile t).nextId := by rw [State.upset_tile]
    obtain ⟨u, hu, hf⟩ := flies_of h rfl ruleChainout (ruleChainout_flies rfl rfl hw hd hk ht ha)
      (((Calm.upset s t n bad).of (q := v.mail _) (fun _ _ => rfl) rfl rfl ⟨rfl, rfl⟩ rfl).setBank h.stream 0 ou b bkEMPTY Bank.empty)
    obtain ⟨h1, h2, -, h4⟩ := FliesFrom.setBank hf h.stream (by decide) (by decide) hsram honly rfl
    refine ⟨u, hu, hf.takesOff, ?_, h1, h2, h4⟩
    rw [hf.mesh, hid, hbank]
    rfl
  · obtain ⟨u, hu, hf⟩ := flies_of h rfl ruleChainin (ruleChainin_flies rfl rfl hw hd hk (hstate.trans he))
      ((Calm.upset s t n bad).setBank h.stream n ou b bkWAITCHAIN _)
    exact ⟨u, hu, hf.takesOff, hf.setBank h.stream h.stream (by decide) hsram honly rfl⟩
  · obtain ⟨r, hr⟩ : ∃ r, r = s.paired t f m rest := ⟨_, rfl⟩
    obtain ⟨-, hreg, he⟩ := armSettle_cases r
    have hrest := paired_rest s t f m rest
    rw [← hr] at hrest
    have htile (x : Nat) : r.armSettle.tile x = r.tile x := by rw [he]; rfl
    have hready := arrive_ready ({ s.rouse t with mesh := rest }.setBank t f.stream (f.dst / 2) (f.dst % 2) bkLIVE ⟨m.pairs, none⟩) t f.id
    refine ⟨r.armSettle, by rw [hr]; exact exec_chainPairArrival hm hf hw ha hc hs, ?_, ?_, ?_, ?_, ?_, ?_, ?_⟩
    · rw [he, hr]
      rfl
    · rw [State.bank, htile, hr]
      exact ((arrive_bank ..).trans (arrive_bank ..)).trans (State.bank_setBank ..)
    · rw [State.bankState, hreg _ (key_ne_of_tile (unitFld_bankState t _ _).dom (by decide)), hr]
      exact State.bankState_setBank _ t f.stream (f.dst / 2) (f.dst % 2) bkLIVE _ (by decide)
    · rw [htile, hr]
      exact arrive_keeps hready m.srcTile m.flight
    · rw [htile, hr]
      exact arrive_ready _ m.srcTile m.flight
    · refine sameMem_of_eq ?_
      rw [he]
      have e := congrArg State.mem hrest
      exact e
    · rw [he]
      have e := congrArg (fun q : State => { q with loader := s.loader }) hrest
      exact e

end Sys2Proof
end

section
/-!
SUPPORT. Finalised results on their way out of a bank (R78, R82 to R89): what OUFIN puts in SRAM or in a score slot, what a reduction segment
takes, and the answers of the rules of OUFIN, GRADOUT and GAINOUT when nothing holds them.
-/
namespace Sys2Proof.Machine

/-! Banks being finalised. -/

/-- A bank of stream `n` whose results are on their way out. -/
def State.finalising (s : State) (t n ou b : Nat) : State := (s.set (bankStateF t ou b) bkFINALISING).set (bankStreamF t ou b) n

section
variable (s : State) (t n ou b : Nat)

theorem State.bankState_finalising : (s.finalising t n ou b).bankState t ou b = bkFINALISING := by
  rw [State.bankState, State.finalising, State.g_set_ne _ _ _ _ (bankStream_key_ne_state t ou b ou b).symm, State.g_set_same,
    (bankStateF_place t ou b).2.2.2]
  rfl

theorem State.bankStream_finalising (hn : n < 2) : (s.finalising t n ou b).g (bankStreamF t ou b) = n := by
  rw [State.finalising, State.g_set_same, (bankStreamF_place t ou b).2.2.2]
  exact Nat.mod_eq_of_lt hn

theorem State.g_finalising_ne {f : Fld} (h1 : f.key ≠ (bankStateF t ou b).key) (h2 : f.key ≠ (bankStreamF t ou b).key) :
    (s.finalising t n ou b).g f = s.g f := by
  rw [State.finalising, State.g_set_ne _ _ _ _ h2, State.g_set_ne _ _ _ _ h1]

end

theorem Calm.finalising {t n : Nat} {s r : State} (c : Calm t n s r) (hn : n < 2) (m ou b : Nat) : Calm t n s (r.finalising t m ou b) :=
  (c.setUnit hn (unitFld_bankState t ou b) bkFINALISING).setUnit hn (unitFld_bankStream t ou b) m

/-! Counts of what is written. -/

theorem Calm.tally {t n : Nat} {s r : State} (c : Calm t n s r) (layer oper : Nat) (l : List Tally) : Calm t n s (r.tally layer oper l) :=
  c.of (fun _ _ => rfl) rfl rfl ⟨rfl, rfl⟩ rfl

/-- A block without a non-finite element is counted, and traps nothing (R54). -/
theorem trapOf_finite {tl : List Tally} (h : firstNonFinite tl = none) (t n source ou fmt ovf layer oper dkind addr vcols : Nat)
    (rows : List (List Nat)) : trapOf t n source ou fmt ovf layer oper dkind addr vcols rows tl = none := by
  simp only [trapOf, h, Option.map_none]

theorem VecWrite.trap_finite {v : VecWrite} (h : firstNonFinite v.tally = none) (t n : Nat) (y : Stream) (dkind addr : Nat) :
    v.trap t n y dkind addr = none := by
  simp only [VecWrite.trap, h, Option.map_none]

/-! Score slots. -/

theorem scoreFull_eq (s : State) (t i : Nat) : scoreFull s t i = (s.g (scoreFullF t i)).testBit (i % 2) := rfl

theorem scoreFullF_width (t i : Nat) : (scoreFullF t i).w = 2 := by
  unfold scoreFullF
  split <;> rfl

/-- The fields of the full score slots are not those of the banks. -/
theorem scoreFull_key_ne_bank (t i ou b : Nat) :
    (scoreFullF t i).key ≠ (bankStateF t ou b).key ∧ (scoreFullF t i).key ≠ (bankStreamF t ou b).key := by
  obtain ⟨hs, hso, hsl, -⟩ := bankStateF_place t ou b
  obtain ⟨hn, hno, hnl, -⟩ := bankStreamF_place t ou b
  have hf := unitFld_scoreFull t i
  have hl : (scoreFullF t i).lo < 26 := by
    unfold scoreFullF
    split
    · exact (show 22 < 26 by decide)
    · exact (show 24 < 26 by decide)
  refine ⟨hf.key_ne hs (.inr ?_), hf.key_ne hn (.inr ?_)⟩
  · rw [hsl]; split <;> omega
  · rw [hnl]; split <;> omega

theorem testBit_setBit_true (s : State) {f : Fld} {i : Nat} (hi : i < f.w) : ((s.setBit f i true).g f).testBit i = true := by
  rw [State.setBit, State.g_set_same, testBit_lowBits _ _ _ hi]
  split
  · next h => exact h
  · next h => rw [if_pos rfl, Nat.add_comm, Nat.testBit_two_pow_add_eq, Bool.eq_false_of_not_eq_true h]; rfl

/-! What OUFIN writes. -/

/-- Score slot `slot` filled for stream `n`. -/
def State.fillSlot (s : State) (t n slot : Nat) (vals : List Nat) : State :=
  (setScoreFull s t slot true).setTile t fun x =>
    { x with score := Sparse.put [] slot vals x.score, scoreOwner := Sparse.put none slot (some n) x.scoreOwner }

/-- A result put at its destination: a span of SRAM, or a score slot (R85, R94). -/
def State.putResult (s : State) (t n slot : Nat) (dst : Option (Nat × Nat)) (bytes : List Byte) : State :=
  match dst with
  | some e => s.setTile t fun x => x.writeSram (64 * e.1) bytes
  | none => s.fillSlot t n slot (wordsOf bytes)

/-- The statistics record put at its destination, if there is one (R89). -/
def State.putStats (s : State) (t : Nat) (stats : Option (Nat × Nat)) (rows : List (List Nat)) : State :=
  match stats with
  | some e => s.setTile t fun x => x.writeSram (64 * e.1) (statsRecord rows)
  | none => s

/-- What the writes of OUFIN leave: SRAM with `l` stored, the banks, the registers but those of the score slots. -/
structure Puts (t n : Nat) (l : List (Nat × List Byte)) (s u : State) : Prop where
  sram : (u.tile t).sram = stored (s.tile t).sram l
  banks : (u.tile t).banks = (s.tile t).banks
  others : OnlyTile t s u
  regs : ∀ f : Fld, f.key ≠ (F.TILE_VEC_STATUS_SB0_FULL t).key → f.key ≠ (F.TILE_VEC_STATUS_SB1_FULL t).key → u.g f = s.g f
  calm : ∀ r, Calm t n r s → n < 2 → Calm t n r u
  num : u.num = s.num
  rest : { u with fld := s.fld, tiles := s.tiles } = s

theorem Puts.trans {t n : Nat} {l m : List (Nat × List Byte)} {s r u : State} (h : Puts t n l s r) (k : Puts t n m r u) :
    Puts t n (l ++ m) s u := by
  refine ⟨?_, k.banks.trans h.banks, h.others.trans k.others, fun f h0 h1 => (k.regs f h0 h1).trans (h.regs f h0 h1),
    fun q c hn => k.calm q (h.calm q c hn) hn, k.num.trans h.num, ?_⟩
  · rw [k.sram, h.sram, stored, stored, stored, List.foldl_append]
  · have e := congrArg (fun q : State => { q with fld := s.fld, tiles := s.tiles }) k.rest
    exact e.trans h.rest

theorem Puts.write (s : State) (t n a : Nat) (l : List Byte) : Puts t n [(a, l)] s (s.setTile t fun x => x.writeSram (64 * a) l) := by
  refine ⟨?_, ?_, fun x hx => State.tile_setTile_ne s t x _ hx, fun _ _ _ => rfl, fun q c _ => c.tile t _ rfl ⟨rfl, rfl⟩, rfl, rfl⟩ <;>
    rw [State.tile_setTile_same] <;> rfl

theorem fillSlot_tile (s : State) (t n slot : Nat) (vals : List Nat) : (s.fillSlot t n slot vals).tile t =
    { s.tile t with score := Sparse.put [] slot vals (s.tile t).score, scoreOwner := Sparse.put none slot (some n) (s.tile t).scoreOwner } :=
  State.tile_setTile_same (setScoreFull s t slot true) t fun x =>
    { x with score := Sparse.put [] slot vals x.score, scoreOwner := Sparse.put none slot (some n) x.scoreOwner }

theorem Puts.fillSlot (s : State) (t n slot : Nat) (vals : List Nat) : Puts t n [] s (s.fillSlot t n slot vals) := by
  have hreg (f : Fld) (hf : f.key ≠ (scoreFullF t slot).key) : (s.fillSlot t n slot vals).g f = s.g f := State.g_setBit_ne s _ f _ true hf
  refine ⟨by rw [fillSlot_tile]; rfl, by rw [fillSlot_tile],
    fun x hx => State.tile_setTile_ne (setScoreFull s t slot true) t x _ hx, fun f h0 h1 => hreg f ?_, fun q c hn => ?_, rfl, rfl⟩
  · unfold scoreFullF
    split
    · exact h0
    · exact h1
  · exact Calm.tile (c.setUnit hn (unitFld_scoreFull t slot) _) t _ rfl ⟨rfl, rfl⟩

theorem Puts.result (s : State) (t n slot : Nat) (dst : Option (Nat × Nat)) (bytes : List Byte) :
    Puts t n (dst.toList.map fun e => (e.1, bytes)) s (s.putResult t n slot dst bytes) := by
  cases dst with
  | some e => exact .write s t n e.1 bytes
  | none => exact .fillSlot s t n slot (wordsOf bytes)

theorem Puts.stats (s : State) (t n : Nat) (stats : Option (Nat × Nat)) (rows : List (List Nat)) :
    Puts t n (stats.toList.map fun e => (e.1, statsRecord rows)) s (s.putStats t stats rows) := by
  cases stats with
  | some e => exact .write s t n e.1 (statsRecord rows)
  | none => exact ⟨rfl, rfl, fun _ _ => rfl, fun _ _ _ => rfl, fun _ c _ => c, rfl, rfl⟩

/-- A filled score slot is full, and holds its values for its stream. -/
structure SlotHolds (t n slot : Nat) (vals : List Nat) (u : State) : Prop where
  full : scoreFull u t slot = true
  words : (u.tile t).scoreWords slot = vals
  owner : Sparse.get none slot (u.tile t).scoreOwner = some n

theorem fillSlot_holds (s : State) (t n slot : Nat) (vals : List Nat) : SlotHolds t n slot vals (s.fillSlot t n slot vals) := by
  refine ⟨?_, ?_, ?_⟩
  · exact testBit_setBit_true s (f := scoreFullF t slot) (by rw [scoreFullF_width]; exact Nat.mod_lt _ (by decide))
  · rw [fillSlot_tile]
    exact Sparse.get_put_same [] slot vals _
  · rw [fillSlot_tile]
    exact Sparse.get_put_same none slot (some n) _

theorem SlotHolds.putStats {t n slot : Nat} {vals : List Nat} {s : State} (h : SlotHolds t n slot vals s) (stats : Option (Nat × Nat))
    (rows : List (List Nat)) : SlotHolds t n slot vals (s.putStats t stats rows) := by
  cases stats with
  | none => exact h
  | some e =>
    refine ⟨h.full, ?_, ?_⟩
    · rw [State.putStats, State.tile_setTile_same]
      exact h.words
    · rw [State.putStats, State.tile_setTile_same]
      exact h.owner

theorem ruleOufin_flies {t n w ou b slot : Nat} {v : State} {y : Stream} {q : OuSetup} {sp : FinSpans} {rows : List (List Nat)}
    {e : List Byte × List Tally} {rd wr : List Span} (hy : v.stream t n = y) (hou : ou = bitsOf w 16 16) (hb : b = bitsOf w 17 17)
    (hq : q = y.setup ou) (hslot : slot = 2 * ou + bitsOf w 19 18 - 1) (hsp : sp = finSpans y q w)
    (hrows : rows = finalise (v.tile t) q sp (v.bank t ou b) (bitsOf w 110 104 + 1) (bitsOf w 117 111 + 1))
    (he : e = writeBlock (modeFmt q.mode) (modeOvf q.mode) rows (bitsOf w 117 111 + 1))
    (hrd : rd = (sp.bias.toList ++ sp.resid.toList).map sramSpan) (hwr : wr = (sp.dst.toList ++ sp.stats.toList).map sramSpan)
    (hw : oufinFieldsOk q w = true) (ha : addrCode (sp.dst.toList ++ sp.bias.toList ++ sp.resid.toList ++ sp.stats.toList) true = 0)
    (hr : reserveStall (v.tile t) n rd wr = none) (ht : bankTake t n ou b v = none)
    (hfree : bitsOf w 19 18 ≠ 0 → slotGate t n slot v = none)
    (hgood : ∀ d ∈ sp.bias.toList ++ sp.resid.toList, firstBad (v.tile t).badSectors d.1 d.2 = none) (hfin : firstNonFinite e.2 = none) :
    ∃ l, ruleOufin t n w v = .flies
      ((((v.putResult t n slot sp.dst e.1).putStats t sp.stats rows).tally y.layer y.oper e.2).finalising t n ou b)
      { rd := rd, wr := wr, post := [.bankEmpty ou b], written := some l } := by
  have hbad : ((sp.bias.toList ++ sp.resid.toList).any fun d => (firstBad (v.tile t).badSectors d.1 d.2).isSome) = false :=
    List.any_eq_false.2 fun d hd => by rw [hgood d hd]; decide
  have hgate : (bankTake t n ou b v <|> (if bitsOf w 19 18 = 0 then none else slotGate t n slot v)) = none := by
    rw [ht]
    split
    · rfl
    · next h => exact hfree h
  subst hy hou hb hq hslot hsp hrows he hrd hwr
  simp only [ruleOufin, hw, ha, reserved_free hr, hgate, hbad, trapOf_finite hfin, Bool.not_true, Bool.false_eq_true, ne_eq, not_true_eq_false,
    if_false]
  cases hs : (finSpans (v.stream t n) ((v.stream t n).setup (bitsOf w 16 16)) w).stats with
  | none => exact ⟨_, rfl⟩
  | some d => exact ⟨_, rfl⟩

end Sys2Proof.Machine
end

section
/-!
SUPPORT. Reduction segments (R82, R106, R216): the length of a block written as binary32, what writing a segment leaves, and the answers of the
rules of GRADOUT and GAINOUT when nothing holds them.
-/
namespace Sys2Proof.Machine

/-! Lengths. -/

theorem length_chunksOf_le {α : Type} (n k : Nat) (l : List α) : (chunksOf n k l).length ≤ k := by
  induction k generalizing l with
  | zero => simp [chunksOf]
  | succ k ih =>
    cases l with
    | nil => simp [chunksOf]
    | cons a l => simpa [chunksOf] using ih _

theorem length_chunksOf {α : Type} {n k : Nat} (hn : 0 < n) {l : List α} (h : n * k ≤ l.length) : (chunksOf n k l).length = k := by
  induction k generalizing l with
  | zero => simp [chunksOf]
  | succ k ih =>
    rw [Nat.mul_succ] at h
    cases l with
    | nil =>
      rw [List.length_nil] at h
      omega
    | cons a l =>
      show ((a :: l).take n :: chunksOf n k ((a :: l).drop n)).length = k + 1
      rw [List.length_cons, ih (by rw [List.length_drop]; omega)]

theorem length_wordsOf (l : List Byte) : (wordsOf l).length = l.length / 4 := by
  rw [wordsOf, List.length_map, length_chunksOf (by decide) (by omega)]

/-- A binary32 block of at most 128 rows is written whole. -/
theorem length_writeBlock {rows : List (List Nat)} (h : rows.length ≤ 128) : (writeBlock 4 0 rows 128).1.length = 65536 := by
  obtain ⟨q, hq⟩ : ∃ q : List (List (Nat × Tally)), q = rows.map fun r => (r.take 128).map (toFloat (outFloat 4) 0) := ⟨_, rfl⟩
  have hrow : ∀ r ∈ q, r.length ≤ 128 := by
    intro r hr
    rw [hq] at hr
    obtain ⟨l, -, rfl⟩ := List.mem_map.1 hr
    rw [List.length_map, List.length_take]
    omega
  obtain ⟨pats, hp⟩ : ∃ pats : List (List Nat), pats = (q.map fun r => r.map (·.1) ++ List.replicate (128 - r.length) 0)
      ++ List.replicate (128 - q.length) (List.replicate 128 0) := ⟨_, rfl⟩
  have hlen : pats.flatten.length = 16384 := by
    have hall : ∀ r ∈ pats, r.length = 128 := by
      intro r hr
      rw [hp] at hr
      rcases List.mem_append.1 hr with hr | hr
      · obtain ⟨l, hl, rfl⟩ := List.mem_map.1 hr
        have := hrow l hl
        simp only [List.length_append, List.length_map, List.length_replicate]
        omega
      · rw [(List.mem_replicate.1 hr).2, List.length_replicate]
    have hn : pats.length = 128 := by
      have : q.length ≤ 128 := by rw [hq, List.length_map]; exact h
      rw [hp, List.length_append, List.length_map, List.length_replicate]
      omega
    rw [List.length_flatten, List.map_congr_left hall]
    simp [hn]
  have e : (writeBlock 4 0 rows 128).1 = wordBytes pats.flatten := by
    subst hp hq
    rfl
  rw [e, length_wordBytes, hlen]

theorem length_gradout (b : Bank) : (wordBytes (wordsOf (writeBlock 4 0 b.finalRows 128).1)).length = 64 * 1024 := by
  have h : b.finalRows.length ≤ 128 := length_chunksOf_le ..
  rw [length_wordBytes, length_wordsOf, length_writeBlock h]

/-! Segments named and written. -/

theorem Calm.nameSegments {t n : Nat} {s r : State} (c : Calm t n s r) (segs : List Nat) : Calm t n s (r.nameSegments segs) :=
  c.of (fun _ _ => rfl) rfl rfl ⟨rfl, rfl⟩ rfl

/-- A segment that is written without an error changes bonded memory only, beside the regions and marks of its accesses. -/
theorem writeSegment_ok {s : State} {req seg : Nat} {vals : List Nat} (h : (s.writeSegment req seg vals).2 = 0) :
    ∃ g w m, (s.writeSegment req seg vals).1 = { s with regions := g, waits := w, mem := m } := by
  unfold State.writeSegment at h ⊢
  split
  · exact ⟨s.regions, s.waits, s.mem, rfl⟩
  · next a ha =>
    rw [ha] at h
    exact ⟨_, _, _, writePieces_ok req _ _ s h⟩

/-- Segments written one after another until one fails (R106). -/
def writeSegments (t : Nat) (l : List (Nat × List Nat)) (r : State × Nat) : State × Nat :=
  l.foldl (fun r e => if r.2 = 0 then r.1.writeSegment t e.1 e.2 else r) r

theorem writeSegments_failed {t : Nat} {r : State × Nat} (h : r.2 ≠ 0) (l : List (Nat × List Nat)) : writeSegments t l r = r := by
  induction l with
  | nil => rfl
  | cons e l ih =>
    rw [writeSegments, List.foldl_cons, if_neg h]
    exact ih

theorem writeSegments_ok {t : Nat} (l : List (Nat × List Nat)) (r : State × Nat) (h : (writeSegments t l r).2 = 0) :
    ∃ g w m, (writeSegments t l r).1 = { r.1 with regions := g, waits := w, mem := m } := by
  induction l generalizing r with
  | nil => exact ⟨r.1.regions, r.1.waits, r.1.mem, rfl⟩
  | cons e l ih =>
    have hstep : writeSegments t (e :: l) r = writeSegments t l (if r.2 = 0 then r.1.writeSegment t e.1 e.2 else r) := rfl
    by_cases h0 : r.2 = 0
    · rw [hstep, if_pos h0] at h ⊢
      by_cases h1 : (r.1.writeSegment t e.1 e.2).2 = 0
      · obtain ⟨g, w, m, e1⟩ := writeSegment_ok h1
        obtain ⟨g', w', m', e2⟩ := ih _ h
        exact ⟨g', w', m', by rw [e2, e1]⟩
      · rw [writeSegments_failed h1] at h
        exact absurd h h1
    · rw [writeSegments_failed h0] at h
      exact absurd h h0

/-- Everything but bonded memory's contents, regions and waiting accesses is the same. -/
theorem Moves.of_mem {s u : State} (h : ∃ g w m, u = { s with regions := g, waits := w, mem := m }) : Moves s u := by
  obtain ⟨g, w, m, rfl⟩ := h
  exact ⟨fun _ _ => rfl, rfl, rfl, rfl⟩

/-- The attempt that an instruction works for does not depend on the registers of the tiles. -/
theorem workAttempt_congr {s u : State} (h : ∀ f : Fld, f.dom ≠ .tile → u.g f = s.g f) : u.workAttempt = s.workAttempt := by
  have hr : u.replaying = s.replaying := by
    unfold State.replaying
    rw [h _ (by decide)]
  unfold State.workAttempt
  rw [hr, h _ (by decide), h _ (by decide)]

theorem workAttempt_finalising (s : State) (t n ou b : Nat) : (s.finalising t n ou b).workAttempt = s.workAttempt :=
  workAttempt_congr fun _ hf => State.g_finalising_ne s t n ou b (key_ne_of_tile (unitFld_bankState t ou b).dom hf).symm
    (key_ne_of_tile (unitFld_bankStream t ou b).dom hf).symm

/-- Writing segments leaves the attempt. -/
theorem workAttempt_mem {s u : State} (h : ∃ g w m, u = { s with regions := g, waits := w, mem := m }) : u.workAttempt = s.workAttempt := by
  obtain ⟨g, w, m, rfl⟩ := h
  rfl

/-- Counting results and naming segments leave the attempt. -/
theorem workAttempt_named (s : State) (t : Nat) (bad : List Nat) (layer oper : Nat) (l : List Tally) (segs : List Nat) :
    (((s.upset t bad).tally layer oper l).nameSegments segs).workAttempt = s.workAttempt :=
  workAttempt_congr fun f _ => State.g_upset s t bad f

/-- The place of a segment is the plan's. -/
theorem segAddr_congr {s u : State} (h : u.plan = s.plan) (seg : Nat) : u.segAddr seg = s.segAddr seg := by
  simp only [State.segAddr, State.partExtents, State.extents, h]

theorem ruleGradout_flies {t n w ou b seg a : Nat} {v q : State} {y : Stream} {e : List Byte × List Tally} (hy : v.stream t n = y)
    (hou : ou = bitsOf w 16 16) (hb : b = bitsOf w 17 17) (hseg : seg = bitsOf w 41 18 + y.xr (bitsOf w 45 42))
    (he : e = writeBlock 4 0 (v.bank t ou b).finalRows 128) (hq : q = (v.tally y.layer y.oper e.2).nameSegments [seg])
    (hw : onlyBits [(45, 16)] w = true) (hc : segmentCode t [seg] v = 0) (ht : bankTake t n ou b v = none) (hfin : firstNonFinite e.2 = none)
    (ha : q.segAddr seg = some a) (h0 : (q.writeMem t a (wordBytes (wordsOf e.1))).2 = 0) :
    ruleGradout t n w v = .flies ((q.writeMem t a (wordBytes (wordsOf e.1))).1.finalising t n ou b)
      { post := [.bankEmpty ou b,
          .segmentRelease seg ((q.writeMem t a (wordBytes (wordsOf e.1))).1.finalising t n ou b).workAttempt], written := some e.1 } := by
  have hcount (tr : Option Trap) (htr : tr = none) : v.counted y.layer y.oper e.2 tr = v.tally y.layer y.oper e.2 := by rw [htr]; rfl
  subst hy hou hb hseg he
  simp only [ruleGradout, hw, hc, ht, hcount _ (trapOf_finite hfin ..), ← hq, State.writeSegment, ha, h0, Bool.not_true, Bool.false_eq_true,
    ne_eq, not_true_eq_false, if_false]
  rfl

theorem ruleGainout_flies {t n w k13 first : Nat} {v : State} {y : Stream} {segs : List Nat} {rd : List Span} {z : VecWrite} {all : List Nat}
    {res : State × Nat} (hy : v.stream t n = y) (hk : k13 = y.kr kROWLEN) (hfirst : first = bitsOf w 39 16 + y.xr (bitsOf w 43 40))
    (hsegs : segs = (List.range ((k13 + 16383) / 16384)).map (first + ·)) (hrd : rd = [sramSpan (y.kr kAUX, k13 / 8)])
    (hz : z = VecWrite.words 0 ((chunksOf 2 k13 ((v.tile t).words (y.kr kAUX) (2 * k13))).map fun p => (Pair.mk (p.getD 0 0) (p.getD 1 0)).final))
    (hall : all = wordsOf z.bytes ++ List.replicate (16384 * segs.length - k13) 0)
    (hres : res = writeSegments t (segs.zip (chunksOf 16384 segs.length all)) ((v.tally y.layer y.oper z.tally).nameSegments segs, 0))
    (hw : onlyBits [(43, 16)] w = true) (hlen : rowLenOk k13 = true) (hc : segmentCode t segs v = 0)
    (ha : addrCode [(y.kr kAUX, k13 / 8)] true = 0) (hr : reserveStall (v.tile t) n rd [] = none) (hbusy : v.g (F.TILE_VEC_STATUS_BUSY t) = 0)
    (hgood : firstBad (v.tile t).badSectors (y.kr kAUX) (k13 / 8) = none) (hfin : firstNonFinite z.tally = none) (h0 : res.2 = 0) :
    ruleGainout t n w v = .flies (res.1.set (F.TILE_VEC_STATUS_BUSY t) 1)
      { rd := rd, written := some (wordBytes all),
        post := .vectorDone [] 0 :: segs.map fun k => .segmentRelease k res.1.workAttempt } := by
  have hon : v.on (F.TILE_VEC_STATUS_BUSY t) = false := by simp [State.on, hbusy]
  have hcount (tr : Option Trap) (htr : tr = none) : v.counted y.layer y.oper z.tally tr = v.tally y.layer y.oper z.tally := by rw [htr]; rfl
  subst hy hk hfirst hsegs hrd hz hall
  unfold writeSegments at hres
  simp only [ruleGainout, List.map_cons, List.map_nil, hw, hlen, hc, ha, reserved_free hr, hon, hgood, hcount _ (VecWrite.trap_finite hfin ..),
    ← hres, h0, Bool.not_true, Bool.or_self, Bool.false_eq_true, ne_eq, not_true_eq_false, if_false, Option.isSome_none]

end Sys2Proof.Machine
end

section
/-!
Finalised results leave (R72, R78, R82 to R89, R106, R151): the obligation.
-/
namespace Sys2Proof

open Machine

/-- A bank that is finalised keeps its contents, and is its stream's and FINALISING once the instruction is in flight. -/
theorem FliesFrom.finalising {t n w ou b : Nat} {j : Job'} {r s u : State} (h : FliesFrom t n w j (r.finalising t n ou b) s u) (hn : n < 2) :
    u.bankState t ou b = bkFINALISING ∧ u.g (bankStreamF t ou b) = n ∧ u.bank t ou b = r.bank t ou b :=
  ⟨(h.g_unit hn (unitFld_bankState t ou b)).trans (r.bankState_finalising t n ou b),
    (h.g_unit hn (unitFld_bankStream t ou b)).trans (r.bankStream_finalising t n ou b hn), h.bank ou b⟩

theorem tally_num_congr {r s : State} (h : r.num = s.num) (layer oper : Nat) (l : List Tally) :
    (r.tally layer oper l).num = (s.tally layer oper l).num := by
  simp only [State.tally, h]

theorem FliesFrom.post {t n w : Nat} {j : Job'} {r s u : State} (h : FliesFrom t n w j r s u) :
    ∃ f, (u.tile t).flights.getLast? = some f ∧ f.post = j.post := by
  obtain ⟨f, hf, hp, -⟩ := h.flight
  exact ⟨f, hf, hp⟩

/-- A filled score slot stays filled while its bank is finalised and its instruction takes off. -/
theorem FliesFrom.slotHolds {t n w ou b slot : Nat} {j : Job'} {vals : List Nat} {r s u : State}
    (h : FliesFrom t n w j (r.finalising t n ou b) s u) (hn : n < 2) (hr : SlotHolds t n slot vals r) : SlotHolds t n slot vals u := by
  obtain ⟨hs, ho⟩ := scoreFull_key_ne_bank t slot ou b
  refine ⟨?_, ?_, ?_⟩
  · rw [scoreFull_eq, h.g_unit hn (unitFld_scoreFull t slot), State.g_finalising_ne _ _ _ _ _ hs ho, ← scoreFull_eq]
    exact hr.full
  · have e := congrArg (fun x : Tile => x.scoreWords slot) h.inside
    exact Eq.trans e hr.words
  · have e := congrArg (fun x : Tile => Sparse.get none slot x.scoreOwner) h.inside
    exact Eq.trans e hr.owner

/-- Settles O14: without a non-finite element the results are only counted, so each instruction leaves its writes, its bank FINALISING and
its flight. -/
theorem finalisedResultsLeave : Obligations.FinalisedResultsLeave := by
  intro t n w bad s v x y ou b
  have hy : v.stream t n = y := State.upset_stream s t bad n
  have hbank : v.bank t ou b = s.bank t ou b := bank_upset s t bad ou b
  have hsram : (v.tile t).sram = (s.tile t).sram := sram_upset s t bad
  have honly : OnlyTile t s v := onlyTile_upset s t bad
  refine ⟨?_, ?_, ?_⟩
  · intro q fmt dk slot sp rows bytes tl rd wr h hw ha hr ht hfree hgood hfin
    have hrows : rows = finalise (v.tile t) q sp (v.bank t ou b) (bitsOf w 110 104 + 1) (bitsOf w 117 111 + 1) := by rw [hbank]
    obtain ⟨l, hl⟩ := ruleOufin_flies (v := v) hy rfl rfl rfl rfl rfl hrows rfl rfl rfl hw ha hr ht hfree hgood hfin
    obtain ⟨r, hrdef⟩ : ∃ r, r = (v.putResult t n slot sp.dst bytes).putStats t sp.stats rows := ⟨_, rfl⟩
    have hput : Puts t n ((sp.dst.toList.map fun e => (e.1, bytes)) ++ sp.stats.toList.map fun e => (e.1, statsRecord rows)) v r := by
      rw [hrdef]
      exact (Puts.result v t n slot sp.dst bytes).trans (.stats _ t n sp.stats rows)
    have hdst : (sp.dst.toList.map fun e => (e.1, bytes)) = if dk = 0 then [(sramOp y w 20, bytes)] else [] := by
      show (List.map _ (Option.toList (if dk = 0 then some (sramOp y w 20, fmtSectors (modeFmt q.mode) 16384) else none))) = _
      split <;> rfl
    rw [← hrdef] at hl
    obtain ⟨u, hu, hf⟩ := flies_of h rfl ruleOufin hl
      (((hput.calm s (Calm.upset s t n bad) h.stream).tally y.layer y.oper tl).finalising h.stream n ou b)
    obtain ⟨hstate, howner, hkeep⟩ := hf.finalising h.stream
    refine ⟨u, hu, hf.takesOff, hf.post, hstate, howner, ?_, ?_, fun hdk => ?_, ?_, ?_, ?_, ?_⟩
    · rw [hkeep, ← hbank]
      exact congrArg (Sparse.get Bank.empty (2 * ou + b)) hput.banks
    · rw [hf.sram, ← hdst, ← hsram]
      exact hput.sram
    · have hnone : sp.dst = none := if_neg hdk
      have hslot : SlotHolds t n slot (wordsOf bytes) r := by
        rw [hrdef, hnone]
        exact (fillSlot_holds v t n slot (wordsOf bytes)).putStats sp.stats rows
      obtain ⟨hfull, hwords, hown⟩ := hf.slotHolds h.stream (r := r.tally y.layer y.oper tl) ⟨hslot.full, hslot.words, hslot.owner⟩
      exact ⟨hfull, hwords, hown⟩
    · exact hf.num.trans (tally_num_congr hput.num y.layer y.oper tl)
    · exact hf.onlyTile (honly.trans hput.others)
    · intro f hne
      have hbs : f.key ≠ (bankStateF t ou b).key := hne _ (by simp)
      have hbo : f.key ≠ (bankStreamF t ou b).key := hne _ (by simp)
      rw [hf.regs f fun x hx => hne x (List.mem_append_left _ hx), State.g_finalising_ne _ _ _ _ _ hbs hbo, State.g_tally,
        hput.regs f (hne _ (by simp)) (hne _ (by simp)), State.g_upset]
    · have e := congrArg (fun q : State => { q with fld := s.fld, tiles := s.tiles, num := s.num }) hf.rest
      have e' := congrArg (fun q : State => { q with fld := s.fld, tiles := s.tiles, num := s.num }) hput.rest
      exact e.trans e'
  · intro a seg e q out h hw hc ht hfin ha h0 hwaits
    have he : e = writeBlock 4 0 (v.bank t ou b).finalRows 128 := by rw [hbank]
    have hlen : out.length = 64 * 1024 := length_gradout (s.bank t ou b)
    have hseg : q.segAddr seg = some a := (segAddr_congr (s := s) rfl seg).trans ha
    have hmove : Moves q (q.writeMem t a out).1 := .writeMem hlen h0
    obtain ⟨hbyte, hrec⟩ := q.writeMem_ok t a out 1024 hlen h0
    have hcalm : Calm t n s q := ((Calm.upset s t n bad).tally y.layer y.oper e.2).nameSegments [seg]
    obtain ⟨u, hu, hf⟩ := flies_of h rfl ruleGradout (ruleGradout_flies (v := v) hy rfl rfl rfl he rfl hw hc ht hfin hseg h0)
      ((hcalm.moves h.stream hmove hwaits).finalising h.stream n ou b)
    obtain ⟨hstate, howner, hkeep⟩ := hf.finalising h.stream
    have hattempt : ((q.writeMem t a out).1.finalising t n ou b).workAttempt = s.workAttempt :=
      (workAttempt_finalising _ t n ou b).trans ((workAttempt_mem ⟨_, _, _, hrec⟩).trans (workAttempt_named s t bad _ _ _ [seg]))
    have hmem : u.mem = (q.writeMem t a out).1.mem := hf.mem
    refine ⟨u, hu, hf.takesOff, ?_, hstate, howner, ?_, fun i hi => ?_, fun x hx => ?_, hf.keepsSram ?_, hf.onlyTile fun x hx => ?_⟩
    · rw [← hattempt]
      exact hf.post
    · exact congrArg StepCtl.segsNamed (hf.stp.trans hmove.stp)
    · rw [hmem, hbyte, if_pos (by omega), Nat.add_sub_cancel_left]
    · rw [hmem, hbyte, if_neg (by omega)]
      rfl
    · exact (congrArg Tile.sram (hmove.tile t)).trans hsram
    · exact (hmove.tile x).trans (honly x hx)
  · intro k13 first segs rd z all res h hw hlen hc ha hr hbusy hgood hfin h0 hwaits
    have hrec := writeSegments_ok (segs.zip (chunksOf 16384 segs.length all)) ((v.tally y.layer y.oper z.tally).nameSegments segs, 0) h0
    have hmove : Moves ((v.tally y.layer y.oper z.tally).nameSegments segs) res.1 := .of_mem hrec
    have hcalm : Calm t n s ((v.tally y.layer y.oper z.tally).nameSegments segs) :=
      ((Calm.upset s t n bad).tally y.layer y.oper z.tally).nameSegments segs
    have hunit : UnitFld t (F.TILE_VEC_STATUS_BUSY t) := unitFld_of_mem (i := 0) (by simp [unitFields])
    obtain ⟨u, hu, hf⟩ := flies_of h rfl ruleGainout
      (ruleGainout_flies (v := v) hy rfl rfl rfl rfl rfl rfl rfl hw hlen hc ha hr hbusy hgood hfin h0)
      ((hcalm.moves h.stream hmove hwaits).setUnit h.stream hunit 1)
    have hattempt : res.1.workAttempt = s.workAttempt :=
      (workAttempt_mem hrec).trans (workAttempt_named s t bad y.layer y.oper z.tally segs)
    refine ⟨u, hu, hf.takesOff, ?_, ?_, ?_, hf.mem, hf.keepsSram ?_, hf.onlyTile fun x hx => ?_⟩
    · rw [← hattempt]
      exact hf.post
    · exact (hf.g_unit h.stream hunit).trans (State.g_set_same _ _ 1)
    · exact congrArg StepCtl.segsNamed (hf.stp.trans hmove.stp)
    · exact (congrArg Tile.sram (hmove.tile t)).trans hsram
    · exact (hmove.tile x).trans (honly x hx)

end Sys2Proof
end

section
/-!
SUPPORT. Vector kernels past their field checks (R99 to R118, R153, R154): what such a kernel leaves, given what its own operation answers,
with writes to SRAM and without.
-/
namespace Sys2Proof.Machine

/-! Field checks that all pass. -/

theorem check_one {a : Bool} (ha : a = true) : (!a) = false := by rw [ha]; rfl

theorem check_or {c a : Bool} (hc : c = false) (ha : a = true) : (c || !a) = false := by rw [hc, ha]; rfl

theorem check_or_lt {c : Bool} {a b : Nat} (hc : c = false) (h : a < b) : (c || decide (b ≤ a)) = false := by
  rw [hc, decide_eq_false (Nat.not_le.2 h)]; rfl

/-- A kernel that faults only where its field check `c` fails, finds its unit ready and writes no non-finite element leaves its writes over
the state of its own operation (R93, R156). -/
theorem vecKernel_runs {op t n w : Nat} {bad : List Nat} {s r : State} {rd wr : List (Nat × Nat)} {slots : List Nat}
    {gate : State → Option Verdict} {run : State → VecResult} {l : List VecWrite} {sfu : Nat} {c : Bool} {fault : Verdict}
    (h : Issues op t n w bad s) (hk : opKnown op = true) (rule : Rule)
    (hr : rule t n w (s.upset t bad) = if c then fault else vecIssue t n rd wr slots gate run (s.upset t bad)) (hc : c = false)
    (hrun : run (s.upset t bad) = { state := r, writes := l, sfu := sfu }) (hv : VecReady t n rd wr slots (s.upset t bad))
    (hg : gate (s.upset t bad) = none) (hfin : ∀ e ∈ l, firstNonFinite e.tally = none) (q : Quiet t n s r) :
    ∃ u, issueOp op rule t n bad s = .next u ∧ VectorRuns t n w rd wr slots sfu [] l r s u := by
  rw [hc] at hr
  have hu := vec_runs h hk rule hr hv hg
  rw [hrun] at hu
  exact hu hfin rfl q

/-- A kernel that faults only where its field check `c` fails, finds its unit ready and writes nothing to SRAM is in flight with what its
own operation answers (R93, R156). -/
theorem vecKernel_flies {t n w : Nat} {v r : State} {rd wr : List (Nat × Nat)} {slots : List Nat} {gate : State → Option Verdict}
    {run : State → VecResult} {sfu : Nat} {more : List Post} {fills : List HalfFill} {c : Bool} {fault : Verdict} (rule : Rule)
    (hr : rule t n w v = if c then fault else vecIssue t n rd wr slots gate run v) (hc : c = false)
    (hrun : run v = { state := r, writes := [], sfu := sfu, post := more, fills := fills }) (hv : VecReady t n rd wr slots v)
    (hg : gate v = none) :
    rule t n w v = .flies ((r.set (F.TILE_VEC_STATUS_BUSY t) 1).set (F.TILE_VEC_STATUS_SFU_BUSY t) (if sfu = 0 then 0 else 1))
      { rd := rd.map sramSpan, wr := wr.map sramSpan, post := .vectorDone slots sfu :: more, fills := fills } := by
  rw [hr, hc, if_neg Bool.false_ne_true, vecIssue_flies hv hg, hrun]
  rfl

end Sys2Proof.Machine
end

section
/-!
Normalisation, loss and slot kernels (R103 to R106, R116 to R118, R154): the obligations. A rule reads the stream after the upset, which
leaves it as it was, so each clause is put in terms of that stream before the rule is compared with it.
-/
namespace Sys2Proof

open Machine

/-- Settles O5: each of the three kernels is past its checks and leaves its writes over its kernel-state slot opened, closed or as it
was. -/
theorem normalisationKernelsRun : Obligations.NormalisationKernelsRun := by
  intro t n w bad s v y
  have hy : y = v.stream t n := (State.upset_stream s t bad n).symm
  clear_value y
  subst hy
  intro x k13 blocks cb fmt ln k fin
  have hfmt : fmt = v.saveFmt (v.stream t n) := (saveFmt_upset s t bad _).symm
  clear_value fmt
  subst hfmt
  have hq : Quiet t n s v := quiet_upset s t n bad
  refine ⟨?_, ?_, ?_⟩
  · intro rd wr rows l h hw hlen hm hv hfin
    have hc := check_or (check_or (check_one hw) hlen) hm
    exact vecKernel_runs h rfl ruleNormFwd rfl hc rfl hv rfl hfin hq
  · intro aux rd wr dy xs xh hs slot slot' old terms pairs l h hw hlen hcb hv hg hfin
    have hc := check_or_lt (check_or (check_one hw) hlen) hcb
    exact vecKernel_runs h rfl ruleNormBwdAcc rfl hc rfl hv hg hfin (hq.openSlot k slot' h.stream)
  · intro aux rd wr g slot dx l h hw hlen hcb hm hv hg hfin
    have hc := check_or (check_or_lt (check_or (check_one hw) hlen) hcb) hm
    have hslot : Quiet t n s (if cb = blocks - 1 then v.closeSlot t k else v) := by
      split
      · exact hq.closeSlot k h.stream
      · exact hq
    exact vecKernel_runs h rfl ruleNormBwdFin rfl hc rfl hv hg hfin hslot

/-- Settles O7: each of the five kernels is past its checks and leaves, beside its writes, its kernel-state slot and its stream's loss. -/
theorem lossAndSlotKernelsRun : Obligations.LossAndSlotKernelsRun := by
  intro t n w bad s v y
  have hy : y = v.stream t n := (State.upset_stream s t bad n).symm
  clear_value y
  subst hy
  intro x k i tg fin
  have hq : Quiet t n s v := quiet_upset s t n bad
  refine ⟨?_, ?_, ?_, ?_, ?_⟩
  · intro rd slot z recs l h hw hv hg hfin
    exact vecKernel_runs h rfl ruleXentBlk rfl (check_one hw) rfl hv hg hfin (hq.openSlot k _ h.stream)
  · intro rd wr l h hw hm hv hg hfin
    exact vecKernel_runs h rfl ruleXentGrad rfl (check_or (check_one hw) hm) rfl hv hg hfin hq
  · intro losses p count sum l rd wr h hw hrsvd hv hg hfin
    have hloss := (hq.closeSlot k h.stream).setStream (fun y => { y with lossPair := p, lossCount := count }) fun _ => ⟨rfl, rfl⟩
    exact vecKernel_runs h rfl ruleXentLoss rfl (check_or (check_one hw) hrsvd) rfl hv hg hfin hloss
  · intro j a h hw hv hg hfin
    exact vecKernel_runs h rfl ruleKstore rfl (check_one hw) rfl hv hg hfin hq
  · intro j a h hw hv hclosed
    have hg : (if v.on (slotOpenF t j) then some (Verdict.fault cACC) else none) = none := by
      simp [State.on, v, hclosed]
    exact vecKernel_runs h rfl ruleKload rfl (check_one hw) rfl hv hg (List.forall_mem_nil _) (hq.openSlot j _ h.stream)

end Sys2Proof
end

section
/-!
SUPPORT. The halves of the gradient buffer that ATTN_DS fills (R71, R114): a block goes into its half where that is free, and the other half
and everything else stay as they were.
-/
namespace Sys2Proof.Machine

/-- A half of the gradient buffer, with its state and form, is as it was. -/
structure SameHalf (t h : Nat) (s u : State) : Prop where
  block : (u.tile t).half h = (s.tile t).half h
  state : u.g (halfStateF t h) = s.g (halfStateF t h)
  form : u.g (halfFormF t h) = s.g (halfFormF t h)

/-- A half that was free holds the block of stream `n`, and is loading. -/
structure Loads (t n : Nat) (e : HalfFill) (u : State) : Prop where
  block : (u.tile t).half e.half = ⟨some n, e.block⟩
  state : u.g (halfStateF t e.half) = 1
  form : u.g (halfFormF t e.half) = e.block.form

/-- A block is in its half if that was free; otherwise the half is as it was. -/
structure Takes (t n : Nat) (e : HalfFill) (s u : State) : Prop where
  free : s.g (halfStateF t e.half) = 0 → Loads t n e u
  held : s.g (halfStateF t e.half) ≠ 0 → SameHalf t e.half s u

def halfFields (t : Nat) : List Fld := [halfStateF t 0, halfStateF t 1, halfFormF t 0, halfFormF t 1]

/-- Nothing changes but the halves of tile `t`, their registers, the counts of results and the free values taken. -/
structure OnlyHalves (t : Nat) (s u : State) : Prop where
  sram : (u.tile t).sram = (s.tile t).sram
  others : OnlyTile t s u
  regs : KeepsRegs s u (halfFields t)
  rest : { u with fld := s.fld, tiles := s.tiles, num := s.num, freeCount := s.freeCount } = s

theorem OnlyHalves.trans {t : Nat} {s r u : State} (h : OnlyHalves t s r) (k : OnlyHalves t r u) : OnlyHalves t s u := by
  refine ⟨k.sram.trans h.sram, fun x hx => (k.others x hx).trans (h.others x hx), fun f hf => (k.regs f hf).trans (h.regs f hf), ?_⟩
  have e := congrArg (fun q : State => { q with fld := s.fld, tiles := s.tiles, num := s.num, freeCount := s.freeCount }) k.rest
  exact e.trans h.rest

theorem OnlyHalves.upset (s : State) (t : Nat) (bad : List Nat) : OnlyHalves t s (s.upset t bad) :=
  ⟨by rw [s.upset_tile t bad], fun x hx => State.upset_tile_ne s t x bad hx, fun f _ => State.g_upset s t bad f, rfl⟩

theorem OnlyHalves.tookFree (s : State) (t k : Nat) : OnlyHalves t s (s.tookFree k) := ⟨rfl, fun _ _ => rfl, fun _ _ => rfl, rfl⟩

section
variable {t n h : Nat} {e : HalfFill} {s r u : State}

theorem Takes.before (h : SameHalf t e.half s r) (k : Takes t n e r u) : Takes t n e s u where
  free h0 := k.free (h.state.trans h0)
  held h0 :=
    have kept := k.held (by rw [h.state]; exact h0)
    ⟨kept.block.trans h.block, kept.state.trans h.state, kept.form.trans h.form⟩

theorem Takes.after (h : Takes t n e s r) (k : SameHalf t e.half r u) : Takes t n e s u where
  free h0 :=
    have loads := h.free h0
    ⟨k.block.trans loads.block, k.state.trans loads.state, k.form.trans loads.form⟩
  held h0 :=
    have kept := h.held h0
    ⟨k.block.trans kept.block, k.state.trans kept.state, k.form.trans kept.form⟩

theorem SameHalf.upset (s : State) (t h : Nat) (bad : List Nat) : SameHalf t h s (s.upset t bad) :=
  ⟨by rw [s.upset_tile t bad]; rfl, State.g_upset .., State.g_upset ..⟩

theorem SameHalf.tookFree (s : State) (t h k : Nat) : SameHalf t h s (s.tookFree k) := ⟨rfl, rfl, rfl⟩

/-! The registers of the two halves. -/

theorem halfState_key_ne (t : Nat) {h k : Nat} (hk : ¬(h = 0 ↔ k = 0)) : (halfStateF t h).key ≠ (halfStateF t k).key := by
  obtain ⟨hf, -, hl, -⟩ := halfStateF_place t h
  obtain ⟨kf, -, kl, -⟩ := halfStateF_place t k
  exact hf.key_ne kf (.inr (by rw [hl, kl]; split <;> split <;> simp_all))

theorem halfForm_key_ne (t : Nat) {h k : Nat} (hk : ¬(h = 0 ↔ k = 0)) : (halfFormF t h).key ≠ (halfFormF t k).key := by
  obtain ⟨hf, -, hl, -⟩ := halfFormF_place t h
  obtain ⟨kf, -, kl, -⟩ := halfFormF_place t k
  exact hf.key_ne kf (.inr (by rw [hl, kl]; split <;> split <;> simp_all))

theorem halfState_mem (t h : Nat) : halfStateF t h ∈ halfFields t := by
  by_cases h0 : h = 0 <;> simp [halfFields, halfStateF, h0]

theorem halfForm_mem (t h : Nat) : halfFormF t h ∈ halfFields t := by
  by_cases h0 : h = 0 <;> simp [halfFields, halfFormF, h0]

theorem Tile.half_setHalf_ne (x : Tile) {h k : Nat} (hk : ¬(h = 0 ↔ k = 0)) (v : Half) : (x.setHalf k v).half h = x.half h := by
  unfold Tile.half Tile.setHalf
  by_cases h0 : h = 0 <;> by_cases k0 : k = 0 <;> simp_all

/-! A block put into a half. -/

theorem fillNow_held {y : Stream} (h0 : s.g (halfStateF t e.half) ≠ 0) : s.fillNow t n y e = s := if_neg h0

theorem fillNow_free {y : Stream} (h0 : s.g (halfStateF t e.half) = 0) : s.fillNow t n y e = s.fillHalf t n y.layer y.oper e := if_pos h0

theorem fillHalf_loads (s : State) (t n layer oper : Nat) (htrap : e.trap = none) (hform : e.block.form < 8) :
    Loads t n e (s.fillHalf t n layer oper e) := by
  rw [fillHalf_eq _ _ _ _ _ _ htrap]
  refine ⟨?_, ?_, ?_⟩
  · rw [State.tally_tile, State.tile_set, State.tile_set, State.tile_setTile_same, Tile.half_setHalf]
  · rw [State.g_tally, State.g_set_ne _ _ _ _ (halfForm_key_ne_state t e.half e.half).symm, State.g_set_same,
      (halfStateF_place t e.half).2.2.2]
    rfl
  · rw [State.g_tally, State.g_set_same, (halfFormF_place t e.half).2.2.2]
    exact Nat.mod_eq_of_lt hform

/-- The half that a block does not go into is as it was. -/
theorem fillHalf_other (s : State) (t n layer oper : Nat) (htrap : e.trap = none) (hne : ¬(h = 0 ↔ e.half = 0)) :
    SameHalf t h s (s.fillHalf t n layer oper e) := by
  rw [fillHalf_eq _ _ _ _ _ _ htrap]
  refine ⟨?_, ?_, ?_⟩
  · rw [State.tally_tile, State.tile_set, State.tile_set, State.tile_setTile_same, Tile.half_setHalf_ne _ hne]
  · rw [State.g_tally, State.g_set_ne _ _ _ _ (halfForm_key_ne_state t e.half h).symm, State.g_set_ne _ _ _ _ (halfState_key_ne t hne),
      State.g_setTile]
  · rw [State.g_tally, State.g_set_ne _ _ _ _ (halfForm_key_ne t hne), State.g_set_ne _ _ _ _ (halfForm_key_ne_state t h e.half),
      State.g_setTile]

theorem OnlyHalves.fillHalf (s : State) (t n layer oper : Nat) (htrap : e.trap = none) :
    OnlyHalves t s (s.fillHalf t n layer oper e) := by
  rw [fillHalf_eq _ _ _ _ _ _ htrap]
  refine ⟨?_, fun x hx => State.tile_setTile_ne s t x (fun x => x.setHalf e.half ⟨some n, e.block⟩) hx, fun f hf => ?_, rfl⟩
  · obtain ⟨a, b, e'⟩ := (s.tile t).setHalf_only e.half ⟨some n, e.block⟩
    rw [State.tally_tile, State.tile_set, State.tile_set, State.tile_setTile_same, e']
  · rw [State.g_tally, State.g_set_ne _ _ _ _ (hf _ (halfForm_mem t e.half)), State.g_set_ne _ _ _ _ (hf _ (halfState_mem t e.half)),
      State.g_setTile]

theorem Calm.fillHalf (c : Calm t n s r) (hn : n < 2) (layer oper : Nat) (htrap : e.trap = none) :
    Calm t n s (r.fillHalf t n layer oper e) := by
  rw [fillHalf_eq _ _ _ _ _ _ htrap]
  obtain ⟨a, b, e'⟩ := (r.tile t).setHalf_only e.half ⟨some n, e.block⟩
  have hset : Calm t n s (r.setTile t fun x => x.setHalf e.half ⟨some n, e.block⟩) :=
    c.tile t _ (by rw [e']) (by rw [e']; exact ⟨rfl, rfl⟩)
  exact ((hset.setUnit hn (unitFld_halfState t e.half) 1).setUnit hn (unitFld_halfForm t e.half) _).tally layer oper e.tally

/-! A block that goes into its half if that is free. -/

theorem fillNow_takes (s : State) (t n : Nat) (y : Stream) (htrap : e.trap = none) (hform : e.block.form < 8) :
    Takes t n e s (s.fillNow t n y e) where
  free h0 := by rw [fillNow_free h0]; exact fillHalf_loads s t n y.layer y.oper htrap hform
  held h0 := by rw [fillNow_held h0]; exact ⟨rfl, rfl, rfl⟩

theorem fillNow_other (s : State) (t n : Nat) (y : Stream) (htrap : e.trap = none) (hne : ¬(h = 0 ↔ e.half = 0)) :
    SameHalf t h s (s.fillNow t n y e) := by
  by_cases h0 : s.g (halfStateF t e.half) = 0
  · rw [fillNow_free h0]; exact fillHalf_other s t n y.layer y.oper htrap hne
  · rw [fillNow_held h0]; exact ⟨rfl, rfl, rfl⟩

theorem OnlyHalves.fillNow (s : State) (t n : Nat) (y : Stream) (htrap : e.trap = none) : OnlyHalves t s (s.fillNow t n y e) := by
  by_cases h0 : s.g (halfStateF t e.half) = 0
  · rw [fillNow_free h0]; exact .fillHalf s t n y.layer y.oper htrap
  · rw [fillNow_held h0]; exact ⟨rfl, fun _ _ => rfl, fun _ _ => rfl, rfl⟩

theorem Calm.fillNow (c : Calm t n s r) (hn : n < 2) (y : Stream) (htrap : e.trap = none) : Calm t n s (r.fillNow t n y e) := by
  by_cases h0 : r.g (halfStateF t e.half) = 0
  · rw [fillNow_free h0]; exact c.fillHalf hn y.layer y.oper htrap
  · rw [fillNow_held h0]; exact c

end

/-! The two blocks of ATTN_DS. -/

/-- A block for half `k`, without a non-finite element, whose form the half's register can show. -/
structure Fills (k : Nat) (e : HalfFill) : Prop where
  half : e.half = k
  trap : e.trap = none
  form : e.block.form < 8

/-- A block without a non-finite element traps nothing (R54). -/
theorem halfBlock_fills {t n k free : Nat} {y : Stream} {rows : List (List Nat)} (hform : y.kfmt < 8)
    (hfin : firstNonFinite (halfBlock t n k y free rows).tally = none) : Fills k (halfBlock t n k y free rows) := by
  have htrap := VecWrite.trap_finite
    (v := { sector := 0, bytes := [], fmt := y.kfmt, ovf := y.kovf, vals := rows.flatten, tally := (halfBlock t n k y free rows).tally })
    hfin t n y 1 0
  exact ⟨rfl, congrArg (Option.map _) htrap, hform⟩

/-- A half that is free, or the stream's own, holds no instruction at the gate (R114, R125). -/
theorem halfOwnGate_none {t n h : Nat} {s : State} (ho : s.g (halfStateF t h) = 0 ∨ ((s.tile t).half h).owner = some n) :
    halfOwnGate t n h s = none := if_pos ho

/-- The state after ATTN_DS: two free values taken, and each block in its half if that is free. -/
def State.twoHalves (s : State) (t n : Nat) (y : Stream) (p ds : HalfFill) : State := ((s.tookFree 2).fillNow t n y p).fillNow t n y ds

section
variable {t n : Nat} {s r : State} {y : Stream} {p ds : HalfFill} (hp : Fills 0 p) (hds : Fills 1 ds)
include hp hds

theorem OnlyHalves.twoHalves (s : State) (t n : Nat) (y : Stream) : OnlyHalves t s (s.twoHalves t n y p ds) :=
  ((OnlyHalves.tookFree s t 2).trans (.fillNow _ t n y hp.trap)).trans (.fillNow _ t n y hds.trap)

theorem Calm.twoHalves (c : Calm t n s r) (hn : n < 2) (y : Stream) : Calm t n s (r.twoHalves t n y p ds) := by
  have hfree : Calm t n s (r.tookFree 2) := c.of (fun _ _ => rfl) rfl rfl ⟨rfl, rfl⟩ rfl
  exact (hfree.fillNow hn y hp.trap).fillNow hn y hds.trap

/-- Each block is in its half: the one put first stays as the other goes into the other half. -/
theorem twoHalves_takes (s : State) (t n : Nat) (y : Stream) : ∀ e ∈ [p, ds], Takes t n e s (s.twoHalves t n y p ds) := by
  obtain ⟨r, hr⟩ : ∃ r, r = (s.tookFree 2).fillNow t n y p := ⟨_, rfl⟩
  have hu : s.twoHalves t n y p ds = r.fillNow t n y ds := by rw [hr]; rfl
  have hfirst : Takes t n p s r := hr ▸ .before (.tookFree s t p.half 2) (fillNow_takes _ t n y hp.trap hp.form)
  have hother : SameHalf t ds.half (s.tookFree 2) r := hr ▸ fillNow_other _ t n y hp.trap (by simp [hp.half, hds.half])
  have hlast : SameHalf t p.half r (r.fillNow t n y ds) := fillNow_other r t n y hds.trap (by simp [hp.half, hds.half])
  have hsecond : Takes t n ds s (r.fillNow t n y ds) :=
    .before (.tookFree s t ds.half 2) (.before hother (fillNow_takes r t n y hds.trap hds.form))
  rw [hu]
  exact List.forall_mem_cons.2 ⟨hfirst.after hlast, List.forall_mem_singleton.2 hsecond⟩

end

/-- The vector unit's status is not that of a half. -/
theorem vecStatus_key_ne_half {t : Nat} {f : Fld} (hf : f ∈ [F.TILE_VEC_STATUS_BUSY t, F.TILE_VEC_STATUS_SFU_BUSY t]) (h : Nat) :
    (halfStateF t h).key ≠ f.key ∧ (halfFormF t h).key ≠ f.key := by
  obtain ⟨hs, hso, -, -⟩ := halfStateF_place t h
  obtain ⟨hm, hmo, -, -⟩ := halfFormF_place t h
  have hu : UnitFld t f ∧ f.off ≠ 0x1000450 + 0x10000 * t := by
    simp only [List.mem_cons, List.not_mem_nil, or_false] at hf
    rcases hf with rfl | rfl
    · exact ⟨unitFld_of_mem (i := 0) (by simp [unitFields]), by simp only [F.TILE_VEC_STATUS_BUSY]; omega⟩
    · exact ⟨unitFld_of_mem (i := 0) (by simp [unitFields]), by simp only [F.TILE_VEC_STATUS_SFU_BUSY]; omega⟩
  exact ⟨hs.key_ne hu.1 (.inl (by rw [hso]; exact hu.2.symm)), hm.key_ne hu.1 (.inl (by rw [hmo]; exact hu.2.symm))⟩

end Sys2Proof.Machine
end

section
/-!
Attention kernels (R107 to R114): what a kernel that fills both halves of the gradient buffer leaves, and the obligation.
-/
namespace Sys2Proof

open Machine

/-- Marking the vector unit busy and taking off leave the halves. -/
theorem FliesFrom.sameHalf {t n w a b : Nat} {j : Job'} {r s u : State}
    (hf : FliesFrom t n w j ((r.set (F.TILE_VEC_STATUS_BUSY t) a).set (F.TILE_VEC_STATUS_SFU_BUSY t) b) s u) (hn : n < 2) (h : Nat) :
    SameHalf t h r u := by
  obtain ⟨hs1, hm1⟩ := vecStatus_key_ne_half (t := t) (f := F.TILE_VEC_STATUS_BUSY t) (by simp) h
  obtain ⟨hs2, hm2⟩ := vecStatus_key_ne_half (t := t) (f := F.TILE_VEC_STATUS_SFU_BUSY t) (by simp) h
  refine ⟨hf.half h, ?_, ?_⟩
  · rw [hf.g_unit hn (unitFld_halfState t h), State.g_set_ne _ _ _ _ hs2, State.g_set_ne _ _ _ _ hs1]
  · rw [hf.g_unit hn (unitFld_halfForm t h), State.g_set_ne _ _ _ _ hm2, State.g_set_ne _ _ _ _ hm1]

/-- A kernel that writes no SRAM is in flight, and its two blocks are in those halves that were free or wait in its flight (R114). -/
structure HalvesRun (t n w : Nat) (rd : List (Nat × Nat)) (slots : List Nat) (sfu : Nat) (more : List Post) (p ds : HalfFill)
    (s u : State) : Prop where
  takesOff : TakesOff t n w (rd.map sramSpan) [] s u
  flight : ∃ f, (u.tile t).flights.getLast? = some f ∧ f.post = .vectorDone slots sfu :: more ∧ f.ready = true
    ∧ f.fills = [p, ds].filter fun e => s.g (halfStateF t e.half) != 0
  takes : ∀ e ∈ [p, ds], Takes t n e s u
  busy : u.g (F.TILE_VEC_STATUS_BUSY t) = 1
  sram : KeepsSram t s u 0 0
  others : OnlyTile t s u
  regs : KeepsRegs s u (issueFields t n ++ [F.TILE_VEC_STATUS_BUSY t, F.TILE_VEC_STATUS_SFU_BUSY t, halfStateF t 0, halfStateF t 1,
    halfFormF t 0, halfFormF t 1])
  rest : { u with fld := s.fld, tiles := s.tiles, num := s.num, freeCount := s.freeCount } = s

theorem halvesKernel_runs {op t n w : Nat} {bad : List Nat} {s : State} {y : Stream} {rd : List (Nat × Nat)} {slots : List Nat}
    {gate : State → Option Verdict} {run : State → VecResult} {sfu : Nat} {more : List Post} {p ds : HalfFill} {c : Bool}
    {fault : Verdict} (h : Issues op t n w bad s) (hk : opKnown op = true) (rule : Rule)
    (hr : rule t n w (s.upset t bad) = if c then fault else vecIssue t n rd [] slots gate run (s.upset t bad)) (hc : c = false)
    (hrun : run (s.upset t bad) =
      ⟨(s.upset t bad).twoHalves t n y p ds, [], sfu, more, [p, ds].filter fun e => s.g (halfStateF t e.half) != 0⟩)
    (hv : VecReady t n rd [] slots (s.upset t bad)) (hg : gate (s.upset t bad) = none) (hp : Fills 0 p) (hds : Fills 1 ds) :
    ∃ u, issueOp op rule t n bad s = .next u ∧ HalvesRun t n w rd slots sfu more p ds s u := by
  have hbusy : UnitFld t (F.TILE_VEC_STATUS_BUSY t) := unitFld_of_mem (i := 0) (by simp [unitFields])
  have hsfu : UnitFld t (F.TILE_VEC_STATUS_SFU_BUSY t) := unitFld_of_mem (i := 0) (by simp [unitFields])
  have hne : (F.TILE_VEC_STATUS_BUSY t).key ≠ (F.TILE_VEC_STATUS_SFU_BUSY t).key := by
    simp only [Fld.key, F.TILE_VEC_STATUS_BUSY, F.TILE_VEC_STATUS_SFU_BUSY, Dom.code]; omega
  have hcalm := (Calm.upset s t n bad).twoHalves hp hds h.stream y
  have honly := (OnlyHalves.upset s t bad).trans (.twoHalves hp hds _ t n y)
  have htakes := twoHalves_takes hp hds (s.upset t bad) t n y
  generalize (s.upset t bad).twoHalves t n y p ds = r at hrun hcalm honly htakes
  obtain ⟨u, hu, hf⟩ := flies_of h hk rule (vecKernel_flies rule hr hc hrun hv hg)
    ((hcalm.setUnit h.stream hbusy 1).setUnit h.stream hsfu _)
  obtain ⟨f, hlast, hpost, hready, -, -, -, hfills⟩ := hf.flight
  refine ⟨u, hu, hf.takesOff, ⟨f, hlast, hpost, hready, hfills⟩, fun e he => ?_, ?_, hf.keepsSram honly.sram,
    hf.onlyTile honly.others, fun x hx => ?_, ?_⟩
  · exact (Takes.before (.upset s t e.half bad) (htakes e he)).after (hf.sameHalf h.stream e.half)
  · rw [hf.g_unit h.stream hbusy, State.g_set_ne _ _ _ _ hne, State.g_set_same]
    rfl
  · rw [hf.regs x fun z hz => hx z (List.mem_append_left _ hz), State.g_set_ne _ _ _ _ (hx _ (by simp)),
      State.g_set_ne _ _ _ _ (hx _ (by simp))]
    exact honly.regs x fun z hz => hx z (List.mem_append_right _ (List.mem_cons_of_mem _ (List.mem_cons_of_mem _ hz)))
  · have e := congrArg (fun q : State => { q with fld := s.fld, tiles := s.tiles, num := s.num, freeCount := s.freeCount }) hf.rest
    exact e.trans honly.rest

/-- Settles O6: four of the kernels leave their writes over what their own operation leaves; ATTN_DS writes no SRAM and puts its two blocks
into those halves that are free. -/
theorem attentionKernelsRun : Obligations.AttentionKernelsRun := by
  intro t n w bad s v y
  have hy : y = v.stream t n := (State.upset_stream s t bad n).symm
  clear_value y
  subst hy
  intro x k i out fin
  have hq : Quiet t n s v := quiet_upset s t n bad
  refine ⟨?_, ?_, ?_, ?_, ?_⟩
  · intro slot res slot' l h hw hm hpos hv hg hfin
    have hc := check_or (check_or (check_one hw) hm) hpos
    exact vecKernel_runs h rfl ruleAttnP rfl hc rfl hv hg hfin ((hq.free 128).openSlot k slot' h.stream)
  · intro slot o alpha o' h hw hv hg
    exact vecKernel_runs h rfl ruleAttnO rfl (check_one hw) rfl hv hg (List.forall_mem_nil _) ((hq.free 128).kslot k _)
  · intro slot res l h hw hm hv hg hfin
    exact vecKernel_runs h rfl ruleAttnFin rfl (check_or (check_one hw) hm) rfl hv hg hfin (hq.closeSlot k h.stream)
  · intro fmt
    have hfmt : fmt = v.saveFmt (v.stream t n) := (saveFmt_upset s t bad _).symm
    clear_value fmt
    subst hfmt
    intro rd l h hw hv hfin
    exact vecKernel_runs h rfl ruleAttnDterm rfl (check_one hw) rfl hv rfl hfin hq
  · intro j rd res p ds h hw hm hfmt hpos hv hown hpfin hdsfin
    have hc := check_or (check_or_lt (check_or (check_one hw) hm) hfmt) hpos
    have hgate (k : Nat) (hk : k < 2) : halfOwnGate t n k v = none := by
      have hsame := SameHalf.upset s t k bad
      exact halfOwnGate_none (by rw [hsame.state, hsame.block]; exact hown k hk)
    have hg : (halfOwnGate t n 0 v <|> halfOwnGate t n 1 v) = none := by
      rw [hgate 0 (by decide), hgate 1 (by decide)]
      rfl
    have hform : (v.stream t n).kfmt < 8 := by omega
    have hforms : ∀ e ∈ [p, ds], e.block.form = (v.stream t n).kfmt := List.forall_mem_cons.2 ⟨rfl, List.forall_mem_singleton.2 rfl⟩
    obtain ⟨u, hu, hrun⟩ := halvesKernel_runs (p := p) (ds := ds) h rfl ruleAttnDs rfl hc rfl hv hg (halfBlock_fills hform hpfin)
      (halfBlock_fills hform hdsfin)
    refine ⟨u, hu, hrun.takesOff, hrun.flight, fun e he => ⟨fun h0 => ?_, fun h0 => ?_⟩, hrun.busy, hrun.sram, hrun.others, hrun.regs,
      hrun.rest⟩
    · obtain ⟨hblock, hstate, hloaded⟩ := (hrun.takes e he).free h0
      exact ⟨hblock, hstate, hloaded.trans (hforms e he)⟩
    · obtain ⟨hblock, hstate, hkept⟩ := (hrun.takes e he).held h0
      exact ⟨hblock, hstate, hkept⟩

end Sys2Proof
end

section
/-!
SUPPORT. What an attempt to issue leaves, said of its verdict and not of its command (R122, R126, R131, R156): an instruction that is done
at issue or jumps, one in flight, one that is held. Every row that lets a stream issue answers one of these.
-/
namespace Sys2Proof.Machine

/-- A stream moved on to an index with one more instruction issued (R122). -/
def State.movedTo (s : State) (t n i : Nat) : State := ((s.inc (F.TILE_SEQ_ISSUED_ISSUED t n)).seqTo t n seqISSUING).setPc t n i

/-- The fields of a stream that moving it changes. -/
def moveFields (t n : Nat) : List Fld :=
  [F.TILE_SEQ_STATUS_STATE t n, F.TILE_SEQ_STATUS_STALL t n, F.TILE_SEQ_STATUS_PC t n, F.TILE_SEQ_STATUS_OPCODE t n,
    F.TILE_SEQ_ISSUED_ISSUED t n]

/-- Beside its stream's registers, now at index `i`, its event and the arbiter's count, an instruction that has issued and is over leaves the
state `r` of its rule. -/
structure Goes (t n i w : Nat) (r u : State) : Prop where
  pc : u.pc t n = i
  issued : u.g (F.TILE_SEQ_ISSUED_ISSUED t n) = (r.g (F.TILE_SEQ_ISSUED_ISSUED t n) + 1) % 2 ^ 48
  issuing : u.seqState t n = seqISSUING
  counts : CountsEvent t w r u
  tile : u.tile t = { r.tile t with run := (u.tile t).run }
  others : ∀ x, x ≠ t → u.tile x = r.tile x
  regs : KeepsRegs r u (issueFields t n)
  rest : { u with fld := r.fld, tiles := r.tiles } = r

section
variable {t n i w : Nat} {s r u v : State}

/-! The registers of a stream. -/

theorem mem_issueFields_of_move {f : Fld} (h : f ∈ moveFields t n) : f ∈ issueFields t n := List.mem_append_left _ h

theorem move_key_ne_evt (hn : n < 2) {f : Fld} (hf : f ∈ moveFields t n) {c : Nat} (hc : c < 16) : (F.TILE_EVT_COUNT t c).key ≠ f.key := by
  simp only [moveFields, List.mem_cons, List.not_mem_nil, or_false] at hf
  rcases hf with rfl | rfl | rfl | rfl | rfl <;>
    simp only [Fld.key, F.TILE_EVT_COUNT, F.TILE_SEQ_STATUS_STATE, F.TILE_SEQ_STATUS_STALL, F.TILE_SEQ_STATUS_PC, F.TILE_SEQ_STATUS_OPCODE,
      F.TILE_SEQ_ISSUED_ISSUED, Dom.code] <;> omega

theorem state_key_ne_stall (t n : Nat) : (F.TILE_SEQ_STATUS_STATE t n).key ≠ (F.TILE_SEQ_STATUS_STALL t n).key := by
  simp only [Fld.key, F.TILE_SEQ_STATUS_STATE, F.TILE_SEQ_STATUS_STALL, Dom.code]; omega

theorem pc_setPc (s : State) (t n : Nat) (hi : i < 2 ^ 13) : (s.setPc t n i).pc t n = i := by
  have hk : (F.TILE_SEQ_STATUS_PC t n).key ≠ (F.TILE_SEQ_STATUS_OPCODE t n).key := by
    simp only [Fld.key, F.TILE_SEQ_STATUS_PC, F.TILE_SEQ_STATUS_OPCODE, Dom.code]; omega
  rw [State.pc, State.setPc, State.g_set_ne _ _ _ _ hk, State.g_set_same]
  exact Nat.mod_eq_of_lt hi

theorem g_setPc_ne {f : Fld} (hp : f.key ≠ (F.TILE_SEQ_STATUS_PC t n).key) (ho : f.key ≠ (F.TILE_SEQ_STATUS_OPCODE t n).key) (s : State) :
    (s.setPc t n i).g f = s.g f := by
  rw [State.setPc, State.g_set_ne _ _ _ _ ho, State.g_set_ne _ _ _ _ hp]

theorem g_movedTo_ne {f : Fld} (hf : ∀ x ∈ moveFields t n, f.key ≠ x.key) (s : State) : (s.movedTo t n i).g f = s.g f := by
  simp only [moveFields, List.mem_cons, List.not_mem_nil, or_false, forall_eq_or_imp, forall_eq] at hf
  obtain ⟨h1, h2, h3, h4, h5⟩ := hf
  rw [State.movedTo, g_setPc_ne h3 h4, State.seqTo, State.g_set_ne _ _ _ _ h2, State.g_set_ne _ _ _ _ h1, State.g_inc_ne _ _ _ h5]

theorem seqState_seqTo (s : State) (t n : Nat) {st : Nat} (h : st < 4) : (s.seqTo t n st).seqState t n = st := by
  rw [State.seqState, State.seqTo, State.g_set_ne _ _ _ _ (state_key_ne_stall t n), State.g_set_same]
  exact Nat.mod_eq_of_lt h

theorem seqState_setPc (s : State) (t n i : Nat) : (s.setPc t n i).seqState t n = s.seqState t n := by
  refine g_setPc_ne (pc_key_ne_state t n n).symm ?_ s
  simp only [Fld.key, F.TILE_SEQ_STATUS_STATE, F.TILE_SEQ_STATUS_OPCODE, Dom.code]; omega

theorem issued_movedTo (s : State) (t n i : Nat) :
    (s.movedTo t n i).g (F.TILE_SEQ_ISSUED_ISSUED t n) = (s.g (F.TILE_SEQ_ISSUED_ISSUED t n) + 1) % 2 ^ 48 := by
  rw [State.movedTo, g_setPc_ne (pc_key_ne_issued t n n).symm, State.seqTo, State.g_set_ne, State.g_set_ne, State.g_inc_same]
  · rfl
  all_goals simp only [Fld.key, F.TILE_SEQ_ISSUED_ISSUED, F.TILE_SEQ_STATUS_OPCODE, F.TILE_SEQ_STATUS_STATE, F.TILE_SEQ_STATUS_STALL, Dom.code]
  all_goals omega

theorem seqState_movedTo (s : State) (t n i : Nat) : (s.movedTo t n i).seqState t n = seqISSUING := by
  rw [State.movedTo, seqState_setPc, seqState_seqTo _ _ _ (by decide)]

/-- Away from the last index the end of an issue moves the stream to the next one. -/
theorem advance_movedTo (la oa : Nat) (h : s.pc t n < 8191) : s.advance t n la oa = s.movedTo t n (s.pc t n + 1) := State.advance_eq h

theorem pc_event (s : State) (hn : n < 2) (w : Nat) : (s.event t (evtOf w)).pc t n = s.pc t n :=
  State.g_event_ne _ _ _ _ fun _ hc => seq_key_ne_evt t n _ (evtOf_lt hc) hn

theorem movedTo_only (s : State) (t n i : Nat) : ∃ l, s.movedTo t n i = { s with fld := l } := by
  obtain ⟨k, hk⟩ : ∃ k, s.inc (F.TILE_SEQ_ISSUED_ISSUED t n) = { s with fld := k } := ⟨_, rfl⟩
  obtain ⟨m, hm⟩ : ∃ m, ({ s with fld := k } : State).seqTo t n seqISSUING = { s with fld := m } := ⟨_, rfl⟩
  exact ⟨_, by rw [State.movedTo, hk, hm]; rfl⟩

theorem movedTo_rest (s : State) (t n i : Nat) (l : Sparse Nat) (k : Sparse Tile) :
    { s.movedTo t n i with fld := l, tiles := k } = { s with fld := l, tiles := k } := by
  obtain ⟨m, h⟩ := movedTo_only s t n i
  rw [h]

/-- A state that differs from `q` in its tiles, or in its registers, and `q` from `r` in its tiles. -/
theorem rest_of_tiles {x q r : State} (h : { x with tiles := q.tiles } = q) (h' : { q with tiles := r.tiles } = r) :
    { x with fld := r.fld, tiles := r.tiles } = r := by
  have e : { x with fld := r.fld, tiles := r.tiles } = { q with fld := r.fld, tiles := r.tiles } := by rw [← h]
  have e' : { q with fld := r.fld, tiles := r.tiles } = r := by rw [← h']
  exact e.trans e'

theorem rest_of_fld {x q r : State} (h : { x with fld := q.fld } = q) (h' : { q with tiles := r.tiles } = r) :
    { x with fld := r.fld, tiles := r.tiles } = r := by
  have e : { x with fld := r.fld, tiles := r.tiles } = { q with fld := r.fld, tiles := r.tiles } := by rw [← h]
  have e' : { q with fld := r.fld, tiles := r.tiles } = r := by rw [← h']
  exact e.trans e'

theorem rest_of_rest {x r s : State} (h : { x with fld := r.fld, tiles := r.tiles } = r) (h' : { r with fld := s.fld, tiles := s.tiles } = s) :
    { x with fld := s.fld, tiles := s.tiles } = s := by
  have e : { x with fld := s.fld, tiles := s.tiles } = { r with fld := s.fld, tiles := s.tiles } := by rw [← h]
  exact e.trans h'

/-! Verdicts carried out. -/

theorem moved_goes (g : Bool) (hn : n < 2) (hi : i < 2 ^ 13) :
    Goes t n i w r (((r.grant t n g).event t (evtOf w)).movedTo t n i) := by
  obtain ⟨x, hx⟩ : ∃ x, x = (r.grant t n g).event t (evtOf w) := ⟨_, rfl⟩
  have hg {f : Fld} (h : ∀ c, evtOf w = some c → f.key ≠ (F.TILE_EVT_COUNT t c).key) : x.g f = r.g f := by
    rw [hx, State.g_event_ne _ _ _ _ h, State.g_grant]
  have htile (y : Nat) : x.tile y = (r.grant t n g).tile y := by rw [hx, State.event_fld]; rfl
  rw [← hx]
  refine ⟨pc_setPc _ t n hi, ?_, seqState_movedTo x t n i, fun c hc => ?_, ?_, fun y hy => ?_, fun f hf => ?_, ?_⟩
  · rw [issued_movedTo, hg fun c hc => (evt_key_ne_issued t n c (evtOf_lt hc) hn).symm]
  · rw [g_movedTo_ne fun f hf => move_key_ne_evt hn hf hc]
    by_cases he : evtOf w = some c
    · rw [if_pos he, hx, he]
      exact (State.g_inc_same _ _).trans (congrArg (fun k => (k + 1) % 2 ^ 32) (State.g_grant ..))
    · rw [if_neg he]
      exact hg fun d hd => evt_key_ne_evt t c d fun e => he (e ▸ hd)
  · have e := State.grant_tile r t n g
    rw [← htile t] at e
    exact e
  · exact (htile y).trans (State.grant_tile_ne r t n y g hy)
  · rw [g_movedTo_ne fun x hx => hf x (mem_issueFields_of_move hx)]
    exact hg fun c hc => hf _ (evt_mem t n c (evtOf_lt hc))
  · have e : { x with fld := (r.grant t n g).fld } = r.grant t n g := by rw [hx, State.event_fld]
    rw [movedTo_rest]
    exact rest_of_fld e (r.grant_rest t n g)

/-- Done at issue: the stream is at the next index. -/
theorem passed_goes (g : Bool) (la oa : Nat) (hn : n < 2) (hr : r.pc t n < 8191) :
    Goes t n (r.pc t n + 1) w r (((r.grant t n g).event t (evtOf w)).advance t n la oa) := by
  have hpc : ((r.grant t n g).event t (evtOf w)).pc t n = r.pc t n := (pc_event _ hn w).trans (State.g_grant ..)
  rw [advance_movedTo la oa (by rw [hpc]; exact hr), hpc]
  exact moved_goes g hn (by omega)

theorem carry_done (hn : n < 2) (hr : r.pc t n < 8191) : Goes t n (r.pc t n + 1) w r (v.carry t n w (.done r)) := passed_goes _ _ _ hn hr

theorem carry_jump (hn : n < 2) (hi : i < 2 ^ 13) : Goes t n i w r (v.carry t n w (.jump r i)) := moved_goes _ hn hi

/-- An instruction in flight, under whatever command it issues. -/
theorem carry_flies {j : Job'} (c : Calm t n s r) (hr : s.pc t n < 8191) :
    FliesFrom t n w j r s (v.carry t n w (.flies r j)) := by
  obtain ⟨g, hg⟩ : ∃ g, g = v.contested t n := ⟨_, rfl⟩
  obtain ⟨x, hx⟩ : ∃ x, x = (r.grant t n g).launch t n w j := ⟨_, rfl⟩
  have hxg (f : Fld) : x.g f = r.g f := by rw [hx, State.g_congr (State.launch_fld _ t n w j) f, State.g_grant]
  have hpc : x.pc t n = s.pc t n := (hxg _).trans (c.regs _ (pc_mem t n))
  have hu : v.carry t n w (.flies r j) = x.movedTo t n (s.pc t n + 1) := by
    rw [← hpc, ← advance_movedTo (v.stream t n).layer (v.stream t n).oper (by rw [hpc]; exact hr), hx, hg]
    rfl
  have hself : ∃ k a b, x.tile t = { r.tile t with
      flights := (r.tile t).flights ++ [r.newFlight t n w j], nextId := (r.tile t).nextId + 1, run := k
      s0 := { (r.tile t).s0 with spans := a }, s1 := { (r.tile t).s1 with spans := b } } := by
    obtain ⟨a, b, hl⟩ := (r.grant t n g).launch_tile t n w j
    have hnew : (r.grant t n g).newFlight t n w j = r.newFlight t n w j := by
      unfold State.newFlight State.pc
      rw [State.grant_tile]
      simp only [State.g_grant, Tile.stream]
    exact ⟨((r.grant t n g).tile t).run, a, b, by rw [hx, hl, hnew, State.grant_tile]⟩
  obtain ⟨k, a, b, hself⟩ := hself
  rw [hu]
  have htile (y : Nat) : (x.movedTo t n (s.pc t n + 1)).tile y = x.tile y := rfl
  refine ⟨⟨⟨pc_setPc _ t n (by omega), ?_, seqState_movedTo ..⟩, r.newFlight t n w j, ?_, rfl, rfl, c.regs _ (pc_mem t n), rfl, rfl, rfl,
    c.tags.1, c.tags.2⟩, ⟨r.newFlight t n w j, ?_, rfl, rfl, rfl, rfl, rfl, rfl⟩, ?_, ?_, fun y hy => ?_, fun f hf => ?_, ?_⟩
  · rw [issued_movedTo, hxg, c.regs _ (issued_mem t n)]
  · rw [htile, hself, c.flights]
  · rw [htile, hself, List.getLast?_concat]
  · rw [htile, hself]
  · rw [htile, hself]
    rfl
  · rw [htile, hx, State.launch_tile_ne _ _ _ _ _ _ hy, State.grant_tile_ne _ _ _ _ _ hy]
  · rw [g_movedTo_ne fun x hx => hf x (mem_issueFields_of_move hx), hxg]
  · have hl := (r.grant t n g).launch_rest t n w j
    rw [← hx] at hl
    rw [movedTo_rest]
    exact rest_of_tiles hl (r.grant_rest t n g)

/-- A stream that is held shows its reason. -/
theorem stall_leaves (s : State) (t n : Nat) {q : Nat} (hq : q < 8) :
    (s.stall t n q).seqState t n = seqSTALLED ∧ (s.stall t n q).g (F.TILE_SEQ_STATUS_STALL t n) = q
      ∧ KeepsRegs s (s.stall t n q) [F.TILE_SEQ_STATUS_STATE t n, F.TILE_SEQ_STATUS_STALL t n]
      ∧ (s.stall t n q).pc t n = s.pc t n := by
  have hregs : KeepsRegs s (s.stall t n q) [F.TILE_SEQ_STATUS_STATE t n, F.TILE_SEQ_STATUS_STALL t n] := fun f hf => by
    rw [State.stall, State.g_set_ne _ _ _ _ (hf _ (by simp)), State.g_set_ne _ _ _ _ (hf _ (by simp))]
  refine ⟨?_, ?_, hregs, hregs _ ?_⟩
  · rw [State.seqState, State.stall, State.g_set_ne _ _ _ _ (state_key_ne_stall t n), State.g_set_same]
    rfl
  · rw [State.stall, State.g_set_same]
    exact Nat.mod_eq_of_lt hq
  · simpa using ⟨pc_key_ne_state t n n, pc_key_ne_stall t n n⟩

/-! What an instruction that is over leaves, in the words of the statements. -/

section
variable (h : Goes t n i w r u)
include h

theorem Goes.stream (m : Nat) : u.stream t m = r.stream t m := by
  rw [State.stream, h.tile]; rfl

theorem Goes.chan (x c : Nat) : u.chan x c = r.chan x c := by
  by_cases hx : x = t
  · rw [State.chan, hx, h.tile]; rfl
  · rw [State.chan, h.others x hx]; rfl

theorem Goes.waits : u.waits = r.waits := by
  have e := congrArg State.waits h.rest
  exact e

theorem Goes.stp : u.stp = r.stp := by
  have e := congrArg State.stp h.rest
  exact e

theorem Goes.mem : u.mem = r.mem := by
  have e := congrArg State.mem h.rest
  exact e

theorem Goes.keepsSram (hr : (r.tile t).sram = (s.tile t).sram) : KeepsSram t s u 0 0 := fun x _ => by
  rw [sramByte, h.tile]
  exact congrArg (Sparse.get 0 x) hr

theorem Goes.onlyTile (hr : OnlyTile t s r) : OnlyTile t s u := fun x hx => (h.others x hx).trans (hr x hx)

theorem Goes.countsEvent (hr : ∀ c < 16, r.g (F.TILE_EVT_COUNT t c) = s.g (F.TILE_EVT_COUNT t c)) : CountsEvent t w s u := fun c hc => by
  rw [h.counts c hc, hr c hc]

end

theorem Goes.passes (h : Goes t n (r.pc t n + 1) w r u) (hr : ∀ f ∈ moveFields t n, r.g f = s.g f) : Passes t n s u :=
  ⟨by rw [h.pc, State.pc, hr _ (by simp [moveFields])]; rfl, by rw [h.issued, hr _ (by simp [moveFields])], h.issuing⟩

/-- A rule that has changed its own tile alone. -/
theorem Goes.atIssue (h : Goes t n (r.pc t n + 1) w r u) (hm : ∀ f ∈ moveFields t n, r.g f = s.g f) (hr : KeepsRegs s r (issueFields t n))
    (ht : OnlyTile t s r) (hs : { r with fld := s.fld, tiles := s.tiles } = s) : AtIssue t n s u :=
  ⟨h.passes hm, h.onlyTile ht, fun f hf => (h.regs f hf).trans (hr f hf), by
    have e := congrArg (fun q : State => { q with fld := s.fld, tiles := s.tiles }) h.rest
    exact e.trans hs⟩

theorem Goes.doneFrom (h : Goes t n (r.pc t n + 1) w r u) (hr : ∀ f ∈ issueFields t n, r.g f = s.g f) : DoneFrom t n w r s u :=
  ⟨h.passes fun f hf => hr f (mem_issueFields_of_move hf), h.countsEvent fun c hc => hr _ (evt_mem t n c hc), by rw [h.tile], by rw [h.tile],
    by rw [h.tile]; rfl, h.others, h.regs, h.rest⟩

/-! The rows that let a stream issue. -/

section
variable {op : Nat} {bad : List Nat} (h : Issues op t n w bad s) (hk : opKnown op = true) (rule : Rule)
include h hk

/-- An instruction whose rule is done at issue, whatever else the rule has changed. -/
theorem issueOp_goes (hr : rule t n w (s.upset t bad) = .done r) (hpc : r.pc t n = s.pc t n) (hd : r.stp.due = none)
    (hw : r.waits = s.waits) : ∃ u, issueOp op rule t n bad s = .next u ∧ Goes t n (r.pc t n + 1) w r u := by
  have hc : Goes t n (r.pc t n + 1) w r ((s.upset t bad).carry t n w (.done r)) := carry_done h.stream (by rw [hpc]; exact h.room)
  exact ⟨_, issueOp_carry h hk rule hr rfl (by rw [hc.stp]; exact hd) (hc.waits.trans hw), hc⟩

/-- An instruction that its rule holds. -/
theorem issueOp_held {q : Nat} (hr : rule t n w (s.upset t bad) = .wait q) :
    issueOp op rule t n bad s = .next ((s.upset t bad).stall t n q) := issueOp_carry h hk rule hr rfl h.settled rfl

end

/-- A row that tries a held instruction again answers what the attempt leaves. -/
theorem stalledIssue_attempt {bad : List Nat} {rule : Rule} (hmay : s.tileMayIssue t = true) (hst : s.seqState t n = seqSTALLED)
    (h2 : s.g (F.TILE_SEQ_STATUS_STALL t n) ≠ 2) (h7 : s.g (F.TILE_SEQ_STATUS_STALL t n) ≠ 7) (hw : s.nextWord t n = w)
    (hrule : ruleOf (opOf w) = some rule) (hu : (s.upset t bad).attempt rule t n = u) (hd : u.stp.due = none) (hwaits : u.waits = s.waits) :
    exec (.stalledIssue t n bad) s = .next u := by
  have hc : (s.tileMayIssue t && s.seqState t n == seqSTALLED && s.g (F.TILE_SEQ_STATUS_STALL t n) != 2
      && s.g (F.TILE_SEQ_STATUS_STALL t n) != 7) = true := by simp [hmay, hst, h2, h7]
  subst hw
  simp only [exec, execStalledIssue, hrule]
  exact (act_next hc s _ (by rw [hu]; exact hd) (by rw [hu]; exact hwaits)).trans (congrArg _ hu)

end

end Sys2Proof.Machine

namespace Sys2Proof

open Machine

/-- Settles O16: the attempt is made as at the first issue, so its verdict leaves what it would have left there. -/
theorem heldInstructionsIssue : Obligations.HeldInstructionsIssue := by
  intro t n w bad s rule v hmay hst h2 h7 hw hrule hroom hn hs calm
  have hnext : v.nextWord t n = w := (State.nextWord_congr rfl rfl t n).trans hw
  have hrow {u : State} (hu : v.attempt rule t n = u) (hd : u.stp.due = none) (hwaits : u.waits = s.waits) :
      exec (.stalledIssue t n bad) s = .next u := stalledIssue_attempt hmay hst h2 h7 hw hrule hu hd hwaits
  have hissues {x : Verdict} (hr : rule t n w v = x) (hi : x.issues = true) (hg : v.granted t n = true) :
      v.attempt rule t n = v.carry t n w x := by
    simp [State.attempt, hnext, hr, hi, hg]
  refine ⟨fun r j hr hg hcalm htags => ?_, fun hi hg => ?_, fun r hr hg hcalm => ?_, fun q hr hq => ?_⟩
  · obtain ⟨hregs, hdue, hflights, hwaits⟩ := hcalm
    obtain ⟨hlayer, hoper⟩ := Prod.mk.inj htags
    have hf : FliesFrom t n w j r s (v.carry t n w (.flies r j)) :=
      carry_flies ⟨hregs, hdue.trans hs.symm, hflights, ⟨hlayer, hoper⟩, hwaits⟩ hroom
    have hwaits' : (v.carry t n w (.flies r j)).waits = r.waits := by
      have e := congrArg State.waits hf.rest
      exact e
    exact ⟨_, hrow (hissues hr rfl hg) (by rw [hf.stp]; exact hdue) (hwaits'.trans hwaits), hf⟩
  · obtain ⟨hstate, hstall, -, hpc⟩ := stall_leaves v t n (q := 0) (by decide)
    exact ⟨v.stall t n 0, hrow (by simp [State.attempt, hnext, hi, hg]) hs rfl, hstate, hstall, hpc.trans (s.g_upset t bad _), rfl⟩
  · obtain ⟨hregs, hdue, -, hwaits⟩ := hcalm
    have hc : Goes t n (r.pc t n + 1) w r (v.carry t n w (.done r)) := carry_done hn (by rw [State.pc, hregs _ (pc_mem t n)]; exact hroom)
    exact ⟨_, hrow (hissues hr rfl hg) (by rw [hc.stp]; exact hdue) (hc.waits.trans hwaits), hc.doneFrom hregs⟩
  · obtain ⟨hstate, hstall, hkeeps, hpc⟩ := stall_leaves v t n hq
    have ha : v.attempt rule t n = v.stall t n q := by
      simp [State.attempt, hnext, hr, Verdict.issues, State.carry]
    exact ⟨v.stall t n q, hrow ha hs rfl, hstate, hstall, fun f hf => (hkeeps f hf).trans (s.g_upset t bad f), hpc.trans (s.g_upset t bad _),
      rfl⟩

end Sys2Proof
end

section
/-!
Instructions that are over at issue and change no more than their stream and its event counters (R128 to R132, R135, R136, R141): what
NOP, SIGNAL, XADD, XGET and KSET leave, and the transfers of length 0, which leave what NOP leaves.
-/
namespace Sys2Proof.Machine

section
variable {t n w : Nat} {bad : List Nat} {s r : State}

theorem setStream_sram (s : State) (t n : Nat) (f : Stream → Stream) : ((s.setStream t n f).tile t).sram = (s.tile t).sram := by
  rw [State.setStream, State.tile_setTile_same, Tile.setStream]
  split <;> rfl

/-- A rule that is done at issue and has changed only its own tile and registers that the issue names. -/
theorem issueOp_own {op : Nat} (h : Issues op t n w bad s) (hk : opKnown op = true) (rule : Rule)
    (hr : rule t n w (s.upset t bad) = .done r) (hm : ∀ f ∈ moveFields t n, r.g f = s.g f) (hregs : KeepsRegs s r (issueFields t n))
    (ht : OnlyTile t s r) (hsram : (r.tile t).sram = (s.tile t).sram) (hs : { r with fld := s.fld, tiles := s.tiles } = s) :
    ∃ u, issueOp op rule t n bad s = .next u ∧ AtIssue t n s u ∧ KeepsSram t s u 0 0 ∧ Goes t n (r.pc t n + 1) w r u := by
  have hstp : r.stp = s.stp := by
    have e := congrArg State.stp hs
    exact e
  have hwaits : r.waits = s.waits := by
    have e := congrArg State.waits hs
    exact e
  obtain ⟨u, he, hg⟩ := issueOp_goes h hk rule hr (hm _ (by simp [moveFields])) (by rw [hstp]; exact h.settled) hwaits
  exact ⟨u, he, hg.atIssue hm hregs ht hs, hg.keepsSram hsram, hg⟩

theorem setStream_only (s : State) (t n : Nat) (f : Stream → Stream) : ∃ l, s.setStream t n f = { s with tiles := l } := ⟨_, rfl⟩
theorem upset_only (s : State) (t : Nat) (bad : List Nat) : ∃ l, s.upset t bad = { s with tiles := l } := ⟨_, rfl⟩

theorem setStream_upset_only (s : State) (t n : Nat) (bad : List Nat) (f : Stream → Stream) :
    ∃ l, (s.upset t bad).setStream t n f = { s with tiles := l } := by
  obtain ⟨l, e⟩ := setStream_only (s.upset t bad) t n f
  obtain ⟨k, e'⟩ := upset_only s t bad
  exact ⟨l, by rw [e, e']⟩

/-- A rule that is done at issue and has changed only its own tile. -/
theorem issueOp_ownTile {op : Nat} (h : Issues op t n w bad s) (hk : opKnown op = true) (rule : Rule)
    (hr : rule t n w (s.upset t bad) = .done r) (ho : ∃ l, r = { s with tiles := l }) (ht : OnlyTile t s r)
    (hsram : (r.tile t).sram = (s.tile t).sram) :
    ∃ u, issueOp op rule t n bad s = .next u ∧ AtIssue t n s u ∧ CountsEvent t w s u ∧ Goes t n (r.pc t n + 1) w r u := by
  obtain ⟨l, e⟩ := ho
  have hg (f : Fld) : r.g f = s.g f := by rw [e]; rfl
  obtain ⟨u, he, ha, -, hgo⟩ := issueOp_own h hk rule hr (fun f _ => hg f) (fun f _ => hg f) ht hsram (by rw [e])
  exact ⟨u, he, ha, hgo.countsEvent fun c _ => hg _, hgo⟩

/-- A rule that is done at issue with the stream changed by `f`. -/
theorem issueOp_setStream {op : Nat} (h : Issues op t n w bad s) (hk : opKnown op = true) (rule : Rule) (f : Stream → Stream)
    (hr : rule t n w (s.upset t bad) = .done ((s.upset t bad).setStream t n f)) :
    ∃ u, issueOp op rule t n bad s = .next u ∧ AtIssue t n s u ∧ KeepsSram t s u 0 0 ∧ CountsEvent t w s u
      ∧ u.stream t n = f (s.stream t n) := by
  have hsram : (((s.upset t bad).setStream t n f).tile t).sram = (s.tile t).sram := (setStream_sram _ t n f).trans (sram_upset s t bad)
  obtain ⟨u, he, ha, hev, hg⟩ := issueOp_ownTile h hk rule hr (setStream_upset_only s t n bad f)
    ((onlyTile_upset s t bad).trans fun x hx => State.tile_setStream_ne _ t n x f hx) hsram
  refine ⟨u, he, ha, hg.keepsSram hsram, hev, ?_⟩
  rw [hg.stream, State.stream_setStream_same, State.upset_stream]

/-- A rule that is done at issue and does nothing: what NOP leaves. -/
theorem issueOp_idle {op : Nat} (h : Issues op t n w bad s) (hk : opKnown op = true) (rule : Rule)
    (hr : rule t n w (s.upset t bad) = .done (s.upset t bad)) :
    ∃ u, issueOp op rule t n bad s = .next u ∧ AtIssue t n s u ∧ KeepsSram t s u 0 0 ∧ CountsEvent t w s u
      ∧ u.stream t n = s.stream t n := by
  obtain ⟨u, he, ha, hev, hg⟩ := issueOp_ownTile h hk rule hr (upset_only s t bad) (onlyTile_upset s t bad) (sram_upset s t bad)
  exact ⟨u, he, ha, hg.keepsSram (sram_upset s t bad), hev, by rw [hg.stream, State.upset_stream]⟩

/-! One instruction at a time. -/

theorem exec_nop (h : Issues 0x00 t n w bad s) (hw : onlyBits [] w = true) :
    ∃ u, exec (.nop t n bad) s = .next u ∧ AtIssue t n s u ∧ KeepsSram t s u 0 0 ∧ CountsEvent t w s u ∧ u.stream t n = s.stream t n :=
  issueOp_idle h rfl ruleNop (by simp only [ruleNop, hw, Bool.not_true, Bool.false_eq_true, if_false])

theorem exec_signal (h : Issues 0x04 t n w bad s) (hw : onlyBits [(35, 16)] w = true) :
    ∃ u, exec (.signal t n bad) s = .next u ∧ AtIssue t n s u ∧ KeepsSram t s u 0 0 ∧ u.stream t n = s.stream t n
      ∧ ∀ c < 16, u.g (F.TILE_EVT_COUNT t c) % 2 ^ 32 =
          (s.g (F.TILE_EVT_COUNT t c) + (if c = bitsOf w 19 16 then bitsOf w 35 20 else 0) + (if evtOf w = some c then 1 else 0)) % 2 ^ 32 := by
  have hi : bitsOf w 19 16 < 16 := bitsOf_lt w 19 16 4 (by decide)
  obtain ⟨i, hie⟩ : ∃ i, i = bitsOf w 19 16 := ⟨_, rfl⟩
  have hr : ruleSignal t n w (s.upset t bad) = .done ((s.upset t bad).addTo (F.TILE_EVT_COUNT t i) (bitsOf w 35 20)) := by
    simp only [ruleSignal, hw, hie, Bool.not_true, Bool.false_eq_true, if_false]
  rw [← hie] at hi ⊢
  have hne {f : Fld} (hf : f.key ≠ (F.TILE_EVT_COUNT t i).key) : ((s.upset t bad).addTo (F.TILE_EVT_COUNT t i) (bitsOf w 35 20)).g f = s.g f :=
    (State.g_addTo_ne _ _ _ _ hf).trans (s.g_upset t bad f)
  obtain ⟨u, he, ha, hsram, hg⟩ := issueOp_own h rfl ruleSignal hr (fun f hf => hne (move_key_ne_evt h.stream hf hi).symm)
    (fun f hf => hne (hf _ (evt_mem t n i hi))) (onlyTile_upset s t bad) (sram_upset s t bad) rfl
  refine ⟨u, he, ha, hsram, by rw [hg.stream]; exact s.upset_stream t bad n, fun c hc => ?_⟩
  have hadd : ((s.upset t bad).addTo (F.TILE_EVT_COUNT t i) (bitsOf w 35 20)).g (F.TILE_EVT_COUNT t c) % 2 ^ 32
      = (s.g (F.TILE_EVT_COUNT t c) + (if c = i then bitsOf w 35 20 else 0)) % 2 ^ 32 := by
    by_cases hci : c = i
    · rw [hci, State.g_addTo_same, State.g_upset, if_pos rfl]
      exact Nat.mod_mod _ _
    · rw [hne (evt_key_ne_evt t c i hci), if_neg hci, Nat.add_zero]
  rw [hg.counts c hc]
  split
  · omega
  · omega

theorem exec_xadd (h : Issues 0x05 t n w bad s) (hw : onlyBits [(23, 16), (63, 32)] w = true) :
    ∃ u, exec (.xadd t n bad) s = .next u ∧ AtIssue t n s u ∧ KeepsSram t s u 0 0 ∧ CountsEvent t w s u
      ∧ u.stream t n = (s.stream t n).setX (bitsOf w 19 16) ((s.stream t n).xr (bitsOf w 23 20) + bitsOf w 63 32) :=
  issueOp_setStream h rfl ruleXadd (fun y => y.setX (bitsOf w 19 16) (y.xr (bitsOf w 23 20) + bitsOf w 63 32)) (by
    simp only [ruleXadd, hw, Bool.not_true, Bool.false_eq_true, if_false])

/-- What XGET puts into its index register (R136). -/
def xgetValue (t src : Nat) (s : State) : Nat := if src = 0 then s.stp.mbCount else if src = 1 then s.workStep % 2 ^ 32 else t

theorem exec_xget (h : Issues 0x06 t n w bad s) (hw : onlyBits [(23, 16)] w = true) (hsrc : bitsOf w 23 20 < 3) :
    ∃ u, exec (.xget t n bad) s = .next u ∧ AtIssue t n s u ∧ KeepsSram t s u 0 0 ∧ CountsEvent t w s u
      ∧ u.stream t n = (s.stream t n).setX (bitsOf w 19 16) (xgetValue t (bitsOf w 23 20) s) := by
  refine issueOp_setStream h rfl ruleXget (fun y => y.setX (bitsOf w 19 16) (xgetValue t (bitsOf w 23 20) s)) ?_
  simp only [ruleXget, hw, decide_eq_false (Nat.not_le.2 hsrc), Bool.not_true, Bool.or_false, Bool.false_eq_true, if_false]
  rfl

/-- What KSET makes of its stream (R136). -/
def Stream.kset (y : Stream) (w : Nat) : Stream :=
  let y' := y.setK (bitsOf w 19 16) (bitsOf w 63 32 + y.xr (bitsOf w 23 20))
  if bitOf w 72 then y'.setK (bitsOf w 67 64) (bitsOf w 127 96 + y.xr (bitsOf w 71 68)) else y'

theorem Stream.kr_kset (y : Stream) {w : Nat} (hne : bitOf w 72 = true → bitsOf w 19 16 ≠ bitsOf w 67 64) (i : Nat) : (y.kset w).kr i =
    if i = bitsOf w 19 16 then (bitsOf w 63 32 + y.xr (bitsOf w 23 20)) % 2 ^ 32
    else if bitOf w 72 = true ∧ i = bitsOf w 67 64 then (bitsOf w 127 96 + y.xr (bitsOf w 71 68)) % 2 ^ 32 else y.kr i := by
  unfold Stream.kset
  by_cases h2 : bitOf w 72 = true
  · simp only [h2, if_true, Stream.kr_setK, true_and]
    by_cases hi : i = bitsOf w 67 64
    · rw [if_pos hi, if_neg fun e => hne h2 (e.symm.trans hi), if_pos hi]
    · rw [if_neg hi, if_neg hi]
  · simp only [h2, if_false, Stream.kr_setK, false_and, Bool.false_eq_true]

theorem exec_kset (h : Issues 0x08 t n w bad s) (hw : onlyBits [(23, 16), (72, 32), (127, 96)] w = true)
    (hne : bitOf w 72 = true → bitsOf w 19 16 ≠ bitsOf w 67 64) :
    ∃ u, exec (.kset t n bad) s = .next u ∧ AtIssue t n s u ∧ KeepsSram t s u 0 0 ∧ CountsEvent t w s u
      ∧ u.stream t n = (s.stream t n).kset w := by
  refine issueOp_setStream h rfl ruleKset (Stream.kset · w) ?_
  have hc : (!onlyBits [(23, 16), (72, 32), (127, 96)] w || bitOf w 72 && bitsOf w 19 16 == bitsOf w 67 64) = false := by
    cases h2 : bitOf w 72 with
    | false => simp [hw]
    | true => simp [hw, hne h2]
  simp only [ruleKset, hc, Bool.false_eq_true, if_false]
  rfl

end

end Sys2Proof.Machine

namespace Sys2Proof

open Machine

/-- Settles O1: each rule is done at issue, with its stream or its event counter changed. -/
theorem scalarInstructionsComplete : Obligations.ScalarInstructionsComplete := by
  intro t n w bad s
  refine ⟨fun h hw => ?_, fun h hw => ?_, fun h hw => ?_, fun h hw hsrc => ?_, fun h hw hne => ?_⟩
  · obtain ⟨u, he, ha, -, hc, hy⟩ := exec_nop h hw
    exact ⟨u, he, ha, hc, hy⟩
  · obtain ⟨u, he, ha, -, hy, hc⟩ := exec_signal h hw
    exact ⟨u, he, ha, hy, hc⟩
  · obtain ⟨u, he, ha, -, hc, hy⟩ := exec_xadd h hw
    exact ⟨u, he, ha, hc, fun i => by rw [hy, Stream.xr_setX]⟩
  · obtain ⟨u, he, ha, -, hc, hy⟩ := exec_xget h hw hsrc
    refine ⟨u, he, ha, hc, fun i => ?_⟩
    have hv : xgetValue t (bitsOf w 23 20) s % 2 ^ 32 =
        (if bitsOf w 23 20 = 0 then s.stp.mbCount else if bitsOf w 23 20 = 1 then s.workStep else t) % 2 ^ 32 := by
      unfold xgetValue
      split
      · rfl
      · split
        · exact Nat.mod_mod _ _
        · rfl
    rw [hy, Stream.xr_setX, hv]
  · obtain ⟨u, he, ha, -, hc, hy⟩ := exec_kset h hw hne
    exact ⟨u, he, ha, hc, fun i => by rw [hy, Stream.kr_kset _ hne]⟩

/-- Settles O8: past its field check a transfer of length 0 is done with nothing changed, as NOP is. -/
theorem zeroLengthTransfersComplete : Obligations.ZeroLengthTransfersComplete := by
  intro t n w bad s asNop
  have hidle {op : Nat} (rule : Rule) (h : Issues op t n w bad s) (hk : opKnown op = true)
      (hr : rule t n w (s.upset t bad) = .done (s.upset t bad)) : ∃ u, issueOp op rule t n bad s = .next u ∧ AtIssue t n s u
        ∧ CountsEvent t w s u ∧ u.stream t n = s.stream t n := by
    obtain ⟨u, he, ha, -, hc, hy⟩ := issueOp_idle h hk rule hr
    exact ⟨u, he, ha, hc, hy⟩
  refine ⟨fun h hw hl => hidle ruleLd h rfl ?_, fun h hw hl => hidle ruleSt h rfl ?_, fun h hw hl => hidle ruleGld h rfl ?_,
    fun h hw hl => hidle ruleGst h rfl ?_, fun h hw hl => hidle ruleHostld h rfl ?_, fun h hw hl => hidle ruleHostst h rfl ?_,
    fun h hw hl => hidle rulePref h rfl ?_, fun h hw hl => hidle ruleSend h rfl ?_⟩
  · simp only [ruleLd, sectorAccess, hw, hl, Bool.not_true, Bool.false_eq_true, if_false, if_true]
  · simp only [ruleSt, sectorAccess, hw, hl, Bool.not_true, Bool.false_eq_true, if_false, if_true]
  · simp only [ruleGld, rowAccess, hw, hl, Bool.not_true, Bool.false_eq_true, if_false, if_true]
  · simp only [ruleGst, rowAccess, hw, hl, Bool.not_true, Bool.false_eq_true, if_false, if_true]
  · simp only [ruleHostld, sectorAccess, hw, hl, Bool.not_true, Bool.false_eq_true, if_false, if_true]
  · simp only [ruleHostst, sectorAccess, hw, hl, Bool.not_true, Bool.false_eq_true, if_false, if_true]
  · simp only [rulePref, hw, hl, Bool.not_true, Bool.false_eq_true, if_false, if_true]
  · simp only [ruleSend, hw, hl, Bool.not_true, Bool.false_eq_true, if_false, if_true]

end Sys2Proof
end

section
/-!
Control flow (R130, R132, R135, R136): WAIT, BNZ, TAG and END.
-/
namespace Sys2Proof.Machine

section
variable {t n w : Nat} {bad : List Nat} {s u v : State}

/-! WAIT. -/

/-- WAIT past its field checks asks its condition (R132). -/
theorem ruleWait_eq (hw : onlyBits [(37, 16), (127, 64)] w = true) (h3 : bitsOf w 17 16 ≠ 3)
    (hhi : bitsOf w 17 16 < 2 → bitsOf w 127 96 = 0) (hl : bitsOf w 17 16 = 1 → (v.gatherCount (bitsOf w 37 22)).isSome = true) :
    ruleWait t n w v = if waitHolds t w v then .done v else .wait 2 := by
  have hfield : (!onlyBits [(37, 16), (127, 64)] w || bitsOf w 17 16 == 3 || decide (bitsOf w 17 16 < 2) && bitsOf w 127 96 != 0) = false := by
    simpa [hw, h3] using hhi
  have hlayer : (bitsOf w 17 16 == 1 && (v.gatherCount (bitsOf w 37 22)).isNone) = false := by
    simpa using hl
  simp only [ruleWait, hfield, hlayer, Bool.false_eq_true, if_false]

theorem waitHolds_upset (t w : Nat) (s : State) (bad : List Nat) : waitHolds t w (s.upset t bad) = waitHolds t w s := by
  simp only [waitHolds, State.g_upset, State.gatherCount, State.upset_plan, State.upset_stp]
  rfl

/-- A waiting WAIT whose condition has come to hold is over as if it had just issued. -/
theorem exec_waitRelease (hmay : s.tileMayIssue t = true) (hst : s.seqState t n = seqSTALLED) (h2 : s.g (F.TILE_SEQ_STATUS_STALL t n) = 2)
    (hw : s.nextWord t n = w) (hop : opOf w = 0x03) (hh : waitHolds t w s = true) (hroom : s.pc t n < 8191) (hn : n < 2) (hs : Settled s) :
    ∃ u, exec (.waitRelease t n bad) s = .next u ∧ Goes t n (s.pc t n + 1) w (s.upset t bad) u := by
  have hg : Goes t n (s.pc t n + 1) w (s.upset t bad) _ :=
    passed_goes (r := s.upset t bad) false (s.stream t n).layer (s.stream t n).oper hn hroom
  have hc : (s.tileMayIssue t && s.seqState t n == seqSTALLED && s.g (F.TILE_SEQ_STATUS_STALL t n) == 2 && opOf (s.nextWord t n) == 3
      && waitHolds t (s.nextWord t n) s) = true := by simp [hmay, hst, h2, hw, hop, hh]
  subst hw
  refine ⟨_, ?_, hg⟩
  simp only [exec, execWaitRelease]
  exact act_next hc s (fun q => ((q.upset t bad).event t (evtOf (s.nextWord t n))).advance t n (q.stream t n).layer (q.stream t n).oper)
    ((congrArg StepCtl.due hg.stp).trans hs) hg.waits

/-! BNZ. -/

/-- What BNZ makes of its stream (R136). -/
def Stream.countDown (y : Stream) (i : Nat) : Stream := y.setX i ((y.xr i + 2 ^ 32 - 1) % 2 ^ 32)

theorem Stream.xr_countDown (y : Stream) (i j : Nat) :
    (y.countDown j).xr i = if i = j ∧ i ≠ 0 then (y.xr i + 2 ^ 32 - 1) % 2 ^ 32 else y.xr i := by
  rw [Stream.countDown, Stream.xr_setX, Nat.mod_mod]
  by_cases h : i = j ∧ i ≠ 0
  · rw [if_pos h, if_pos h, h.1]
  · rw [if_neg h, if_neg h]

/-- Whether BNZ goes to its target (R136). -/
abbrev branches (y : Stream) (i : Nat) : Prop := i = 0 ∨ (y.xr i + 2 ^ 32 - 1) % 2 ^ 32 ≠ 0

theorem ruleBnz_eq (hw : onlyBits [(19, 16), (44, 32)] w = true) (ht : bitsOf w 44 32 < (v.plan.elim [] fun p => p.prog t n).length) :
    ruleBnz t n w v = if branches (v.stream t n) (bitsOf w 19 16)
      then .jump (v.setStream t n fun y => y.countDown (bitsOf w 19 16)) (bitsOf w 44 32)
      else .done (v.setStream t n fun y => y.countDown (bitsOf w 19 16)) := by
  have hset : v.setStream t n (fun y => y.countDown (bitsOf w 19 16))
      = v.setStream t n fun y => y.setX (bitsOf w 19 16) (((v.stream t n).xr (bitsOf w 19 16) + 2 ^ 32 - 1) % 2 ^ 32) := by
    simp only [State.setStream, State.setTile, State.stream, Tile.setStream, Tile.stream, Stream.countDown]
    split <;> rfl
  rw [hset]
  simp only [ruleBnz, hw, Nat.not_le.2 ht, Bool.not_true, Bool.false_eq_true, if_false]

/-- BNZ issues and its stream is at its target, or at the next index. -/
theorem exec_bnz (h : Issues 0x07 t n w bad s) (hw : onlyBits [(19, 16), (44, 32)] w = true)
    (ht : bitsOf w 44 32 < (s.plan.elim [] fun p => p.prog t n).length) :
    ∃ u, exec (.bnz t n bad) s = .next u
      ∧ Goes t n (if branches (s.stream t n) (bitsOf w 19 16) then bitsOf w 44 32 else s.pc t n + 1) w
        ((s.upset t bad).setStream t n fun y => y.countDown (bitsOf w 19 16)) u := by
  have hr := ruleBnz_eq (v := s.upset t bad) (t := t) (n := n) hw ht
  rw [State.upset_stream] at hr
  split at hr
  · next hb =>
    rw [if_pos hb]
    have hg := carry_jump (w := w) (v := s.upset t bad) (r := (s.upset t bad).setStream t n fun y => y.countDown (bitsOf w 19 16))
      (t := t) h.stream (bitsOf_lt w 44 32 13 (by decide))
    exact ⟨_, issueOp_carry h rfl ruleBnz hr rfl ((congrArg StepCtl.due hg.stp).trans h.settled) hg.waits, hg⟩
  · next hb =>
    rw [if_neg hb]
    exact issueOp_goes h rfl ruleBnz hr rfl h.settled rfl

/-! TAG and END: spans of the digest log close (R503). -/

/-- What TAG makes of its stream (R130). -/
def Stream.tagged (w : Nat) (y : Stream) : Stream := Stream.openSpan { y.closeSpan with layer := bitsOf w 31 16, oper := bitsOf w 47 32 }

theorem Flushes.pc {t : Nat} {s u : State} (h : Flushes t s u) (n : Nat) : u.pc t n = s.pc t n :=
  h.regs _ (by simp only [F.TILE_SEQ_STATUS_PC]; omega)

/-- What the stream holds beside the spans of its digest log. -/
structure SameStream (y z : Stream) : Prop where
  layer : z.layer = y.layer
  oper : z.oper = y.oper
  x : z.x = y.x
  k : z.k = y.k

theorem Flushes.stream {t : Nat} {s u : State} (h : Flushes t s u) (n : Nat) : SameStream (s.stream t n) (u.stream t n) := by
  obtain ⟨a, b, e⟩ := h.tile
  simp only [State.stream, e, Tile.stream]
  split <;> exact ⟨rfl, rfl, rfl, rfl⟩

theorem issueFields_off {f : Fld} (h : f ∈ issueFields t n) : 0x1000000 ≤ f.off := by
  simp only [issueFields, List.mem_append, List.mem_cons, List.mem_map, List.mem_range, List.not_mem_nil, or_false] at h
  rcases h with (rfl | rfl | rfl | rfl | rfl) | ⟨c, -, rfl⟩ <;>
    simp only [F.TILE_EVT_COUNT, F.TILE_SEQ_STATUS_STATE, F.TILE_SEQ_STATUS_STALL, F.TILE_SEQ_STATUS_PC, F.TILE_SEQ_STATUS_OPCODE,
      F.TILE_SEQ_ISSUED_ISSUED] <;> omega

/-- A trace record is not part of what closing spans leaves to be said of. -/
theorem Flushes.traceRec {t : Nat} {s u : State} (h : Flushes t s u) (kind inst value : Nat) : Flushes t s (u.traceRec kind inst value) := by
  obtain ⟨c, e⟩ := u.traceRec_only kind inst value
  refine h.trans ?_
  rw [e]
  exact ⟨⟨_, _, _, _, _, _, _, rfl⟩, fun _ _ => rfl, fun _ _ => rfl, _, _, rfl⟩

/-- TAG issues: new identifiers, and its span closed in the log. -/
theorem exec_tag (h : Issues 0x02 t n w bad s) (hw : onlyBits [(47, 16)] w = true) :
    ∃ r u, exec (.tag t n bad) s = .next u ∧ Flushes t ((s.upset t bad).setStream t n (Stream.tagged w)) r
      ∧ Goes t n (r.pc t n + 1) w r u := by
  obtain ⟨q, hq⟩ : ∃ q, q = (s.upset t bad).setStream t n (Stream.tagged w) := ⟨_, rfl⟩
  obtain ⟨r, hrq⟩ : ∃ r, r = (q.flush t n).traceRec 2 (2 * t + n) (bitsOf w 31 16 * 65536 + bitsOf w 47 32) := ⟨_, rfl⟩
  have hf : Flushes t q r := hrq ▸ (flushSpans_flushes t n _ q).traceRec _ _ _
  have hr : ruleTag t n w (s.upset t bad) = .done r := by
    simp only [ruleTag, hw, Bool.not_true, Bool.false_eq_true, if_false]
    rw [hrq, hq]
    rfl
  have hsteady := hf.steady
  have hstp : r.stp = s.stp := hsteady.stp.trans (by rw [hq]; rfl)
  obtain ⟨u, he, hg⟩ := issueOp_goes h rfl ruleTag hr ((hf.pc n).trans (by rw [hq]; rfl)) (by rw [hstp]; exact h.settled)
    (hsteady.waits.trans (by rw [hq]; rfl))
  exact ⟨r, u, he, hq ▸ hf, hg⟩

/-- END in flight: its spans closed, its flight added, its stream stalled for it (R135). -/
structure Ending (t n w : Nat) (s u : State) : Prop where
  pc : u.pc t n = s.pc t n + 1
  issued : u.g (F.TILE_SEQ_ISSUED_ISSUED t n) = (s.g (F.TILE_SEQ_ISSUED_ISSUED t n) + 1) % 2 ^ 48
  stalled : u.seqState t n = seqSTALLED
  reason : u.g (F.TILE_SEQ_STATUS_STALL t n) = 7
  flight : ∃ f, (u.tile t).flights = (s.tile t).flights ++ [f] ∧ f.stream = n ∧ f.evt = evtOf w ∧ f.post = [.ending]
  sram : (u.tile t).sram = (s.tile t).sram
  others : OnlyTile t s u
  mem : u.mem = s.mem
  steady : Steady s u

theorem endIssue_ending (hroom : s.pc t n < 8191) : Ending t n w s (s.endIssue t n w) := by
  obtain ⟨q, hq⟩ : ∃ q, q = (s.setStream t n Stream.closeSpan).flush t n := ⟨_, rfl⟩
  have hclose : Flushes t s (s.setStream t n Stream.closeSpan) :=
    Flushes.setSpans t n s (List.map fun p : SpanLog => { p with closed := true })
  have hf : Flushes t s q := hq ▸ hclose.trans (flushSpans_flushes t n _ _)
  obtain ⟨x, hx⟩ : ∃ x, x = q.launch t n w { post := [.ending] } := ⟨_, rfl⟩
  have hxg {f : Fld} (h : f ∈ issueFields t n) : x.g f = s.g f :=
    (hx ▸ State.g_congr (State.launch_fld ..) f : x.g f = q.g f).trans (hf.regs f (issueFields_off h))
  have hpc : (x.inc (F.TILE_SEQ_ISSUED_ISSUED t n)).pc t n = s.pc t n :=
    (State.g_inc_ne _ _ _ (pc_key_ne_issued t n n)).trans (hxg (pc_mem t n))
  obtain ⟨z, hz⟩ : ∃ z, z = (x.inc (F.TILE_SEQ_ISSUED_ISSUED t n)).setPc t n (s.pc t n + 1) := ⟨_, rfl⟩
  have hu : s.endIssue t n w = z.stall t n 7 := by
    have hmin : min 8191 (s.pc t n + 1) = s.pc t n + 1 := by omega
    rw [hz, ← hmin, ← hpc, hx, hq]
    rfl
  obtain ⟨hstate, hstall, hkeeps, hzpc⟩ := stall_leaves z t n (q := 7) (by decide)
  obtain ⟨a, b, hl⟩ := q.launch_tile t n w { post := [.ending] }
  have htile (y : Nat) : (z.stall t n 7).tile y = x.tile y := by rw [hz]; rfl
  have hlaunch : { x with tiles := q.tiles } = q := hx ▸ q.launch_rest t n w _
  rw [hu]
  refine ⟨?_, ?_, hstate, hstall, ⟨q.newFlight t n w { post := [.ending] }, ?_, rfl, rfl, rfl⟩, ?_, fun y hy => ?_, ?_, ?_⟩
  · rw [hzpc, hz, pc_setPc _ _ _ (by omega)]
  · rw [hkeeps, hz, g_setPc_ne (pc_key_ne_issued t n n).symm, State.g_inc_same, hxg (issued_mem t n)]
    · rfl
    · simp only [Fld.key, F.TILE_SEQ_ISSUED_ISSUED, F.TILE_SEQ_STATUS_OPCODE, Dom.code]; omega
    · simp only [List.mem_cons, List.not_mem_nil, or_false, forall_eq_or_imp, forall_eq, Fld.key, F.TILE_SEQ_ISSUED_ISSUED,
        F.TILE_SEQ_STATUS_STATE, F.TILE_SEQ_STATUS_STALL, Dom.code]
      omega
  · rw [htile, hx, hl, hf.flights]
  · rw [htile, hx, hl]
    exact hf.sram
  · rw [htile, hx, State.launch_tile_ne _ _ _ _ _ _ hy, hf.others y hy]
  · have e := congrArg State.mem hlaunch
    rw [hz]
    exact Eq.trans e hf.mem
  · have e1 := congrArg State.stp hlaunch
    have e2 := congrArg State.waits hlaunch
    rw [hz]
    exact hf.steady.trans ⟨e1, e2⟩

theorem exec_endStream (h : Issues 0x01 t n w bad s) (hw : onlyBits [] w = true) :
    ∃ u, exec (.endStream t n bad) s = .next u ∧ Ending t n w (s.upset t bad) u := by
  have he := endIssue_ending (w := w) (s := s.upset t bad) (t := t) (n := n) h.room
  have hc : (s.tileMayIssue t && s.seqState t n == seqISSUING && (opOf (s.nextWord t n) == 0x01 || false)) = true := by
    simp [h.mayIssue, h.issuing, h.next, h.opcode]
  have hk : opKnown (opOf (s.nextWord t n)) = true := by rw [h.next, h.opcode]; rfl
  have hw' : onlyBits [] (s.nextWord t n) = true := by rw [h.next]; exact hw
  refine ⟨_, ?_, he⟩
  rw [← h.next] at he ⊢
  simp only [exec, execEndStream, hk, hw', Bool.not_true, Bool.false_eq_true, if_false]
  exact act_next hc s (fun q => (q.upset t bad).endIssue t n (s.nextWord t n)) ((congrArg StepCtl.due he.steady.stp).trans h.settled) he.steady.waits

end

end Sys2Proof.Machine

namespace Sys2Proof

open Machine

/-- Settles O3: WAIT is done or held, BNZ goes to one of two indices, TAG and END close a span of the digest log. -/
theorem controlFlowInstructionsComplete : Obligations.ControlFlowInstructionsComplete := by
  intro t n w bad s
  refine ⟨fun h hw h3 hhi hl => ?_, fun hmay hst h2 hw hop hh hroom hn hs => ?_, fun h hw ht => ?_, fun h hw => ?_, fun h hw => ?_, ?_⟩
  · have hr := ruleWait_eq (t := t) (n := n) (v := s.upset t bad) hw h3 hhi hl
    rw [waitHolds_upset] at hr
    refine ⟨fun hh => ?_, fun hh => ?_⟩
    · rw [hh, if_pos rfl] at hr
      obtain ⟨u, he, ha, -, hc, hy⟩ := issueOp_idle h rfl ruleWait hr
      exact ⟨u, he, ha, hc, hy⟩
    · rw [hh, if_neg Bool.false_ne_true] at hr
      obtain ⟨hstate, hstall, hkeeps, -⟩ := stall_leaves (s.upset t bad) t n (q := 2) (by decide)
      exact ⟨_, issueOp_held h rfl ruleWait hr, hstate, hstall, fun f hf => (hkeeps f hf).trans (s.g_upset t bad f), s.upset_stream t bad n,
        rfl⟩
  · obtain ⟨u, he, hg⟩ := exec_waitRelease (bad := bad) hmay hst h2 hw hop hh hroom hn hs
    exact ⟨u, he, hg.atIssue (fun f _ => s.g_upset t bad f) (fun f _ => s.g_upset t bad f) (onlyTile_upset s t bad) rfl,
      hg.countsEvent fun c _ => s.g_upset t bad _, by rw [hg.stream, State.upset_stream]⟩
  · obtain ⟨u, he, hg⟩ := exec_bnz h hw ht
    obtain ⟨l, e⟩ := setStream_upset_only s t n bad fun y => y.countDown (bitsOf w 19 16)
    refine ⟨u, he, fun i => ?_, hg.pc, hg.issued, hg.issuing, hg.countsEvent fun c _ => rfl,
      hg.onlyTile ((onlyTile_upset s t bad).trans fun x hx => State.tile_setStream_ne _ t n x _ hx), hg.regs,
      rest_of_rest hg.rest (by rw [e])⟩
    rw [hg.stream, State.stream_setStream_same, State.upset_stream, Stream.xr_countDown]
  · obtain ⟨r, u, he, hf, hg⟩ := exec_tag h hw
    have hsame := hf.stream n
    rw [State.stream_setStream_same, State.upset_stream, ← hg.stream] at hsame
    have hreg {f : Fld} (hm : f ∈ issueFields t n) : r.g f = s.g f := (hf.regs f (issueFields_off hm)).trans (s.g_upset t bad f)
    exact ⟨u, he, hg.passes fun f hm => hreg (mem_issueFields_of_move hm), hg.countsEvent fun c hc => hreg (evt_mem t n c hc),
      hsame.layer, hsame.oper, hsame.x, hsame.k,
      hg.keepsSram (hf.sram.trans ((setStream_sram _ t n _).trans (sram_upset s t bad))),
      hg.onlyTile (((onlyTile_upset s t bad).trans fun x hx => State.tile_setStream_ne _ t n x _ hx).trans fun x hx => hf.others x hx),
      sameMem_of_eq (hg.mem.trans hf.mem)⟩
  · obtain ⟨u, he, hu⟩ := exec_endStream h hw
    obtain ⟨f, hflights, hf⟩ := hu.flight
    refine ⟨u, he, hu.pc, hu.issued, hu.stalled, hu.reason, ⟨f, ?_, hf⟩, fun x _ => ?_, (onlyTile_upset s t bad).trans hu.others,
      sameMem_of_eq hu.mem⟩
    · rw [hflights, (Calm.upset s t n bad).flights]
    · rw [sramByte, hu.sram, sram_upset]
      rfl
  · simp only [List.mem_cons, List.not_mem_nil, or_false, forall_eq_or_imp, forall_eq]
    refine ⟨fun h hw _ _ => ?_, fun h hw _ _ => ?_, fun h hw _ _ => ?_, fun h hw hsrc _ => ?_, fun h hw _ hne => ?_⟩
    · obtain ⟨u, he, ha, hsram, -⟩ := exec_nop h hw
      exact ⟨u, he, ha, hsram⟩
    · obtain ⟨u, he, ha, hsram, -⟩ := exec_signal h hw
      exact ⟨u, he, ha, hsram⟩
    · obtain ⟨u, he, ha, hsram, -⟩ := exec_xadd h hw
      exact ⟨u, he, ha, hsram⟩
    · obtain ⟨u, he, ha, hsram, -⟩ := exec_xget h hw (hsrc trivial)
      exact ⟨u, he, ha, hsram⟩
    · obtain ⟨u, he, ha, hsram, -⟩ := exec_kset h hw (hne trivial)
      exact ⟨u, he, ha, hsram⟩

end Sys2Proof
end

section
/-!
VOP (R152): past its checks it is a vector instruction whose writes depend on its operation alone.
-/
namespace Sys2Proof.Machine

/-- A vector instruction that faults only where its field check `c` fails, does nothing where its length is 0, finds its unit ready and
writes no non-finite element leaves its writes over the state of its own operation (R93, R152, R156). -/
theorem vecLength_runs {op t n w : Nat} {bad : List Nat} {s r : State} {rd wr : List (Nat × Nat)} {slots : List Nat}
    {run : State → VecResult} {l : List VecWrite} {sfu : Nat} {c : Bool} {len : Nat} {fault : Verdict}
    (h : Issues op t n w bad s) (hk : opKnown op = true) (rule : Rule)
    (hr : rule t n w (s.upset t bad) = if c then fault else if len = 0 then .done (s.upset t bad)
      else vecIssue t n rd wr slots noGate run (s.upset t bad)) (hc : c = false) (hlen : len ≠ 0)
    (hrun : run (s.upset t bad) = { state := r, writes := l, sfu := sfu }) (hv : VecReady t n rd wr slots (s.upset t bad))
    (hfin : ∀ e ∈ l, firstNonFinite e.tally = none) (q : Quiet t n s r) :
    ∃ u, issueOp op rule t n bad s = .next u ∧ VectorRuns t n w rd wr slots sfu [] l r s u := by
  rw [if_neg hlen] at hr
  exact vecKernel_runs h hk rule hr hc hrun hv rfl hfin q

/-- The field check of VOP (R152). -/
theorem vop_check {w op ssel len k13 k15 : Nat} (hw : onlyBits [(102, 16), (108, 106)] w = true) (hop : op < 24) (hs : ssel < 5)
    (hl : ssel ≠ 0 → len ≤ 1024) (hk : vopLenOk op len k13 k15 = true) :
    (!onlyBits [(102, 16), (108, 106)] w || decide (24 ≤ op) || decide (5 ≤ ssel) || (ssel != 0 && decide (1024 < len))
      || !vopLenOk op len k13 k15) = false := by
  have hlen : (ssel != 0 && decide (1024 < len)) = false := by simpa using hl
  have h := check_or_lt (check_or_lt (check_one hw) hop) hs
  exact check_or (by rw [h, hlen]; rfl) hk

end Sys2Proof.Machine

namespace Sys2Proof

open Machine

/-- Settles O4: the operation's number alone chooses what is written, form by form. -/
theorem vectorOperationsRun : Obligations.VectorOperationsRun := by
  intro t n w bad s v y
  have hy : y = v.stream t n := (State.upset_stream s t bad n).symm
  clear_value y
  subst hy
  intro x op ssel len k13 k15 bk a b d count aLen dLen rd slots src runs h hw hs hl hk hlen hv
  have hq : Quiet t n s v := quiet_upset s t n bad
  have hc (hop : op < 24) := vop_check hw hop hs hl hk
  have hresult {l l' : List VecWrite} {k k' : Nat} (hl : l = l') (hk : k = k') :
      VecResult.mk v l k [] [] = { state := v, writes := l', sfu := k' } := by rw [hl, hk]
  have hsfu (h17 : ¬op ≤ 17) : (if 12 ≤ op ∧ op ≤ 17 then count else 0) = 0 := if_neg fun e => h17 e.2
  refine ⟨fun h17 => ?_, fun h18 h20 => ?_, fun h21 => ?_, fun h22 => ?_, fun h23 => ?_⟩
  · have hcount : (if 12 ≤ op ∧ op ≤ 17 then count else 0) = if 12 ≤ op then count else 0 := by simp only [h17, and_true]
    exact fun hfin => vecLength_runs h rfl ruleVop rfl (hc (by omega)) hlen (hresult (if_pos h17) hcount) hv hfin hq
  · have h17 : ¬op ≤ 17 := by omega
    exact fun hfin => vecLength_runs h rfl ruleVop rfl (hc (by omega)) hlen (hresult ((if_neg h17).trans (if_pos h20)) (hsfu h17)) hv hfin hq
  · have h17 : ¬op ≤ 17 := by omega
    have h20 : ¬op ≤ 20 := by omega
    exact fun hfin => vecLength_runs h rfl ruleVop rfl (hc (by omega)) hlen
      (hresult (((if_neg h17).trans (if_neg h20)).trans (if_pos h21)) (hsfu h17)) hv hfin hq
  · have h17 : ¬op ≤ 17 := by omega
    have h20 : ¬op ≤ 20 := by omega
    have h21 : ¬op = 21 := by omega
    exact fun hfin => vecLength_runs h rfl ruleVop rfl (hc (by omega)) hlen
      (hresult ((((if_neg h17).trans (if_neg h20)).trans (if_neg h21)).trans (if_pos h22)) (hsfu h17)) hv hfin hq
  · have h17 : ¬op ≤ 17 := by omega
    have h20 : ¬op ≤ 20 := by omega
    have h21 : ¬op = 21 := by omega
    have h22 : ¬op = 22 := by omega
    exact fun hfin => vecLength_runs h rfl ruleVop rfl (hc (by omega)) hlen
      (hresult ((((if_neg h17).trans (if_neg h20)).trans (if_neg h21)).trans (if_neg h22)) (hsfu h17)) hv hfin hq

end Sys2Proof
end

section
/-!
Descriptor transfers between bonded memory and SRAM (R141, R142, R156): a transfer that nothing stops moves its sectors and no other byte,
whichever descriptor names them.
-/
namespace Sys2Proof.Machine

section
variable {t n w : Nat} {bad : List Nat} {s v : State}

theorem g_countMove_ne (t kind k : Nat) (s : State) {f : Fld} (h : ∀ x ∈ countFields, f.key ≠ x.key) : (countMove t kind k s).g f = s.g f := by
  unfold countMove
  split
  · exact s.g_count_ne _ _ _ f h
  · split
    · exact s.g_count_ne _ _ _ f h
    · exact s.g_count_ne _ _ _ f h

theorem readSram_upset (s : State) (t : Nat) (bad : List Nat) (a n : Nat) :
    ((s.upset t bad).tile t).readSram a n = (s.tile t).readSram a n := by
  unfold Tile.readSram
  rw [sram_upset]

/-- A write to SRAM and what it leaves of a tile. -/
theorem Calm.writeSram {r : State} (c : Calm t n s r) (x a : Nat) (l : List Byte) : Calm t n s (r.setTile x fun y => y.writeSram a l) :=
  c.tile x _ rfl ⟨rfl, rfl⟩

/-! From memory to SRAM. -/

/-- What a transfer that has read `bytes` leaves, `q` being the state after the reads. -/
def State.movedIn (q : State) (t kind sram : Nat) (bytes : List Byte) : State :=
  countMove t kind (bytes.length / 64) (q.setTile t fun x => x.writeSram (64 * sram) bytes)

theorem moveIn_flies {kind dpa sram len : Nat} {rd wr : List Span} (h : (v.readMem t dpa len).2.2 = 0) :
    moveIn t kind dpa sram len rd wr v =
      .flies ((v.readMem t dpa len).1.movedIn t kind sram (v.readMem t dpa len).2.1)
        { rd := rd, wr := wr, written := some (v.readMem t dpa len).2.1 } := by
  simp only [moveIn, h, ne_eq, not_true_eq_false, if_false]
  rfl

/-- What LD and GLD leave that have moved `len` sectors. -/
structure MovesIn (t n w dpa sram len : Nat) (rd wr : List Span) (s u : State) : Prop where
  takesOff : TakesOff t n w rd wr s u
  moved : ∀ i < 64 * len, sramByte u t (64 * sram + i) = s.mem.byte (dpa + i)
  elsewhere : KeepsSram t s u (64 * sram) (64 * len)
  mem : SameMem s u
  others : OnlyTile t s u
  regs : KeepsRegs s u (issueFields t n ++ correctFields s.mem)

theorem issueOp_movesIn {op kind dpa sram len : Nat} {rd wr : List Span} (h : Issues op t n w bad s) (hk : opKnown op = true) (rule : Rule)
    (hr : rule t n w (s.upset t bad) = moveIn t kind dpa sram len rd wr (s.upset t bad)) (h0 : ((s.upset t bad).readMem t dpa len).2.2 = 0)
    (hu : Unhindered s ((s.upset t bad).readMem t dpa len).1) :
    ∃ u, issueOp op rule t n bad s = .next u ∧ MovesIn t n w dpa sram len rd wr s u := by
  obtain ⟨hbytes, hreads⟩ := (s.upset t bad).readMem_ok t dpa len h0
  rw [moveIn_flies h0, hbytes] at hr
  generalize ((s.upset t bad).readMem t dpa len).1 = q at hreads hr hu
  have hq : Moves (s.upset t bad) q := ⟨fun f hf => hreads.g_tile hf, by rw [hreads.rest], by rw [hreads.rest], by rw [hreads.rest]⟩
  obtain ⟨bytes, hb⟩ : ∃ l, l = (s.upset t bad).mem.read dpa (64 * len) := ⟨_, rfl⟩
  have hlen : bytes.length = 64 * len := by rw [hb, Memory.read_length]
  rw [← hb] at hr
  have hcount : Moves (q.setTile t fun x => x.writeSram (64 * sram) bytes) (q.movedIn t kind sram bytes) := .countMove ..
  have hcalm := (((Calm.upset s t n bad).moves h.stream hq hu).writeSram t (64 * sram) bytes).moves h.stream hcount
    ((countMove_waits ..).trans hu)
  obtain ⟨u, he, hf⟩ := flies_of h hk rule hr hcalm
  have hsram : (u.tile t).sram = putBytes (s.tile t).sram (64 * sram) bytes := by
    rw [hf.sram, hcount.tile, State.tile_setTile_same, hq.tile]
    exact congrArg (fun m => putBytes m (64 * sram) bytes) (sram_upset s t bad)
  refine ⟨u, he, hf.takesOff, fun i hi => ?_, fun x hx => ?_, ?_, hf.onlyTile fun x hx => ?_, fun f hx => ?_⟩
  · rw [sramByte, hsram, putBytes_get, if_pos (by omega), Nat.add_sub_cancel_left, hb, Memory.read_getD _ _ _ _ hi]
    rfl
  · rw [sramByte, hsram, putBytes_get, if_neg (by omega)]
    rfl
  · exact sameMem_of_eq ((hf.mem.trans (countMove_mem ..)).trans hreads.mem)
  · rw [hcount.tile, State.tile_setTile_ne _ _ _ _ hx, hq.tile, State.upset_tile_ne _ _ _ _ hx]
  · have hcorrect : ∀ x ∈ correctFields s.mem, f.key ≠ x.key := fun x hm => hx x (List.mem_append_right _ hm)
    calc u.g f = (q.movedIn t kind sram bytes).g f := hf.regs f fun x hm => hx x (List.mem_append_left _ hm)
      _ = q.g f := g_countMove_ne t kind _ _ fun x hm => hcorrect x (List.mem_append_left _ hm)
      _ = (s.upset t bad).g f := hreads.regs f hcorrect
      _ = s.g f := s.g_upset t bad f

/-! From SRAM to memory. -/

theorem moveOut_flies {kind dpa sram len : Nat} {rd wr : List Span} {bytes : List Byte} (hb : firstBad (v.tile t).badSectors sram len = none)
    (hbytes : bytes = (v.tile t).readSram (64 * sram) (64 * len)) (h : (v.writeMem t dpa bytes).2 = 0) :
    moveOut t kind dpa sram len rd wr v =
      .flies (countMove t kind len (v.writeMem t dpa bytes).1) { rd := rd, wr := wr, written := some bytes } := by
  subst hbytes
  simp only [moveOut, hb, Option.getD_none, h, ne_eq, not_true_eq_false, if_false, Nat.lt_irrefl]

/-- What ST and GST leave that have moved `len` sectors. -/
structure MovesOut (t n w dpa sram len : Nat) (rd wr : List Span) (s u : State) : Prop where
  takesOff : TakesOff t n w rd wr s u
  moved : ∀ i < 64 * len, u.mem.byte (dpa + i) = sramByte s t (64 * sram + i)
  elsewhere : KeepsMem s u dpa (64 * len)
  sram : KeepsSram t s u 0 0
  others : OnlyTile t s u
  regs : KeepsRegs s u (issueFields t n ++ countFields)

theorem issueOp_movesOut {op kind dpa sram len : Nat} {rd wr : List Span} (h : Issues op t n w bad s) (hk : opKnown op = true) (rule : Rule)
    (hr : rule t n w (s.upset t bad) = moveOut t kind dpa sram len rd wr (s.upset t bad))
    (hb : firstBad ((s.upset t bad).tile t).badSectors sram len = none)
    (h0 : ((s.upset t bad).writeMem t dpa ((s.tile t).readSram (64 * sram) (64 * len))).2 = 0)
    (hu : Unhindered s ((s.upset t bad).writeMem t dpa ((s.tile t).readSram (64 * sram) (64 * len))).1) :
    ∃ u, issueOp op rule t n bad s = .next u ∧ MovesOut t n w dpa sram len rd wr s u := by
  obtain ⟨bytes, hbytes⟩ : ∃ l, l = (s.tile t).readSram (64 * sram) (64 * len) := ⟨_, rfl⟩
  have hlen : bytes.length = 64 * len := by rw [hbytes, Tile.readSram_length]
  rw [← hbytes] at h0 hu
  rw [moveOut_flies hb (hbytes.trans (readSram_upset s t bad _ _).symm) h0] at hr
  obtain ⟨hbyte, hwrites⟩ := (s.upset t bad).writeMem_ok t dpa bytes len hlen h0
  have hmoves := (Moves.writeMem hlen h0).trans (.countMove t kind len _)
  obtain ⟨u, he, hf⟩ := flies_of h hk rule hr ((Calm.upset s t n bad).moves h.stream hmoves ((countMove_waits ..).trans hu))
  have hmem (x : Nat) : u.mem.byte x = _ := (congrArg (fun m : Memory => m.byte x) (hf.mem.trans (countMove_mem ..))).trans (hbyte x)
  refine ⟨u, he, hf.takesOff, fun i hi => ?_, fun x hx => ?_, hf.keepsSram ?_, hf.onlyTile fun x hx => ?_, fun f hx => ?_⟩
  · rw [hmem, if_pos (by omega), Nat.add_sub_cancel_left, hbytes, Tile.readSram_getD _ _ _ _ hi]
    rfl
  · rw [hmem, if_neg (by omega)]
    rfl
  · rw [hmoves.tile, sram_upset]
  · rw [hmoves.tile, State.upset_tile_ne _ _ _ _ hx]
  · rw [hf.regs f fun x hm => hx x (List.mem_append_left _ hm), g_countMove_ne t kind _ _ fun x hm => hx x (List.mem_append_right _ hm),
      hwrites]
    exact s.g_upset t bad f

/-! The four rules past their checks. -/

theorem ruleLd_moves {a : Access'} (ha : a = sectorAccess t n w v) (hw : onlyBits [(97, 16)] w = true) (hl : a.len ≠ 0)
    (hc : accessChecks t v a [dkVENT, dkREMOTE] [(a.sram, a.len)] a.off a.len true false = 0)
    (hr : reserveStall (v.tile t) n [a.d.span a.off a.len] [sramSpan (a.sram, a.len)] = none) :
    ruleLd t n w v = moveIn t a.d.kind (a.d.base + 64 * a.off) a.sram a.len [a.d.span a.off a.len] [sramSpan (a.sram, a.len)] v := by
  subst ha
  simp only [ruleLd, hw, hl, hc, reserved_free hr, ne_eq, not_true_eq_false, Bool.not_true, Bool.false_eq_true, if_false]

theorem ruleSt_moves {a : Access'} (ha : a = sectorAccess t n w v) (hw : onlyBits [(97, 16)] w = true) (hl : a.len ≠ 0)
    (hc : accessChecks t v a [dkVENT, dkREMOTE] [(a.sram, a.len)] a.off a.len true true = 0)
    (hr : reserveStall (v.tile t) n [sramSpan (a.sram, a.len)] [a.d.span a.off a.len] = none) :
    ruleSt t n w v = moveOut t a.d.kind (a.d.base + 64 * a.off) a.sram a.len [sramSpan (a.sram, a.len)] [a.d.span a.off a.len] v := by
  subst ha
  simp only [ruleSt, hw, hl, hc, reserved_free hr, ne_eq, not_true_eq_false, Bool.not_true, Bool.false_eq_true, if_false]

theorem ruleGld_moves {r : Access'} (hra : r = rowAccess t n w v) (hw : onlyBits [(92, 16)] w = true) (hl : r.len ≠ 0)
    (hc : accessChecks t v r [dkGEYSER] [(r.sram, 128 * r.len)] (128 * r.off) (128 * r.len) (r.sram % 128 == 0) false = 0)
    (hr : reserveStall (v.tile t) n [r.d.span (128 * r.off) (128 * r.len)] [sramSpan (r.sram, 128 * r.len)] = none) :
    ruleGld t n w v = moveIn t dkGEYSER (r.d.base + 8192 * r.off) r.sram (128 * r.len) [r.d.span (128 * r.off) (128 * r.len)]
      [sramSpan (r.sram, 128 * r.len)] v := by
  subst hra
  simp only [ruleGld, hw, hl, hc, reserved_free hr, ne_eq, not_true_eq_false, Bool.not_true, Bool.false_eq_true, if_false]

theorem ruleGst_moves {r : Access'} (hra : r = rowAccess t n w v) (hw : onlyBits [(92, 16)] w = true) (hl : r.len ≠ 0)
    (hc : accessChecks t v r [dkGEYSER] [(r.sram, 128 * r.len)] (128 * r.off) (128 * r.len) (r.sram % 128 == 0) true = 0)
    (hr : reserveStall (v.tile t) n [sramSpan (r.sram, 128 * r.len)] [r.d.span (128 * r.off) (128 * r.len)] = none) :
    ruleGst t n w v = moveOut t dkGEYSER (r.d.base + 8192 * r.off) r.sram (128 * r.len) [sramSpan (r.sram, 128 * r.len)]
      [r.d.span (128 * r.off) (128 * r.len)] v := by
  subst hra
  simp only [ruleGst, hw, hl, hc, reserved_free hr, ne_eq, not_true_eq_false, Bool.not_true, Bool.false_eq_true, if_false]

end

end Sys2Proof.Machine

namespace Sys2Proof

open Machine

/-- Settles O2: past its checks each rule is a move into SRAM or out of it; a row is 128 sectors. -/
theorem descriptorTransfersMoveTheirSectors : Obligations.DescriptorTransfersMoveTheirSectors := by
  intro t n w bad s v a r dpa row
  have hrow : 8192 * r.len = 64 * (128 * r.len) := by omega
  rw [hrow]
  refine ⟨fun h hw hl hc hr h0 hu => ?_, fun h hw hl hc hr hb h0 => ?_, fun h hw hl hc hr h0 hu => ?_, fun h hw hl hc hr hb h0 => ?_⟩
  · obtain ⟨u, he, hm⟩ := issueOp_movesIn h rfl ruleLd (ruleLd_moves rfl hw hl hc hr) h0 hu
    exact ⟨u, he, hm.takesOff, hm.moved, hm.elsewhere, hm.mem, hm.others, hm.regs⟩
  · obtain ⟨u, he, hm⟩ := issueOp_movesOut h rfl ruleSt (ruleSt_moves rfl hw hl hc hr) hb h0.1 h0.2
    exact ⟨u, he, hm.takesOff, hm.moved, hm.elsewhere, hm.sram, hm.others, hm.regs⟩
  · obtain ⟨u, he, hm⟩ := issueOp_movesIn h rfl ruleGld (ruleGld_moves rfl hw hl hc hr) h0 hu
    exact ⟨u, he, hm.takesOff, hm.moved, hm.elsewhere, hm.mem, hm.others, hm.regs⟩
  · obtain ⟨u, he, hm⟩ := issueOp_movesOut h rfl ruleGst (ruleGst_moves rfl hw hl hc hr) hb h0.1 h0.2
    exact ⟨u, he, hm.takesOff, hm.moved, hm.elsewhere, hm.sram, hm.others, hm.regs⟩

end Sys2Proof
end

section
/-!
Messages between tiles (R144 to R146): SEND, RECV and FREE, the delivery of a message and the return of a credit.
-/
namespace Sys2Proof.Machine

section
variable {t n w : Nat} {bad : List Nat} {s r v : State}

/-! Receive channels. -/

theorem chan_setChan_same (s : State) (t c : Nat) (f : Chan → Chan) : (s.setChan t c f).chan t c = f (s.chan t c) := by
  rw [State.chan, State.setChan, State.tile_setTile_same]
  exact Sparse.get_put_same ..

theorem chan_setChan_ne (s : State) (t : Nat) {c e : Nat} (h : e ≠ c) (f : Chan → Chan) : (s.setChan t c f).chan t e = s.chan t e := by
  rw [State.chan, State.setChan, State.tile_setTile_same]
  exact Sparse.get_put_ne _ _ _ _ _ _ h

/-- A change of a channel leaves of any tile all but its channels. -/
theorem setChan_tile (s : State) (t c : Nat) (f : Chan → Chan) (x : Nat) : ∃ l, (s.setChan t c f).tile x = { s.tile x with chans := l } := by
  by_cases hx : x = t
  · subst hx
    exact ⟨_, State.tile_setTile_same _ _ _⟩
  · exact ⟨_, State.tile_setTile_ne _ _ _ _ hx⟩

theorem Calm.setChan (c : Calm t n s r) (x k : Nat) (f : Chan → Chan) : Calm t n s (r.setChan x k f) := c.tile x _ rfl ⟨rfl, rfl⟩

theorem Calm.mail (c : Calm t n s r) (m : MeshMsg) : Calm t n s (r.mail m) := c.of (fun _ _ => rfl) rfl rfl ⟨rfl, rfl⟩ rfl

theorem chan_mail (s : State) (m : MeshMsg) (x k : Nat) : (s.mail m).chan x k = s.chan x k := rfl
theorem tile_mail (s : State) (m : MeshMsg) (x : Nat) : (s.mail m).tile x = s.tile x := rfl
theorem mesh_mail_setChan (s : State) (x k : Nat) (f : Chan → Chan) (m : MeshMsg) : ((s.setChan x k f).mail m).mesh = s.mesh ++ [m] := rfl

theorem setChan_only (s : State) (t c : Nat) (f : Chan → Chan) : ∃ l, s.setChan t c f = { s with tiles := l } := ⟨_, rfl⟩

/-- Changes of a channel and of a stream leave all but the tiles. -/
theorem setStream_setChan_only (s : State) (t c n : Nat) (bad : List Nat) (f : Chan → Chan) (g : Stream → Stream) :
    ∃ l, ((s.upset t bad).setChan t c f).setStream t n g = { s with tiles := l } := by
  obtain ⟨l, e⟩ := setStream_only ((s.upset t bad).setChan t c f) t n g
  obtain ⟨m, e'⟩ := setChan_only (s.upset t bad) t c f
  obtain ⟨k, e''⟩ := upset_only s t bad
  exact ⟨l, by rw [e, e', e'']⟩

theorem setChan_setStream_only (s : State) (t c n : Nat) (bad : List Nat) (f : Chan → Chan) (g : Stream → Stream) :
    ∃ l, ((s.upset t bad).setStream t n g).setChan t c f = { s with tiles := l } := by
  obtain ⟨l, e⟩ := setChan_only ((s.upset t bad).setStream t n g) t c f
  obtain ⟨m, e'⟩ := setStream_only (s.upset t bad) t n g
  obtain ⟨k, e''⟩ := upset_only s t bad
  exact ⟨l, by rw [e, e', e'']⟩

theorem chan_upset (s : State) (t : Nat) (bad : List Nat) (x c : Nat) : (s.upset t bad).chan x c = s.chan x c := by
  unfold State.chan
  by_cases hx : x = t
  · rw [hx, State.upset_tile]
  · rw [State.upset_tile_ne _ _ _ _ hx]

theorem chan_setStream (s : State) (t n : Nat) (f : Stream → Stream) (x c : Nat) : (s.setStream t n f).chan x c = s.chan x c := by
  unfold State.chan
  by_cases hx : x = t
  · rw [hx, State.setStream, State.tile_setTile_same, Tile.setStream]
    split <;> rfl
  · rw [State.tile_setStream_ne _ _ _ _ _ hx]

theorem stream_setChan (s : State) (t c : Nat) (f : Chan → Chan) (m : Nat) : (s.setChan t c f).stream t m = s.stream t m := by
  obtain ⟨l, e⟩ := setChan_tile s t c f t
  rw [State.stream, e]
  rfl

theorem sram_setChan (s : State) (t c : Nat) (f : Chan → Chan) (x : Nat) : ((s.setChan t c f).tile x).sram = (s.tile x).sram := by
  obtain ⟨l, e⟩ := setChan_tile s t c f x
  rw [e]

theorem nextId_setStream (s : State) (t n : Nat) (f : Stream → Stream) : ((s.setStream t n f).tile t).nextId = (s.tile t).nextId := by
  rw [State.setStream, State.tile_setTile_same, Tile.setStream]
  split <;> rfl

/-! SEND. -/

theorem ruleSend_flies {src len : Nat} {q : Route} {p : ChanPlan} {bytes : List Byte} (hsrc : src = sramOp (v.stream t n) w 20)
    (hlen : len = bitsOf w 57 41) (hbytes : bytes = (v.tile t).readSram (64 * src) (64 * len)) (hw : onlyBits [(57, 16)] w = true)
    (hl : len ≠ 0) (hd : v.dest t (bitsOf w 19 16) = some (q, p)) (hs : p.slots ≠ 0)
    (hc : addrCode [(src, len)] (decide (len ≤ p.slotSectors)) = 0) (hr : reserveStall (v.tile t) n [sramSpan (src, len)] [] = none)
    (hu : (v.chan q.tile q.chan).used < p.slots) (hb : firstBad (v.tile t).badSectors src len = none) :
    ruleSend t n w v = .flies ((v.setChan q.tile q.chan fun h => { h with used := h.used + 1 }).mail
        ⟨t, (v.tile t).nextId, q.tile, q.chan, bytes, [], false, false⟩)
      { rd := [sramSpan (src, len)], ready := false, written := some bytes } := by
  subst hsrc hlen hbytes
  simp only [ruleSend, hw, hl, hd, hs, hc, reserved_free hr, Nat.not_le.2 hu, hb, Option.getD_none, Nat.lt_irrefl, decide_false, ne_eq,
    not_true_eq_false, Bool.not_true, Bool.false_eq_true, if_false]

/-! RECV and FREE. -/

/-- What RECV makes of its stream: the slot's first sector in an index register, and the slot its own (R144). -/
def Stream.received (y : Stream) (d ch sector k : Nat) : Stream := { y.setX d sector with taken := y.taken ++ [(ch, k)] }

theorem ruleRecv_done {p : ChanPlan} {k : Nat} {rest : List Nat} (hw : onlyBits [(23, 16)] w = true)
    (hp : v.chanPlan t (bitsOf w 19 16) = some p) (hs : p.slots ≠ 0) (hf : (v.chan t (bitsOf w 19 16)).full = k :: rest) :
    ruleRecv t n w v = .done ((v.setChan t (bitsOf w 19 16) fun h => { h with full := rest }).setStream t n fun y =>
      y.received (bitsOf w 23 20) (bitsOf w 19 16) (p.base + k * p.slotSectors) k) := by
  simp only [ruleRecv, hw, hp, hs, hf, Bool.not_true, Bool.false_eq_true, if_false]
  rfl

theorem ruleFree_done {p : ChanPlan} {k : Nat} {rest : List (Nat × Nat)} (hw : onlyBits [(19, 16)] w = true)
    (hp : v.chanPlan t (bitsOf w 19 16) = some p) (hs : p.slots ≠ 0)
    (hf : takeFirst (fun e => e.1 == bitsOf w 19 16) (v.stream t n).taken = some ((bitsOf w 19 16, k), rest)) :
    ruleFree t n w v = .done ((v.setStream t n fun y => { y with taken := rest }).setChan t (bitsOf w 19 16) fun h =>
      { h with freed := h.freed ++ [(k, n, (v.tile t).nextId)] }) := by
  simp only [ruleFree, hw, hp, hs, hf, nextId_setStream, Bool.not_true, Bool.false_eq_true, if_false]

/-! The delivery of a message. -/

/-- What the delivery of a message leaves before an armed installation is looked at (R144, R464). -/
def State.delivered (s : State) (t c : Nat) (p : ChanPlan) (m : MeshMsg) (rest : List MeshMsg) : State :=
  ((({ s.rouse t with mesh := rest } : State).setTile t fun x => x.writeSram (64 * (p.base + (s.chan t c).next * p.slotSectors)) m.bytes).setChan
    t c fun h => { h with full := h.full ++ [(s.chan t c).next], next := ((s.chan t c).next + 1) % p.slots }).arrive' m.srcTile m.flight

theorem delivered_rest (s : State) (t c : Nat) (p : ChanPlan) (m : MeshMsg) (rest : List MeshMsg) :
    { s.delivered t c p m rest with fld := s.fld, tiles := s.tiles, mesh := s.mesh } = s := by
  obtain ⟨l, e⟩ : ∃ l, s.rouse t = { s with fld := l } := ⟨_, rouse_fld s t⟩
  unfold State.delivered
  rw [e]
  rfl

theorem tile_rouse (s : State) (t x : Nat) : (s.rouse t).tile x = s.tile x := by rw [rouse_fld]; rfl

theorem g_rouse_ne (s : State) (t : Nat) {f : Fld} (h : f.key ≠ (F.PWR_CLU_TILES (t / 8)).key) : (s.rouse t).g f = s.g f := by
  unfold State.rouse
  split
  · exact State.g_set_ne _ _ _ _ h
  · rfl

/-- Two bits of a cluster's power states cleared. -/
theorem tilePower_setTilePower_run (s : State) (t : Nat) : (s.setTilePower t tpRUN).tilePower t = tpRUN := by
  have hj : t % 8 < 8 := Nat.mod_lt _ (by decide)
  rw [State.tilePower, State.setTilePower, State.g_set_same]
  generalize s.g (F.PWR_CLU_TILES (t / 8)) = v
  generalize t % 8 = j at hj
  simp only [lowBits, F.PWR_CLU_TILES, tpRUN]
  interval_cases j <;> omega

/-- A tile whose clock runs is in RUN once it is roused (R462, R464). -/
theorem tilePower_rouse {s : State} {t : Nat} (h : s.tileAwake t = true) : (s.rouse t).tilePower t = tpRUN := by
  unfold State.rouse
  split
  · exact tilePower_setTilePower_run s t
  · next hne =>
    simp only [State.tileAwake, Bool.or_eq_true, beq_iff_eq] at h
    exact h.resolve_right hne

theorem arrive_chan (s : State) (v id t c : Nat) : (s.arrive' v id).chan t c = s.chan t c := by
  unfold State.chan
  by_cases hv : t = v
  · subst hv
    rw [arrive_tile]
  · rw [State.arrive', State.tile_setTile_ne _ _ _ _ hv]

theorem arrive_sram (s : State) (v id t : Nat) : ((s.arrive' v id).tile t).sram = (s.tile t).sram := by
  by_cases hv : t = v
  · subst hv
    rw [arrive_tile]
  · rw [State.arrive', State.tile_setTile_ne _ _ _ _ hv]

theorem chan_setTile (s : State) (t : Nat) {f : Tile → Tile} (hf : (f (s.tile t)).chans = (s.tile t).chans) (c : Nat) :
    (s.setTile t f).chan t c = s.chan t c := by
  rw [State.chan, State.tile_setTile_same, hf]
  rfl

theorem flights_setTile (s : State) (t : Nat) {f : Tile → Tile} (hf : (f (s.tile t)).flights = (s.tile t).flights) (x : Nat) :
    ((s.setTile t f).tile x).flights = (s.tile x).flights := by
  by_cases hx : x = t
  · rw [hx, State.tile_setTile_same, hf]
  · rw [State.tile_setTile_ne _ _ _ _ hx]

section
variable (s : State) (t c : Nat) (p : ChanPlan) (m : MeshMsg) (rest : List MeshMsg)

theorem delivered_chan : (s.delivered t c p m rest).chan t c =
    { s.chan t c with full := (s.chan t c).full ++ [(s.chan t c).next], next := ((s.chan t c).next + 1) % p.slots } := by
  have hq : (({ s.rouse t with mesh := rest } : State).setTile t fun x =>
      x.writeSram (64 * (p.base + (s.chan t c).next * p.slotSectors)) m.bytes).chan t c = s.chan t c := by
    rw [chan_setTile _ _ (by rfl)]
    exact congrArg (fun x : Tile => Sparse.get Chan.empty c x.chans) (tile_rouse s t t)
  rw [State.delivered, arrive_chan, chan_setChan_same, hq]

theorem delivered_sram : ((s.delivered t c p m rest).tile t).sram =
    putBytes (s.tile t).sram (64 * (p.base + (s.chan t c).next * p.slotSectors)) m.bytes := by
  rw [State.delivered, arrive_sram, sram_setChan, State.tile_setTile_same]
  exact congrArg (fun x : Tile => putBytes x.sram _ m.bytes) (tile_rouse s t t)

theorem delivered_flights : ((s.delivered t c p m rest).tile m.srcTile).flights =
    (s.tile m.srcTile).flights.map (Flight.arrived m.flight) := by
  rw [State.delivered, arrive_tile, State.setChan]
  refine congrArg (List.map (Flight.arrived m.flight)) ?_
  rw [flights_setTile _ _ rfl, flights_setTile _ _ rfl]
  exact congrArg Tile.flights (tile_rouse s t m.srcTile)

theorem delivered_fld : (s.delivered t c p m rest).fld = (s.rouse t).fld := by
  rw [State.delivered, State.arrive', State.setTile, State.setChan, State.setTile, State.setTile]

theorem g_delivered (f : Fld) : (s.delivered t c p m rest).g f = (s.rouse t).g f := by rw [State.g, delivered_fld]; rfl

theorem delivered_power (h : s.tileAwake t = true) : (s.delivered t c p m rest).tilePower t = tpRUN := by
  rw [State.tilePower, g_delivered]
  exact tilePower_rouse h

theorem g_delivered_ne {f : Fld} (h : f.key ≠ (F.PWR_CLU_TILES (t / 8)).key) : (s.delivered t c p m rest).g f = s.g f :=
  (g_delivered s t c p m rest f).trans (g_rouse_ne s t h)

end

theorem exec_meshDelivery {t c : Nat} {s : State} {p : ChanPlan} {m : MeshMsg} {rest : List MeshMsg} (hp : s.chanPlan t c = some p)
    (hm : s.meshFirst t c = some (m, rest)) (hw : s.working = true) (ha : s.tileAwake t = true) (hc : m.chain = false) (h0 : 0 < p.slots)
    (hpart : m.partial' = false) (hs : Settled s) : exec (.meshDelivery t c) s = .next (s.delivered t c p m rest).armSettle := by
  obtain ⟨-, -, he⟩ := armSettle_cases (s.delivered t c p m rest)
  have hr := delivered_rest s t c p m rest
  have hstp : (s.delivered t c p m rest).armSettle.stp = s.stp := by
    rw [he]
    have e := congrArg State.stp hr
    exact e
  have hwaits : (s.delivered t c p m rest).armSettle.waits = s.waits := by
    rw [he]
    have e := congrArg State.waits hr
    exact e
  have hcond : (s.working && s.tileAwake t && !m.chain && decide (0 < p.slots)) = true := by simp [hw, ha, hc, h0]
  show execMeshDelivery t c s = _
  simp only [execMeshDelivery, hp, hm, hpart, Bool.false_eq_true, if_false]
  exact act_next hcond s (fun s => (s.delivered t c p m rest).armSettle) ((congrArg StepCtl.due hstp).trans hs) hwaits

/-! The return of a credit. -/

theorem exec_creditReturn {t c n k b : Nat} {s : State} {p : ChanPlan} {rest : List (Nat × Nat × Nat)} (hp : s.chanPlan t c = some p)
    (hf : (s.chan t c).freed = (k, n, b) :: rest) (hw : s.working = true)
    (hread : ((s.tile t).flights.any fun f => f.stream == n && decide (f.id < b) && f.rd.any (p.slotSpan k).meets) = false)
    (hs : Settled s) : exec (.creditReturn t c) s = .next (s.setChan t c fun h => { h with used := h.used - 1, freed := rest }) := by
  have hcond : (s.working && !((s.tile t).flights.any fun f => f.stream == n && decide (f.id < b) && f.rd.any (p.slotSpan k).meets)) = true := by
    rw [hw, hread]; rfl
  show execCreditReturn t c s = _
  simp only [execCreditReturn, hp, hf]
  exact act_next hcond s (fun s => s.setChan t c fun h => { h with used := h.used - 1, freed := rest }) hs rfl

end

end Sys2Proof.Machine

namespace Sys2Proof

open Machine

theorem FliesFrom.chan {t n w : Nat} {j : Job'} {r s u : State} (h : FliesFrom t n w j r s u) (x c : Nat) : u.chan x c = r.chan x c := by
  by_cases hx : x = t
  · have e := congrArg (fun y : Tile => Sparse.get Chan.empty c y.chans) h.inside
    rw [hx]
    exact e
  · rw [State.chan, h.others x hx]; rfl

/-- The bytes that an instruction writes are said for the digest log alone. -/
theorem FliesFrom.unlogged {t n w : Nat} {j : Job'} {r s u : State} (h : FliesFrom t n w j r s u) (l : Option (List Byte)) :
    FliesFrom t n w { j with written := l } r s u := ⟨h.takesOff, h.flight, h.sram, h.inside, h.others, h.regs, h.rest⟩

/-- Settles O10: a SEND takes a credit and mails its sectors, RECV and FREE move a slot between channel and stream, a delivery fills a slot
and a freed one gives its credit back. -/
theorem meshMessagesMove : Obligations.MeshMessagesMove := by
  intro t n w c bad s v y
  have hy : y = v.stream t n := (State.upset_stream s t bad n).symm
  have honly : OnlyTile t s v := onlyTile_upset s t bad
  have hsram : (v.tile t).sram = (s.tile t).sram := sram_upset s t bad
  have hid : (v.tile t).nextId = (s.tile t).nextId := by rw [s.upset_tile t bad]
  have hkeeps (x : Nat) : (v.tile x).sram = (s.tile x).sram := by
    by_cases hx : x = t
    · rw [hx]; exact hsram
    · rw [honly x hx]
  refine ⟨?_, ?_, ?_, ?_, ?_⟩
  · intro q p src len bytes h hw hl hd hs hc hr hu hb
    obtain ⟨r, hre⟩ : ∃ r, r = (v.setChan q.tile q.chan fun h => { h with used := h.used + 1 }).mail
        ⟨t, (s.tile t).nextId, q.tile, q.chan, bytes, [], false, false⟩ := ⟨_, rfl⟩
    have hrule : ruleSend t n w v = .flies r { rd := [sramSpan (src, len)], ready := false, written := some bytes } := by
      rw [hre, ← hid]
      exact ruleSend_flies (congrArg (fun z => sramOp z w 20) hy) rfl (readSram_upset s t bad _ _).symm hw hl hd hs hc hr
        (by rw [chan_upset]; exact hu) hb
    have hcalm : Calm t n s r := hre ▸ ((Calm.upset s t n bad).setChan q.tile q.chan _).mail _
    obtain ⟨u, he, hfl⟩ := flies_of h rfl ruleSend hrule hcalm
    rw [← hre]
    refine ⟨u, he, hfl.unlogged none, ?_, ?_, hfl.keepsSram ?_⟩
    · rw [hfl.chan, hre, chan_mail, chan_setChan_same, chan_upset]
    · rw [hfl.mesh, hre, mesh_mail_setChan]
      rfl
    · rw [hre, tile_mail, sram_setChan, hsram]
  · intro p k rest d ch h hw hp hs hf
    obtain ⟨u, he, ha, hev, hg⟩ := issueOp_ownTile h rfl ruleRecv (ruleRecv_done hw hp hs (by rw [chan_upset]; exact hf))
      (setStream_setChan_only s t _ n bad _ _)
      ((honly.trans fun x hx => State.tile_setTile_ne _ t x _ hx).trans fun x hx => State.tile_setStream_ne _ t n x _ hx)
      ((setStream_sram _ t n _).trans ((sram_setChan v t _ _ t).trans hsram))
    have hstream : u.stream t n = y.received d ch (p.base + k * p.slotSectors) k := by
      rw [hg.stream, State.stream_setStream_same, stream_setChan, hy]
    refine ⟨u, he, ha, hev, fun i => ?_, ?_, ?_, fun e hne => ?_⟩
    · rw [hstream]
      exact Stream.xr_setX y i d _
    · rw [hstream]
      rfl
    · rw [hg.chan, chan_setStream, chan_setChan_same, chan_upset]
    · rw [hg.chan, chan_setStream, chan_setChan_ne _ _ hne, chan_upset]
  · intro p k rest ch h hw hp hs hf
    obtain ⟨u, he, ha, hev, hg⟩ := issueOp_ownTile h rfl ruleFree (ruleFree_done hw hp hs (by rw [← hy]; exact hf))
      (setChan_setStream_only s t _ n bad _ _)
      ((honly.trans fun x hx => State.tile_setStream_ne _ t n x _ hx).trans fun x hx => State.tile_setTile_ne _ t x _ hx)
      ((sram_setChan _ t _ _ t).trans ((setStream_sram v t n _).trans hsram))
    have hstream : u.stream t n = { y with taken := rest } := by
      rw [hg.stream, stream_setChan, State.stream_setStream_same, hy]
    refine ⟨u, he, ha, hev, by rw [hstream], by rw [hstream], ?_, fun e hne => ?_⟩
    · rw [hg.chan, chan_setChan_same, chan_setStream, chan_upset, hid]
    · rw [hg.chan, chan_setChan_ne _ _ hne, chan_setStream, chan_upset]
  · intro p m rest k hp hm hw ha hc h0 hpart hs
    obtain ⟨-, hreg, he⟩ := armSettle_cases (s.delivered t c p m rest)
    have htile (x : Nat) : (s.delivered t c p m rest).armSettle.tile x = (s.delivered t c p m rest).tile x := by rw [he]; rfl
    refine ⟨_, exec_meshDelivery hp hm hw ha hc h0 hpart hs, ?_, ?_, fun f hx => ?_, ?_, ?_, ?_, ?_⟩
    · rw [he]
      rfl
    · have hne : (F.PWR_CLU_TILES (t / 8)).key ≠ F.CFG_STATUS_STATE.key := by
        simp only [Fld.key, F.PWR_CLU_TILES, F.CFG_STATUS_STATE, Dom.code]; omega
      rw [State.tilePower, hreg _ hne]
      exact delivered_power s t c p m rest ha
    · rw [hreg f (hx _ (by simp)), g_delivered_ne s t c p m rest (hx _ (by simp))]
    · rw [htile, delivered_sram]
    · rw [State.chan, htile]
      exact delivered_chan s t c p m rest
    · rw [htile]
      exact delivered_flights s t c p m rest
    · rw [he]
      have e := congrArg (fun q : State => { q with loader := s.loader }) (delivered_rest s t c p m rest)
      exact e
  · intro p k b rest hp hf hw hread hs
    refine ⟨_, exec_creditReturn hp hf hw hread hs, chan_setChan_same s t c _, fun e he => chan_setChan_ne s t he _,
      fun x hx => State.tile_setTile_ne s t x _ hx, fun x _ => ?_, rfl⟩
    rw [sramByte, sram_setChan]
    rfl

end Sys2Proof
end

section
/-!
Transfers between SRAM and host memory through the far cache (R141 to R143, R363, R377 to R380): what the far cache's operations leave
alone, and the three instructions that use them.
-/
namespace Sys2Proof.Machine

/-! Operations that change the far cache and what goes to the host, and nothing else. -/

/-- `u` is `s` but for the far cache and what has gone to the host, or waits for its link. -/
def Asks (s u : State) : Prop := ∃ c o h, u = { s with far := c, outbox := o, host := h }

section
variable {s r u : State}

theorem Asks.trans (h : Asks s r) (k : Asks r u) : Asks s u := by
  obtain ⟨c, o, p, rfl⟩ := h
  obtain ⟨c', o', p', rfl⟩ := k
  exact ⟨c', o', p', rfl⟩

theorem Asks.setFar (s : State) (f : FarCache → FarCache) : Asks s (s.setFar f) := ⟨f s.far, s.outbox, s.host, rfl⟩

theorem Asks.toHost (s : State) (l : List Out) : Asks s (s.toHost l) := by
  obtain ⟨o, h, e⟩ := s.toHost_only l
  exact ⟨s.far, o, h, e⟩

theorem Asks.farFill (s : State) (w : FarUser) (part : Nat) (cached : Bool) (line : Nat) (pf : Bool) :
    Asks s (s.farFill w part cached line pf) := by
  unfold State.farFill
  split
  · exact .setFar s _
  · exact (Asks.setFar s _).trans (.toHost _ _)

theorem Asks.cacheWrite (s : State) (w : FarWrite) (data : List Byte) : Asks s (s.cacheWrite w data) := (Asks.setFar s _).trans (.toHost _ _)

theorem Asks.farOwn (s : State) (part : Option Nat) (line : Nat) : Asks s (s.farOwn part line) := .setFar s _

theorem Asks.waits (h : Asks s u) : u.waits = s.waits := by
  obtain ⟨c, o, p, rfl⟩ := h
  rfl

theorem Asks.g (h : Asks s u) (f : Fld) : u.g f = s.g f := by
  obtain ⟨c, o, p, rfl⟩ := h
  rfl

theorem Asks.farParts (h : Asks s u) (w : FarUser) : u.farParts w = s.farParts w := by
  obtain ⟨c, o, p, rfl⟩ := h
  rfl

theorem Asks.moves (h : Asks s u) : Moves s u := by
  obtain ⟨c, o, p, rfl⟩ := h
  exact ⟨fun _ _ => rfl, rfl, rfl, rfl⟩

/-- A requester without a partition reads and writes uncached (R377). -/
theorem farPart_none {w : FarUser} (h : s.farParts w = []) (line : Nat) : s.farPart w line = none := by
  simp only [State.farPart, h, List.isEmpty_nil, if_true]

end

/-! What the operations leave of the tiles. -/

theorem Moves.inc (s : State) {f : Fld} (hf : f.dom ≠ .tile) : Moves s (s.inc f) :=
  ⟨fun x hx => State.g_inc_ne s f x (key_ne_of_tile hx hf), rfl, rfl, rfl⟩

theorem Moves.count (s : State) (ev inst n : Nat) : Moves s (s.count ev inst n) := by
  have hg (f : Fld) (hf : f.dom = .tile) : (s.count ev inst n).g f = s.g f := State.g_count_tile s ev inst n hf
  obtain ⟨l, e⟩ := s.count_only ev inst n
  rw [e] at hg ⊢
  exact ⟨hg, rfl, rfl, rfl⟩

theorem Moves.report (s : State) (code unit detail : Nat) : Moves s (s.report code unit detail) := by
  obtain ⟨l, r, e, hg⟩ := s.report_only code unit detail
  have hg' (f : Fld) (hf : f.dom = .tile) : (s.report code unit detail).g f = s.g f := hg f (key_ne_of_tile hf (by decide))
  rw [e] at hg' ⊢
  exact ⟨hg', rfl, rfl, rfl⟩

theorem Moves.readRow {s r : State} {req a n : Nat} {l : List Byte} (h : s.readRow req a n = (r, .ok l)) : Moves s r := by
  obtain ⟨-, hr⟩ := s.readRow_ok h
  refine ⟨fun f hf => hr.g_tile hf, ?_, ?_, ?_⟩ <;> rw [hr.rest]

/-- A write of one row, done or refused. -/
theorem Moves.writeRow (s : State) (req a : Nat) (l : List Byte) : Moves s (s.writeRow req a l).1 := by
  by_cases hc : (s.writeRow req a l).2 = 0
  · have h : s.writeRow req a l = ((s.writeRow req a l).1, 0) := Prod.ext rfl hc
    exact .of_mem ⟨_, _, _, s.writeRow_ok h⟩
  · have h : s.memGate req a ≠ 0 := fun h => hc (by simp only [State.writeRow, h, ne_eq, not_true_eq_false, if_false])
    simp only [State.writeRow, if_pos h]
    exact .report s _ req a

theorem Moves.farTouch (s : State) (part line : Nat) : Moves s (s.farTouch part line) := by
  unfold State.farTouch
  split
  · next e he =>
    have h := (Asks.setFar s fun c =>
      { c with lines := (c.lines.filter fun x => !(x.part == part && x.line == line)) ++ [{ e with pf := false }] }).moves
    split
    · exact (h.trans (.inc _ (f := F.DBG_PF_USED_COUNT part) nofun)).trans (.inc _ nofun)
    · exact h
  · split
    · exact ((Asks.setFar s _).moves.trans (.inc _ (f := F.DBG_PF_USED_COUNT part) nofun)).trans (.inc _ nofun)
    · exact .refl s

/-- A line read where it lies ends with the read of its row, or with an error. The place of a line is arithmetic in large numbers, which
the kernel must not evaluate, so `farGet` and `farRead` are unfolded under names that hide what they compute. -/
theorem farGet_cases {s r : State} {e : FarLine} {d : Except Nat (List Byte)} (h : s.farGet e = (r, d)) :
    (∃ l, s.readRow rqFAR e.place 1 = (r, .ok l)) ∨ ∃ c, c ≠ 0 ∧ d = .error c := by
  obtain ⟨x, hx⟩ : ∃ x, x = s.readRow rqFAR e.place 1 := ⟨_, rfl⟩
  obtain ⟨k, hk⟩ : ∃ k, k = State.farGet := ⟨_, rfl⟩
  rw [← hk] at h
  delta State.farGet at hk
  rw [hk] at h
  beta_reduce at h
  rw [← hx] at h ⊢
  rcases x with ⟨q, c | l⟩
  · exact .inr ⟨_, by split <;> decide, (congrArg Prod.snd h).symm⟩
  · exact .inl ⟨l, congrArg (fun x => (x.1, Except.ok l)) h⟩

theorem Moves.farGet {s r : State} {e : FarLine} {d : Except Nat (List Byte)} (h : s.farGet e = (r, d)) :
    Moves s r ∨ ∃ c, c ≠ 0 ∧ d = .error c := (farGet_cases h).imp (fun ⟨_, hl⟩ => .readRow hl) id

/-- What a read of a host line leaves: a touched line, or a fill (R379). -/
theorem farRead_cases {s r : State} {u : FarUser} {line : Nat} {d : Option (Except Nat (List Byte))} (h : s.farRead u line = (r, d)) :
    r = s ∨ (r = s.farFill u 0 false line false) ∨ ∃ p, (r = ((s.farTouch p line).count 0x0061 p 1).farFill u p true line false)
      ∨ ∃ e x, ((s.farTouch p line).count 0x0060 p 1).farGet e = (r, x) ∧ d = some x := by
  obtain ⟨get, hg⟩ : ∃ g, g = State.farGet := ⟨_, rfl⟩
  obtain ⟨k, hk⟩ : ∃ k, k = State.farRead := ⟨_, rfl⟩
  rw [← hk] at h
  delta State.farRead at hk
  rw [← hg] at hk ⊢
  rw [hk] at h
  beta_reduce at h
  split at h
  · split at h
    · exact .inl (congrArg Prod.fst h).symm
    · exact .inr (.inl (congrArg Prod.fst h).symm)
  · next p hp =>
    split at h
    · next e he =>
      obtain ⟨hr, hd⟩ := Prod.mk.inj h
      exact .inr (.inr ⟨p, .inr ⟨e, _, Prod.ext hr rfl, hd.symm⟩⟩)
    · exact .inr (.inr ⟨p, .inl (congrArg Prod.fst h).symm⟩)

theorem farRead_uncached {s : State} {u : FarUser} {line : Nat} (hu : u ≠ .units) (h : s.farPart u line = none) :
    s.farRead u line = (s.farFill u 0 false line false, none) := by
  obtain ⟨get, hg⟩ : ∃ g, g = State.farGet := ⟨_, rfl⟩
  obtain ⟨k, hk⟩ : ∃ k, k = State.farRead := ⟨_, rfl⟩
  rw [← hk]
  delta State.farRead at hk
  rw [← hg] at hk 
  rw [hk]
  beta_reduce
  rw [h, if_neg hu]

/-- A line that the far cache gives, or that it is asked for, leaves the tiles as they are. -/
theorem Moves.farRead {s r : State} {u : FarUser} {line : Nat} {d : Option (Except Nat (List Byte))} (h : s.farRead u line = (r, d)) :
    Moves s r ∨ ∃ c, c ≠ 0 ∧ d = some (.error c) := by
  have htouch (p ev : Nat) : Moves s ((s.farTouch p line).count ev p 1) := (Moves.farTouch s p line).trans (.count _ ev p 1)
  obtain rfl | rfl | ⟨p, rfl | ⟨e, x, hx, rfl⟩⟩ := farRead_cases h
  · exact .inl (.refl _)
  · exact .inl (Asks.farFill ..).moves
  · exact .inl ((htouch p 0x0061).trans (Asks.farFill ..).moves)
  · obtain hm | ⟨c, hc, rfl⟩ := Moves.farGet hx
    · exact .inl ((htouch p 0x0060).trans hm)
    · exact .inr ⟨c, hc, rfl⟩

theorem Moves.evict (s : State) (v : FarLine) (rest : List FarLine) :
    Moves s (let s := s.setFar fun c => { c with lines := rest }
      let s := if v.pf then s.inc (F.DBG_PF_EVICTED_COUNT v.part) else s
      if v.dirty then s.writeBack v else s) := by
  have h : Moves s (if v.pf then (s.setFar fun c => { c with lines := rest }).inc (F.DBG_PF_EVICTED_COUNT v.part)
      else s.setFar fun c => { c with lines := rest }) := by
    split
    · exact (Asks.setFar s _).moves.trans (.inc _ nofun)
    · exact (Asks.setFar s _).moves
  show Moves s (if v.dirty then _ else _)
  split
  · exact h.trans (Asks.cacheWrite ..).moves
  · exact h

theorem Moves.farInstall (s : State) (part line : Nat) (data : List Byte) (dirty pf : Bool) :
    Moves s (s.farInstall part line data dirty pf) := by
  have hput (q : State) (e : FarLine) (h : Moves s q) :
      Moves s ((q.writeRow rqFAR e.place data).1.setFar fun c => { c with lines := c.lines ++ [e] }) :=
    (h.trans (.writeRow q _ _ _)).trans (Asks.setFar _ _).moves
  have hout := (Asks.setFar s fun c => { c with lines := c.lines.filter fun x => !(x.part == part && x.line == line) }).moves
  unfold State.farInstall
  refine hput _ _ ?_
  split
  · exact hout
  · exact hout
  · split
    · exact hout
    · exact hout.trans (.evict _ _ _)

theorem Moves.farWrite (s : State) (u : FarUser) (fl : Option (Nat × Nat)) (line : Nat) (data : List Byte) :
    Moves s (s.farWrite u fl line data) := by
  have hown := (Asks.farOwn s (s.farPart u line) line).moves
  simp only [State.farWrite]
  split
  · exact hown.trans (Asks.cacheWrite ..).moves
  · refine Moves.trans ?_ (.farInstall ..)
    refine Moves.trans ?_ (.farTouch ..)
    split
    · exact hown.trans (.count ..)
    · exact hown.trans (.count ..)

theorem Moves.storeLines (t : Nat) (fl : Option (Nat × Nat)) : ∀ (k first : Nat) (l : List Byte) (s : State),
    Moves s (storeLines t fl first k l s)
  | 0, _, _, s => .refl s
  | k + 1, first, l, s => (Moves.farWrite s (.tile t) fl first (l.take 64)).trans (Moves.storeLines t fl k (first + 1) (l.drop 64) _)

theorem Moves.farPrefetch (s : State) (u : FarUser) (line : Nat) : Moves s (s.farPrefetch u line) ∧ (s.farPrefetch u line).waits = s.waits := by
  unfold State.farPrefetch
  split
  · exact ⟨.refl s, rfl⟩
  · split
    · exact ⟨.refl s, rfl⟩
    · next p _ _ =>
      have h := Asks.farFill s u p true line true
      exact ⟨h.moves.trans (.inc _ nofun), h.waits⟩

theorem Moves.prefetches (u : FarUser) (line : Nat → Nat) : ∀ (l : List Nat) (s : State),
    Moves s (l.foldl (fun s i => s.farPrefetch u (line i)) s) ∧ (l.foldl (fun s i => s.farPrefetch u (line i)) s).waits = s.waits
  | [], s => ⟨.refl s, rfl⟩
  | i :: l, s =>
    have h := Moves.farPrefetch s u (line i)
    have k := Moves.prefetches u line l (s.farPrefetch u (line i))
    ⟨h.1.trans k.1, k.2.trans h.2⟩

end Sys2Proof.Machine
end

section
/-!
HOSTLD, HOSTST and PREF (R141 to R143, R379, R380) through what the far cache's operations leave.
-/
namespace Sys2Proof.Machine

/-! What the lines of a HOSTLD leave of their tile. -/

/-- `u` has the tile registers of `s`, and of tile `t` the flights and streams. -/
structure Serves (t : Nat) (s u : State) : Prop where
  regs : ∀ f : Fld, f.dom = .tile → u.g f = s.g f
  due : u.stp.due = s.stp.due
  flights : (u.tile t).flights = (s.tile t).flights
  streams : ∀ n, u.stream t n = s.stream t n

section
variable {t n : Nat} {s r u v : State}

theorem Serves.refl (t : Nat) (s : State) : Serves t s s := ⟨fun _ _ => rfl, rfl, rfl, fun _ => rfl⟩

theorem Serves.trans (h : Serves t s r) (k : Serves t r u) : Serves t s u :=
  ⟨fun f hf => (k.regs f hf).trans (h.regs f hf), k.due.trans h.due, k.flights.trans h.flights, fun n => (k.streams n).trans (h.streams n)⟩

theorem Serves.of_moves (t : Nat) (h : Moves s u) : Serves t s u :=
  ⟨h.regs, by rw [h.stp], by rw [h.tile], fun n => by rw [State.stream, h.tile]; rfl⟩

theorem Serves.writeSram (t a : Nat) (l : List Byte) (s : State) : Serves t s (s.setTile t fun x => x.writeSram a l) :=
  ⟨fun _ _ => rfl, rfl, by rw [State.tile_setTile_same]; rfl, fun n => by rw [State.stream, State.tile_setTile_same]; rfl⟩

theorem Calm.serves (c : Calm t n s r) (hn : n < 2) (h : Serves t r u) (hw : Unhindered s u) : Calm t n s u :=
  c.of (fun x hx => h.regs x (issueFields_place hn hx).1) h.due h.flights (by rw [h.streams]; exact ⟨rfl, rfl⟩) (hw.trans c.waits.symm)

/-! The lines one by one. -/

section
variable {first sram i : Nat} {l : List Nat}

theorem loadLines_held {d : List Byte} (h : s.farRead (.tile t) (first + i) = (r, some (.ok d))) :
    loadLines t first sram (i :: l) s = loadLines t first sram l (r.setTile t fun x => x.writeSram (64 * (sram + i)) d) := by
  rw [loadLines, h]

theorem loadLines_failed {c : Nat} (h : s.farRead (.tile t) (first + i) = (r, some (.error c))) :
    loadLines t first sram (i :: l) s = (r, [], c) := by
  rw [loadLines, h]

theorem loadLines_asked (h : s.farRead (.tile t) (first + i) = (r, none)) :
    loadLines t first sram (i :: l) s =
      ((loadLines t first sram l r).1, (first + i) :: (loadLines t first sram l r).2.1, (loadLines t first sram l r).2.2) := by
  rw [loadLines, h]

end

/-- The lines that the far cache holds land in SRAM; the tile's streams, flights and registers stay as they are. -/
theorem Serves.loadLines (t first sram : Nat) : ∀ (l : List Nat) (s : State), (loadLines t first sram l s).2.2 = 0 →
    Serves t s (loadLines t first sram l s).1
  | [], s, _ => .refl t s
  | i :: l, s, h => by
    obtain ⟨r, x, hx⟩ : ∃ r x, s.farRead (.tile t) (first + i) = (r, x) := ⟨_, _, rfl⟩
    obtain hm | ⟨c, hc, rfl⟩ := Moves.farRead hx
    · rcases x with - | c | d
      · rw [loadLines_asked hx] at h ⊢
        exact (Serves.of_moves t hm).trans (Serves.loadLines t first sram l r h)
      · rw [loadLines_failed hx]
        exact .of_moves t hm
      · rw [loadLines_held hx] at h ⊢
        exact ((Serves.of_moves t hm).trans (.writeSram t _ d r)).trans (Serves.loadLines t first sram l _ h)
    · rw [loadLines_failed hx] at h
      exact absurd h hc

/-- Without a partition every line is asked for, and nothing lands yet (R377, R379). -/
theorem loadLines_uncached (t first sram : Nat) : ∀ (l : List Nat) (s : State), s.farParts (.tile t) = [] →
    Asks s (loadLines t first sram l s).1 ∧ (loadLines t first sram l s).2 = (l.map (first + ·), 0)
  | [], s, _ => ⟨⟨s.far, s.outbox, s.host, rfl⟩, rfl⟩
  | i :: l, s, h => by
    have ha := Asks.farFill s (.tile t) 0 false (first + i) false
    obtain ⟨hasks, hl⟩ := loadLines_uncached t first sram l _ ((ha.farParts (.tile t)).trans h)
    rw [loadLines_asked (farRead_uncached FarUser.noConfusion (farPart_none h (first + i)))]
    refine ⟨ha.trans hasks, ?_⟩
    rw [hl]
    rfl

/-! The lines of a HOSTST that goes to the host. -/

theorem farWrite_uncached {u : FarUser} (h : s.farParts u = []) (fl : Option (Nat × Nat)) (line : Nat) (d : List Byte) :
    s.farWrite u fl line d = (s.farOwn none line).cacheWrite ⟨line, fl, u == .units⟩ d := by
  have h' : (s.farOwn none line).farPart u line = none := farPart_none (((Asks.farOwn s none line).farParts u).trans h) line
  simp only [State.farWrite, farPart_none h, h']

theorem cacheWrite_outbox (h : s.g F.HIF_STATUS_LINK_UP ≠ 0) (w : FarWrite) (d : List Byte) :
    (s.cacheWrite w d).outbox = s.outbox ++ [.hostWrite (64 * w.line) d] := by
  have hon : (s.setFar fun c => { c with writes := c.writes ++ [w] }).on F.HIF_STATUS_LINK_UP = true := bne_iff_ne.2 h
  rw [State.cacheWrite, State.toHost, if_pos hon]
  rfl

/-- The lines of a span one by one, as they leave for the host. -/
def linesOut (first k : Nat) (l : List Byte) : List Out := (List.range k).map fun i => .hostWrite (64 * (first + i)) ((l.drop (64 * i)).take 64)

theorem linesOut_succ (first k : Nat) (l : List Byte) :
    linesOut first (k + 1) l = .hostWrite (64 * first) (l.take 64) :: linesOut (first + 1) k (l.drop 64) := by
  rw [linesOut, List.range_succ_eq_map, List.map_cons, List.map_map]
  refine congrArg (List.cons _) (List.map_congr_left fun i _ => ?_)
  have hdrop : (l.drop 64).drop (64 * i) = l.drop (64 * (i + 1)) := by rw [List.drop_drop, Nat.mul_add, Nat.add_comm]
  rw [hdrop, Nat.add_assoc, Nat.add_comm 1 i]
  rfl

theorem storeLines_uncached (t : Nat) (fl : Option (Nat × Nat)) : ∀ (k first : Nat) (l : List Byte) (s : State),
    s.farParts (.tile t) = [] → s.g F.HIF_STATUS_LINK_UP ≠ 0 →
    Asks s (storeLines t fl first k l s) ∧ (storeLines t fl first k l s).outbox = s.outbox ++ linesOut first k l
  | 0, first, l, s, _, _ => ⟨⟨s.far, s.outbox, s.host, rfl⟩, (List.append_nil _).symm⟩
  | k + 1, first, l, s, h, hup => by
    obtain ⟨r, hr⟩ : ∃ r, r = s.farWrite (.tile t) fl first (l.take 64) := ⟨_, rfl⟩
    have he : r = (s.farOwn none first).cacheWrite ⟨first, fl, FarUser.tile t == .units⟩ (l.take 64) := by rw [hr, farWrite_uncached h]
    have ha : Asks s r := by
      rw [he]
      exact (Asks.farOwn s none first).trans (.cacheWrite ..)
    have hout : r.outbox = s.outbox ++ [.hostWrite (64 * first) (l.take 64)] := by
      rw [he]
      exact cacheWrite_outbox (s := s.farOwn none first) hup _ _
    obtain ⟨hasks, hrest⟩ := storeLines_uncached t fl k (first + 1) (l.drop 64) r ((ha.farParts _).trans h) ((ha.g _).trans_ne hup)
    have hstep : storeLines t fl first (k + 1) l s = storeLines t fl (first + 1) k (l.drop 64) r := by rw [storeLines, hr]
    rw [hstep]
    refine ⟨ha.trans hasks, ?_⟩
    rw [hrest, hout, linesOut_succ, List.append_assoc]
    rfl

theorem uncachedLines_all (h : s.farParts (.tile t) = []) (first len : Nat) :
    s.uncachedLines t first len = (List.range len).map (first + ·) := by
  simp only [State.uncachedLines, farPart_none h, Option.isNone_none, List.filter_true]

/-! The three rules past their checks. -/

theorem ruleHostld_flies {w first : Nat} {a : Access'} (ha : a = sectorAccess t n w v) (hfirst : first = a.d.base / 64 + a.off)
    (hw : onlyBits [(97, 16)] w = true) (hl : a.len ≠ 0) (hcxl : v.cxl = true)
    (hc : accessChecks t v a [dkHOST] [(a.sram, a.len)] a.off a.len true false = 0)
    (hr : reserveStall (v.tile t) n [a.d.span a.off a.len] [sramSpan (a.sram, a.len)] = none)
    (h0 : (loadLines t first a.sram (List.range a.len) v).2.2 = 0) :
    ruleHostld t n w v = .flies (loadLines t first a.sram (List.range a.len) v).1
      { rd := [a.d.span a.off a.len], wr := [sramSpan (a.sram, a.len)], waiting := (loadLines t first a.sram (List.range a.len) v).2.1,
        dst := a.sram, src := first, written := some [] } := by
  subst ha hfirst
  simp only [ruleHostld, hw, hl, hc, hcxl, h0, reserved_free hr, ne_eq, not_true_eq_false, Bool.not_true, Bool.false_eq_true, if_false]

theorem ruleHostst_flies {w first : Nat} {a : Access'} (ha : a = sectorAccess t n w v) (hfirst : first = a.d.base / 64 + a.off)
    (hw : onlyBits [(97, 16)] w = true) (hl : a.len ≠ 0) (hcxl : v.cxl = true)
    (hc : accessChecks t v a [dkHOST] [(a.sram, a.len)] a.off a.len true true = 0)
    (hr : reserveStall (v.tile t) n [sramSpan (a.sram, a.len)] [a.d.span a.off a.len] = none)
    (hb : firstBad (v.tile t).badSectors a.sram a.len = none) {bytes : List Byte} (hbytes : bytes = (v.tile t).readSram (64 * a.sram) (64 * a.len))
    (hs : r = storeLines t (some (t, (v.tile t).nextId)) first a.len bytes v) :
    ruleHostst t n w v = .flies r
      { rd := [sramSpan (a.sram, a.len)], wr := [a.d.span a.off a.len], waiting := r.uncachedLines t first a.len, written := some bytes } := by
  subst ha hfirst hbytes hs
  simp only [ruleHostst, hw, hl, hc, hcxl, hb, reserved_free hr, ne_eq, not_true_eq_false, Bool.not_true, Bool.false_eq_true, if_false,
    Option.getD_none, Nat.lt_irrefl]

theorem rulePref_done {w : Nat} {p : Access'}
    (hp : p = ⟨v.plan.elim Desc.invalid fun p => p.desc t (bitsOf w 23 16), bitsOf w 59 28 + (v.stream t n).xr (bitsOf w 27 24), 0,
      bitsOf w 76 60⟩)
    (hw : onlyBits [(76, 16)] w = true) (hl : bitsOf w 76 60 ≠ 0) (hcxl : v.cxl = true)
    (hc : accessChecks t v p [dkHOST] [] p.off (bitsOf w 76 60) true false = 0) :
    rulePref t n w v = .done ((List.range (bitsOf w 76 60)).foldl (fun s i => s.farPrefetch (.tile t) (p.d.base / 64 + p.off + i)) v) := by
  subst hp
  simp only [rulePref, hw, hl, hc, hcxl, ne_eq, not_true_eq_false, Bool.not_true, Bool.false_eq_true, if_false]

end
end Sys2Proof.Machine

namespace Sys2Proof

open Machine

theorem FliesFrom.outbox {t n w : Nat} {j : Job'} {r s u : State} (h : FliesFrom t n w j r s u) : u.outbox = r.outbox := by
  have e := congrArg State.outbox h.rest
  exact e

theorem DoneFrom.keepsSram {t n w : Nat} {r s u : State} (h : DoneFrom t n w r s u) (hr : (r.tile t).sram = (s.tile t).sram) :
    KeepsSram t s u 0 0 := fun x _ => by
  rw [sramByte, h.sram, hr]; rfl

/-- Settles O9: the lines of the span are read, written or asked for one by one, and the tile's streams and flights stay out of it. -/
theorem hostTransfersComplete : Obligations.HostTransfersComplete := by
  intro t n w bad s v a first rd wr
  have hcalm : Calm t n s v := .upset s t n bad
  have hsram : (v.tile t).sram = (s.tile t).sram := sram_upset s t bad
  refine ⟨?_, ?_, ?_⟩
  · intro h hw hl hcxl hc hr r
    have hld (h0 : r.2.2 = 0) (hu : Unhindered s r.1) : ∃ u, exec (.hostld t n bad) s = .next u
        ∧ FliesFrom t n w { rd := rd, wr := wr, waiting := r.2.1, dst := a.sram, src := first } r.1 s u := by
      obtain ⟨u, he, hf⟩ := flies_of h rfl ruleHostld (ruleHostld_flies rfl rfl hw hl hcxl hc hr h0)
        (hcalm.serves h.stream (.loadLines t first a.sram _ v h0) hu)
      exact ⟨u, he, hf.unlogged none⟩
    refine ⟨hld, fun hparts => ?_⟩
    obtain ⟨hasks, hres⟩ := loadLines_uncached t first a.sram (List.range a.len) v hparts
    obtain ⟨u, he, hf⟩ := hld (congrArg Prod.snd hres) hasks.waits
    have hwait : r.2.1 = (List.range a.len).map (first + ·) := congrArg Prod.fst hres
    rw [hwait] at hf
    exact ⟨u, he, hf.keepsSram (by rw [hasks.moves.tile, hsram]), hf⟩
  · intro bytes h hw hl hcxl hc hr hb r
    have hid : (v.tile t).nextId = (s.tile t).nextId := by rw [s.upset_tile t bad]
    have hst (hu : Unhindered s r) : ∃ u, exec (.hostst t n bad) s = .next u ∧ KeepsSram t s u 0 0
        ∧ FliesFrom t n w { rd := wr, wr := rd, waiting := r.uncachedLines t first a.len } r s u := by
      have hm : Moves v r := .storeLines ..
      obtain ⟨u, he, hf⟩ := flies_of h rfl ruleHostst
        (ruleHostst_flies rfl rfl hw hl hcxl hc hr hb (readSram_upset s t bad _ _).symm (by rw [hid])) (hcalm.moves h.stream hm hu)
      exact ⟨u, he, hf.keepsSram (by rw [hm.tile, hsram]), hf.unlogged none⟩
    refine ⟨hst, fun hparts hup => ?_⟩
    obtain ⟨hasks, hout⟩ := storeLines_uncached t (some (t, (s.tile t).nextId)) a.len first bytes v hparts hup
    obtain ⟨u, he, hk, hf⟩ := hst hasks.waits
    rw [uncachedLines_all ((hasks.farParts _).trans hparts)] at hf
    refine ⟨u, he, hk, hf, ?_⟩
    rw [hf.outbox, hout]
    rfl
  · intro len p h hw hl hcxl hc
    obtain ⟨hm, hwaits⟩ := Moves.prefetches (.tile t) (fun i => p.d.base / 64 + p.off + i) (List.range len) v
    obtain ⟨u, he, hd⟩ := done_of h rfl rulePref
      (rulePref_done (by rw [State.upset_stream]; rfl) hw hl hcxl hc) (hcalm.moves h.stream hm hwaits)
    exact ⟨u, he, hd, hd.keepsSram (by rw [hm.tile, hsram])⟩

end Sys2Proof
end

section
/-!
What an opening leaves of the tiles (R119, R120): every tile but for its SRAM as at power-on, and the streams with a program at their entry.
-/
namespace Sys2Proof.Machine

/-! The registers of the tiles that an opening clears. -/

theorem get_filter_out {α : Type} (d : α) (x : Nat) (p : Nat → Bool) (l : Sparse α) (h : p x = false) :
    Sparse.get d x (l.filter fun e => p e.1) = d := by
  induction l with
  | nil => rfl
  | cons e l ih =>
    by_cases hp : p e.1 = true
    · have hx : e.1 ≠ x := fun he => Bool.false_ne_true (h.symm.trans (he ▸ hp))
      rw [List.filter_cons_of_pos (by simpa using hp), show e = (e.1, e.2) from rfl, Sparse.get_cons, if_neg hx, ih]
    · rw [List.filter_cons_of_neg (by simpa using hp), ih]

theorem keyOff_key {f : Fld} (h : f.lo < 64) : keyOff f.key = f.off := by
  have := f.dom.code_le
  unfold keyOff Fld.key
  omega

theorem openingKey_of_dom {f : Fld} (h : f.dom ≠ .tile) : openingKey f.key = false := by
  have hd : (f.dom.code == Dom.tile.code) = false := by
    cases hf : f.dom
    case tile => exact absurd hf h
    all_goals rfl
  rw [openingKey, keyDom_key, hd]
  rfl

theorem openingKey_state {t n : Nat} (ht : t < 256) (hn : n < 2) : openingKey (F.TILE_SEQ_STATUS_STATE t n).key = true := by
  have hoff : keyOff (F.TILE_SEQ_STATUS_STATE t n).key = 0x1000000 + 0x10000 * t + 0x8 * n := keyOff_key (of_decide_eq_true rfl)
  have hr : (0x1000000 + 0x10000 * t + 0x8 * n) % 0x10000 = 8 * n := by omega
  have hlow : 0x1000000 ≤ 0x1000000 + 0x10000 * t + 0x8 * n := by omega
  have hhigh : 0x1000000 + 0x10000 * t + 0x8 * n < 0x2000000 := by omega
  rw [openingKey, keyDom_key, hoff, hr]
  simp only [hlow, hhigh, decide_true, Bool.and_true]
  interval_cases n <;> rfl

theorem openingKey_event {t c : Nat} (ht : t < 256) (hc : c < 16) : openingKey (F.TILE_EVT_COUNT t c).key = true := by
  have hoff : keyOff (F.TILE_EVT_COUNT t c).key = 0x1000080 + 0x10000 * t + 0x4 * c := keyOff_key (of_decide_eq_true rfl)
  have hr : (0x1000080 + 0x10000 * t + 0x4 * c) % 0x10000 = 0x80 + 4 * c := by omega
  have hlow : 0x1000000 ≤ 0x1000080 + 0x10000 * t + 0x4 * c := by omega
  have hhigh : 0x1000080 + 0x10000 * t + 0x4 * c < 0x2000000 := by omega
  have hfrom : 0x80 ≤ 0x80 + 4 * c := by omega
  have hto : 0x80 + 4 * c < 0xC0 := by omega
  rw [openingKey, keyDom_key, hoff, hr]
  simp only [hlow, hhigh, hfrom, hto, decide_true, Bool.and_true, Bool.or_true, Bool.true_or]
  rfl

/-- The tiles reset by R120, before their streams start. -/
def State.tilesReset (s : State) : State :=
  { s with
    fld := Sparse.keep (fun k => !openingKey k) s.fld
    tiles := s.tiles.foldr (fun e l => Sparse.put Tile.init e.1 e.2.opened l) []
    mesh := [] }

theorem g_tilesReset_kept {f : Fld} (h : openingKey f.key = false) (s : State) : s.tilesReset.g f = s.g f :=
  Sparse.get_filter f.rst f.key (fun k => !openingKey k) s.fld (by rw [h]; rfl)

theorem g_tilesReset_cleared {f : Fld} (h : openingKey f.key = true) (s : State) : s.tilesReset.g f = f.rst :=
  get_filter_out f.rst f.key (fun k => !openingKey k) s.fld (by rw [h]; rfl)

theorem get_opened (t : Nat) : ∀ l : Sparse Tile,
    Sparse.get Tile.init t (l.foldr (fun e l => Sparse.put Tile.init e.1 e.2.opened l) []) = (Sparse.get Tile.init t l).opened
  | [] => rfl
  | (k, x) :: l => by
    rw [List.foldr_cons, Sparse.get_cons]
    by_cases h : k = t
    · rw [if_pos h, h, Sparse.get_put_same]
    · rw [if_neg h, Sparse.get_put_ne _ _ _ _ _ _ (Ne.symm h), get_opened t l]

theorem tile_tilesReset (s : State) (t : Nat) : s.tilesReset.tile t = (s.tile t).opened := get_opened t s.tiles

/-! A stream that starts. -/

/-- The fields that the start of a stream writes. -/
def startFields (t n : Nat) : List Fld :=
  [F.TILE_SEQ_STATUS_STATE t n, F.TILE_SEQ_STATUS_STALL t n, F.TILE_SEQ_STATUS_PC t n, F.TILE_SEQ_STATUS_OPCODE t n]

theorem startFields_place {t n : Nat} {x : Fld} (h : x ∈ startFields t n) :
    x.dom = .tile ∧ x.lo < 64 ∧ x.off = 0x1000000 + 0x10000 * t + 0x8 * n := by
  simp only [startFields, List.mem_cons, List.not_mem_nil, or_false] at h
  obtain rfl | rfl | rfl | rfl := h <;> exact ⟨rfl, of_decide_eq_true rfl, rfl⟩

/-- A field that the start of no stream writes. -/
def OffStart (f : Fld) : Prop := ∀ t n, n < 2 → ∀ x ∈ startFields t n, f.key ≠ x.key

theorem offStart_of_dom {f : Fld} (h : f.dom ≠ .tile) : OffStart f := fun _ _ _ _ hx =>
  (key_ne_of_tile (startFields_place hx).1 h).symm

theorem offStart_event (t c : Nat) (hc : c < 16) : OffStart (F.TILE_EVT_COUNT t c) := fun k n hn x hx => by
  obtain ⟨-, hl, ho⟩ := startFields_place hx
  refine Fld.key_ne_of_off (of_decide_eq_true rfl) hl ?_
  rw [ho]
  show 0x1000080 + 0x10000 * t + 0x4 * c ≠ _
  omega

theorem startField_ne {t n k m : Nat} {f x : Fld} (hn : n < 2) (hm : m < 2) (h : t ≠ k ∨ n ≠ m) (hf : f ∈ startFields t n)
    (hx : x ∈ startFields k m) : f.key ≠ x.key := by
  obtain ⟨-, hl, ho⟩ := startFields_place hf
  obtain ⟨-, hl', ho'⟩ := startFields_place hx
  exact Fld.key_ne_of_off hl hl' (by omega)

section
variable {s r u : State} {t n : Nat}

theorem startStream_on (h : s.hasProgram t n = true) :
    s.startStream t n = ((s.setStream t n Stream.openSpan).seqTo t n seqISSUING).setPc t n (s.plan.elim 0 fun p => p.entry t n) := by
  rw [State.startStream, if_pos h]

theorem startStream_off (h : s.hasProgram t n = false) : s.startStream t n = s := by
  rw [State.startStream, if_neg (Bool.eq_false_iff.1 h)]

/-- From `s` to `u` streams have started: beside their status only their spans of the digest log differ. -/
structure Starts (s u : State) : Prop where
  rest : ∃ k l, u = { s with fld := k, tiles := l }
  regs : ∀ f, OffStart f → u.g f = s.g f
  sram : ∀ t, (u.tile t).sram = (s.tile t).sram
  flights : ∀ t, (u.tile t).flights = (s.tile t).flights
  words : ∀ t n, (u.stream t n).x = (s.stream t n).x ∧ (u.stream t n).k = (s.stream t n).k

theorem Starts.refl (s : State) : Starts s s := ⟨⟨s.fld, s.tiles, rfl⟩, fun _ _ => rfl, fun _ => rfl, fun _ => rfl, fun _ _ => ⟨rfl, rfl⟩⟩

theorem Starts.trans (h : Starts s r) (k : Starts r u) : Starts s u := by
  refine ⟨?_, fun f hf => (k.regs f hf).trans (h.regs f hf), fun t => (k.sram t).trans (h.sram t),
    fun t => (k.flights t).trans (h.flights t), fun t n => ⟨(k.words t n).1.trans (h.words t n).1, (k.words t n).2.trans (h.words t n).2⟩⟩
  obtain ⟨a, b, rfl⟩ := h.rest
  obtain ⟨c, d, rfl⟩ := k.rest
  exact ⟨c, d, rfl⟩

theorem Starts.plan (h : Starts s u) : u.plan = s.plan := by
  obtain ⟨k, l, rfl⟩ := h.rest
  rfl

theorem Starts.hasProgram (h : Starts s u) (t n : Nat) : u.hasProgram t n = s.hasProgram t n := by rw [State.hasProgram, h.plan]; rfl

theorem stream_openSpan (s : State) (t n k m : Nat) :
    ((s.setStream t n Stream.openSpan).stream k m).x = (s.stream k m).x ∧ ((s.setStream t n Stream.openSpan).stream k m).k = (s.stream k m).k := by
  by_cases hk : k = t
  · subst hk
    rw [State.stream, State.setStream, State.tile_setTile_same, State.stream, Tile.setStream, Tile.stream, Tile.stream]
    split <;> split <;> exact ⟨rfl, rfl⟩
  · rw [State.stream, State.tile_setStream_ne _ _ _ _ _ hk]
    exact ⟨rfl, rfl⟩

theorem flights_setStream (s : State) (t n : Nat) (f : Stream → Stream) (k : Nat) : ((s.setStream t n f).tile k).flights = (s.tile k).flights := by
  by_cases hk : k = t
  · rw [hk, State.setStream, State.tile_setTile_same, Tile.setStream]
    split <;> rfl
  · rw [State.tile_setStream_ne _ _ _ _ _ hk]

theorem sram_setStream (s : State) (t n : Nat) (f : Stream → Stream) (k : Nat) : ((s.setStream t n f).tile k).sram = (s.tile k).sram := by
  by_cases hk : k = t
  · rw [hk, setStream_sram]
  · rw [State.tile_setStream_ne _ _ _ _ _ hk]

theorem g_startStream_ne (s : State) {f : Fld} (h : ∀ x ∈ startFields t n, f.key ≠ x.key) : (s.startStream t n).g f = s.g f := by
  unfold State.startStream
  split
  · have hs : ((s.setStream t n Stream.openSpan).seqTo t n seqISSUING).g f = (s.setStream t n Stream.openSpan).g f := by
      rw [State.seqTo, State.g_set_ne _ _ _ _ (h _ (by simp [startFields])), State.g_set_ne _ _ _ _ (h _ (by simp [startFields]))]
    rw [g_setPc_ne (h _ (by simp [startFields])) (h _ (by simp [startFields])), hs]
    rfl
  · rfl

theorem Starts.startStream (s : State) (t : Nat) (hn : n < 2) : Starts s (s.startStream t n) := by
  have hregs (f : Fld) (hf : OffStart f) : (s.startStream t n).g f = s.g f := g_startStream_ne s (hf t n hn)
  cases h : s.hasProgram t n
  · rw [startStream_off h]
    exact .refl s
  · rw [startStream_on h] at hregs ⊢
    obtain ⟨v, hv⟩ : ∃ v, v = s.setStream t n Stream.openSpan := ⟨_, rfl⟩
    obtain ⟨l, hl⟩ := setStream_only s t n Stream.openSpan
    obtain ⟨q, hq⟩ : ∃ q, q = v.seqTo t n seqISSUING := ⟨_, rfl⟩
    have hqv : q = { v with fld := q.fld } := by rw [hq]; exact State.seqTo_fld v t n seqISSUING
    have hrest : q.setPc t n (s.plan.elim 0 fun p => p.entry t n) = { v with fld := (q.setPc t n (s.plan.elim 0 fun p => p.entry t n)).fld } := by
      rw [State.setPc_fld, hqv]
    rw [← hv] at hl hregs ⊢
    rw [← hq] at hregs ⊢
    rw [hrest] at hregs ⊢
    have htile (k : Nat) : ({ v with fld := (q.setPc t n (s.plan.elim 0 fun p => p.entry t n)).fld } : State).tile k = v.tile k := rfl
    refine ⟨⟨_, l, by rw [hl]⟩, hregs, fun k => ?_, fun k => ?_, fun k m => ?_⟩
    · rw [htile, hv, sram_setStream]
    · rw [htile, hv, flights_setStream]
    · rw [State.stream, htile, hv]
      exact stream_openSpan s t n k m

theorem startStream_issuing (h : s.hasProgram t n = true) :
    (s.startStream t n).seqState t n = seqISSUING ∧ (s.startStream t n).pc t n = (s.plan.elim 0 fun p => p.entry t n) % 2 ^ 13 := by
  rw [startStream_on h]
  refine ⟨by rw [seqState_setPc, seqState_seqTo _ _ _ (by decide)], ?_⟩
  have hk : (F.TILE_SEQ_STATUS_PC t n).key ≠ (F.TILE_SEQ_STATUS_OPCODE t n).key := by
    simp only [Fld.key, F.TILE_SEQ_STATUS_PC, F.TILE_SEQ_STATUS_OPCODE, Dom.code]; omega
  rw [State.pc, State.setPc, State.g_set_ne _ _ _ _ hk, State.g_set_same]
  rfl

/-- Another stream's state and index stay. -/
theorem startStream_other {k m : Nat} (s : State) (hn : n < 2) (hm : m < 2) (h : k ≠ t ∨ m ≠ n) :
    (s.startStream t n).seqState k m = s.seqState k m ∧ (s.startStream t n).pc k m = s.pc k m :=
  ⟨g_startStream_ne s fun _ hx => startField_ne hm hn h (by simp [startFields]) hx,
    g_startStream_ne s fun _ hx => startField_ne hm hn h (by simp [startFields]) hx⟩

end

/-! All of them. -/

/-- Both streams of the first `k` tiles started. -/
def State.startFirst (s : State) (k : Nat) : State := (List.range k).foldl (fun s t => (s.startStream t 0).startStream t 1) s

theorem startTiles_eq (s : State) : s.startTiles = s.tilesReset.startFirst (s.plan.elim 0 fun p => p.tiles.length) := rfl

theorem startFirst_succ (s : State) (k : Nat) : s.startFirst (k + 1) = ((s.startFirst k).startStream k 0).startStream k 1 := by
  rw [State.startFirst, List.range_succ, List.foldl_append]
  rfl

theorem Starts.startFirst (s : State) : ∀ k, Starts s (s.startFirst k)
  | 0 => .refl s
  | k + 1 => by
    rw [startFirst_succ]
    exact ((Starts.startFirst s k).trans (.startStream _ k (by decide))).trans (.startStream _ k (by decide))

/-- A stream of a tile of which both streams start. -/
theorem startBoth_streams (r : State) (t : Nat) {n : Nat} (hn : n < 2) :
    (r.hasProgram t n = true → ((r.startStream t 0).startStream t 1).seqState t n = seqISSUING
      ∧ ((r.startStream t 0).startStream t 1).pc t n = (r.plan.elim 0 fun p => p.entry t n) % 2 ^ 13)
    ∧ (r.hasProgram t n = false → ((r.startStream t 0).startStream t 1).seqState t n = r.seqState t n) := by
  have h0 : Starts r (r.startStream t 0) := .startStream r t (by decide)
  have hne : (0 : Nat) ≠ 1 := by decide
  interval_cases n
  · obtain ⟨hstate, hpc⟩ := startStream_other (r.startStream t 0) (t := t) (k := t) (by decide : 1 < 2) (by decide : 0 < 2) (.inr hne)
    rw [hstate, hpc]
    exact ⟨startStream_issuing, fun h => by rw [startStream_off h]⟩
  · obtain ⟨hstate, -⟩ := startStream_other r (t := t) (k := t) (by decide : 0 < 2) (by decide : 1 < 2) (.inr hne.symm)
    rw [← h0.hasProgram, ← h0.plan, ← hstate]
    exact ⟨startStream_issuing, fun h => by rw [startStream_off h]⟩

/-- A stream of the first `k` tiles that has a program is ISSUING at its entry; the others are as they were. -/
theorem startFirst_streams (s : State) {t n : Nat} (hn : n < 2) : ∀ k,
    (t < k → s.hasProgram t n = true → (s.startFirst k).seqState t n = seqISSUING
      ∧ (s.startFirst k).pc t n = (s.plan.elim 0 fun p => p.entry t n) % 2 ^ 13)
    ∧ (k ≤ t ∨ s.hasProgram t n = false → (s.startFirst k).seqState t n = s.seqState t n)
  | 0 => ⟨fun h => absurd h (Nat.not_lt_zero t), fun _ => rfl⟩
  | k + 1 => by
    obtain ⟨hon, hoff⟩ := startFirst_streams (t := t) s hn k
    have hk := Starts.startFirst s k
    obtain ⟨r, hr⟩ : ∃ r, r = s.startFirst k := ⟨_, rfl⟩
    rw [startFirst_succ]
    rw [← hr] at hon hoff hk ⊢
    obtain ⟨hboth, hneither⟩ := startBoth_streams r k hn
    rw [hk.hasProgram, hk.plan] at hboth
    rw [hk.hasProgram] at hneither
    by_cases ht : t = k
    · rw [ht]
      rw [ht] at hoff
      refine ⟨fun _ => hboth, fun h => ?_⟩
      have hp : s.hasProgram k n = false := h.resolve_left (Nat.not_succ_le_self k)
      exact (hneither hp).trans (hoff (.inr hp))
    · obtain ⟨h1, h2⟩ := startStream_other (t := k) (n := 1) (r.startStream k 0) (by decide) hn (.inl ht)
      obtain ⟨h3, h4⟩ := startStream_other (t := k) (n := 0) r (by decide) hn (.inl ht)
      rw [h1, h2, h3, h4]
      exact ⟨fun h => hon (by omega), fun h => hoff (h.imp (by omega) id)⟩

end Sys2Proof.Machine
end

section
/-!
The opening of a step against which nothing is recorded (R119, R120, R240, R305): what its parts leave, and the obligation.
-/
namespace Sys2Proof.Machine

/-! Registers alone. -/

/-- From `s` to `u` only registers differ. -/
def OnlyFld (s u : State) : Prop := ∃ l, u = { s with fld := l }

section
variable {s r u : State}

theorem OnlyFld.refl (s : State) : OnlyFld s s := ⟨s.fld, rfl⟩

theorem OnlyFld.trans (h : OnlyFld s r) (k : OnlyFld r u) : OnlyFld s u := by
  obtain ⟨a, rfl⟩ := h
  obtain ⟨b, rfl⟩ := k
  exact ⟨b, rfl⟩

theorem OnlyFld.set (s : State) (f : Fld) (v : Nat) : OnlyFld s (s.set f v) := ⟨_, rfl⟩

theorem OnlyFld.setAll (l : List (Fld × Nat)) (s : State) : OnlyFld s (s.setAll l) := ⟨_, State.setAll_fld l s⟩

theorem OnlyFld.foldl {α : Type} {f : State → α → State} (h : ∀ s x, OnlyFld s (f s x)) :
    ∀ (l : List α) (s : State), OnlyFld s (l.foldl f s)
  | [], s => .refl s
  | x :: l, s => (h s x).trans (OnlyFld.foldl h l (f s x))

theorem OnlyFld.refreshJob (s : State) (j : Nat) : OnlyFld s (s.refreshJob j) := by
  unfold State.refreshJob
  split
  · exact .refl s
  · split
    · exact .refl s
    · exact .set s _ _

theorem OnlyFld.refreshJobs (s : State) : OnlyFld s s.refreshJobs := (OnlyFld.foldl OnlyFld.refreshJob s.jobs s).trans (.set _ _ _)

theorem OnlyFld.clearAttempt (s : State) : OnlyFld s.forgetAttempt s.clearAttempt := by
  rw [clearAttempt_eq]
  exact ((OnlyFld.setAll _ s.forgetAttempt).trans (.foldl (fun s j => .setAll _ s) s.jobs _)).trans (.refreshJobs _)

theorem OnlyFld.plan (h : OnlyFld s u) : u.plan = s.plan := by
  obtain ⟨l, rfl⟩ := h
  rfl

theorem OnlyFld.tile (h : OnlyFld s u) (t : Nat) : u.tile t = s.tile t := by
  obtain ⟨l, rfl⟩ := h
  rfl

theorem OnlyFld.stp (h : OnlyFld s u) : u.stp = s.stp := by
  obtain ⟨l, rfl⟩ := h
  rfl

theorem OnlyFld.mesh (h : OnlyFld s u) : u.mesh = s.mesh := by
  obtain ⟨l, rfl⟩ := h
  rfl

/-! Registers that the attempt's end and the jobs' states leave. -/

/-- A field apart from those of the attempt and of up to 4,096 jobs. -/
def OffAttempt (f : Fld) : Prop := f.lo < 64 ∧ f.off ∉ [0x10050, 0x60000, 0x70000] ∧ (f.off < 0x68000 ∨ 0x70000 ≤ f.off)

theorem misses_offAttempt : ∀ x ∈ attemptFields, Misses OffAttempt x := by
  have h : ∀ x ∈ attemptFields, x.lo < 64 ∧ x.off ∈ [0x10050, 0x60000, 0x70000] := by decide
  intro x hx f hfo
  obtain ⟨hf, hn, -⟩ := hfo
  exact Fld.key_ne_of_off hf (h x hx).1 fun e => hn (e ▸ (h x hx).2)

theorem misses_offAttempt_job {j : Nat} (hj : j < 4096) : ∀ x ∈ attemptJobFields j, Misses OffAttempt x := by
  intro x hx f hfo
  obtain ⟨hf, -, ho⟩ := hfo
  have hplace : x.lo < 64 ∧ x.off = 0x68000 + 0x8 * j := by
    simp only [attemptJobFields, List.mem_cons, List.not_mem_nil, or_false] at hx
    obtain rfl | rfl | rfl := hx <;> exact ⟨of_decide_eq_true rfl, rfl⟩
  exact Fld.key_ne_of_off hf hplace.1 (by rw [hplace.2]; omega)

theorem g_clearAttempt (h : s.ring.jobs.length ≤ 4096) {f : Fld} (hf : OffAttempt f) : s.clearAttempt.g f = s.g f :=
  (Spares.clearAttempt misses_offAttempt fun _ hj => misses_offAttempt_job (Nat.lt_of_lt_of_le (List.mem_range.1 hj) h)).regs f hf

theorem g_refreshJobs (h : s.ring.jobs.length ≤ 4096) {f : Fld} (hf : OffAttempt f) : s.refreshJobs.g f = s.g f :=
  (Spares.refreshJobs (fun j hj => misses_offAttempt_job (j := j) (Nat.lt_of_lt_of_le (List.mem_range.1 hj) h) _ (by simp [attemptJobFields]))
    (misses_offAttempt _ (by simp [attemptFields]))).regs f hf

theorem offAttempt_state (t n : Nat) : OffAttempt (F.TILE_SEQ_STATUS_STATE t n) := by
  refine ⟨of_decide_eq_true rfl, ?_, .inr ?_⟩ <;> simp only [F.TILE_SEQ_STATUS_STATE, List.mem_cons, List.not_mem_nil, or_false] <;> omega

theorem offAttempt_pc (t n : Nat) : OffAttempt (F.TILE_SEQ_STATUS_PC t n) := by
  refine ⟨of_decide_eq_true rfl, ?_, .inr ?_⟩ <;> simp only [F.TILE_SEQ_STATUS_PC, List.mem_cons, List.not_mem_nil, or_false] <;> omega

theorem offAttempt_event (t c : Nat) : OffAttempt (F.TILE_EVT_COUNT t c) := by
  refine ⟨of_decide_eq_true rfl, ?_, .inr ?_⟩ <;> simp only [F.TILE_EVT_COUNT, List.mem_cons, List.not_mem_nil, or_false] <;> omega

/-! The parts of an opening. -/

/-- The microbatch count latched, with the image of the boundary-latched fields that the step opens with. -/
def State.openLatched (s : State) : State :=
  { s with
    stp := { s.stp with mbCount := s.g F.STEP_MB_COUNT_COUNT, openWaiting := false }
    images := { s.images with opening := s.rwbImage, openingMb := s.g F.STEP_MB_COUNT_COUNT } }

theorem g_openLatched (s : State) (f : Fld) : s.openLatched.g f = s.g f := rfl
theorem tile_openLatched (s : State) (t : Nat) : s.openLatched.tile t = s.tile t := rfl
theorem mbCount_openLatched (s : State) : s.openLatched.stp.mbCount = s.g F.STEP_MB_COUNT_COUNT := rfl

/-- The watch of non-finite elements as another, or this, attempt has left it. -/
def State.withNum (s : State) (w : Watch) : State := { s with num := w }

theorem g_withNum (s : State) (w : Watch) (f : Fld) : (s.withNum w).g f = s.g f := rfl
theorem tile_withNum (s : State) (w : Watch) (t : Nat) : (s.withNum w).tile t = s.tile t := rfl

/-- STATE OPEN, and what belonged to an earlier attempt gone. -/
def State.openEntered (s : State) : State :=
  ((s.clearAttempt.withNum { s.num with trapped := false }).openLatched.set F.STEP_CTRL_OPEN 0).set F.STEP_STATUS_STATE stOPEN

/-- Late contributions that are due, and whether the step's digests are compared. -/
def State.digestsAwaited (s : State) : State :=
  let t : State := { s with upd := { s.upd with due := s.lateDue } }
  t.set F.UPD_STATUS_DIG_PENDING (bit (s.g F.STEP_NUMBER_NUMBER % max 1 t.ring.digestInterval == 0 && !t.ring.groups.isEmpty))

theorem openNow_eq (s : State) : s.openNow = s.openEntered.startTiles.digestsAwaited.openFaults.ingestOpen.countHeld.refreshJobs := by
  rw [State.openNow, State.digestsAwaited, State.openEntered, State.openLatched, State.withNum]

theorem openFaults_none (ha : s.g F.STEP_STATUS_ABORT_PENDING = 0) (hr : s.ringFault = none) (hh : s.red.haltDue = none)
    (hp : s.upd.poison = none) (hs : s.upd.spoiled = none) : s.openFaults = s := by
  have hon : s.on F.STEP_STATUS_ABORT_PENDING = false := by rw [State.on, ha]; rfl
  simp only [State.openFaults, hon, hr, hh, hp, hs, Bool.false_eq_true, if_false]

theorem ingestOpen_off (h : s.g F.ETH_ING_CTRL_EN = 0) : s.ingestOpen = s := by
  have hon : s.on F.ETH_ING_CTRL_EN = false := by rw [State.on, h]; rfl
  simp only [State.ingestOpen, hon, Bool.not_false, if_true]

theorem countHeld_nil (h : s.stp.held = []) : s.countHeld = s := by
  have hr : { s.stp with held := [] } = s.stp := by rw [← h]
  simp only [State.countHeld, h, List.filter_nil, List.map_nil, List.foldl_nil, hr]

/-- The fields on which the checks of R305 rest. -/
def ringFaultFields : List Fld :=
  [F.RED_COORD_VALID, F.RED_COORD_A, F.RED_COORD_B, ringStateF 0, ringStateF 1, ringPosF 0, ringSizeF 0, ringSizeF 1]

/-- They are apart from the tiles, from the attempt's registers and from those that an opening writes. -/
theorem ringFaultFields_place : ∀ f ∈ ringFaultFields,
    f.dom ≠ .tile ∧ OffAttempt f ∧ f.key ≠ F.STEP_CTRL_OPEN.key ∧ f.key ≠ F.STEP_STATUS_STATE.key := by
  unfold OffAttempt
  decide

/-- So are those of a pending abort and of ingest. -/
theorem openCheckFields_place :
    (F.STEP_STATUS_ABORT_PENDING.dom ≠ .tile ∧ OffAttempt F.STEP_STATUS_ABORT_PENDING
      ∧ F.STEP_STATUS_ABORT_PENDING.key ≠ F.STEP_CTRL_OPEN.key ∧ F.STEP_STATUS_ABORT_PENDING.key ≠ F.STEP_STATUS_STATE.key)
    ∧ F.ETH_ING_CTRL_EN.dom ≠ .tile ∧ OffAttempt F.ETH_ING_CTRL_EN
      ∧ F.ETH_ING_CTRL_EN.key ≠ F.STEP_CTRL_OPEN.key ∧ F.ETH_ING_CTRL_EN.key ≠ F.STEP_STATUS_STATE.key := by
  unfold OffAttempt
  decide

theorem ringFault_congr (hp : u.plan = s.plan) (h : ∀ f ∈ ringFaultFields, u.g f = s.g f) : u.ringFault = s.ringFault := by
  simp only [ringFaultFields, List.mem_cons, List.not_mem_nil, or_false, forall_eq_or_imp, forall_eq] at h
  obtain ⟨hv, ha, hb, hsa, hsb, hpa, hza, hzb⟩ := h
  have hring : u.ring = s.ring := by rw [State.ring, hp]; rfl
  have hsize (r : Nat) (hs : u.ringState r = s.ringState r) (hz : u.g (ringSizeF r) = s.g (ringSizeF r)) : u.ringSize r = s.ringSize r := by
    rw [State.ringSize, hs, hz]; rfl
  have h0 := hsize 0 hsa hza
  have h1 := hsize 1 hsb hzb
  change u.ringState 0 = s.ringState 0 at hsa
  change u.ringPos 0 = s.ringPos 0 at hpa
  unfold State.ringFault State.on
  rw [hring, hv, ha, hb, hsa, hpa, h0, h1]

/-! An opening up to the faults that it finds. -/

/-- An opening with its streams started, before it looks for what is recorded against the attempt. -/
def State.opened (s : State) : State := s.openEntered.startTiles.digestsAwaited

/-- From `s` to `u` the plan, memory, held frames and flits, and what is recorded against an attempt are as they were. -/
structure Opens (s u : State) : Prop where
  plan : u.plan = s.plan
  mem : u.mem = s.mem
  frames : u.stp.held = s.stp.held
  flits : u.red.held = s.red.held
  haltDue : u.red.haltDue = s.red.haltDue
  poison : u.upd.poison = s.upd.poison
  spoiled : u.upd.spoiled = s.upd.spoiled

theorem Opens.trans (h : Opens s r) (k : Opens r u) : Opens s u :=
  ⟨k.plan.trans h.plan, k.mem.trans h.mem, k.frames.trans h.frames, k.flits.trans h.flits, k.haltDue.trans h.haltDue,
    k.poison.trans h.poison, k.spoiled.trans h.spoiled⟩

theorem Opens.of_fld (h : OnlyFld s u) : Opens s u := by
  obtain ⟨l, rfl⟩ := h
  exact ⟨rfl, rfl, rfl, rfl, rfl, rfl, rfl⟩

theorem Opens.forgetAttempt (s : State) : Opens s s.forgetAttempt := ⟨rfl, rfl, rfl, rfl, rfl, rfl, rfl⟩
theorem Opens.withNum (s : State) (w : Watch) : Opens s (s.withNum w) := ⟨rfl, rfl, rfl, rfl, rfl, rfl, rfl⟩
theorem Opens.openLatched (s : State) : Opens s s.openLatched := ⟨rfl, rfl, rfl, rfl, rfl, rfl, rfl⟩

/-- What enters the step once the attempt before is forgotten. -/
theorem openEntered_only (s : State) :
    OnlyFld (s.clearAttempt.withNum { s.num with trapped := false }).openLatched s.openEntered := by
  rw [State.openEntered]
  exact (OnlyFld.set _ _ _).trans (.set _ _ _)

theorem Opens.openEntered (s : State) : Opens s s.openEntered :=
  ((((Opens.forgetAttempt s).trans (.of_fld (.clearAttempt s))).trans (.withNum _ _)).trans (.openLatched _)).trans (.of_fld (openEntered_only s))

theorem openEntered_tile (s : State) (t : Nat) : s.openEntered.tile t = s.tile t := by
  rw [(openEntered_only s).tile, tile_openLatched, tile_withNum, (OnlyFld.clearAttempt s).tile]
  rfl

theorem openEntered_mbCount (s : State) : s.openEntered.stp.mbCount = s.clearAttempt.g F.STEP_MB_COUNT_COUNT := by
  rw [(openEntered_only s).stp, mbCount_openLatched, g_withNum]

theorem startTiles_rest (s : State) : ∃ l t, s.startTiles = { s with fld := l, tiles := t, mesh := [] } := by
  obtain ⟨l, t, h⟩ := (Starts.startFirst s.tilesReset (s.plan.elim 0 fun p => p.tiles.length)).rest
  rw [startTiles_eq, h]
  exact ⟨l, t, rfl⟩

theorem digestsAwaited_rest (s : State) : ∃ l d, s.digestsAwaited = { s with fld := l, upd := { s.upd with due := d } } := by
  rw [State.digestsAwaited]
  exact ⟨_, _, rfl⟩

theorem Opens.startTiles (s : State) : Opens s s.startTiles := by
  obtain ⟨l, t, h⟩ := startTiles_rest s
  rw [h]
  exact ⟨rfl, rfl, rfl, rfl, rfl, rfl, rfl⟩

theorem Opens.digestsAwaited (s : State) : Opens s s.digestsAwaited := by
  obtain ⟨l, d, h⟩ := digestsAwaited_rest s
  rw [h]
  exact ⟨rfl, rfl, rfl, rfl, rfl, rfl, rfl⟩

theorem Opens.opened (s : State) : Opens s s.opened := ((Opens.openEntered s).trans (.startTiles _)).trans (.digestsAwaited _)

theorem opened_mesh (s : State) : s.opened.mesh = [] := by
  obtain ⟨l, d, h⟩ := digestsAwaited_rest s.openEntered.startTiles
  obtain ⟨m, t, h'⟩ := startTiles_rest s.openEntered
  rw [State.opened, h, h']

theorem opened_mbCount (s : State) : s.opened.stp.mbCount = s.clearAttempt.g F.STEP_MB_COUNT_COUNT := by
  obtain ⟨l, d, h⟩ := digestsAwaited_rest s.openEntered.startTiles
  obtain ⟨m, t, h'⟩ := startTiles_rest s.openEntered
  rw [← openEntered_mbCount, State.opened, h, h']

theorem g_openEntered (h : s.ring.jobs.length ≤ 4096) {f : Fld} (hf : OffAttempt f) (ho : f.key ≠ F.STEP_CTRL_OPEN.key)
    (hs : f.key ≠ F.STEP_STATUS_STATE.key) : s.openEntered.g f = s.g f := by
  rw [State.openEntered, State.g_set_ne _ _ _ _ hs, State.g_set_ne _ _ _ _ ho, g_openLatched, g_withNum, g_clearAttempt h hf]

theorem openEntered_open (s : State) : s.openEntered.stepState = stOPEN ∧ s.openEntered.g F.STEP_CTRL_OPEN = 0 := by
  have hk : F.STEP_CTRL_OPEN.key ≠ F.STEP_STATUS_STATE.key := by decide
  refine ⟨?_, ?_⟩
  · rw [State.stepState, State.openEntered, State.g_set_same]
    rfl
  · rw [State.openEntered, State.g_set_ne _ _ _ _ hk, State.g_set_same]
    rfl

theorem g_digestsAwaited (s : State) {f : Fld} (hf : OffAttempt f) : s.digestsAwaited.g f = s.g f := by
  rw [State.digestsAwaited, State.g_set_ne _ _ _ _ (misses_offAttempt _ (by simp [attemptFields]) f hf)]
  rfl

/-- An opening leaves the registers outside the tiles as it has entered the step. -/
theorem g_opened (s : State) {f : Fld} (hd : f.dom ≠ .tile) (hf : OffAttempt f) : s.opened.g f = s.openEntered.g f := by
  rw [State.opened, g_digestsAwaited _ hf, startTiles_eq, (Starts.startFirst _ _).regs f (offStart_of_dom hd),
    g_tilesReset_kept (openingKey_of_dom hd)]

theorem g_opened_kept (h : s.ring.jobs.length ≤ 4096) {f : Fld} (hd : f.dom ≠ .tile) (hf : OffAttempt f) (ho : f.key ≠ F.STEP_CTRL_OPEN.key)
    (hs : f.key ≠ F.STEP_STATUS_STATE.key) : s.opened.g f = s.g f := (g_opened s hd hf).trans (g_openEntered h hf ho hs)

theorem opened_tile (s : State) (t : Nat) : (s.opened.tile t).sram = (s.tile t).sram ∧ (s.opened.tile t).flights = []
    ∧ ∀ n, (s.opened.stream t n).x = [] ∧ (s.opened.stream t n).k = [] := by
  obtain ⟨l, d, hd⟩ := digestsAwaited_rest s.openEntered.startTiles
  have hs := Starts.startFirst s.openEntered.tilesReset (s.openEntered.plan.elim 0 fun p => p.tiles.length)
  rw [← startTiles_eq] at hs
  have htile : s.opened.tile t = s.openEntered.startTiles.tile t := by rw [State.opened, hd]; rfl
  have hentered : s.openEntered.tile t = s.tile t := openEntered_tile s t
  have hreset : s.openEntered.tilesReset.tile t = (s.tile t).opened := by rw [tile_tilesReset, hentered]
  have hstream (n : Nat) : s.openEntered.tilesReset.stream t n = Stream.init := by
    rw [State.stream, hreset, Tile.stream]
    split <;> rfl
  refine ⟨?_, ?_, fun n => ?_⟩
  · rw [htile, hs.sram, hreset]
    rfl
  · rw [htile, hs.flights, hreset]
    rfl
  · have hopened : s.opened.stream t n = s.openEntered.startTiles.stream t n := by rw [State.stream, htile]; rfl
    have hwords := hs.words t n
    rw [hstream] at hwords
    rw [hopened]
    exact hwords

theorem opened_event (s : State) {t c : Nat} (ht : t < 256) (hc : c < 16) : s.opened.g (F.TILE_EVT_COUNT t c) = 0 := by
  rw [State.opened, g_digestsAwaited _ (offAttempt_event t c), startTiles_eq, (Starts.startFirst _ _).regs _ (offStart_event t c hc),
    g_tilesReset_cleared (openingKey_event ht hc)]
  rfl

theorem startTiles_streams {p : Plan} (hp : s.plan = some p) {t n : Nat} (ht : t < 256) (hn : n < 2) :
    (t < p.tiles.length → s.hasProgram t n = true → s.startTiles.seqState t n = seqISSUING ∧ s.startTiles.pc t n = p.entry t n % 2 ^ 13)
    ∧ (s.hasProgram t n = false → s.startTiles.seqState t n = seqIDLE) := by
  have hreset : s.tilesReset.plan = some p := hp
  have hhas : s.tilesReset.hasProgram t n = s.hasProgram t n := by rw [State.hasProgram, State.hasProgram, hreset, hp]
  have hidle : s.tilesReset.seqState t n = seqIDLE := g_tilesReset_cleared (openingKey_state ht hn) s
  obtain ⟨hon, hoff⟩ := startFirst_streams (t := t) s.tilesReset hn p.tiles.length
  rw [hhas, hreset] at hon
  rw [hhas, hidle] at hoff
  rw [startTiles_eq, hp]
  exact ⟨hon, fun h => hoff (.inr h)⟩

theorem opened_streams {p : Plan} (hp : s.plan = some p) {t n : Nat} (ht : t < 256) (hn : n < 2) :
    (t < p.tiles.length → s.hasProgram t n = true → s.opened.seqState t n = seqISSUING ∧ s.opened.pc t n = p.entry t n % 2 ^ 13)
    ∧ (s.hasProgram t n = false → s.opened.seqState t n = seqIDLE) := by
  have hplan : s.openEntered.plan = some p := (Opens.openEntered s).plan.trans hp
  have hhas : s.openEntered.hasProgram t n = s.hasProgram t n := by rw [State.hasProgram, State.hasProgram, hplan, hp]
  have hstate : s.opened.seqState t n = s.openEntered.startTiles.seqState t n := by
    rw [State.seqState, State.opened, g_digestsAwaited _ (offAttempt_state t n)]
    rfl
  have hpc : s.opened.pc t n = s.openEntered.startTiles.pc t n := by
    rw [State.pc, State.opened, g_digestsAwaited _ (offAttempt_pc t n)]
    rfl
  rw [hstate, hpc, ← hhas]
  exact startTiles_streams hplan ht hn

/-- An opening against which nothing is recorded is over once the jobs' states are up to date. -/
theorem openStep_eq (hj : s.ring.jobs.length ≤ 4096) (ha : s.g F.STEP_STATUS_ABORT_PENDING = 0) (hr : s.ringFault = none)
    (hd : s.red.haltDue = none) (hp : s.upd.poison = none) (hs : s.upd.spoiled = none) (hi : s.g F.ETH_ING_CTRL_EN = 0)
    (hh : s.stp.held = []) (hred : s.red.held = []) : s.openStep = s.opened.refreshJobs := by
  have ho := Opens.opened s
  have hg (f : Fld) (hf : f.dom ≠ .tile ∧ OffAttempt f ∧ f.key ≠ F.STEP_CTRL_OPEN.key ∧ f.key ≠ F.STEP_STATUS_STATE.key) :
      s.opened.g f = s.g f := by
    obtain ⟨hdom, hoff, hopen, hstate⟩ := hf
    exact g_opened_kept hj hdom hoff hopen hstate
  have hring : s.opened.ringFault = none := (ringFault_congr ho.plan fun f hf => hg f (ringFaultFields_place f hf)).trans hr
  have hfaults : s.opened.openFaults = s.opened := openFaults_none ((hg _ openCheckFields_place.1).trans ha) hring (ho.haltDue.trans hd)
    (ho.poison.trans hp) (ho.spoiled.trans hs)
  have hingest : s.opened.ingestOpen = s.opened := ingestOpen_off ((hg _ openCheckFields_place.2).trans hi)
  have hcount : s.opened.countHeld = s.opened := countHeld_nil (ho.frames.trans hh)
  rw [State.openStep, openNow_eq, ← State.opened, hfaults, hingest, hcount]
  exact retryHeld_nil ((Opens.of_fld (.refreshJobs s.opened)).flits.trans (ho.flits.trans hred)) _

end
end Sys2Proof.Machine

namespace Sys2Proof

open Machine

/-- Settles O19: the parts of an opening one by one; what it looks at for faults reads as before it, so it finds none. -/
theorem openingStartsTheStreams : Obligations.OpeningStartsTheStreams := by
  intro s p u hplan ha hr hd hpo hs hi hh hred hjobs
  have hj : s.ring.jobs.length ≤ 4096 := by
    rw [State.ring, hplan]
    exact hjobs
  have hu : u = s.opened.refreshJobs := openStep_eq hj ha hr hd hpo hs hi hh hred
  have ho := Opens.opened s
  have hlast := OnlyFld.refreshJobs s.opened
  have hring : s.opened.ring.jobs.length ≤ 4096 := by
    rw [State.ring, ho.plan, hplan]
    exact hjobs
  have hg {f : Fld} (hf : OffAttempt f) : u.g f = s.opened.g f := by rw [hu, g_refreshJobs hring hf]
  have htile (t : Nat) : u.tile t = s.opened.tile t := by rw [hu, hlast.tile]
  have hoff : OffAttempt F.STEP_STATUS_STATE ∧ OffAttempt F.STEP_CTRL_OPEN ∧ OffAttempt F.STEP_NUMBER_NUMBER
      ∧ OffAttempt F.STEP_MB_COUNT_COUNT := by
    unfold OffAttempt
    decide
  obtain ⟨hstate, hopen⟩ := openEntered_open s
  obtain ⟨hos, hoo, hon, hom⟩ := hoff
  refine ⟨?_, ?_, ?_, ?_, ?_, ?_, fun t ht => ?_⟩
  · exact (hg hos).trans ((g_opened s (by decide) hos).trans hstate)
  · rw [hu, hlast.stp]
    exact (opened_mbCount s).trans (g_clearAttempt hj hom)
  · exact (hg hoo).trans ((g_opened s (by decide) hoo).trans hopen)
  · exact (hg hon).trans (g_opened_kept hj (by decide) hon (by decide) (by decide))
  · rw [hu, hlast.mesh, opened_mesh]
  · rw [hu]
    exact sameMem_of_eq ((Opens.of_fld hlast).mem.trans ho.mem)
  · obtain ⟨hsram, hflights, hstreams⟩ := opened_tile s t
    refine ⟨fun x => ?_, ?_, fun c hc => (hg (offAttempt_event t c)).trans (opened_event s ht hc), fun n hn => ⟨fun i => ?_, ?_, ?_⟩⟩
    · rw [sramByte, htile, hsram]
      rfl
    · rw [htile, hflights]
    · obtain ⟨hx, hk⟩ := hstreams n
      have hstream : u.stream t n = s.opened.stream t n := by rw [State.stream, htile]; rfl
      rw [hstream, Stream.xr, Stream.kr, hx, hk, Sparse.get_nil, ite_self]
      exact ⟨rfl, rfl⟩
    · have hs : u.seqState t n = s.opened.seqState t n := hg (offAttempt_state t n)
      have hc : u.pc t n = s.opened.pc t n := hg (offAttempt_pc t n)
      rw [hs, hc]
      exact (opened_streams hplan ht hn).1
    · have hs : u.seqState t n = s.opened.seqState t n := hg (offAttempt_state t n)
      rw [hs]
      exact (opened_streams hplan ht hn).2

end Sys2Proof
end

section
/-!
Memory stays canonical (O58): the canonical form of bonded memory is kept by every function of the model that yields a state, one lemma a
function, in the order of the model's files. A lemma follows the branches of its function, `.ite` where it tests a condition, and cites the
lemmas of the functions it calls; what does not touch memory is `.of_mem`.
-/

namespace Sys2Proof
open Machine

/-- Whatever state a verdict carries on is sound. -/
def VerdictSound : Verdict → Prop
  | .done s | .jump s _ | .flies s _ | .broke s _ => Sound s
  | .fault _ | .wait _ => True

/-- A gate that stops an instruction stops it with a sound verdict. -/
def GateSound : Option Verdict → Prop
  | some v => VerdictSound v
  | none => True

/-- Whatever state a command answers is sound. -/
def AnswerSound : Res → Prop
  | .next s => Sound s
  | _ => True

section
variable {s t : State} {α β : Type}

theorem Sound.ite {c : Prop} [Decidable c] (h : Sound s) (k : Sound t) : Sound (if c then s else t) := by split; exacts [h, k]
theorem VerdictSound.ite {c : Prop} [Decidable c] {v w : Verdict} (h : VerdictSound v) (k : VerdictSound w) :
    VerdictSound (if c then v else w) := by split; exacts [h, k]
theorem AnswerSound.ite {c : Prop} [Decidable c] {v w : Res} (h : AnswerSound v) (k : AnswerSound w) :
    AnswerSound (if c then v else w) := by split; exacts [h, k]
theorem GateSound.ite {c : Prop} [Decidable c] {v w : Option Verdict} (h : GateSound v) (k : GateSound w) :
    GateSound (if c then v else w) := by split; exacts [h, k]
theorem VerdictSound.of_some {g : Option Verdict} {v : Verdict} (e : g = some v) (h : GateSound g) : VerdictSound v := by rwa [e] at h
theorem GateSound.orElse {v w : Option Verdict} (h : GateSound v) (k : GateSound w) : GateSound (v <|> w) := by
  cases v; exacts [k, h]
theorem GateSound.findSome {f : α → Option Verdict} {l : List α} (hf : ∀ {x}, GateSound (f x)) : GateSound (l.findSome? f) := by
  induction l with
  | nil => exact trivial
  | cons x l ih =>
    rw [List.findSome?]
    split
    · next e => exact .of_some e hf
    · exact ih
theorem Sound.foldl {f : State → α → State} {l : List α} (h : Sound s) (hf : ∀ {t x}, Sound t → Sound (f t x)) : Sound (l.foldl f s) := by
  induction l generalizing s with
  | nil => exact h
  | cons x l ih => exact ih (hf h)
theorem Sound.foldl_fst {f : State × β → α → State × β} {l : List α} {r : State × β} (h : Sound r.1)
    (hf : ∀ {r x}, Sound r.1 → Sound (f r x).1) : Sound (l.foldl f r).1 := by
  induction l generalizing r with
  | nil => exact h
  | cons x l ih => exact ih (hf h)
theorem Sound.elim {f : α → State} {o : Option α} (h : Sound s) (hf : ∀ {x}, Sound (f x)) : Sound (o.elim s f) := by
  cases o; exacts [h, hf]
theorem Sound.of_fst {r : State × β} {x : β} (e : r = (t, x)) (h : Sound r.1) : Sound t := by rwa [e] at h
theorem Sound.of_cells (h : Sound s) (e : t.mem.cells = s.mem.cells) : Sound t := by rwa [Sound, Memory.wf, e]
theorem Sound.of_mem (h : Sound s) (e : t.mem = s.mem) : Sound t := by rwa [Sound, e]

/-! Sys2Proof/Machine/Ops.lean -/

theorem Sound.set {f : Fld} {v : Nat} (h : Sound s) : Sound (s.set f v) := .of_mem h rfl
theorem Sound.addTo {f : Fld} {n : Nat} (h : Sound s) : Sound (s.addTo f n) := h.set
theorem Sound.inc {f : Fld} (h : Sound s) : Sound (s.inc f) := h.addTo
theorem Sound.setBit {f : Fld} {i : Nat} {b : Bool} (h : Sound s) : Sound (s.setBit f i b) := h.set
theorem Sound.setAll {l : List (Fld × Nat)} (h : Sound s) : Sound (s.setAll l) := .of_mem h (by rw [State.setAll_fld])
theorem Sound.emit {o : Out} (h : Sound s) : Sound (s.emit o) := .of_mem h rfl
theorem Sound.emitAll {l : List Out} (h : Sound s) : Sound (s.emitAll l) := .of_mem h rfl
theorem Sound.toHost {l : List Out} (h : Sound s) : Sound (s.toHost l) := .ite h.emitAll (.of_mem h rfl)
theorem Sound.readHost {addr len : Nat} (h : Sound s) : Sound (s.readHost addr len) := h.toHost
theorem Sound.snoop {l : List (Nat × Bool)} (h : Sound s) : Sound (State.snoop l s) := by
  induction l generalizing s with
  | nil => exact h
  | cons e l ih => exact .ite (ih h) (ih (.toHost (.of_mem h rfl)))
theorem Sound.orWait (h : Sound s) (ht : Sound t) : Sound (s.orWait t) := .ite h (.ite ht.snoop (.of_mem (s := t) ht rfl))
theorem Sound.within {f : State → State} (h : Sound s) (hk : ∀ {t}, Sound t → Sound (f t)) : Sound (s.within f) := by
  have h1 : Sound (f { s with waits := s.waits ++ [[]] }) := hk (.of_mem h rfl)
  exact .ite (.of_mem h1 rfl) h1
theorem Sound.doIf {c : Bool} {k : State → State} (h : Sound s) (hk : ∀ {t}, Sound t → Sound (k t)) : AnswerSound (doIf c s k) :=
  Sound.ite (.orWait (hk h) h) h
theorem Sound.message {v : Nat} (h : Sound s) : Sound (s.message v) := .ite (.of_mem h rfl) h.toHost
theorem Sound.raise {v : Nat} (h : Sound s) : Sound (s.raise v) := .ite h h.setBit.message
theorem Sound.report {code unit detail : Nat} (h : Sound s) : Sound (s.report code unit detail) := .ite h.inc (.of_mem h rfl)
theorem Sound.countCtr {event inst n k : Nat} (h : Sound s) : Sound (countCtr event inst n k s) := by
  induction k with
  | zero => exact h
  | succ k ih => exact .ite ih.addTo ih
theorem Sound.countCmd {event inst n : Nat} {busy : Nat → Bool} {k : Nat} (h : Sound s) : Sound (countCmd event inst n busy k s) := by
  induction k with
  | zero => exact h
  | succ k ih => exact .ite ih.addTo ih
theorem Sound.count {event inst n : Nat} (h : Sound s) : Sound (s.count event inst n) := .ite h (.countCmd (.ite h.countCtr h))
theorem Sound.setTile {i : Nat} {f : Tile → Tile} (h : Sound s) : Sound (s.setTile i f) := .of_mem h rfl
theorem Sound.setTilePower {i p : Nat} (h : Sound s) : Sound (s.setTilePower i p) := h.set
theorem Sound.rouse {i : Nat} (h : Sound s) : Sound (s.rouse i) := .ite h.setTilePower h
theorem Sound.logMem {kind req a symbol : Nat} (h : Sound s) : Sound (s.logMem kind req a symbol) := .ite h.set h.setAll
theorem Sound.uncorrectable {req a : Nat} (h : Sound s) : Sound (s.uncorrectable req a) := h.inc.logMem.report
theorem Sound.access {r : MemReq} (h : Sound s) : Sound (s.access r) := .ite (.of_mem h rfl) h
theorem Sound.corrected {req a symbol : Nat} (h : Sound s) : Sound (s.corrected req a symbol) :=
  .ite (.report (.of_mem h.inc.count.logMem rfl)) (.of_mem h.inc.count.logMem rfl)
theorem Sound.correctAll {req a n : Nat} (h : Sound s) : Sound (s.correctAll req a n) := .foldl h (fun h => h.corrected)
theorem Sound.readOut {req a n : Nat} (h : Sound s) : Sound (s.readOut req a n).1 := by
  unfold State.readOut
  split
  exacts [h.correctAll.uncorrectable, h.correctAll]
theorem Sound.mergeWrite {r : MemReq} {d : List Byte} {m : List Bool} (h : Sound s) : Sound (s.mergeWrite r d m).1 := by
  unfold State.mergeWrite
  dsimp only
  split
  · exact h.inc.logMem.report
  · exact Memory.wf_write _ _ _ h.correctAll
theorem Sound.dropFixes {a n : Nat} (h : Sound s) : Sound (s.dropFixes a n) := .of_mem h rfl
theorem Sound.readRow {req a n : Nat} (h : Sound s) : Sound (s.readRow req a n).1 := by
  unfold State.readRow
  dsimp only
  split
  exacts [h.report, h.access.readOut]
theorem Sound.writeRow {req a : Nat} {l : List Byte} (h : Sound s) : Sound (s.writeRow req a l).1 := s.writeRow_wf req a l h
theorem Sound.mergeRow {req a : Nat} {d : List Byte} {m : List Bool} (h : Sound s) : Sound (s.mergeRow req a d m).1 := by
  unfold State.mergeRow
  dsimp only
  split
  exacts [h.writeRow, (by split; exacts [h.report, h.access.dropFixes.mergeWrite])]
theorem Sound.readPieces {req : Nat} {l : List (Nat × Nat)} (h : Sound s) : Sound (readPieces req l s).1 := by
  induction l generalizing s with
  | nil => exact h
  | cons p l ih =>
    rw [Machine.readPieces]
    split
    · next e => exact .of_fst e h.readRow
    · next e => exact ih (.of_fst e h.readRow)
theorem Sound.readMem {req a n : Nat} (h : Sound s) : Sound (s.readMem req a n).1 := h.readPieces
theorem Sound.writePieces {req : Nat} {l : List (Nat × Nat)} {b : List Byte} (h : Sound s) : Sound (writePieces req l b s).1 :=
  writePieces_wf req l b s h
theorem Sound.writeMem {req a : Nat} {l : List Byte} (h : Sound s) : Sound (s.writeMem req a l).1 := h.writePieces

/-! Sys2Proof/Machine/RingOps.lean -/

theorem Sound.setPort {p : Nat} {f : Port → Port} (h : Sound s) : Sound (s.setPort p f) := .of_mem h rfl
theorem Sound.shine {p : Nat} {b : List Byte} (h : Sound s) : Sound (s.shine p b) := h.setPort.emit
theorem Sound.sendItem {p q : Nat} {i : PortItem} (h : Sound s) : Sound (s.sendItem p q i) := h.emit.shine
theorem Sound.launchItem {p : Nat} {i : PortItem} (h : Sound s) : Sound (s.launchItem p i) :=
  .ite h.setPort.sendItem.count h.setPort.sendItem
theorem Sound.portSend {p : Nat} {i : PortItem} (h : Sound s) : Sound (s.portSend p i) := .ite h.launchItem h.setPort
theorem Sound.portPass {p : Nat} {f : Flit} (h : Sound s) : Sound (s.portPass p f) := .ite h.launchItem h.setPort
theorem Sound.pumpOne {p : Nat} (h : Sound s) (e : s.pumpOne p = some t) : Sound t := by
  have sent (i : PortItem) {f : Port → Port} (e : some ((s.setPort p f).launchItem p i) = some t) : Sound t :=
    Option.some.inj e ▸ h.setPort.launchItem
  simp only [State.pumpOne] at e
  split at e
  · exact sent _ e
  · exact sent _ e
  · exact sent _ e
  · contradiction
theorem Sound.pumpItems {p n : Nat} (h : Sound s) : Sound (pumpItems p n s) := by
  induction n generalizing s with
  | zero => exact h
  | succ n ih =>
    rw [Machine.pumpItems]
    cases e : s.pumpOne p with
    | none => exact h
    | some t => exact ih (h.pumpOne e)
theorem Sound.pump {p : Nat} (h : Sound s) : Sound (s.pump p) := h.pumpItems
theorem Sound.sendFlit {ring dir : Nat} {f : Flit} (h : Sound s) : Sound (s.sendFlit ring dir f) := .ite h.portSend h
theorem Sound.passFlit {ring dir : Nat} {f : Flit} (h : Sound s) : Sound (s.passFlit ring dir f) := .ite h.portPass h
theorem Sound.sendControl {p : Nat} {nak : Bool} {laneOp laneMap mapAt : Nat} (h : Sound s) : Sound (s.sendControl p nak laneOp laneMap
    mapAt) :=
  h.setPort.emit.shine
theorem Sound.noteLine {p : Nat} {rx : LineRx} (h : Sound s) : Sound (s.noteLine p rx) := h.setPort.addTo.addTo
theorem Sound.nak {p : Nat} (h : Sound s) : Sound (s.nak p) := h.setPort.inc.sendControl
theorem Sound.arrive {p seq : Nat} (h : Sound s) : Sound (s.arrive p seq).1 := by
  unfold State.arrive
  dsimp only
  split
  exacts [.ite h.setPort.sendControl h.setPort, (by split; exacts [h, h.nak])]
theorem Sound.holdCredit {p c : Nat} (h : Sound s) : Sound (s.holdCredit p c) := h.setPort
theorem Sound.freeCredit {p c : Nat} (h : Sound s) : Sound (s.freeCredit p c) := h.setPort
theorem Sound.freeFrame {p : Nat} (h : Sound s) : Sound (s.freeFrame p) := h.setPort
theorem Sound.discard {p : Nat} (h : Sound s) : Sound (s.discard p) := h.inc
theorem Sound.keepFrozen {p : Nat} {back : Bool} {i : PortItem} (h : Sound s) : Sound (s.keepFrozen p back i) := .inc (.of_mem h rfl)
theorem Sound.setRingCtl {ring : Nat} {f : RingCtl → RingCtl} (h : Sound s) : Sound (s.setRingCtl ring f) :=
  .ite (.of_mem h rfl) (.of_mem h rfl)
theorem Sound.sendOn {ring : Nat} {f : StepFrame} (h : Sound s) : Sound (s.sendOn ring f) := .ite h.portSend.portSend h
theorem Sound.sendBoth {ring : Nat} {f : StepFrame} (h : Sound s) : Sound (s.sendBoth ring f) := .ite h.sendOn.sendOn h.sendOn
theorem Sound.sendAll {f : StepFrame} (h : Sound s) : Sound (s.sendAll f) := .ite h h.sendBoth
theorem Sound.sendFail {cause detail : Nat} (h : Sound s) : Sound (s.sendFail cause detail) :=
  .ite h (.ite (.of_mem h.set.sendAll rfl) h.set.sendAll)
theorem Sound.recordFail {cause detail : Nat} (h : Sound s) : Sound (s.recordFail cause detail) :=
  .ite h.set (.ite h (.ite (.sendFail (.of_mem h rfl)) (.of_mem h rfl)))

/-! Sys2Proof/Machine/Flags.lean -/

theorem Sound.latch {valid overflow : Fld} {rec : List (Fld × Nat)} (h : Sound s) : Sound (s.latch valid overflow rec) :=
  .ite h.set h.set.setAll
theorem Sound.logDbg {code : Nat} (h : Sound s) : Sound (s.logDbg code) := h.latch.report.raise
theorem Sound.failTile {i : Nat} (h : Sound s) : Sound (s.failTile i) := h.setBit.recordFail
theorem Sound.tally {layer oper : Nat} {i : List Tally} (h : Sound s) : Sound (s.tally layer oper i) := .of_mem h rfl
theorem Sound.trap {i : Trap} (h : Sound s) : Sound (s.trap i) :=
  .ite h (.recordFail (.ite (.raise (.latch (.of_mem h rfl))) (.latch (.of_mem h rfl))))
theorem Sound.counted {layer oper : Nat} {tl : List Tally} {tr : Option Trap} (h : Sound s) : Sound (s.counted layer oper tl tr) := by
  unfold State.counted
  dsimp only
  split
  exacts [h.tally.trap, h.tally]
theorem Sound.logEntry {e : LogEntry} (h : Sound s) : Sound (s.logEntry e) :=
  .ite h (.ite (.ite h.set (.logDbg (.of_mem h rfl))) (.ite (.of_mem h rfl) (.of_mem h rfl)))
theorem Sound.traceRec {kind inst value : Nat} (h : Sound s) : Sound (s.traceRec kind inst value) := .ite (.of_mem h rfl) h

/-! Sys2Proof/Machine/FarOps.lean -/

theorem Sound.claim {res inst owner arg : Nat} (h : Sound s) : Sound (s.claim res inst owner arg).1 := by
  unfold State.claim
  split
  exacts [h, .of_mem h rfl]
theorem Sound.unclaim {res inst owner : Nat} (h : Sound s) : Sound (s.unclaim res inst owner) := .of_mem h rfl
theorem Sound.setFar {f : FarCache → FarCache} (h : Sound s) : Sound (s.setFar f) := .of_mem h rfl
/-- A read of a far-cache line leaves what the read of its row leaves. The row's read is named before the two are compared: its place is too
large a number to be computed. -/
theorem farGet_fst {s r : State} {e : FarLine} {d : Except Nat (List Byte)} (h : s.farGet e = (r, d)) :
    (s.readRow rqFAR e.place 1).1 = r := by
  obtain ⟨x, hx⟩ : ∃ x, x = s.readRow rqFAR e.place 1 := ⟨_, rfl⟩
  obtain ⟨k, hk⟩ : ∃ k, k = State.farGet := ⟨_, rfl⟩
  rw [← hk] at h
  delta State.farGet at hk
  rw [hk] at h
  beta_reduce at h
  rw [← hx] at h ⊢
  rcases x with ⟨q, c | l⟩
  · exact congrArg Prod.fst h
  · exact congrArg Prod.fst h

theorem Sound.farGet {e : FarLine} (h : Sound s) : Sound (s.farGet e).1 := by
  generalize hr : s.farGet e = r
  exact farGet_fst (hr.trans (Prod.eta r).symm) ▸ h.readRow
theorem Sound.farTouch {part line : Nat} (h : Sound s) : Sound (s.farTouch part line) := by
  unfold State.farTouch
  split
  exacts [.ite h.setFar.inc.inc h.setFar, .ite h.setFar.inc.inc h]
theorem Sound.farFill {unit : FarUser} {part : Nat} {cached : Bool} {line : Nat} {pf : Bool} (h : Sound s) : Sound (s.farFill unit part
    cached line pf) :=
  .ite h.setFar h.setFar.toHost
theorem Sound.cacheWrite {w : FarWrite} {data : List Byte} (h : Sound s) : Sound (s.cacheWrite w data) := h.setFar.toHost
theorem Sound.writeBack {e : FarLine} (h : Sound s) : Sound (s.writeBack e) := h.cacheWrite
theorem Sound.farInstall {part line : Nat} {data : List Byte} {dirty pf : Bool} (h : Sound s) :
    Sound (s.farInstall part line data dirty pf) := by
  unfold State.farInstall
  extract_lets same old s1 used
  have h1 : Sound s1 := h.setFar
  split
  next e =>
    extract_lets x
    refine Sound.setFar (.writeRow (.of_fst e ?_))
    split
    · exact h1
    · exact h1
    · split
      · exact h1
      · exact .ite (.writeBack (.ite h1.setFar.inc h1.setFar)) (.ite h1.setFar.inc h1.setFar)
theorem Sound.farRead {u : FarUser} {line : Nat} (h : Sound s) : Sound (s.farRead u line).1 := by
  generalize e : s.farRead u line = r
  rcases farRead_cases (e.trans (Prod.eta r).symm) with e | e | ⟨p, e | ⟨x, y, e, -⟩⟩
  · rwa [e]
  · rw [e]
    exact h.farFill
  · rw [e]
    exact h.farTouch.count.farFill
  · exact .of_fst e h.farTouch.count.farGet
theorem Sound.farOwn {part : Option Nat} {line : Nat} (h : Sound s) : Sound (s.farOwn part line) := h.setFar
theorem Sound.farWrite {unit : FarUser} {flight : Option (Nat × Nat)} {line : Nat} {data : List Byte} (h : Sound s) : Sound (s.farWrite
    unit flight line data) := by
  unfold State.farWrite
  dsimp only
  split
  exacts [h.farOwn.cacheWrite, .farInstall (.farTouch (.ite h.farOwn.count h.farOwn.count))]
theorem Sound.dropLoose (h : Sound s) : Sound s.dropLoose := h.setFar
theorem Sound.logHif {code queue cid : Nat} (h : Sound s) : Sound (s.logHif code queue cid) := h.latch.report.raise
theorem Sound.logEth {code qp port : Nat} (h : Sound s) : Sound (s.logEth code qp port) := h.latch.report.raise
theorem Sound.sendNvme {l : List NvmeOp} (h : Sound s) : Sound (State.sendNvme l s) := by
  induction l generalizing s with
  | nil => exact h
  | cons o l ih =>
    rw [State.sendNvme]
    split
    · exact ih h
    · exact ih (.emit (.of_mem h rfl))
theorem Sound.pumpNvme (h : Sound s) : Sound s.pumpNvme := h.sendNvme
theorem Sound.issueNvme {user ctrl : Nat} {write : Bool} {lba blocks : Nat} {bytes : List Byte} (h : Sound s) : Sound (s.issueNvme user
    ctrl write lba blocks bytes) :=
  .sendNvme (.of_mem h rfl)
theorem Sound.farPrefetch {unit : FarUser} {line : Nat} (h : Sound s) : Sound (s.farPrefetch unit line) := by
  unfold State.farPrefetch
  split
  exacts [h, .ite h h.farFill.inc]

/-! Sys2Proof/Machine/ShardOps.lean -/

theorem Sound.unitRead {unit : Nat} {p : Place} {len : Nat} (h : Sound s) : Sound (s.unitRead unit p len).1 := by
  unfold State.unitRead
  split
  · exact h.logHif
  · split
    · refine .foldl_fst h (fun h => ?_)
      split
      next e => exact .of_fst e h.farRead
      next e => exact .of_fst e h.farRead
      next e => exact .of_fst e h.farRead
    · exact h.readPieces
theorem Sound.unitWrite {unit : Nat} {p : Place} {l : List Byte} (h : Sound s) : Sound (s.unitWrite unit p l).1 := by
  unfold State.unitWrite
  split
  exacts [h.logHif, (by split; exacts [.foldl h (fun h => h.farWrite), h.writeMem])]
theorem Sound.writePartFrom {req part k n : Nat} {l : List Byte} (h : Sound s) : Sound (writePartFrom req part k n l s).1 := by
  induction n generalizing k l s with
  | zero => exact h
  | succ n ih =>
    rw [Machine.writePartFrom]
    split
    · exact h
    · split
      · next e => exact ih (.of_fst e h.writeRow)
      · next e => exact .of_fst e h.writeRow
theorem Sound.readPartFrom {req part k n : Nat} (h : Sound s) : Sound (readPartFrom req part k n s).1 := by
  induction n generalizing k s with
  | zero => exact h
  | succ n ih =>
    rw [Machine.readPartFrom]
    split
    · exact h
    · split
      · next e => exact .of_fst e h.readRow
      · next e => exact ih (.of_fst e h.readRow)
theorem Sound.writePart {req part off : Nat} {l : List Byte} (h : Sound s) : Sound (s.writePart req part off l).1 := h.writePartFrom
theorem Sound.readPart {req part off len : Nat} (h : Sound s) : Sound (s.readPart req part off len).1 := h.readPartFrom

/-! Sys2Proof/Machine/GatherOps.lean -/

theorem Sound.logRed {code port job : Nat} (h : Sound s) : Sound (s.logRed code port job) := h.latch.report.raise
theorem Sound.logUpd {code unit seg : Nat} (h : Sound s) : Sound (s.logUpd code unit seg) := h.latch.report.raise
theorem Sound.updFault {code unit seg : Nat} (h : Sound s) : Sound (s.updFault code unit seg) :=
  .ite h.logUpd.recordFail (.of_mem h.logUpd rfl)
theorem Sound.refreshJob {j : Nat} (h : Sound s) : Sound (s.refreshJob j) := by
  unfold State.refreshJob
  split
  exacts [h, .ite h h.set]
theorem Sound.refreshJobs (h : Sound s) : Sound s.refreshJobs := .set (.foldl h (fun h => h.refreshJob))
theorem Sound.gatherEnd (h : Sound s) : Sound s.gatherEnd := .ite (.of_mem h rfl) h
theorem Sound.forgetGathers (h : Sound s) : Sound s.forgetGathers := .of_mem h rfl
theorem Sound.fillGathers {l : List (Nat × Nat)} (h : Sound s) : Sound (s.fillGathers l) := .of_mem h rfl
theorem Sound.gatherBegin {kind : Nat} (h : Sound s) : Sound (s.gatherBegin kind) :=
  .refreshJobs (.gatherEnd (.foldl (.of_mem h rfl) (fun h => h.set)))
theorem Sound.regatherDone (h : Sound s) : Sound s.regatherDone := .ite h.set.set h
theorem Sound.healDone (h : Sound s) : Sound s.healDone := .ite (.logUpd (.of_mem h rfl)) h
theorem Sound.healedSeg {seg : Nat} (h : Sound s) : Sound (s.healedSeg seg) := .healDone (.of_mem h rfl)
theorem Sound.gathered {seg : Nat} (h : Sound s) : Sound (s.gathered seg) :=
  .ite h (by dsimp only; split; exacts [.refreshJobs (.refreshJob (.regatherDone (.gatherEnd (.of_mem h rfl)))), .of_mem h rfl])
theorem Sound.takeTail {kind key k : Nat} {l : List Byte} (h : Sound s) : Sound (s.takeTail kind key k l).1 := .of_mem h rfl
theorem Sound.sendAround {ring : Nat} {fs : List Flit} (h : Sound s) : Sound (s.sendAround ring fs) :=
  .foldl h (fun h => .ite h (.foldl h (fun h => h.sendFlit)))
theorem Sound.writeCopy {seg off : Nat} {l : List Byte} (h : Sound s) : Sound (s.writeCopy seg off l) := by
  unfold State.writeCopy
  split
  exacts [h.writePart, h]
theorem Sound.sendCopy {kind seg : Nat} {l : List Byte} (h : Sound s) : Sound (s.sendCopy kind seg l) := by
  unfold State.sendCopy
  split
  · exact h
  · split
    exacts [h, .ite (.healedSeg (.foldl h.writeCopy (fun h => h.sendAround))) (.gathered (.foldl h.writeCopy (fun h => h.sendAround)))]
theorem Sound.gatherTake {p : Nat} {f : Flit} (h : Sound s) : Sound (s.gatherTake p f) := by
  unfold State.gatherTake
  split
  · exact h
  · extract_lets hd seg g len bytes ring dir
    split
    next e =>
      extract_lets s1 n reach s2 s3
      have h1 : Sound s1 := .writeCopy (.of_fst e h.takeTail)
      have h2 : Sound s2 := .ite h1.passFlit h1
      have h3 : Sound s3 := .ite h2.sendAround h2
      exact .ite h3 (.ite h3.healedSeg h3.gathered)

/-! Sys2Proof/Machine/ReduceOps.lean -/

theorem Sound.dropJob {j : Nat} (h : Sound s) : Sound (s.dropJob j) := .foldl h (fun h => h.setPort)
theorem Sound.redFault {code : Nat} (h : Sound s) : Sound (s.redFault code) := .ite h.recordFail (.of_mem h rfl)
theorem Sound.haltJob {j port code : Nat} (h : Sound s) : Sound (s.haltJob j port code) :=
  .redFault (.logRed (.ite h.dropJob.set.set.refreshJobs h))
theorem Sound.mismatch {j port digest : Nat} (h : Sound s) : Sound (s.mismatch j port digest) := .haltJob (.ite h (.of_mem h rfl))
theorem Sound.nanLatch {local' : Bool} {hd : Header} {contributor offset : Nat} (h : Sound s) : Sound (s.nanLatch local' hd contributor
    offset) :=
  h.latch
theorem Sound.recordSkip {j : Nat} {fromRing : List Nat} (h : Sound s) : Sound (s.recordSkip j fromRing) :=
  .ite h (.logRed (.of_mem h rfl))
theorem Sound.contribution {seg f : Nat} (h : Sound s) : Sound (s.contribution seg f).1 := h.readPartFrom
theorem Sound.ownerNote {j seg f : Nat} {b : Job} {sums : List Nat} (h : Sound s) : Sound (s.ownerNote j seg f b sums) :=
  .ite (.recordSkip (.counted (.ite h.logRed.recordFail h))) (.counted (.ite h.logRed.recordFail h))
theorem Sound.jobEntry {j : Nat} {b : Job} (h : Sound s) : Sound (s.jobEntry j b) := .ite h.logEntry h
theorem Sound.segReduced {j seg : Nat} {b : Job} (h : Sound s) : Sound (s.segReduced j seg b) :=
  .refreshJobs (.refreshJob (.jobEntry (.inc (.inc (.of_mem h rfl)))))
theorem Sound.ownerWrite {j seg f : Nat} {b : Job} {w : Way} {sums : List Nat} (h : Sound s) : Sound (s.ownerWrite j seg f b w sums) := by
  unfold State.ownerWrite
  extract_lets final vals s1 bytes
  have h1 : Sound s1 := h.ownerNote
  split
  next e =>
    extract_lets s2 _ s3
    have h2 : Sound s2 := .writePart (.of_fst e h1.takeTail)
    clear_value s2
    have h3 : Sound s3 := .ite (.of_mem h2 rfl) h2
    exact .ite (.ite h3.segReduced (.of_mem h3 rfl)) h3
theorem Sound.goOn {forwarded : Bool} {ring dir : Nat} {f : Flit} (h : Sound s) : Sound (s.goOn forwarded ring dir f) :=
  .ite h.passFlit h.sendFlit
theorem Sound.doSlice {p j seg f : Nat} {b : Job} {w : Way} {incoming : Option Flit} (h : Sound s) :
    Sound (s.doSlice p j seg f b w incoming) := by
  unfold State.doSlice
  split
  · next e => exact .haltJob (.of_fst e h.contribution)
  · next t c e =>
    have ht : Sound t := .of_fst e h.contribution
    extract_lets dir _ hd v sums s1 s2 s3 hd' s4
    have h2 : Sound s2 := .ite ht.inc.count ht.inc
    have h3 : Sound s3 := by
      unfold s3
      split
      exacts [h2.nanLatch, h2]
    have h4 : Sound s4 := .ite h3.nanLatch h3
    exact .ite h4.ownerWrite h3.goOn
theorem Sound.setLow {e : LowRank} (h : Sound s) : Sound (s.setLow e) := .of_mem h rfl
theorem Sound.roundSummed {j r v : Nat} {b : Job} {e : LowRank} (h : Sound s) : Sound (s.roundSummed j r v b e) :=
  .foldl h.setLow.inc (fun h => h.sendAround)
theorem Sound.doRound {p j r v k : Nat} {b : Job} {w : Way} {e : LowRank} {incoming : Option Flit} (h : Sound s) :
    Sound (s.doRound p j r v k b w e incoming) := by
  unfold State.doRound
  extract_lets dir at' c _ hd x sums s1 s2 s3 hd' s4 s5 vals e'
  have h2 : Sound s2 := .ite h.inc.count h.inc
  have h3 : Sound s3 := by
    unfold s3
    split
    exacts [h2.nanLatch, h2]
  have h4 : Sound s4 := .ite h3.nanLatch h3
  have h5 : Sound s5 := h4.ownerNote
  exact .ite (.ite h5.setLow (.ite h5.roundSummed h5.setLow)) h3.goOn
theorem Sound.originRound {j r : Nat} {b : Job} {ring : Nat} (h : Sound s) : Sound (s.originRound j r b ring) :=
  .foldl h (fun h => (by split; exacts [h, .ite (.foldl h.setLow (fun h => (by split; exacts [h.doRound, h]))) h]))
theorem Sound.beginRound {j r : Nat} {b : Job} {e : LowRank} {l : List Nat} (h : Sound s) : Sound (s.beginRound j r b e l) :=
  .foldl h.setLow.set (fun h => h.originRound)
theorem Sound.roundTake {p : Nat} {f : Flit} {b : Job} {e : LowRank} (h : Sound s) : Sound (s.roundTake p f b e) :=
  .ite (.sendAround (.ite h.setLow.passFlit h.setLow)) (.ite h.setLow.passFlit h.setLow)
theorem Sound.holdFlit {p : Nat} {f : Flit} (h : Sound s) : Sound (s.holdFlit p f) := .of_mem h rfl
theorem Sound.takeNotice {p : Nat} {f : Flit} (h : Sound s) : Sound (s.takeNotice p f) :=
  .ite (.set (.of_mem h rfl)) h.recordSkip.passFlit
theorem Sound.deliver {digest : Nat → Flit → State → State} {p : Nat} {f : Flit} (h : Sound s)
    (hk : ∀ {x y t}, Sound t → Sound (digest x y t)) : Sound (s.deliver digest p f) := by
  refine .ite h.mismatch.freeCredit ?_
  split
  · exact h.haltJob.freeCredit
  · refine .ite h.freeCredit (.ite h.haltJob.freeCredit ?_)
    split
    · exact .ite h.doSlice.refreshJob.freeCredit h.holdFlit
    · exact h.gatherTake.freeCredit
    · dsimp only
      split
      · exact h.holdFlit
      · exact .ite h.holdFlit (.ite (.freeCredit (.ite h.doRound.originRound h.doRound)) h.roundTake.freeCredit)
    · exact (hk h).freeCredit
    · exact h.takeNotice.freeCredit
theorem Sound.takeFlit {digest : Nat → Flit → State → State} {p : Nat} {f : Flit} (h : Sound s) (hk : ∀ {x y t}, Sound t → Sound (digest
    x y t)) : Sound (s.takeFlit digest p f) :=
  .ite h.holdFlit (.ite h.passFlit.freeCredit (by split; exacts [h.deliver (fun h => hk h), h.holdFlit, h.freeCredit]))
theorem Sound.retryHeld {digest : Nat → Flit → State → State} (h : Sound s) (hk : ∀ {x y t}, Sound t → Sound (digest x y t)) : Sound
    (s.retryHeld digest) :=
  .foldl (.of_mem h rfl) (fun h => h.takeFlit (fun h => hk h))
theorem Sound.enterFlit {digest : Nat → Flit → State → State} {p : Nat} {back : Bool} {f : Flit} (h : Sound s) (hk : ∀ {x y t}, Sound t →
    Sound (digest x y t)) : Sound (s.enterFlit digest p back f) :=
  .ite h.discard.freeCredit (.ite h.freeCredit (by split; exacts [h.takeFlit (fun h => hk h), h.portPass.freeCredit]))
theorem Sound.dataFlit {digest : Nat → Flit → State → State} {p : Nat} {back : Bool} {f : Flit} (h : Sound s) (hk : ∀ {x y t}, Sound t →
    Sound (digest x y t)) : Sound (s.dataFlit digest p back f) := by
  unfold State.dataFlit
  split
  next e => exact .of_fst e h.arrive
  next e =>
    have h1 := Sound.of_fst e h.arrive
    exact .ite h1.holdCredit.keepFrozen (h1.holdCredit.enterFlit (fun h => hk h))

/-! Sys2Proof/Machine/UpdOps.lean -/

theorem Sound.unitStore {unit seg : Nat} {p : Place} {l : List Byte} (h : Sound s) : Sound (s.unitStore unit seg p l) := by
  refine .ite h ?_
  split
  next e => exact .set (.of_fst e h.unitWrite)
  next e => exact .updFault (.of_fst e h.unitWrite)
theorem Sound.setBusy {unit : Nat} {b : Bool} (h : Sound s) : Sound (s.setBusy unit b) := h.setBit
theorem Sound.storeCount {r : URun} {fmt dkind : Nat} {at' : Nat → Nat} {l : List (Nat × Tally)} (h : Sound s) : Sound (s.storeCount r
    fmt dkind at' l) :=
  h.counted
theorem Sound.storePlane {r : URun} {off : Nat} {l : List Byte} (h : Sound s) : Sound (s.storePlane r off l) := by
  unfold State.storePlane
  split
  exacts [h.unitStore, h]
theorem Sound.uExec {r : URun} {i : UInstr} (h : Sound s) : Sound (s.uExec r i).1 := by
  unfold State.uExec
  split
  · exact h
  · dsimp only
    split
    · exact h
    · split
      · exact h
      · split
        exacts [h.storePlane.storeCount, (by split; exacts [h.storePlane.storeCount, (by split; exacts [h.storePlane.storeCount, h])])]
theorem Sound.uInputs {unit gi seg : Nat} {late : Option Nat} {ver : Nat} (h : Sound s) : Sound (s.uInputs unit gi seg late ver).1 := by
  unfold State.uInputs
  split
  · exact h
  · extract_lets prog k step gsrc
    have hg : Sound gsrc.1 := by
      unfold gsrc
      split
      · exact h.readPart
      · split
        exacts [h.unitRead, h]
    generalize gsrc = r at hg ⊢
    split
    · split
      · next e =>
        dsimp only
        split
        all_goals exact .of_fst e (.unitRead hg)
      · next e => exact .of_fst e (.unitRead hg)
    · exact hg
theorem Sound.addTotals {r : URun} (h : Sound s) : Sound (s.addTotals r) := .of_mem h rfl
theorem Sound.groupEntry {gi : Nat} {g : Group} (h : Sound s) : Sound (s.groupEntry gi g) := .ite h.logEntry h
theorem Sound.passEnd {r : URun} {last : Bool} (h : Sound s) : Sound (s.passEnd r last) :=
  .ite (by dsimp only; split; exacts [.groupEntry (.of_mem h.inc.count rfl), .of_mem h.inc.count rfl]) (.of_mem h.inc.count rfl)
theorem Sound.uStep {r : URun} (h : Sound s) : Sound (s.uStep r).1 := by
  unfold State.uStep
  split
  · exact h
  · extract_lets l p s1
    have h1 : Sound s1 := .ite h.addTotals h
    split
    · exact h
    · split
      · split
        · split
          · exact h
          · dsimp only
            exact h.addTotals.passEnd
        · split
          · exact h
          · dsimp only
            exact h.passEnd
      · split
        · dsimp only
          exact h1.passEnd
        · exact h.uExec
theorem Sound.uRun {n : Nat} {r : URun} (h : Sound s) : Sound (State.uRun n r s) := by
  induction n generalizing r s with
  | zero => exact h
  | succ n ih =>
    rw [State.uRun]
    split
    · next e => exact ih (.of_fst e h.uStep)
    · next e => exact .of_fst e h.uStep
theorem Sound.uStart {gi seg p : Nat} {late : Option Nat} {ver : Nat} {g : Group} (h : Sound s) : Sound (s.uStart gi seg p late ver g).1
    := by
  unfold State.uStart
  dsimp only
  split
  next e => exact .of_fst e h.uInputs
  next e => exact .updFault (.of_fst e h.uInputs)
  next e => exact .of_fst e h.uInputs
theorem Sound.masterValues {gi seg ver : Nat} {g : Group} (h : Sound s) : Sound (s.masterValues gi seg ver g).1 := by
  unfold State.masterValues
  dsimp only
  split
  · exact h
  · split
    next e => exact .of_fst e h.unitRead
    next e => exact .of_fst e h.unitRead
    next e => exact .of_fst e h.unitRead
theorem Sound.spoilCopy {kind c unit seg : Nat} (h : Sound s) : Sound (s.spoilCopy kind c unit seg) :=
  .ite h.updFault (.of_mem h.updFault rfl)
theorem Sound.derive {kind seg : Nat} {pop : State → State} (h : Sound s) (hk : ∀ {t}, Sound t → Sound (pop t)) : Sound (s.derive kind
    seg pop) := by
  unfold State.derive
  split
  · exact h
  · split
    · exact h
    · split
      next e => exact .of_fst e h.masterValues
      next e =>
        have h1 := Sound.of_fst e h.masterValues
        exact .refreshJobs (.regatherDone (.gatherEnd (.sendCopy (.dropLoose (by split; exacts [hk h1, .spoilCopy (hk h1)])))))
theorem Sound.deriveNext (h : Sound s) : Sound s.deriveNext := by
  have pops {kind seg : Nat} {pop : State → State} (e : s.deriveDue = some (kind, seg, pop)) {t : State} (ht : Sound t) : Sound (pop t)
      := by
    unfold State.deriveDue at e
    split at e
    · cases e
      exact .of_mem ht rfl
    · obtain ⟨x, -, hx⟩ := Option.map_eq_some_iff.1 e
      cases hx
      exact .of_mem ht rfl
  unfold State.deriveNext
  split
  · next e => exact h.derive (pops e)
  · exact h
theorem Sound.setDigest {d : GroupDigest} (h : Sound s) : Sound (s.setDigest d) := .of_mem h rfl
theorem Sound.digestNote {gi pos : Nat} (h : Sound s) : Sound (s.digestNote gi pos) := h.latch.logUpd
theorem Sound.digestSettle (h : Sound s) : Sound s.digestSettle :=
  .ite h (.ite (.of_mem h rfl) (.ite h (.recordFail (.set (.of_mem (.ite h.set.set.set h) rfl)))))
theorem Sound.sendDigest {gi : Nat} {payload : List Byte} (h : Sound s) : Sound (s.sendDigest gi payload) := by
  unfold State.sendDigest
  split
  exacts [h, .foldl h (fun h => .ite h h.sendFlit)]
theorem Sound.takeDigest {p : Nat} {f : Flit} (h : Sound s) : Sound (State.takeDigest p f s) :=
  .ite (.digestSettle (.ite (.digestNote (.setDigest (.ite h.passFlit h))) (.setDigest (.ite h.passFlit h)))) (.ite (.digestSettle
    (.setDigest (.ite h.passFlit h))) (.ite h.passFlit h))
theorem Sound.digestCompute (h : Sound s) : Sound s.digestCompute :=
  .digestSettle (.foldl h (fun h => (by dsimp only; split; exacts [h.setDigest.sendDigest.digestNote, h.setDigest.sendDigest])))
theorem Sound.narrowSend (h : Sound s) : Sound s.narrowSend :=
  .digestSettle (.foldl h (fun h => .ite h (.foldl h.setDigest (fun h => h.sendDigest))))
theorem Sound.healBegin (h : Sound s) : Sound s.healBegin := .ite h (.healDone (.set (.of_mem h rfl)))
theorem Sound.setPending {p : Pending} (h : Sound s) : Sound (s.setPending p) := .of_mem h rfl
theorem Sound.slotWrite {gi step seg : Nat} {p : Pending} {l : List Byte} (h : Sound s) : Sound (s.slotWrite gi step seg p l) := by
  unfold State.slotWrite
  dsimp only
  split
  · exact h
  · split
    next e => exact .setPending (.of_fst e h.unitWrite)
    next e => exact .updFault (.of_fst e h.unitWrite)
theorem Sound.podSum {gi step seg : Nat} (h : Sound s) : Sound (s.podSum gi step seg) := by
  have hf {u part : Nat} {off : Nat → Nat} {self : Nat} {own : List Byte} {l : List Nat} {r : State × List Nat × Nat} (h : Sound r.1) :
      Sound (l.foldl (fun (r : State × List Nat × Nat) i =>
        if i = self then (r.1, addSlice r.2.1 (wordsOf own), r.2.2)
        else
          let (s, l, c) := r.1.readPart (rqUPD + u) part (off i) 65536
          (s, addSlice r.2.1 (wordsOf l), if c ≠ 0 then c else r.2.2)) r).1 := .foldl_fst h fun h => by
    split
    exacts [h, h.readPart]
  unfold State.podSum
  split
  · exact h
  · split
    · exact h
    · exact .ite h (.ite (hf h).updFault (hf h).slotWrite)
theorem Sound.lateBoundary {commit : Bool} (h : Sound s) : Sound (s.lateBoundary commit) := .of_mem h rfl
theorem Sound.lowRead {j ver k : Nat} {b : Job} (h : Sound s) : Sound (s.lowRead j ver k b).1 := by
  unfold State.lowRead
  split
  · exact h
  · split
    next e => exact .of_fst e h.unitRead
    next e => exact .of_fst e h.unitRead
    next e => exact .of_fst e h.unitRead
theorem Sound.lowUnits {j ver n : Nat} {b : Job} (h : Sound s) : Sound (s.lowUnits j ver b n).1 := by
  induction n with
  | zero => exact h
  | succ n ih =>
    have hr : Sound ((s.lowUnits j ver b n).1.lowRead j ver n b).1 := ih.lowRead
    rw [State.lowUnits]
    generalize s.lowUnits j ver b n = r at hr ⊢
    dsimp only
    split
    all_goals exact .of_fst (by assumption) hr
theorem Sound.lowWrite {j k : Nat} {b : Job} {l : List Nat} (h : Sound s) : Sound (s.lowWrite j k b l) := by
  unfold State.lowWrite
  split
  exacts [h.unitStore, h]

/-! Sys2Proof/Machine/StepOps.lean -/

theorem Sound.setPc {i n i1 : Nat} (h : Sound s) : Sound (s.setPc i n i1) := h.set.set
theorem Sound.setStream {i n : Nat} {f : Stream → Stream} (h : Sound s) : Sound (s.setStream i n f) := h.setTile
theorem Sound.seqTo {i n st : Nat} (h : Sound s) : Sound (s.seqTo i n st) := h.set.set
theorem Sound.stall {i n reason : Nat} (h : Sound s) : Sound (s.stall i n reason) := h.set.set
theorem Sound.latchField {f : Fld} {v : Nat} (h : Sound s) : Sound (s.latchField f v) := .ite h.set.set.set.set h.set
theorem Sound.applyShadow (h : Sound s) : Sound s.applyShadow := .foldl (.of_mem h rfl) (fun h => h.latchField)
theorem Sound.useImage {image : Sparse Nat} (h : Sound s) : Sound (s.useImage image) := .of_mem h rfl
theorem Sound.closeCounters {commit : Bool} {k : Nat} (h : Sound s) : Sound (closeCounters commit k s) := by
  induction k with
  | zero => exact h
  | succ k ih => exact .set (.ite ih.addTo ih.set)
theorem Sound.closeCommand {scope k : Nat} (h : Sound s) : Sound (closeCommand scope k s) := by
  induction k with
  | zero => exact h
  | succ k ih => exact .ite ih.setAll ih
theorem Sound.logBoundary {commit : Bool} (h : Sound s) : Sound (s.logBoundary commit) := by
  refine .ite h ?_
  extract_lets _ s1 open1 s2 s3
  have h1 : Sound s1 := .of_mem h rfl
  have h2 : Sound s2 := .ite h1.setAll h1
  have h3 : Sound s3 := h2.set.set
  exact .ite (.of_mem h3 rfl) (.of_mem h3 rfl)
theorem Sound.watchBoundary {kind : Nat} (h : Sound s) : Sound (s.watchBoundary kind) := .setAll (.of_mem h rfl)
theorem Sound.startStream {i n : Nat} (h : Sound s) : Sound (s.startStream i n) := .ite h.setStream.seqTo.setPc h
theorem Sound.startTiles (h : Sound s) : Sound s.startTiles := .foldl (.of_mem h rfl) (fun h => h.startStream.startStream)
theorem Sound.stopTile {i : Nat} (h : Sound s) : Sound (s.stopTile i) := .foldl h (fun h => .ite h.seqTo h)
theorem Sound.stopTiles (h : Sound s) : Sound s.stopTiles := .foldl h (fun h => h.stopTile)
theorem Sound.armSettle (h : Sound s) : Sound s.armSettle := .ite (.set (.of_mem h rfl)) h
theorem Sound.clearHalts (h : Sound s) : Sound s.clearHalts := .foldl h (fun h => .ite h.set h)
theorem Sound.clearAttempt (h : Sound s) : Sound s.clearAttempt := .refreshJobs (.foldl (.setAll (.of_mem h rfl)) (fun h => h.setAll))
theorem Sound.countFrame {f : StepFrame} (h : Sound s) : Sound (s.countFrame f) :=
  .ite (.ite h.setBit h) (.ite (.ite (.of_mem h rfl) h) (.ite (.of_mem h rfl) h))
theorem Sound.countHeld (h : Sound s) : Sound s.countHeld := .foldl (.of_mem h rfl) (fun h => h.countFrame)
theorem Sound.ingestRead {user n : Nat} (h : Sound s) : Sound (s.ingestRead user n) := h.set.issueNvme
theorem Sound.ingestFail {qp : Nat} (h : Sound s) : Sound (s.ingestFail qp) := .recordFail (.logEth (.of_mem h rfl))
theorem Sound.ingestBegin {n : Nat} (h : Sound s) : Sound (s.ingestBegin n) :=
  .ite (.ingestFail (.of_mem h rfl)) (.ingestRead (.of_mem h rfl))
theorem Sound.ingestOpen (h : Sound s) : Sound s.ingestOpen := .ite h (.ite h.ingestBegin h.ingestBegin.logEth.recordFail)
theorem Sound.openFaults (h : Sound s) : Sound s.openFaults := by
  unfold State.openFaults
  extract_lets s1 s2 _ s3 _ s4
  have h1 : Sound s1 := .ite h.recordFail h
  have h2 : Sound s2 := by
    unfold s2
    split
    exacts [h1.logRed.recordFail, h1]
  have h3 : Sound s3 := by
    unfold s3
    split
    exacts [.recordFail (.of_mem h2 rfl), h2]
  have h4 : Sound s4 := by
    unfold s4
    split
    exacts [.recordFail (.of_mem h3 rfl), h3]
  split
  exacts [h4.recordFail, h4]
theorem Sound.openNow (h : Sound s) : Sound s.openNow := by
  unfold State.openNow
  extract_lets s0 _ s1 mb _ _ s2 s3 n _ s4 s5
  have h0 : Sound s0 := h.clearAttempt
  clear_value s0
  have h1 : Sound s1 := .of_mem h0 rfl
  have h2 : Sound s2 := .of_mem h1 rfl
  have h3 : Sound s3 := h2.set.set.startTiles
  have h4 : Sound s4 := .of_mem h3 rfl
  exact h4.set.openFaults.ingestOpen.countHeld.refreshJobs
theorem Sound.openStep (h : Sound s) : Sound s.openStep := h.openNow.retryHeld (fun h => h.takeDigest)
theorem Sound.decision {kind cause detail pos ring : Nat} {viaPoll : Bool} (h : Sound s) : Sound (s.decision kind cause detail pos ring
    viaPoll) :=
  h.setAll.traceRec.watchBoundary.raise
theorem Sound.commitBoundary {viaPoll : Bool} (h : Sound s) : Sound (s.commitBoundary viaPoll) := by
  unfold State.commitBoundary
  extract_lets n skipped s1 s2 s3 s4 s5 s6 _ s7 s8 s9 s10
  have h4 : Sound s4 := h.setAll.applyShadow.closeCounters.closeCommand.logBoundary.decision
  have h5 : Sound s5 := .ite h4.set h4
  have h6 : Sound s6 := h5.lateBoundary.clearAttempt
  clear_value s6
  have h7 : Sound s7 := .of_mem h6 rfl
  have h9 : Sound s9 := h7.setAll.inc
  have h10 : Sound s10 := .ite h9.refreshJobs h9.openNow
  exact h10.gatherBegin.retryHeld (fun h => h.takeDigest)
theorem Sound.abortBoundary {cause detail pos ring : Nat} {poll : Option Nat} (h : Sound s) :
    Sound (s.abortBoundary cause detail pos ring poll) := by
  unfold State.abortBoundary
  extract_lets n wasOpen s1 s2 s3 drop s4 _ s5 s6 _ s7 s8 s9 _ s10
  have h1 : Sound s1 := .of_mem h rfl
  have h3 : Sound s3 := h1.closeCounters.closeCommand.logBoundary.decision
  have h5 : Sound s5 := .of_mem (.foldl h3 fun h => h.freeCredit) rfl
  have h6 : Sound s6 := .lateBoundary (.ite h5.stopTiles h5)
  have h8 : Sound s8 := .setAll (.clearAttempt (.clearHalts (.of_mem h6 rfl)))
  have h9 : Sound s9 := .inc (.ite h8.set h8)
  have h10 : Sound s10 := .ite (.of_mem h9 rfl) h9
  exact (h10.healBegin.refreshJobs.retryHeld (fun h => h.takeDigest)).armSettle
theorem Sound.decideAbort {cause detail pos ring : Nat} (h : Sound s) : Sound (s.decideAbort cause detail pos ring) :=
  h.sendAll.abortBoundary
theorem Sound.settle (h : Sound s) : Sound s.settle := by
  unfold State.settle
  split
  exacts [.ite h.decideAbort (.of_mem h rfl), h]
theorem Sound.noteAllReady (h : Sound s) : Sound s.noteAllReady := .ite h.countFrame.sendOn h
theorem Sound.anchorDecide (h : Sound s) : Sound s.anchorDecide :=
  .ite h.noteAllReady.settle (.ite h.noteAllReady.sendAll.commitBoundary.settle h.noteAllReady)
theorem Sound.act {c : Bool} {k : State → State} (h : Sound s) (hk : ∀ {t}, Sound t → Sound (k t)) : AnswerSound (act c s k) :=
  h.doIf (fun h => .settle (hk h))
theorem Sound.lineRow {up : Bool} {p : Nat} {rx : LineRx} {fits : List Byte → Bool} {k : State → List Byte → State} (h : Sound s) (hk : ∀
    {t x}, Sound t → Sound (k t x)) : AnswerSound (lineRow up p rx fits s k) :=
  h.act (fun h => (by split; exacts [h.noteLine.nak, hk h.noteLine]))

/-! Sys2Proof/Machine/Steps.lean -/

theorem Sound.stepRefuse {code : Nat} (h : Sound s) : Sound (s.stepRefuse code) := h.set.raise.report
theorem Sound.stepAccept (h : Sound s) : Sound s.stepAccept := h.set
theorem Sound.openDecided (h : Sound s) : Sound s.openDecided := by
  unfold State.openDecided
  dsimp only
  split
  exacts [.stepRefuse (.set (.of_mem h rfl)), .openStep (.stepAccept (.set (.of_mem h rfl)))]
theorem Sound.doOpen (h : Sound s) : Sound s.doOpen := .ite (.set (.of_mem h rfl)) h.openDecided
theorem Sound.doAbortReq (h : Sound s) : Sound s.doAbortReq :=
  .ite h.stepAccept.set.sendFail (.ite h.stepAccept.set.recordFail h.stepAccept.set)
theorem Sound.doRegather (h : Sound s) : Sound s.doRegather :=
  .ite h.stepRefuse (.retryHeld (.regatherDone (.gatherBegin (.of_mem h rfl))) (fun h => h.takeDigest))
theorem Sound.doRollback (h : Sound s) : Sound s.doRollback := .ite h.stepRefuse h.stepAccept.forgetGathers.setAll
theorem Sound.stepCtl {m value : Nat} {k : State → State} (h : Sound s) (hk : ∀ {t}, Sound t → Sound (k t)) : AnswerSound (stepCtl m
    value s k) :=
  h.act (fun h => .ite (.of_mem h rfl) (hk h))
theorem Sound.execOpenStep {m : Nat} (h : Sound s) : AnswerSound (execOpenStep m s) := h.stepCtl (fun h => h.doOpen)
theorem Sound.execAbortReq {m : Nat} (h : Sound s) : AnswerSound (execAbortReq m s) := h.stepCtl (fun h => h.doAbortReq)
theorem Sound.execRegather {m : Nat} (h : Sound s) : AnswerSound (execRegather m s) := h.stepCtl (fun h => h.doRegather)
theorem Sound.execRollback {m : Nat} (h : Sound s) : AnswerSound (execRollback m s) := h.stepCtl (fun h => h.doRollback)
theorem Sound.execDeferredOpen (h : Sound s) : AnswerSound (execDeferredOpen s) := h.act (fun h => h.openDecided)
theorem Sound.execTileOpenTimeout {i : Nat} (h : Sound s) : AnswerSound (execTileOpenTimeout i s) := h.act (fun h => h.failTile)
theorem Sound.sendReady (h : Sound s) : Sound s.sendReady := h.set.sendOn.countFrame.anchorDecide
theorem Sound.execSendReady (h : Sound s) : AnswerSound (execSendReady s) := h.act (fun h => h.sendReady)
theorem Sound.execStepTimeout (h : Sound s) : AnswerSound (execStepTimeout s) := h.act (fun h => h.decideAbort)
theorem Sound.pollValue {pos committed attempt : Nat} {isOpen : Bool} (h : Sound s) : Sound (s.pollValue pos committed attempt isOpen) :=
  .ite h (.of_mem h rfl)
theorem Sound.sendPoll (h : Sound s) : Sound s.sendPoll := h.sendOn
theorem Sound.pollBegin {ring : Nat} (h : Sound s) : Sound (s.pollBegin ring) :=
  .sendPoll (.ite (.pollValue (.of_mem h rfl)) (.of_mem h rfl))
theorem Sound.pollCommit {k : Nat} (h : Sound s) : Sound (s.pollCommit k) := .ite h.commitBoundary h
theorem Sound.goOut (h : Sound s) : Sound s.goOut := .set (.set (.ite (.of_mem h rfl) h))
theorem Sound.pollSettle {k attempt : Nat} (h : Sound s) : Sound (s.pollSettle k attempt) :=
  .ite (.goOut (.of_mem (.ite h.abortBoundary h.set) rfl)) (.ite (.set (.of_mem (.ite h.abortBoundary h.set) rfl)) (.of_mem (.ite
    h.abortBoundary h.set) rfl))
theorem Sound.pollAbort {ring k attempt : Nat} (h : Sound s) : Sound (s.pollAbort ring k attempt) :=
  .ite (.setRingCtl (.set (.ite h h.pollSettle))) (.ite h h.pollSettle)
theorem Sound.doPollClose (h : Sound s) : Sound s.doPollClose :=
  .pollAbort (.sendBoth (by split; exacts [.pollCommit (.sendBoth (.of_mem h rfl)), .of_mem h rfl]))
theorem Sound.execPollResend (h : Sound s) : AnswerSound (execPollResend s) := h.act (fun h => h.sendPoll)
theorem Sound.execPollClose {timeout : Bool} (h : Sound s) : AnswerSound (execPollClose timeout s) := h.act (fun h => h.doPollClose)
theorem Sound.passOn {p : Nat} {f : StepFrame} (h : Sound s) : Sound (s.passOn p f) :=
  .ite (.ite h h.portSend) (.ite h (.ite (.sendOn (.portSend (.of_mem h rfl))) (.portSend (.of_mem h rfl))))
theorem Sound.attemptFrame {ring : Nat} {f : StepFrame} (h : Sound s) : Sound (s.attemptFrame ring f) :=
  .ite h.countFrame.anchorDecide (.ite (.of_mem h rfl) h)
theorem Sound.checkDigest {p : Nat} {f : StepFrame} (h : Sound s) : Sound (s.checkDigest p f).1 := by
  unfold State.checkDigest
  split
  exacts [h, h.logRed]
theorem Sound.doFrame {p : Nat} {f : StepFrame} (h : Sound s) : Sound (s.doFrame p f) := by
  have h1 : Sound (s.passOn p f) := h.passOn
  exact .ite (.ite h.passOn (.ite h.pollValue h)) (.ite h1 (.ite h1.checkDigest.attemptFrame (.ite (.ite h1.attemptFrame h1)
    (.ite (.ite h1.pollCommit (.ite h1.commitBoundary h1)) (.ite (.ite h1.pollAbort (.ite h1.abortBoundary h1))
    (.ite h1.sendOn h1))))))
theorem Sound.takeFrame {p : Nat} {back : Bool} {f : StepFrame} (h : Sound s) : Sound (s.takeFrame p back f) :=
  .ite h.discard (.ite h (by split; exacts [h.doFrame, h.portSend]))
theorem Sound.frameArrives {p seq : Nat} {back : Bool} {f : StepFrame} (h : Sound s) : Sound (s.frameArrives p seq back f) := by
  unfold State.frameArrives
  split
  next e => exact .of_fst e h.arrive
  next e =>
    have h1 := Sound.of_fst e h.arrive
    exact .ite h1.freeFrame.keepFrozen h1.freeFrame.takeFrame
theorem Sound.frameRow {type p : Nat} {back : Bool} {rx : LineRx} (h : Sound s) : AnswerSound (frameRow type p back rx s) :=
  h.lineRow (fun h => h.frameArrives)
theorem Sound.execReadyFrame {p : Nat} {back : Bool} {rx : LineRx} (h : Sound s) : AnswerSound (execReadyFrame p back rx s) := h.frameRow
theorem Sound.execFailFrame {p : Nat} {back : Bool} {rx : LineRx} (h : Sound s) : AnswerSound (execFailFrame p back rx s) := h.frameRow
theorem Sound.execCommitFrame {p : Nat} {back : Bool} {rx : LineRx} (h : Sound s) : AnswerSound (execCommitFrame p back rx s) :=
  h.frameRow
theorem Sound.execAbortFrame {p : Nat} {back : Bool} {rx : LineRx} (h : Sound s) : AnswerSound (execAbortFrame p back rx s) := h.frameRow
theorem Sound.execADone {p : Nat} {back : Bool} {rx : LineRx} (h : Sound s) : AnswerSound (execADone p back rx s) := h.frameRow
theorem Sound.execPoll {p : Nat} {back : Bool} {rx : LineRx} (h : Sound s) : AnswerSound (execPoll p back rx s) := h.frameRow
theorem Sound.execPollReply {p : Nat} {back : Bool} {rx : LineRx} (h : Sound s) : AnswerSound (execPollReply p back rx s) := h.frameRow

/-! Sys2Proof/Machine/Loader.lean -/

theorem Sound.loadState {n : Nat} (h : Sound s) : Sound (s.loadState n) := h.set
theorem Sound.setLoader {f : LoaderCtl → LoaderCtl} (h : Sound s) : Sound (s.setLoader f) := .of_mem h rfl
theorem Sound.cfgRefuse {code : Nat} (h : Sound s) : Sound (s.cfgRefuse code) := h.set.report
theorem Sound.cfgReject {e : ImgErr} (h : Sound s) : Sound (s.cfgReject e) := h.setAll.loadState.report.raise
theorem Sound.shadowWrite {n k : Nat} {l : List Byte} (h : Sound s) : Sound (shadowWrite n k l s) := by
  induction n generalizing k l s with
  | zero => exact h
  | succ n ih =>
    cases l with
    | nil => exact h
    | cons b l => exact ih h.writeMem
theorem Sound.cfgCmd {m value : Nat} {k : State → State} (h : Sound s) (hk : ∀ {t}, Sound t → Sound (k t)) : AnswerSound (cfgCmd m value
    s k) :=
  h.act (fun h => .ite (.of_mem h rfl) (hk h))
theorem Sound.doStage (h : Sound s) : Sound s.doStage := .ite h.cfgRefuse (.ite h.cfgRefuse h.setAll.loadState.setLoader.readHost)
theorem Sound.doCheck (h : Sound s) : Sound s.doCheck := .ite h.cfgRefuse h.setAll.loadState
theorem Sound.doArm (h : Sound s) : Sound s.doArm := .ite h.cfgRefuse (.ite h.cfgRefuse h.set.loadState)
theorem Sound.doDisarm (h : Sound s) : Sound s.doDisarm := .ite h.cfgRefuse h.set.loadState.setLoader
theorem Sound.doDiscard (h : Sound s) : Sound s.doDiscard := .ite h.cfgRefuse h.set.loadState.setLoader
theorem Sound.execStage {m : Nat} (h : Sound s) : AnswerSound (execStage m s) := h.cfgCmd (fun h => h.doStage)
theorem Sound.execCheck {m : Nat} (h : Sound s) : AnswerSound (execCheck m s) := h.cfgCmd (fun h => h.doCheck)
theorem Sound.execArm {m : Nat} (h : Sound s) : AnswerSound (execArm m s) := h.cfgCmd (fun h => h.doArm)
theorem Sound.execDisarm {m : Nat} (h : Sound s) : AnswerSound (execDisarm m s) := h.cfgCmd (fun h => h.doDisarm)
theorem Sound.execDiscard {m : Nat} (h : Sound s) : AnswerSound (execDiscard m s) := h.cfgCmd (fun h => h.doDiscard)
theorem Sound.stageEnd {bytes : List Byte} {failed : Option Nat} (h : Sound s) : Sound (s.stageEnd bytes failed) := by
  unfold State.stageEnd
  split
  exacts [h.cfgReject, h.shadowWrite.setAll.loadState.raise]
theorem Sound.execStageComplete {bytes : List Byte} {failed : Option Nat} (h : Sound s) : AnswerSound (execStageComplete bytes failed s)
    :=
  h.act (fun h => h.stageEnd)
theorem Sound.checkEnd (h : Sound s) : Sound s.checkEnd :=
  .ite h.set.loadState.cfgRefuse (by split; exacts [h.cfgReject, h.set.loadState.setLoader.raise])
theorem Sound.execCheckComplete (h : Sound s) : AnswerSound (execCheckComplete s) := h.act (fun h => h.checkEnd)
theorem Sound.zeroMemory (h : Sound s) : Sound s.zeroMemory := Memory.wf_zeroed _ h
theorem Sound.startLow {j : Nat} {b : Job} (h : Sound s) : Sound (s.startLow j b) := by
  unfold State.startLow
  extract_lets rows put
  have hput {t : State} {v u : Nat} {l : List Byte} (h : Sound t) : Sound (put t v u l) := by
    unfold put
    split
    exacts [h.unitWrite, h]
  exact .foldl h fun h => .foldl (.foldl h fun h => hput h) fun h => hput h
theorem Sound.extend {i : Nat} {v : List Byte} (h : Sound s) : Sound (s.extend i v) := h.setAll
theorem Sound.farHandover {old new : List OwnerEntry} (h : Sound s) : Sound (s.farHandover old new) :=
  .setFar (.foldl h (fun h => h.writeBack))
theorem Sound.resetTiles (h : Sound s) : Sound s.resetTiles := .of_mem h rfl
theorem Sound.loadTiles {p : Plan} (h : Sound s) : Sound (s.loadTiles p) := .foldl (.of_mem h rfl) (fun h => h.setAll)
theorem Sound.loadQuotas {m : MemPlan} (h : Sound s) : Sound (s.loadQuotas m) := .foldl (.foldl h (fun h => h.set)) (fun h => h.set)
theorem Sound.bindAs {n arg : Nat} (h : Sound s) : Sound (s.bindAs n arg) := .ite h h.setAll
theorem Sound.loadBindings {l : List OwnerEntry} (h : Sound s) : Sound (s.loadBindings l) := .ite h (.foldl h (fun h => h.bindAs))
theorem Sound.clearJobs (h : Sound s) : Sound s.clearJobs := .of_mem h rfl
theorem Sound.takePlan {p : Plan} (h : Sound s) : Sound (s.takePlan p) := .setAll (.fillGathers (.loadBindings (.of_mem h rfl)))
theorem Sound.install {p : Plan} (h : Sound s) : Sound (s.install p) :=
  .raise (.setLoader (.loadState (.set (.inc (.foldl (.extend (.takePlan (.clearJobs (.loadQuotas (.loadTiles (.resetTiles (.farHandover
    (.setAll (.ite h (.of_mem h.zeroMemory rfl)))))))))) (fun h => .ite h.startLow h))))))
theorem Sound.execInstallation (h : Sound s) : AnswerSound (execInstallation s) := h.act (fun h => .elim h h.install)
theorem Sound.execResourceClaim {res inst owner arg : Nat} {release : Bool} (h : Sound s) : AnswerSound (execResourceClaim res inst owner
    arg release s) := by
  refine h.act (fun h => .ite (.of_mem h rfl) ?_)
  split
  next e => exact .of_fst e h.claim
  next e => exact .report (.of_fst e h.claim)

/-! Sys2Proof/Machine/Memory.lean -/

theorem Sound.setRegions {f : RegionCtl → RegionCtl} (h : Sound s) : Sound (s.setRegions f) := .of_mem h rfl
theorem Sound.countSlots {r : MemReq} (h : Sound s) : Sound (s.countSlots r) := h.set
theorem Sound.holdReq {r : MemReq} (h : Sound s) : Sound (s.holdReq r) := .countSlots (.setRegions (.ite h.dropFixes h))
theorem Sound.endReq {r : MemReq} {code : Nat} {l : List Byte} (h : Sound s) : Sound (s.endReq r code l) := h.emit
theorem Sound.newReq {r : MemReq} (h : Sound s) : Sound (s.newReq r) := .ite h.report.endReq (.ite h.snoop.holdReq h.snoop.setRegions)
theorem Sound.execMemRequest {req a n : Nat} {data : Option (List Byte)} {mask : Option (List Bool)} (h : Sound s) : AnswerSound
    (execMemRequest req a n data mask s) :=
  h.act (fun h => h.setRegions.newReq)
theorem Sound.bankStall {r : MemReq} {cycles : Nat} (h : Sound s) : Sound (s.bankStall r cycles) := h.addTo.count
theorem Sound.execMemRequestAccept {id cycles : Nat} (h : Sound s) : AnswerSound (execMemRequestAccept id cycles s) := by
  unfold Machine.execMemRequestAccept
  split
  exacts [h, h.act (fun h => .ite h.setRegions.bankStall.report.endReq h.setRegions.bankStall.holdReq)]
theorem Sound.spoil {l : List Nat} (h : Sound s) : Sound (s.spoil l) := .of_cells h rfl
theorem Sound.weaken {l : List (Nat × Nat)} (h : Sound s) : Sound (s.weaken l) := .of_cells h rfl
theorem Sound.serve {r : MemReq} (h : Sound s) : Sound (s.serve r) := by
  unfold State.serve
  split
  · exact .endReq (Memory.wf_write s.mem _ _ h)
  · exact h.mergeWrite.endReq
  · split
    all_goals next e => exact .endReq (.of_fst e h.readOut)
theorem Sound.execMemRequestDone {id : Nat} {bad : List Nat} {weak : List (Nat × Nat)} (h : Sound s) : AnswerSound (execMemRequestDone id
    bad weak s) := by
  unfold Machine.execMemRequestDone
  split
  exacts [h, h.act (fun h => .ite h.setRegions.countSlots.spoil.weaken.report.endReq h.setRegions.countSlots.spoil.weaken.serve)]
theorem Sound.execCorrectedWriteback {a : Nat} (h : Sound s) : AnswerSound (execCorrectedWriteback a s) := h.act (fun h => .of_cells h rfl)
theorem Sound.execScrubRead {w l : Nat} {weak : Option Nat} {bad : Bool} (h : Sound s) : AnswerSound (execScrubRead w l weak bad s) := by
  refine h.act fun h => ?_
  extract_lets p k a s1 s2 s3
  have h1 : Sound s1 := .ite h.spoil h
  have h2 : Sound s2 := .ite h1.inc.logMem.report h1.weaken.correctAll
  exact .ite h2.setRegions.set h2.setRegions
theorem Sound.setBand {w l b : Nat} (h : Sound s) : Sound (s.setBand w l b) := h.setAll
theorem Sound.refresh {w l : Nat} (h : Sound s) : Sound (s.refresh w l) := .ite h.set (.ite h.set.setBand.report h.set.setBand)
theorem Sound.execRefreshRow {w l : Nat} {bad : List Nat} {weak : List (Nat × Nat)} (h : Sound s) : AnswerSound (execRefreshRow w l bad
    weak s) :=
  h.act (fun h => h.spoil.weaken.refresh)
theorem Sound.execRefreshBandRelax {w l : Nat} (h : Sound s) : AnswerSound (execRefreshBandRelax w l s) := h.act (fun h => h.setBand)
theorem Sound.execHopFrameResend {c l : Nat} {fails : Bool} (h : Sound s) : AnswerSound (execHopFrameResend c l fails s) :=
  h.act (fun h => .ite h.setRegions (.ite h.setBit.setRegions h.setRegions))
theorem Sound.dropHeld {p : MemReq → Bool} {code : Nat} (h : Sound s) : Sound (s.dropHeld p code) :=
  .foldl h.setRegions (fun h => h.countSlots.report.endReq)
theorem Sound.resetRange {doms : List Dom} {a b : Nat} (h : Sound s) : Sound (s.resetRange doms a b) := .of_mem h rfl
theorem Sound.planQuota {w l : Nat} (h : Sound s) : Sound (s.planQuota w l) := .ite h.set.set h.set
theorem Sound.resetLayer {w l : Nat} (h : Sound s) : Sound (s.resetLayer w l) := h.resetRange.planQuota
theorem Sound.execLayReset {m w l : Nat} (h : Sound s) : AnswerSound (execLayReset m w l s) :=
  h.act (fun h => .dropHeld (.foldl h.set (fun h => h.set)))
theorem Sound.execLayResetEnd {c l : Nat} (h : Sound s) : AnswerSound (execLayResetEnd c l s) :=
  h.act (fun h => .foldl h (fun h => h.resetLayer))
theorem Sound.execColReset {m c : Nat} (h : Sound s) : AnswerSound (execColReset m c s) :=
  h.act (fun h => .ite (.foldl h.setAll (fun h => .foldl h (fun h => h.set))) h.set.report)
theorem Sound.execColResetDrained {c : Nat} (h : Sound s) : AnswerSound (execColResetDrained c s) := h.act (fun h => h.setRegions)
theorem Sound.execColResetDrainTimeout {c : Nat} (h : Sound s) : AnswerSound (execColResetDrainTimeout c s) :=
  h.act (fun h => h.dropHeld.setRegions)
theorem Sound.resetColumn {c : Nat} (h : Sound s) : Sound (s.resetColumn c) :=
  .foldl h.resetRange.setRegions (fun h => .foldl h (fun h => h.planQuota))
theorem Sound.execColResetEnd {c : Nat} (h : Sound s) : AnswerSound (execColResetEnd c s) := h.act (fun h => h.resetColumn)

/-! Sys2Proof/Machine/Reset.lean -/

theorem Sound.loseCommands (h : Sound s) : Sound s.loseCommands := .foldl h (fun h => (by split; exacts [h.logHif, h]))
theorem Sound.lostHost {cause : Nat} (h : Sound s) : Sound (s.lostHost cause) := .ite h.logHif h.loseCommands
theorem Sound.breakFreeze (h : Sound s) : Sound s.breakFreeze := .ite h.set.set.logDbg h
theorem Sound.closeBypass {ring : Nat} (h : Sound s) : Sound (s.closeBypass ring) := .ite (.ite h.setRingCtl h) h.setRingCtl.set.inc
theorem Sound.resetCause {cause : Nat} (h : Sound s) : Sound (s.resetCause cause) := h.setAll
theorem Sound.resetRegs (h : Sound s) : Sound s.resetRegs := .of_mem h rfl
theorem Sound.dropRequests (h : Sound s) : Sound s.dropRequests := .foldl h.setRegions (fun h => h.countSlots)
theorem Sound.resetUnits (h : Sound s) : Sound s.resetUnits := .of_mem h rfl
theorem Sound.devReset {cause : Nat} {keep : Bool} (h : Sound s) : Sound (s.devReset cause keep) :=
  .resetUnits (.resetRegs (.dropRequests (.set (.resetCause (.closeBypass (.closeBypass (.ite h.set.lostHost.breakFreeze.logDbg
    h.set.lostHost.breakFreeze)))))))

/-! Sys2Proof/Machine/TileControl.lean -/

theorem Sound.flushSpans {i n : Nat} {l : List SpanLog} (h : Sound s) : Sound (flushSpans i n l s) := by
  induction l generalizing s with
  | nil => exact h
  | cons p l ih => exact .ite (ih (.ite h.setStream h.setStream.logEntry)) (ih h)
theorem Sound.flush {i n : Nat} (h : Sound s) : Sound (s.flush i n) := h.flushSpans
theorem Sound.faultAt {i n code pc op layer oper : Nat} (h : Sound s) : Sound (s.faultAt i n code pc op layer oper) :=
  .ite h.setPc.seqTo.latch.setStream.report.failTile h.setPc.seqTo.latch.setStream.report.recordFail
theorem Sound.tileFault {i n code : Nat} (h : Sound s) : Sound (s.tileFault i n code) := h.faultAt
theorem Sound.event {i : Nat} {evt : Option Nat} (h : Sound s) : Sound (s.event i evt) := by
  unfold State.event
  split
  exacts [h.inc, h]
theorem Sound.launch {i n w : Nat} {j : Job'} (h : Sound s) : Sound (s.launch i n w j) := by
  unfold State.launch
  dsimp only
  split
  exacts [.ite h.setTile.setStream h.setTile, h.setTile]
theorem Sound.advance {i n layer oper : Nat} (h : Sound s) : Sound (s.advance i n layer oper) :=
  .ite h.inc.seqTo.faultAt h.inc.seqTo.setPc
theorem Sound.upset {i : Nat} {bad : List Nat} (h : Sound s) : Sound (s.upset i bad) := h.setTile
theorem Sound.ruleNop {a a1 a2 : Nat} (h : Sound s) : VerdictSound (ruleNop a a1 a2 s) := .ite trivial h
theorem Sound.ruleTag {a a1 a2 : Nat} (h : Sound s) : VerdictSound (ruleTag a a1 a2 s) := .ite trivial h.setStream.flush.traceRec
theorem Sound.ruleWait {a a1 a2 : Nat} (h : Sound s) : VerdictSound (ruleWait a a1 a2 s) := .ite trivial (.ite trivial (.ite h trivial))
theorem Sound.ruleSignal {a a1 a2 : Nat} (h : Sound s) : VerdictSound (ruleSignal a a1 a2 s) := .ite trivial h.addTo
theorem Sound.ruleXadd {a a1 a2 : Nat} (h : Sound s) : VerdictSound (ruleXadd a a1 a2 s) := .ite trivial h.setStream
theorem Sound.ruleXget {a a1 a2 : Nat} (h : Sound s) : VerdictSound (ruleXget a a1 a2 s) := .ite trivial h.setStream
theorem Sound.ruleBnz {a a1 a2 : Nat} (h : Sound s) : VerdictSound (ruleBnz a a1 a2 s) :=
  .ite trivial (.ite trivial (.ite h.setStream h.setStream))
theorem Sound.ruleKset {a a1 a2 : Nat} (h : Sound s) : VerdictSound (ruleKset a a1 a2 s) := .ite trivial h.setStream
theorem Sound.endIssue {i n w : Nat} (h : Sound s) : Sound (s.endIssue i n w) := h.setStream.flush.launch.inc.setPc.stall
theorem Sound.setScoreFull {i i1 : Nat} {b : Bool} (h : Sound s) : Sound (setScoreFull s i i1 b) := h.setBit
theorem Sound.setBank {i n ou b st : Nat} {v : Bank} (h : Sound s) : Sound (s.setBank i n ou b st v) := h.setTile.set.set
theorem Sound.fillHalf {i n layer oper : Nat} {f : HalfFill} (h : Sound s) : Sound (s.fillHalf i n layer oper f) :=
  h.setTile.set.set.counted
theorem Sound.fillFreed {i hd : Nat} (h : Sound s) : Sound (s.fillFreed i hd) := by
  unfold State.fillFreed
  split
  exacts [h, h.setTile.fillHalf]
theorem Sound.freeHalf {i hd : Nat} (h : Sound s) : Sound (s.freeHalf i hd) := h.setTile.set.set.fillFreed
theorem Sound.releaseSegment {seg attempt : Nat} (h : Sound s) : Sound (s.releaseSegment seg attempt) := .ite (.of_mem h rfl) h
theorem Sound.releaseAll {i n : Nat} (h : Sound s) : Sound (s.releaseAll i n) :=
  .ite (.freeHalf (.ite h.setTile.freeHalf h.setTile)) (.ite h.setTile.freeHalf h.setTile)
theorem Sound.post {i n id : Nat} {a : Post} (h : Sound s) : Sound (s.post i n id a) := by
  unfold State.post
  split
  · exact h.setTile.set
  · exact .ite h.addTo.count.set.setTile h.addTo.count.set
  · exact h.set
  · exact .ite h.freeHalf h
  · exact h.setBank
  · exact h.set
  · exact .foldl h.set.set.addTo.count (fun h => h.setScoreFull.setTile)
  · exact h.releaseSegment
  · exact h.releaseAll.seqTo.setStream
theorem Sound.lateCrc {i : Nat} {f : Flight} (h : Sound s) : Sound (s.lateCrc i f) := .ite h.setStream h
theorem Sound.execInstructionComplete {i id : Nat} (h : Sound s) : AnswerSound (execInstructionComplete i id s) := by
  unfold Machine.execInstructionComplete
  split
  exacts [h, h.act (fun h => .armSettle (.flush (.event (.setTile (.foldl h.lateCrc (fun h => h.post))))))]

/-! Sys2Proof/Machine/HostMem.lean -/

theorem Sound.setHost {f : HostCtl → HostCtl} (h : Sound s) : Sound (s.setHost f) := .of_mem h rfl
theorem Sound.hostRow {r : HostReq} {training : State → State} {serve : Res} (hk : ∀ {t}, Sound t → Sound (training t)) (h : Sound s) (hr
    : AnswerSound serve) : AnswerSound (hostRow r training s serve) :=
  .ite h.setHost (.ite (hk h) hr)
theorem Sound.refuseRead (h : Sound s) : Sound s.refuseRead := h.emit
theorem Sound.noteRetained (h : Sound s) : Sound s.noteRetained := .ite h h.setHost.logHif
theorem Sound.hostReadSector {hd : Nat} (h : Sound s) : Sound (s.hostReadSector hd).1 := by
  unfold State.hostReadSector
  dsimp only
  split
  · exact h
  · split
    next e => exact .of_fst e h.readRow
    next e => exact .of_fst e h.readRow
theorem Sound.hostWriteSector {hd : Nat} {d : List Byte} {m : List Bool} (h : Sound s) : Sound (s.hostWriteSector hd d m) :=
  .ite h h.mergeRow
theorem Sound.noteReserved {x n : Nat} (h : Sound s) : Sound (s.noteReserved x n) := .ite h.logHif h
theorem Sound.readSectors {l : List Nat} (h : Sound s) : Sound (readSectors l s).1 := by
  induction l generalizing s with
  | nil => exact h
  | cons a l ih => exact ih h.hostReadSector
theorem Sound.hostRead {x n : Nat} (h : Sound s) : Sound (s.hostRead x n) := .ite h.noteRetained.emit h.noteReserved.readSectors.emit
theorem Sound.hostWrite {x : Nat} {data : List Byte} {mask : List Bool} (h : Sound s) : Sound (s.hostWrite x data mask) :=
  .ite h.noteRetained (.foldl h.noteReserved (fun h => .ite h.hostWriteSector h))
theorem Sound.barRead {x n : Nat} (h : Sound s) : AnswerSound (State.barRead x n s) := h.doIf (fun h => h.hostRead)
theorem Sound.execBar2Read {x n : Nat} (h : Sound s) : AnswerSound (execBar2Read x n s) :=
  Sound.hostRow (fun h => h.refuseRead) h h.barRead
theorem Sound.barWrite {x : Nat} {data : List Byte} {mask : List Bool} (h : Sound s) : AnswerSound (State.barWrite x data mask s) :=
  h.doIf (fun h => h.hostWrite)
theorem Sound.execBar2Write {x : Nat} {data : List Byte} {mask : List Bool} (h : Sound s) : AnswerSound (execBar2Write x data mask s) :=
  Sound.hostRow (fun h => h) h h.barWrite
theorem Sound.badAccess {off len : Nat} (h : Sound s) : AnswerSound (State.badAccess off len s) := h.doIf (fun h => h.emit)
theorem Sound.execBar0Unsupported {off len : Nat} (h : Sound s) : AnswerSound (execBar0Unsupported off len s) :=
  Sound.hostRow (fun h => h.refuseRead) h h.badAccess
theorem Sound.cxlRead {hpa share : Nat} (h : Sound s) : AnswerSound (State.cxlRead hpa share s) :=
  h.doIf (fun h => .ite h.hostRead.setHost h.hostRead)
theorem Sound.execCxlMemRead {hpa share : Nat} (h : Sound s) : AnswerSound (execCxlMemRead hpa share s) :=
  Sound.hostRow (fun h => h.refuseRead) h h.cxlRead
theorem Sound.cxlWrite {hpa : Nat} {data : List Byte} {mask : List Bool} (h : Sound s) : AnswerSound (State.cxlWrite hpa data mask s) :=
  h.doIf (fun h => h.hostWrite)
theorem Sound.execCxlMemWrite {hpa : Nat} {data : List Byte} {mask : List Bool} (h : Sound s) : AnswerSound (execCxlMemWrite hpa data
    mask s) :=
  Sound.hostRow (fun h => h) h h.cxlWrite
theorem Sound.landLine {e : FarFill} {data : List Byte} (h : Sound s) : Sound (s.landLine e data) := .foldl h (fun h => .ite h h.setTile)
theorem Sound.failFlights {i : Nat} {hit : Flight → Bool} (h : Sound s) : Sound (s.failFlights i hit) :=
  .armSettle (.foldl h.setTile (fun h => h.faultAt))
theorem Sound.failUnits {line : Nat} (h : Sound s) : Sound (s.failUnits line) := h.updFault
theorem Sound.failLine {e : FarFill} {code : Nat} (h : Sound s) : Sound (s.failLine e code) :=
  .ite (.failUnits (.foldl h.logHif (fun h => .ite h h.failFlights))) (.foldl h.logHif (fun h => .ite h h.failFlights))
theorem Sound.fillReturns {e : FarFill} {data : List Byte} (h : Sound s) : Sound (s.fillReturns e data) :=
  .landLine (.ite (.setFar (.ite h.farInstall h)) (.ite h.farInstall h))
theorem Sound.writeReturns {w : FarWrite} {code : Nat} (h : Sound s) : Sound (s.writeReturns w code) :=
  .ite (.ite h h.setTile) (.ite (.failUnits (.ite h.logHif h.logHif.failFlights)) (.ite h.logHif h.logHif.failFlights))
theorem Sound.execFarCacheFillDone {part line : Nat} {cached write : Bool} {data : List Byte} {err : Nat} (h : Sound s) : AnswerSound
    (execFarCacheFillDone part line cached write data err s) :=
  .ite (by split; exacts [h, h.act (fun h => h.setFar.writeReturns)]) (by split; exacts [h, h.act (fun h => .ite h.setFar.failLine
    h.setFar.fillReturns)])
theorem Sound.execHostSnoop {line kind : Nat} (h : Sound s) : AnswerSound (execHostSnoop line kind s) := h.doIf (fun h => h.emit.setFar)
theorem Sound.execLinkRecovery (h : Sound s) : AnswerSound (execLinkRecovery s) := h.doIf (fun h => h.set.setHost)
theorem Sound.sendWaiting (h : Sound s) : Sound s.sendWaiting := h.setHost.emitAll
theorem Sound.devResetRow {c : Bool} {cause : Nat} (h : Sound s) : AnswerSound (devResetRow c cause s) := h.doIf (fun h => h.devReset)
theorem Sound.execLinkOutTimeout (h : Sound s) : AnswerSound (execLinkOutTimeout s) := h.devResetRow
theorem Sound.execHotReset (h : Sound s) : AnswerSound (execHotReset s) := h.devResetRow
theorem Sound.execFunctionLevelReset (h : Sound s) : AnswerSound (execFunctionLevelReset s) := h.devResetRow
theorem Sound.execDlDown (h : Sound s) : AnswerSound (execDlDown s) := h.devResetRow
theorem Sound.assertPerst (h : Sound s) : Sound s.assertPerst := .devReset (.of_mem h rfl)
theorem Sound.execPerst (h : Sound s) : AnswerSound (execPerst s) := h.doIf (fun h => h.assertPerst)
theorem Sound.execPerstDeassert (h : Sound s) : AnswerSound (execPerstDeassert s) := h.doIf (fun h => .of_mem h rfl)
theorem Sound.configure {hdmBase maxPayload maxRead : Option Nat} (h : Sound s) : AnswerSound (State.configure hdmBase maxPayload maxRead
    s) :=
  h.doIf (fun h => .ite h.emit.setHost h.emit)
theorem Sound.execConfigRequest {hdmBase maxPayload maxRead : Option Nat} (h : Sound s) : AnswerSound (execConfigRequest hdmBase
    maxPayload maxRead s) :=
  .ite h.setHost h.configure

/-! Sys2Proof/Machine/HostQueue.lean -/

theorem Sound.setQueue {q : Nat} {f : HostQueue → HostQueue} (h : Sound s) : Sound (s.setQueue q f) := h.setHost
theorem Sound.setCmd {q : Nat} {f : HostCmd → HostCmd} (h : Sound s) : Sound (s.setCmd q f) := h.setQueue
theorem Sound.stopQueue {q : Nat} (h : Sound s) : Sound (s.stopQueue q) := h.setQueue.set.logHif
theorem Sound.execQueueEnable {m q size : Nat} (h : Sound s) : AnswerSound (execQueueEnable m q size s) :=
  h.doIf (fun h => .ite h.setAll (.ite h.setAll.setAll.setQueue.stopQueue h.setAll.setAll.setQueue))
theorem Sound.execQueueDisable {m q : Nat} (h : Sound s) : AnswerSound (execQueueDisable m q s) := h.doIf (fun h => h.set.setQueue)
theorem Sound.doorbell {q : Nat} {f : Fld} {v : Nat} (h : Sound s) : Sound (s.doorbell q f v) := .ite h.set.stopQueue h.set
theorem Sound.execSqTailDoorbell {m q v : Nat} (h : Sound s) : AnswerSound (execSqTailDoorbell m q v s) := h.doIf (fun h => h.doorbell)
theorem Sound.execCqHeadDoorbell {m q v : Nat} (h : Sound s) : AnswerSound (execCqHeadDoorbell m q v s) :=
  h.doIf (fun h => .ite h.doorbell h.doorbell.set)
theorem Sound.execDescriptorFetch {q : Nat} {bytes : List Byte} (h : Sound s) : AnswerSound (execDescriptorFetch q bytes s) :=
  h.doIf (fun h => h.toHost.set.setQueue.setHost)
theorem Sound.endCmd {q stage status result : Nat} (h : Sound s) : Sound (s.endCmd q stage status result) := .ite h.setCmd.logHif h.setCmd
theorem Sound.noteRestore {d : List Byte} {bad : Bool} (h : Sound s) : Sound (s.noteRestore d bad) := .of_mem h rfl
theorem Sound.startCmd {q : Nat} {f : Fetched} {rest : List Fetched} (h : Sound s) : Sound (s.startCmd q f rest) :=
  .ite (.endCmd (.ite h.setQueue.set.noteRestore h.setQueue.set)) (.ite h.setQueue.set.endCmd h.setQueue.set)
theorem Sound.execCommandStart {q : Nat} (h : Sound s) : AnswerSound (execCommandStart q s) := by
  unfold Machine.execCommandStart
  dsimp only
  split
  exacts [h, h.doIf (fun h => h.startCmd)]
theorem Sound.execCmdNop {q : Nat} (h : Sound s) : AnswerSound (execCmdNop q s) := h.doIf (fun h => h.endCmd)
theorem Sound.hostLine {line : Nat} {data : List Byte} (h : Sound s) : Sound (s.hostLine line data).1 := by
  unfold State.hostLine
  dsimp only
  split
  exacts [h, (by split; exacts [h.farTouch.count.farGet, h.count])]
theorem Sound.postHost {addr : Nat} {l : List Byte} (h : Sound s) : Sound (s.postHost addr l) := h.toHost
theorem Sound.cmdHostWrite {addr : Nat} {l : List Byte} (h : Sound s) : Sound (s.cmdHostWrite addr l) := by
  refine .ite h ?_
  extract_lets lines s1
  have h1 : Sound s1 := .foldl h fun h => h.farOwn
  refine .ite h1.postHost (.foldl h1 fun h => ?_)
  split
  exacts [h.count.farTouch.farInstall.cacheWrite, h]
theorem Sound.moveSectors {src dst : Buf} {so dof : Nat} {host : List Byte} {err : Option (Nat × Nat)} {l : List Nat} (h : Sound s) :
    Sound (moveSectors src dst so dof host err l s).1 := by
  induction l generalizing s with
  | nil => exact h
  | cons i l ih =>
    rw [Machine.moveSectors]
    split
    · exact h
    · split
      next t d e =>
        have ht : Sound t := .of_fst e (by split; exacts [h.hostLine, h.readRow])
        split
        · exact ht
        · split
          next e =>
            have hw := Sound.of_fst e (by split; exacts [ht, ht.writeRow])
            split
            exacts [hw, ih hw]
theorem Sound.doCopy {q : Nat} {c : HostCmd} {host : List Byte} {err : Option (Nat × Nat)} (h : Sound s) : Sound (s.doCopy q c host err)
    :=
  .endCmd (.ite (.cmdHostWrite (.ite h.moveSectors.readHost h.moveSectors)) (.ite h.moveSectors.readHost h.moveSectors))
theorem Sound.cmdRow {q op : Nat} {k : HostCmd → State → State} (h : Sound s) (hk : ∀ {x t}, Sound t → Sound (k x t)) : AnswerSound
    (cmdRow q op s k) := by
  unfold Machine.cmdRow
  split
  exacts [h, h.doIf (fun h => hk h)]
theorem Sound.execCopy {q : Nat} {host : List Byte} {err : Option (Nat × Nat)} (h : Sound s) : AnswerSound (execCopy q host err s) :=
  h.cmdRow (fun h => h.doCopy)
theorem Sound.doFill {q : Nat} {c : HostCmd} {err : Option (Nat × Nat)} (h : Sound s) : Sound (s.doFill q c err) := by
  unfold State.doFill
  extract_lets sector off
  split
  next e =>
    have hr := Sound.of_fst e (.foldl_fst h fun h => by
      split
      · exact h
      · split
        · exact h
        · split
          · exact h
          · split
            next e => exact .of_fst e h.writeRow)
    exact .endCmd (.ite hr.cmdHostWrite hr)
theorem Sound.execFill {q : Nat} {err : Option (Nat × Nat)} (h : Sound s) : AnswerSound (execFill q err s) := h.cmdRow (fun h => h.doFill)
theorem Sound.doFlush {q : Nat} {c : HostCmd} {err : Option Nat} (h : Sound s) : Sound (s.doFlush q c err) :=
  .endCmd (.setFar (.foldl h.toHost (fun h => h.inc)))
theorem Sound.execFcFlush {q : Nat} {err : Option Nat} (h : Sound s) : AnswerSound (execFcFlush q err s) := h.cmdRow (fun h => h.doFlush)
theorem Sound.biasSettle {q : Nat} {c : HostCmd} (h : Sound s) : Sound (s.biasSettle q c) :=
  .ite (.endCmd (.foldl h (fun h => h.setAll))) (.setCmd (.foldl h (fun h => h.setAll)))
theorem Sound.biasBegin {q : Nat} {c : HostCmd} (h : Sound s) : Sound (s.biasBegin q c) :=
  .ite h.endCmd (.biasSettle (.setCmd (.toHost (.setHost (.foldl h (fun h => h.setAll))))))
theorem Sound.execBias {q : Nat} (h : Sound s) : AnswerSound (execBias q s) := by
  unfold Machine.execBias
  split
  exacts [h.doIf (fun h => h.biasBegin), h.doIf (fun h => h.biasSettle), h]
theorem Sound.biasAll (h : Sound s) : Sound s.biasAll := .foldl h (fun h => (by split; exacts [h.biasSettle, h]))
theorem Sound.execBisnpResponse {line : Nat} {inv : Bool} {data : Option (List Byte)} (h : Sound s) : AnswerSound (execBisnpResponse line
    inv data s) :=
  h.doIf (fun h => .biasAll (.setHost (by split; exacts [h.hostWriteSector, h])))
theorem Sound.execBiasSnoopTimeout {p : Nat} (h : Sound s) : AnswerSound (execBiasSnoopTimeout p s) :=
  h.doIf (fun h => .biasAll (.foldl h.setAll.setHost (fun h => h.setCmd)))
theorem Sound.writeFlag {c : HostCmd} (h : Sound s) : Sound (s.writeFlag c) := .ite h (.ite h.toHost h.hostWriteSector)
theorem Sound.completeCmd {q : Nat} {c : HostCmd} (h : Sound s) : Sound (s.completeCmd q c) :=
  .ite h.writeFlag.toHost.count.closeCommand.setQueue.set.raise h.writeFlag.toHost.count.closeCommand.setQueue.set
theorem Sound.execCommandComplete {q : Nat} (h : Sound s) : AnswerSound (execCommandComplete q s) := by
  unfold Machine.execCommandComplete
  split
  exacts [h, h.doIf (fun h => .ite h.set h.completeCmd)]

/-! Sys2Proof/Machine/Update.lean -/

theorem Sound.runPass {gi seg p : Nat} {late : Option Nat} {ver : Nat} {g : Group} (h : Sound s) : Sound (s.runPass gi seg p late ver g)
    := by
  unfold State.runPass
  split
  next e => exact .uRun (.of_fst e h.uStart)
  next e => exact .of_fst e h.uStart
theorem Sound.duePass {gi seg p : Nat} {scope : Bool} (h : Sound s) : AnswerSound (s.duePass gi seg p scope) := by
  unfold State.duePass
  split
  exacts [h, h.act (fun h => h.runPass)]
theorem Sound.execUpdateProgramSegment {g seg : Nat} (h : Sound s) : AnswerSound (execUpdateProgramSegment g seg s) := h.duePass
theorem Sound.execUpdateProgramPass {g p seg : Nat} (h : Sound s) : AnswerSound (execUpdateProgramPass g p seg s) := h.duePass
theorem Sound.setRuns {f : List URun → List URun} (h : Sound s) : Sound (s.setRuns f) := .of_mem h rfl
theorem Sound.runNext {r : URun} (h : Sound s) : Sound (s.runNext r) := by
  unfold State.runNext
  split
  next e => exact .setRuns (.of_fst e h.uStep)
  next e => exact .setBusy (.setRuns (.of_fst e h.uStep))
theorem Sound.runBegin {gi seg p : Nat} {g : Group} (h : Sound s) : Sound (s.runBegin gi seg p g) := by
  unfold State.runBegin
  split
  next e => exact .runNext (.setBusy (.setRuns (.of_fst e h.uStart)))
  next e => exact .of_fst e h.uStart
theorem Sound.unitOp {op unit : Nat} (h : Sound s) : AnswerSound (unitOp op unit s) := by
  unfold Machine.unitOp
  split
  exacts [h, h.act (fun h => h.runNext)]
theorem Sound.unitBegin {op unit gi seg p : Nat} (h : Sound s) : AnswerSound (unitBegin op unit gi seg p s) := by
  unfold Machine.unitBegin
  split
  exacts [h, h.act (fun h => h.runBegin)]
theorem Sound.execUpdPass {unit g seg p : Nat} (h : Sound s) : AnswerSound (execUpdPass unit g seg p s) := .ite h.unitOp h.unitBegin
theorem Sound.execUpdWcf {unit g seg : Nat} (h : Sound s) : AnswerSound (execUpdWcf unit g seg s) := .ite h.unitOp h.unitBegin
theorem Sound.execUpdEnd {unit : Nat} (h : Sound s) : AnswerSound (execUpdEnd unit s) := h.unitOp
theorem Sound.execUpdAdd {unit : Nat} (h : Sound s) : AnswerSound (execUpdAdd unit s) := h.unitOp
theorem Sound.execUpdSub {unit : Nat} (h : Sound s) : AnswerSound (execUpdSub unit s) := h.unitOp
theorem Sound.execUpdMul {unit : Nat} (h : Sound s) : AnswerSound (execUpdMul unit s) := h.unitOp
theorem Sound.execUpdFma {unit : Nat} (h : Sound s) : AnswerSound (execUpdFma unit s) := h.unitOp
theorem Sound.execUpdMax {unit : Nat} (h : Sound s) : AnswerSound (execUpdMax unit s) := h.unitOp
theorem Sound.execUpdMin {unit : Nat} (h : Sound s) : AnswerSound (execUpdMin unit s) := h.unitOp
theorem Sound.execUpdNeg {unit : Nat} (h : Sound s) : AnswerSound (execUpdNeg unit s) := h.unitOp
theorem Sound.execUpdAbs {unit : Nat} (h : Sound s) : AnswerSound (execUpdAbs unit s) := h.unitOp
theorem Sound.execUpdCmplt {unit : Nat} (h : Sound s) : AnswerSound (execUpdCmplt unit s) := h.unitOp
theorem Sound.execUpdSel {unit : Nat} (h : Sound s) : AnswerSound (execUpdSel unit s) := h.unitOp
theorem Sound.execUpdExp2 {unit : Nat} (h : Sound s) : AnswerSound (execUpdExp2 unit s) := h.unitOp
theorem Sound.execUpdLog2 {unit : Nat} (h : Sound s) : AnswerSound (execUpdLog2 unit s) := h.unitOp
theorem Sound.execUpdRcp {unit : Nat} (h : Sound s) : AnswerSound (execUpdRcp unit s) := h.unitOp
theorem Sound.execUpdRsqrt {unit : Nat} (h : Sound s) : AnswerSound (execUpdRsqrt unit s) := h.unitOp
theorem Sound.execUpdSqrt {unit : Nat} (h : Sound s) : AnswerSound (execUpdSqrt unit s) := h.unitOp
theorem Sound.execUpdAcc {unit : Nat} (h : Sound s) : AnswerSound (execUpdAcc unit s) := h.unitOp
theorem Sound.execUpdStw {unit : Nat} (h : Sound s) : AnswerSound (execUpdStw unit s) := h.unitOp
theorem Sound.execUpdStm {unit : Nat} (h : Sound s) : AnswerSound (execUpdStm unit s) := h.unitOp
theorem Sound.execUpdStf {unit : Nat} (h : Sound s) : AnswerSound (execUpdStf unit s) := h.unitOp
theorem Sound.execWcDerive (h : Sound s) : AnswerSound (execWcDerive s) := h.act (fun h => h.deriveNext)
theorem Sound.lateCopy {gi seg : Nat} (h : Sound s) : Sound (s.lateCopy gi seg) := by
  unfold State.lateCopy
  extract_lets n u
  split
  next e =>
    have hr := Sound.of_fst e h.readPart
    exact .ite hr.updFault (.ite hr.setPending.podSum hr.slotWrite)
theorem Sound.execLatePendingCopy {g seg : Nat} (h : Sound s) : AnswerSound (execLatePendingCopy g seg s) := by
  unfold Machine.execLatePendingCopy
  split
  exacts [h, h.act (fun h => h.lateCopy)]
theorem Sound.lateApply {gi n ver : Nat} {g : Group} {own : List Nat} (h : Sound s) : Sound (s.lateApply gi n ver g own) := by
  unfold State.lateApply
  extract_lets drop _ s1 passes s2 s3
  have h1 : Sound s1 := .of_mem h rfl
  have h2 : Sound s2 := .foldl h1 fun h => .foldl h fun h => h.runPass
  have h3 : Sound s3 := by
    unfold s3
    split
    exacts [h2.setPending, h2]
  exact .dropLoose (.of_mem h3 rfl)
theorem Sound.execLateApplication {g n : Nat} (h : Sound s) : AnswerSound (execLateApplication g n s) := by
  unfold Machine.execLateApplication
  split
  exacts [h, h.act (fun h => .ite h.lateApply (.foldl h (fun h => h.uInputs)))]
theorem Sound.podSend {gi seg pod k : Nat} (h : Sound s) : Sound (s.podSend gi seg pod k) := by
  unfold State.podSend
  extract_lets n self qp
  split
  next e =>
    have hr := Sound.of_fst e h.readPart
    exact .ite hr.updFault (.of_mem hr rfl)
theorem Sound.execPodExchangeSend {g seg pod : Nat} (h : Sound s) : AnswerSound (execPodExchangeSend g seg pod s) := by
  unfold Machine.execPodExchangeSend
  split
  exacts [h, h.act (fun h => h.podSend)]
theorem Sound.podReceive {gi pod n seg crc : Nat} (h : Sound s) : Sound (s.podReceive gi pod n seg crc) := by
  unfold State.podReceive
  split
  split
  next e =>
    have hr := Sound.of_fst e h.readPart
    exact .ite hr (.podSum (.of_mem hr rfl))
theorem Sound.execPodCopyReceive {qp : Nat} {msg : List Byte} (h : Sound s) : AnswerSound (execPodCopyReceive qp msg s) := by
  unfold Machine.execPodCopyReceive
  dsimp only
  split
  exacts [h, h.act (fun h => h.podReceive)]
theorem Sound.execPodTimeout {g n : Nat} (h : Sound s) : AnswerSound (execPodTimeout g n s) := by
  unfold Machine.execPodTimeout
  split
  exacts [h.act (fun h => h.logEth.recordFail), h]

/-! Sys2Proof/Machine/Storage.lean -/

theorem Sound.setEth {f : EthCtl → EthCtl} (h : Sound s) : Sound (s.setEth f) := .of_mem h rfl
theorem Sound.failStorage {q code qp : Nat} (h : Sound s) : Sound (s.failStorage q code qp) := h.logEth.endCmd
theorem Sound.execNvmeRead {q : Nat} (h : Sound s) : AnswerSound (execNvmeRead q s) := by
  unfold Machine.execNvmeRead
  split
  exacts [h, h.doIf (fun h => .ite h.endCmd h.setCmd.issueNvme)]
theorem Sound.readSource {req : Nat} {src : Buf} {off : Nat} {host : List Byte} {err : Option (Nat × Nat)} {l : List Nat} (h : Sound s) :
    Sound (readSource req src off host err l s).1 := by
  induction l generalizing s with
  | nil => exact h
  | cons i l ih =>
    have hr {a b c n : Nat} {d : List Byte} : Sound (if src.kind = 1 then s.hostLine a d else s.readRow b c n).1 := by
      split
      exacts [h.hostLine, h.readRow]
    rw [Machine.readSource]
    dsimp only
    split
    · exact h
    · split
      exacts [hr, ih hr]
theorem Sound.execNvmeWrite {q : Nat} {host : List Byte} {err : Option (Nat × Nat)} (h : Sound s) : AnswerSound (execNvmeWrite q host err
    s) := by
  unfold Machine.execNvmeWrite
  split
  exacts [h, h.doIf (fun h => .ite h.readSource.endCmd (.ite h.readSource.endCmd h.readSource.setCmd.issueNvme))]
theorem Sound.landRead {dst : Buf} {off : Nat} {data : List Byte} (h : Sound s) : Sound (s.landRead dst off data).1 := by
  unfold State.landRead
  split
  · exact h.cmdHostWrite
  · refine .foldl_fst h fun h => ?_
    split
    · exact h
    · split
      next e => exact .of_fst e h.writeRow
theorem Sound.execCkptWrite {q : Nat} (h : Sound s) : AnswerSound (execCkptWrite q s) := by
  unfold Machine.execCkptWrite
  split
  exacts [h, h.doIf (fun h => h.setCmd.issueNvme)]
theorem Sound.readParts {l : List CkptPart} {host : List Byte} (h : Sound s) : Sound (readParts l host s).1 := by
  induction l generalizing host s with
  | nil => exact h
  | cons p l ih =>
    rw [Machine.readParts]
    split
    · exact ih h
    · dsimp only
      split
      exacts [h.readMem, ih h.readMem]
theorem Sound.execCkptReadComplete {q : Nat} {host : List Byte} {err : Nat} (h : Sound s) : AnswerSound (execCkptReadComplete q host err
    s) := by
  unfold Machine.execCkptReadComplete
  split
  exacts [h, h.doIf (fun h => .ite h.readParts.endCmd (.ite h.readParts.setCmd.setCmd.issueNvme h.readParts.setCmd.issueNvme))]
theorem Sound.ckptNext {q : Nat} {c : HostCmd} (h : Sound s) : Sound (s.ckptNext q c) :=
  .ite h.setCmd (.ite h.setCmd.issueNvme (.ite h.setCmd.issueNvme h.endCmd))
theorem Sound.execCkptRestore {q : Nat} (h : Sound s) : AnswerSound (execCkptRestore q s) := by
  unfold Machine.execCkptRestore
  split
  exacts [h, h.doIf (fun h => h.setCmd.issueNvme)]
theorem Sound.restoreEnd {q code written : Nat} {c : HostCmd} (h : Sound s) : Sound (s.restoreEnd q code written c) :=
  .ite (.failStorage (.ite h.noteRestore.forgetGathers.setAll h.noteRestore)) (.endCmd (.ite h.noteRestore.forgetGathers.setAll
    h.noteRestore))
theorem Sound.restoreEntry {same : Bool} {e : CkptEntry} {l : List Byte} {n : Nat} (h : Sound s) : Sound (s.restoreEntry same e l n).1 :=
    by
  unfold State.restoreEntry
  split
  · exact h
  · dsimp only
    split
    · split
      exacts [h.unitStore, h]
    · split
      exacts [(by split; exacts [h.unitStore, h]), (by split; exacts [h.unitWrite.setPending, h])]
theorem Sound.restoreData {q : Nat} {c : HostCmd} {data : List Byte} (h : Sound s) : Sound (s.restoreData q c data) :=
  .ite h.restoreEnd (.restoreEnd (.foldl_fst h (fun h => h.restoreEntry)))
theorem Sound.restoreNext {q : Nat} {c : HostCmd} {data : List Byte} (h : Sound s) : Sound (s.restoreNext q c data) :=
  .ite (.ite h.restoreEnd h.setCmd.issueNvme) (.ite (.ite h.restoreEnd (.ite h.restoreEnd (.ite h.setCmd.restoreData
    h.setCmd.issueNvme))) h.restoreData)
theorem Sound.execIngestEnable {m ctrl part blocks : Nat} (h : Sound s) : AnswerSound (execIngestEnable m ctrl part blocks s) :=
  h.doIf (fun h => .ite h.setAll.set.logEth h.setAll.set)
theorem Sound.execIngestPrefill {q : Nat} (h : Sound s) : AnswerSound (execIngestPrefill q s) := by
  unfold Machine.execIngestPrefill
  split
  exacts [h, h.doIf (fun h => .ite h.failStorage (.ite h.failStorage h.setCmd.ingestRead))]
theorem Sound.ingestLand {n : Nat} {data : List Byte} (h : Sound s) : Sound (s.ingestLand n data).1 := h.writePart
theorem Sound.execIngestComplete (h : Sound s) : AnswerSound (execIngestComplete s) := by
  unfold Machine.execIngestComplete
  split
  exacts [h, h.act (fun h => .set (.of_mem h rfl))]
theorem Sound.nvmeDone {op : NvmeOp} {data : List Byte} (h : Sound s) : Sound (s.nvmeDone op data) := by
  unfold State.nvmeDone
  split
  · split
    · exact h
    · exact .ite h.ingestLand.ingestFail h.ingestLand
  · split
    · exact h
    · exact .ite h.landRead.endCmd (.ite h.endCmd (.ite h.ckptNext (.ite h.restoreNext (.endCmd (.ite h.ingestLand.set h.ingestLand)))))
theorem Sound.nvmeFail {op : NvmeOp} {code : Nat} (h : Sound s) : Sound (s.nvmeFail op code) :=
  .ite h.logEth.ingestFail (by split; exacts [h, .failStorage (.ite h.noteRestore h)])
theorem Sound.execNvmeCompletion {id status : Nat} {data : List Byte} (h : Sound s) : AnswerSound (execNvmeCompletion id status data s)
    := by
  unfold Machine.execNvmeCompletion
  split
  exacts [h, h.act (fun h => .ite h.setEth.pumpNvme.count.nvmeDone h.setEth.pumpNvme.nvmeFail)]
theorem Sound.execNvmeTimeout {id : Nat} (h : Sound s) : AnswerSound (execNvmeTimeout id s) := by
  unfold Machine.execNvmeTimeout
  split
  exacts [h, h.act (fun h => h.setEth.pumpNvme.nvmeFail)]
theorem Sound.execNamespaceReport {ctrl block : Nat} {metadata : Bool} {blocks : Nat} (h : Sound s) : AnswerSound (execNamespaceReport
    ctrl block metadata blocks s) :=
  h.doIf (fun h => .ite h.setEth.logEth h.setEth)

/-! Sys2Proof/Machine/Ethernet.lean -/

theorem Sound.execPodSetWrite {m k timeout part base self count : Nat} (h : Sound s) : AnswerSound (execPodSetWrite m k timeout part base
    self count s) :=
  h.doIf (fun h => .ite h.logEth h.setAll)
theorem Sound.execPtpEnable {m p : Nat} (h : Sound s) : AnswerSound (execPtpEnable m p s) := by
  refine h.doIf (fun h => ?_)
  split
  · exact h.report
  next e =>
    split
    · exact h.report
    next e' => exact .set (.of_fst e' (.claim (.of_fst e h.claim)))
theorem Sound.peerWrite {addr : Nat} {data : List Byte} (h : Sound s) : Sound (s.peerWrite addr data).1 :=
  .foldl_fst h (fun h => (by split; exacts [h, h.mergeRow]))
theorem Sound.peerRead {addr len : Nat} (h : Sound s) : Sound (s.peerRead addr len).1 := by
  refine .foldl_fst h (fun h => ?_)
  split
  · exact h
  · split
    next e => exact .of_fst e h.readRow
    next e => exact .of_fst e h.readRow
theorem Sound.execPeerRdmaRequest {qp : Nat} {write : Bool} {rkey addr len : Nat} {data : List Byte} (h : Sound s) : AnswerSound
    (execPeerRdmaRequest qp write rkey addr len data s) := by
  refine h.doIf (fun h => .ite h.emit (.ite (.emit (.foldl_fst h (fun h => ?_))) (.emit (.foldl_fst h (fun h => ?_)))))
  · split
    exacts [h, h.mergeRow]
  · split
    · exact h
    · split
      next e => exact .of_fst e h.readRow
      next e => exact .of_fst e h.readRow
theorem Sound.execQpError {qp : Nat} (h : Sound s) : AnswerSound (execQpError qp s) := by
  refine h.act fun h => ?_
  extract_lets s1 s2 lost s3 s4
  have h3 : Sound s3 := h.setEth.logEth.setEth
  have h4 : Sound s4 := .ite h3.recordFail h3
  refine .foldl h4 fun h => .ite h.ingestFail ?_
  split
  exacts [.endCmd (.ite h.noteRestore h), h]
theorem Sound.execEthLinkDown {p : Nat} (h : Sound s) : AnswerSound (execEthLinkDown p s) := h.doIf (fun h => h.setAll.logEth)
theorem Sound.execEthLinkUp {p lanes : Nat} (h : Sound s) : AnswerSound (execEthLinkUp p lanes s) := h.doIf (fun h => h.setAll.pumpNvme)
theorem Sound.execArpRequest {p : Nat} (h : Sound s) : AnswerSound (execArpRequest p s) := h.doIf (fun h => h.emit)

/-! Sys2Proof/Machine/Reduce.lean -/

theorem Sound.flitRow {kinds : FlitKind → Bool} {p : Nat} {back : Bool} {rx : LineRx} (h : Sound s) : AnswerSound (flitRow kinds p back
    rx s) :=
  h.lineRow (fun h => h.dataFlit (fun h => h.takeDigest))
theorem Sound.execReduceFlit {p : Nat} {back : Bool} {rx : LineRx} (h : Sound s) : AnswerSound (execReduceFlit p back rx s) := h.flitRow
theorem Sound.execGatherFlit {p : Nat} {back : Bool} {rx : LineRx} (h : Sound s) : AnswerSound (execGatherFlit p back rx s) := h.flitRow
theorem Sound.execSkipNotice {p : Nat} {back : Bool} {rx : LineRx} (h : Sound s) : AnswerSound (execSkipNotice p back rx s) := h.flitRow
theorem Sound.execDigestFlit {p : Nat} {back : Bool} {rx : LineRx} (h : Sound s) : AnswerSound (execDigestFlit p back rx s) := h.flitRow
theorem Sound.originate {j seg ring : Nat} {b : Job} (h : Sound s) : Sound (s.originate j seg ring b) := by
  unfold State.originate
  exact .refreshJob (.foldl (.of_mem h rfl) (fun h => .ite h h.doSlice))
theorem Sound.execOriginateSegment {seg ring : Nat} (h : Sound s) : AnswerSound (execOriginateSegment seg ring s) := by
  unfold Machine.execOriginateSegment
  split
  exacts [h, (by split; exacts [h, h.act (fun h => h.originate)])]
theorem Sound.heldAgain {e : HeldFlit} {rest : List HeldFlit} (h : Sound s) : Sound (s.heldAgain e rest) := by
  unfold State.heldAgain
  extract_lets behind others _ s1
  have h1 : Sound s1 := .takeFlit (.of_mem h rfl) fun h => h.takeDigest
  exact .ite h (.of_mem h1 rfl)
theorem Sound.execHeldSliceAdd {p c : Nat} (h : Sound s) : AnswerSound (execHeldSliceAdd p c s) := by
  unfold Machine.execHeldSliceAdd
  split
  exacts [h, h.act (fun h => h.heldAgain)]
theorem Sound.copyPlace {unit seg : Nat} {src dst : Option Place} {len : Nat} (h : Sound s) : Sound (s.copyPlace unit seg src dst len).1
    := by
  unfold State.copyPlace
  split
  · split
    next e => exact .of_fst e h.unitRead
    next e =>
      have h1 := Sound.of_fst e h.unitRead
      split
      exacts [h1.updFault, h1.unitStore]
  · exact h
theorem Sound.skipCopy (h : Sound s) : Sound s.skipCopy := by
  unfold State.skipCopy
  extract_lets v recs low r
  have hr : Sound r.1 := .foldl_fst h fun h => h.copyPlace
  exact .ite (.of_mem hr rfl) hr
theorem Sound.endRuns (h : Sound s) : Sound s.endRuns := .of_mem h rfl
theorem Sound.execSkipCopy (h : Sound s) : AnswerSound (execSkipCopy s) := h.act (fun h => h.endRuns.skipCopy)
theorem Sound.sendNotice {ring : Nat} (h : Sound s) : Sound (s.sendNotice ring) := .sendFlit (.sendFlit (.set (.of_mem h rfl)))
theorem Sound.execSkipNoticeSend {ring : Nat} (h : Sound s) : AnswerSound (execSkipNoticeSend ring s) := h.act (fun h => h.sendNotice)
theorem Sound.localRows {l : List Nat} (h : Sound s) : Sound (s.localRows l).1 := by
  induction l generalizing s with
  | nil => exact h
  | cons k l ih =>
    have hr : Sound (s.readPart (rqUPD + s.segUnit k) s.ring.redPart (65536 * k) 65536).1 := h.readPart
    unfold State.localRows
    dsimp only
    split
    exacts [hr, ih hr]
theorem Sound.lowFirst {j : Nat} {b : Job} {g units : List (List Nat)} (h : Sound s) : Sound (s.lowFirst j b g units) :=
  h.dropLoose.beginRound.retryHeld (fun h => h.takeDigest)
theorem Sound.lowBegin {j : Nat} {b : Job} (h : Sound s) : Sound (s.lowBegin j b) := by
  unfold State.lowBegin
  split
  next e => exact .haltJob (.of_fst e h.localRows)
  next e =>
    have h1 := Sound.of_fst e h.localRows
    split
    next e => exact .of_fst e h1.lowUnits
    next e => exact .updFault (.of_fst e h1.lowUnits)
    next e => exact .lowFirst (.of_fst e h1.lowUnits)
theorem Sound.execLowRankSequence {j : Nat} (h : Sound s) : AnswerSound (execLowRankSequence j s) := by
  unfold Machine.execLowRankSequence
  split
  exacts [h, h.act (fun h => h.lowBegin)]
theorem Sound.lowSecond {j : Nat} {b : Job} {e : LowRank} (h : Sound s) : Sound (s.lowSecond j b e) :=
  h.beginRound.retryHeld (fun h => h.takeDigest)
theorem Sound.lowRow {j r : Nat} {k : Job → LowRank → State → State} (h : Sound s) (hk : ∀ {x y t}, Sound t → Sound (k x y t)) :
    AnswerSound (lowRow j r s k) := by
  unfold Machine.lowRow
  split
  exacts [h.act (fun h => hk h), h]
theorem Sound.execLowRankRound1Done {j : Nat} (h : Sound s) : AnswerSound (execLowRankRound1Done j s) := h.lowRow (fun h => h.lowSecond)
theorem Sound.lowStore {j : Nat} {b : Job} {e : LowRank} {q : List Nat} (h : Sound s) : Sound (s.lowStore j b e q) :=
  .ite h (.foldl (.foldl h (fun h => h.lowWrite)) (fun h => h.lowWrite))
theorem Sound.lowRebuild {j seg : Nat} {b : Job} {e : LowRank} {q : List Nat} (h : Sound s) : Sound (s.lowRebuild j seg b e q) :=
  .segReduced (.of_mem h.ownerNote.writePart rfl)
theorem Sound.execLowRankRound2Done {j : Nat} (h : Sound s) : AnswerSound (execLowRankRound2Done j s) :=
  .ite h (h.lowRow (fun h => .foldl h.lowStore.set (fun h => h.lowRebuild)))
theorem Sound.execDigestCompute (h : Sound s) : AnswerSound (execDigestCompute s) := h.act (fun h => h.digestCompute)
theorem Sound.execNarrowingSend (h : Sound s) : AnswerSound (execNarrowingSend s) := h.act (fun h => h.narrowSend)

/-! Sys2Proof/Machine/Debug.lean -/

theorem Sound.writeRwb {f : Fld} {v : Nat} (h : Sound s) : Sound (s.writeRwb f v) := .ite (.of_mem h rfl) (.latchField (.of_mem h rfl))
theorem Sound.execCounterSelect {cmd : Bool} {k scope inst event : Nat} (h : Sound s) : AnswerSound (execCounterSelect cmd k scope inst
    event s) :=
  h.act (fun h => .ite h.logDbg (.ite h.writeRwb.writeRwb.writeRwb h.writeRwb.writeRwb))
theorem Sound.thawItem {e : Nat × Bool × PortItem} (h : Sound s) : Sound (s.thawItem e) := by
  unfold State.thawItem
  split
  exacts [h.enterFlit (fun h => h.takeDigest), h.takeFrame, h]
theorem Sound.thawWrite {w : Nat × Nat × Nat} (h : Sound s) : Sound (s.thawWrite w) :=
  .ite (.settle (.ite h.doOpen (.ite h.doAbortReq (.ite h.doRegather (.ite h.doRollback h.stepRefuse))))) (.ite h.doStage (.ite h.doCheck
    (.ite h.doArm (.ite h.doDisarm (.ite h.doDiscard h.cfgRefuse)))))
theorem Sound.thaw (h : Sound s) : Sound s.thaw := .foldl (.foldl (.of_mem h rfl) (fun h => h.thawItem.settle)) (fun h => h.thawWrite)
theorem Sound.execFreezeArm {m : Nat} (h : Sound s) : AnswerSound (execFreezeArm m s) := h.act (fun h => .ite h.set h.logDbg)
theorem Sound.execFreezeDisarm {m : Nat} (h : Sound s) : AnswerSound (execFreezeDisarm m s) := h.act (fun h => h.set)
theorem Sound.execFreezeEdge (h : Sound s) : AnswerSound (execFreezeEdge s) := h.act (fun h => h.set.set.setAll.raise)
theorem Sound.execResumeAtWrite {i : Nat} (h : Sound s) : AnswerSound (execResumeAtWrite i s) := h.act (fun h => .ite h.logDbg h.set)
theorem Sound.execResume (h : Sound s) : AnswerSound (execResume s) := h.act (fun h => h.set.thaw.raise)
theorem Sound.claimBuffer {owner : Nat} {en : Fld} {k : State → State} (h : Sound s) (hk : ∀ {t}, Sound t → Sound (k t)) : Sound
    (s.claimBuffer owner en k) := by
  refine .ite h ?_
  split
  next e => exact hk (.set (.of_fst e h.claim))
  next e => exact .logDbg (.of_fst e h.claim)
theorem Sound.emptyLog (h : Sound s) : Sound (emptyLog s) := .setAll (.of_mem h rfl)
theorem Sound.execDigestLogEnable (h : Sound s) : AnswerSound (execDigestLogEnable s) :=
  h.act (fun h => h.claimBuffer (fun h => h.emptyLog))
theorem Sound.execTraceEnable (h : Sound s) : AnswerSound (execTraceEnable s) := h.act (fun h => h.claimBuffer (fun h => .of_mem h rfl))
theorem Sound.setLogBank {committed : Bool} {l : List LogEntry} (h : Sound s) : Sound (s.setLogBank committed l) :=
  .ite (.of_mem h rfl) (.of_mem h rfl)
theorem Sound.restoreImage (h : Sound s) : Sound s.restoreImage := by
  unfold State.restoreImage
  split
  exacts [h, .of_mem h rfl]
theorem Sound.replayStop (h : Sound s) : Sound s.replayStop := by
  have h1 : Sound s.stopTiles.clearHalts.clearAttempt := h.stopTiles.clearHalts.clearAttempt
  unfold State.replayStop
  generalize s.stopTiles.clearHalts.clearAttempt = t at h1
  exact .restoreImage (.of_mem h1 rfl)
theorem Sound.replayBegin (h : Sound s) : Sound s.replayBegin :=
  .retryHeld (.ite (.ingestBegin (.gatherBegin (.setLogBank (.setAll (.clearAttempt (.of_mem h rfl)))))) (.gatherBegin (.setLogBank
    (.setAll (.clearAttempt (.of_mem h rfl)))))) (fun h => h.takeDigest)
theorem Sound.execReplayStart {m : Nat} (h : Sound s) : AnswerSound (execReplayStart m s) :=
  h.act (fun h => .ite h.replayBegin h.set.logDbg)
theorem Sound.execReplayGatherDone (h : Sound s) : AnswerSound (execReplayGatherDone s) :=
  h.act (fun h => .retryHeld (.refreshJobs (.startTiles (.set (.of_mem h rfl)))) (fun h => h.takeDigest))
theorem Sound.replayEnd {state code : Nat} (h : Sound s) : Sound (s.replayEnd state code) := h.setAll.replayStop.logDbg
theorem Sound.execReplayRunDone (h : Sound s) : AnswerSound (execReplayRunDone s) := h.act (fun h => .ite h.replayEnd.raise h.set)
theorem Sound.compareLogs (h : Sound s) : Sound s.compareLogs := by
  unfold State.compareLogs
  extract_lets late old new new' old' n s1 s2
  have h1 : Sound s1 := h.setLogBank.setLogBank.set
  have h2 : Sound s2 := by
    unfold s2
    split
    exacts [h1.set.set, h1]
  exact .ite h2 h2.set.logDbg
theorem Sound.execReplayCompareDone (h : Sound s) : AnswerSound (execReplayCompareDone s) :=
  h.act (fun h => h.compareLogs.set.replayStop.raise)
theorem Sound.cancelReplay (h : Sound s) : Sound s.cancelReplay := .ite h (.refreshJobs (.replayEnd (.ite (.of_mem h rfl) h)))
theorem Sound.execReplayCancel {m : Nat} (h : Sound s) : AnswerSound (execReplayCancel m s) := h.act (fun h => h.cancelReplay)

/-! Sys2Proof/Machine/Ring.lean -/

theorem Sound.logRing {code port lane : Nat} (h : Sound s) : Sound (s.logRing code port lane) := h.latch.report.raise
theorem Sound.setLine {p : Nat} {f : Line → Line} (h : Sound s) : Sound (s.setLine p f) := .of_mem h rfl
theorem Sound.setLane {p dir lane : Nat} {f : Lane → Lane} (h : Sound s) : Sound (s.setLane p dir lane f) := .of_mem h rfl
theorem Sound.useMap {p dir map : Nat} (h : Sound s) : Sound (s.useMap p dir map) :=
  .foldl h.setAll (fun h => .ite h.setLane (.ite h.setLane h))
theorem Sound.linkLost {p state : Nat} (h : Sound s) : Sound (s.linkLost p state) := by
  unfold State.linkLost
  exact h.useMap.useMap.setAll.setLine
theorem Sound.setRoster {ring : Nat} {l : List Nat} (h : Sound s) : Sound (s.setRoster ring l) := h.setAll
theorem Sound.dropEpoch {ring : Nat} (h : Sound s) : Sound (s.dropEpoch ring) :=
  .of_mem (.foldl (.foldl h (fun h => h.setPort)) (fun h => h.freeCredit)) rfl
theorem Sound.refreshMaster (h : Sound s) : Sound s.refreshMaster := .ite h.setAll (.ite (.setAll (.of_mem h rfl)) h)
theorem Sound.discovered {ring n : Nat} {found : List Found} (h : Sound s) : Sound (s.discovered ring n found) :=
  .ite h.setAll.setRingCtl.dropEpoch.setRoster.inc.logRing.refreshMaster.pollBegin
    h.setAll.setRingCtl.dropEpoch.setRoster.inc.logRing.refreshMaster
theorem Sound.tryComplete {ring : Nat} (h : Sound s) : Sound (s.tryComplete ring) := by
  unfold State.tryComplete
  dsimp only
  split
  exacts [h, .ite h h.discovered]
theorem Sound.ringWork {ring : Nat} (h : Sound s) : Sound (s.ringWork ring) :=
  .ite h (.ite (.foldl h (fun h => .ite h.portSend.setRingCtl h)) (.ite (.portSend (.setRingCtl (.foldl h (fun h => .ite
    h.portSend.setRingCtl h)))) (.tryComplete (.setRingCtl (.setRingCtl (.foldl h (fun h => .ite h.portSend.setRingCtl h)))))))
theorem Sound.flushPorts {ring : Nat} (h : Sound s) : Sound (s.flushPorts ring) := .foldl h (fun h => h.setPort)
theorem Sound.beginChange {ring : Nat} {round : Option Nat} (h : Sound s) : Sound (s.beginChange ring round) := by
  unfold State.beginChange
  extract_lets first old r isNew wasFrozen s1 s2 _ s3 s4 s5 s6 s7
  have h2 : Sound s2 := h.breakFreeze.cancelReplay.set.flushPorts
  have h3 : Sound s3 := .of_mem h2 rfl
  have h4 : Sound s4 := .foldl h3 fun h => .ite h.set h
  have h5 : Sound s5 := .ite (.of_mem h4 rfl) h4
  have h7 : Sound s7 := h5.setRingCtl.ringWork
  exact .ite h7.thaw h7
theorem Sound.wrapAt {p : Nat} (h : Sound s) : Sound (s.wrapAt p) := h.set.set.logRing
theorem Sound.resendAll {p : Nat} (h : Sound s) : Sound (s.resendAll p) := .foldl h (fun h => h.sendItem)
theorem Sound.firstWords {p : Nat} (h : Sound s) : Sound (s.firstWords p) := h.setPort
theorem Sound.execLinkUp {p serial rx tx margin : Nat} (h : Sound s) : AnswerSound (execLinkUp p serial rx tx margin s) := by
  refine h.act fun h => ?_
  extract_lets differs refused s1 _ s2 s3 _ s4
  have h2 : Sound s2 := h.useMap.useMap.setAll.setLine
  have h3 : Sound s3 := .ite h2.logRing.wrapAt h2
  have h4 : Sound s4 := .ite h3.setPort h3.firstWords.resendAll
  exact .pump (.ringWork (.ite h4.beginChange h4))
theorem Sound.execLinkDownTimeout {p : Nat} (h : Sound s) : AnswerSound (execLinkDownTimeout p s) :=
  h.act (fun h => h.logRing.beginChange)
theorem Sound.execRingWrap {p : Nat} (h : Sound s) : AnswerSound (execRingWrap p s) := h.act (fun h => h.wrapAt.ringWork)
theorem Sound.propose {p map : Nat} (h : Sound s) : Sound (s.propose p map) := h.setLine.sendControl
theorem Sound.lanesGone {p : Nat} (h : Sound s) : Sound (s.lanesGone p) := h.linkLost.logRing
theorem Sound.markLane {p lane : Nat} {f : Lane → Lane} (h : Sound s) : Sound (s.markLane p lane f) := h.setLane.logRing
theorem Sound.execLinkRetrainDone {p bad : Nat} (h : Sound s) : AnswerSound (execLinkRetrainDone p bad s) :=
  h.act (fun h => .ite (.lanesGone (.foldl h (fun h => h.markLane))) (.pump (.resendAll (.ite (.setPort (.firstWords (.set (.foldl h (fun
    h => h.markLane))))) (.propose (.setPort (.firstWords (.set (.foldl h (fun h => h.markLane))))))))))
theorem Sound.takeHold {p : Nat} {m : Member} (h : Sound s) : Sound (s.takeHold p m) :=
  .ite h (.ite (.ite h.beginChange h) (.portSend (.setRingCtl (.ite h.beginChange h))))
theorem Sound.takeDiscover {p : Nat} {m : Member} (h : Sound s) : Sound (s.takeDiscover p m) :=
  .ite h (.ite (.ite (.tryComplete (.setRingCtl (.ite h.beginChange h))) (.ite h.beginChange h)) (.tryComplete (.portSend (.ite
    (.setRingCtl (.ite h.beginChange h)) (.ite h.beginChange h)))))
theorem Sound.memberArrives {p seq : Nat} {back : Bool} {m : Member} {k : State → Nat → Member → State} (h : Sound s) (hk : ∀ {t x y},
    Sound t → Sound (k t x y)) : Sound (s.memberArrives p seq back m k) := by
  unfold State.memberArrives
  split
  next e => exact .of_fst e h.arrive
  next e =>
    have h1 := Sound.of_fst e h.arrive
    exact .ite h1.freeFrame (by split; exacts [hk h1.freeFrame, h1.freeFrame.portSend])
theorem Sound.memberRow {subtype p : Nat} {back : Bool} {rx : LineRx} {k : State → Nat → Member → State} (h : Sound s) (hk : ∀ {t x y},
    Sound t → Sound (k t x y)) : AnswerSound (memberRow subtype p back rx s k) :=
  h.lineRow (fun h => h.memberArrives (fun h => hk h))
theorem Sound.execHold {p : Nat} {back : Bool} {rx : LineRx} (h : Sound s) : AnswerSound (execHold p back rx s) :=
  h.memberRow (fun h => h.takeHold)
theorem Sound.execDiscover {p : Nat} {back : Bool} {rx : LineRx} (h : Sound s) : AnswerSound (execDiscover p back rx s) :=
  h.memberRow (fun h => h.takeDiscover)
theorem Sound.execDiscoveryTimeout {ring : Nat} (h : Sound s) : AnswerSound (execDiscoveryTimeout ring s) :=
  h.act (fun h => h.beginChange)
theorem Sound.ringOut {ring : Nat} (h : Sound s) : Sound (s.ringOut ring) := by
  unfold State.ringOut
  extract_lets s1 s2 s3
  have h1 : Sound s1 := h.setAll
  have h2 : Sound s2 := .foldl h1 fun h => h.linkLost.set.setPort.setLine
  clear_value s2
  have h3 : Sound s3 := .ite (.of_mem h2 rfl) h2
  exact h3.setRingCtl.refreshMaster
theorem Sound.execJoin {m ring : Nat} {selftest : Bool} (h : Sound s) : AnswerSound (execJoin m ring selftest s) :=
  h.act (fun h => .ite h.logRing h.set.set.setRingCtl)
theorem Sound.execSwitchOpenReached {ring : Nat} (h : Sound s) : AnswerSound (execSwitchOpenReached ring s) :=
  h.act (fun h => h.set.inc.set.setRingCtl.beginChange)
theorem Sound.execLeave {m ring : Nat} (h : Sound s) : AnswerSound (execLeave m ring s) :=
  h.act (fun h => .ite h.set (.ite (.abortBoundary (.ringOut (.setRingCtl (.closeBypass (.ite h.set.beginChange h.set))))) (.ringOut
    (.setRingCtl (.closeBypass (.ite h.set.beginChange h.set))))))
theorem Sound.execBypassFault {ring : Nat} (h : Sound s) : AnswerSound (execBypassFault ring s) :=
  h.act (fun h => .ringOut (.logRing (.set (.ite h.set h))))
theorem Sound.execRosterReset {m : Nat} (h : Sound s) : AnswerSound (execRosterReset m s) := h.act (fun h => h.setRoster.setRoster)
theorem Sound.resend {p : Nat} (h : Sound s) : Sound (s.resend p) := .ite h.set.logRing h.setPort.resendAll
theorem Sound.acceptMap {p map mapAt : Nat} (h : Sound s) : Sound (s.acceptMap p map mapAt) := .ite h.lanesGone h.setLine.sendControl
theorem Sound.takeControl {p : Nat} {c : LinkControl} {mapAt : Nat} (h : Sound s) : Sound (s.takeControl p c mapAt) :=
  .refreshJobs (.pump (.ite (.acceptMap (.ite h.setPort.resend h.setPort)) (.ite (.setLine (.ite h.setPort.resend h.setPort)) (.ite
    h.setPort.resend h.setPort))))
theorem Sound.execLinkControlFlit {p : Nat} {rx : LineRx} {mapAt : Nat} (h : Sound s) : AnswerSound (execLinkControlFlit p rx mapAt s) :=
  h.lineRow (fun h => h.takeControl)
theorem Sound.execAckTimer {p : Nat} (h : Sound s) : AnswerSound (execAckTimer p s) := h.act (fun h => h.sendControl)
theorem Sound.execLaneFailed {p lane power ser uncorr : Nat} (h : Sound s) : AnswerSound (execLaneFailed p lane power ser uncorr s) :=
  h.act (fun h => .ite h.markLane.addTo (.ite h.markLane.addTo.lanesGone (.ite h.markLane.addTo.propose h.markLane.addTo.setLine)))
theorem Sound.execLaneMapSwitch {p dir : Nat} (h : Sound s) : AnswerSound (execLaneMapSwitch p dir s) := by
  unfold Machine.execLaneMapSwitch
  split
  exacts [h, h.act (fun h => h.useMap.setLine)]
theorem Sound.execLaneRetest {p lane : Nat} (h : Sound s) : AnswerSound (execLaneRetest p lane s) := h.act (fun h => h.setLane)
theorem Sound.execLaneRejoin {p lane power ser : Nat} (h : Sound s) : AnswerSound (execLaneRejoin p lane power ser s) :=
  h.act (fun h => h.setLane.propose)
theorem Sound.takeReserved {p : Nat} {hd : Header} (h : Sound s) : Sound (s.takeReserved p hd) := by
  refine .ite h.inc ?_
  split
  next e => exact .of_fst e h.arrive
  next e => exact .freeFrame (.of_fst e h.arrive)
theorem Sound.execReservedTypeFlit {p : Nat} {rx : LineRx} (h : Sound s) : AnswerSound (execReservedTypeFlit p rx s) :=
  h.lineRow (fun h => h.takeReserved)

/-! Sys2Proof/Machine/TimeSync.lean -/

theorem Sound.moveTime {n : ℤ} (h : Sound s) : Sound (s.moveTime n) := .of_mem h rfl
theorem Sound.steer {offset : ℤ} (h : Sound s) : Sound (s.steer offset) :=
  .ite (.logRing (.set (.moveTime (.of_mem h rfl)))) (.of_mem h rfl)
theorem Sound.lockOn {p : Nat} {y : Nat × Nat × ℤ} (h : Sound s) : Sound (s.lockOn p y) := h.steer.setAll
theorem Sound.sendTime {p : Nat} {f : TimeFlit} (h : Sound s) : Sound (s.sendTime p f) := h.emit.shine
theorem Sound.execSyncSend {p frac : Nat} (h : Sound s) : AnswerSound (execSyncSend p frac s) := h.doIf (fun h => h.sendTime)
theorem Sound.execDelayExchange {p frac : Nat} (h : Sound s) : AnswerSound (execDelayExchange p frac s) :=
  h.doIf (fun h => h.setLine.sendTime)
theorem Sound.timeRow {kind p : Nat} {rx : LineRx} {k : State → TimeFlit → State} (h : Sound s) (hk : ∀ {t x}, Sound t → Sound (k t x)) :
    AnswerSound (timeRow kind p rx s k) :=
  h.lineRow (fun h => hk h)
theorem Sound.takeSync {p frac : Nat} {f : TimeFlit} (h : Sound s) : Sound (State.takeSync p frac s f) :=
  .ite h.setLine.refreshMaster (by split; exacts [.ite h.setLine.refreshMaster.lockOn h.setLine.refreshMaster, h.setLine.refreshMaster])
theorem Sound.execSync {p frac : Nat} {rx : LineRx} (h : Sound s) : AnswerSound (execSync p frac rx s) := h.timeRow (fun h => h.takeSync)
theorem Sound.execDelayReq {p frac : Nat} {rx : LineRx} (h : Sound s) : AnswerSound (execDelayReq p frac rx s) :=
  h.timeRow (fun h => h.sendTime)
theorem Sound.takeDelay {p frac left : Nat} {f : TimeFlit} (h : Sound s) : Sound (State.takeDelay p frac left s f) := by
  unfold State.takeDelay
  split
  exacts [h, h.setLine]
theorem Sound.execDelayResp {p frac left : Nat} {rx : LineRx} (h : Sound s) : AnswerSound (execDelayResp p frac left rx s) :=
  h.timeRow (fun h => h.takeDelay)
theorem Sound.execTimeHoldover (h : Sound s) : AnswerSound (execTimeHoldover s) :=
  h.doIf (fun h => .ite h.refreshMaster (.logRing (.set (.of_mem h.refreshMaster rfl))))
theorem Sound.setPtp {p : Nat} {f : PtpPort → PtpPort} (h : Sound s) : Sound (s.setPtp p f) := .of_mem h rfl
theorem Sound.ptpOffset {o : ℤ} (h : Sound s) : Sound (s.ptpOffset o) :=
  .ite h.set (.ite (.set (.of_mem h rfl)) (.logRing (.set (.set (.moveTime (.of_mem h rfl))))))
theorem Sound.ptpTake {p kind i : Nat} (h : Sound s) : Sound (s.ptpTake p kind i) :=
  .ite h.setPtp (.ite (by split; exacts [h, .ite h.setPtp.emit.ptpOffset h.setPtp.emit]) (.ite (by split; exacts [h, h.setPtp.ptpOffset])
    (.ite (.ite h.emit.emit h) (.ite (by split; exacts [h, h.setPtp]) (.ite (by split; exacts [h, h.setPtp]) h)))))
theorem Sound.execPtpMessage {p kind i : Nat} (h : Sound s) : AnswerSound (execPtpMessage p kind i s) := h.doIf (fun h => h.ptpTake)
theorem Sound.tick (h : Sound s) : Sound s.tick := .ite (.of_mem h rfl) (.ite (.of_mem h rfl) (.ite (.of_mem h rfl) (.of_mem h rfl)))

/-! Sys2Proof/Machine/Security.lean -/

theorem Sound.logSec {code master : Nat} (h : Sound s) : Sound (s.logSec code master) := h.latch.report.raise
theorem Sound.logPwr {code location : Nat} (h : Sound s) : Sound (s.logPwr code location) := h.latch.report.raise
theorem Sound.releaseTrip (h : Sound s) : Sound s.releaseTrip := .ite (.of_mem h rfl) h
theorem Sound.reportTrip (h : Sound s) : Sound s.reportTrip := .ite (.releaseTrip (.logPwr (.of_mem h rfl))) h
theorem Sound.wakeTile {i : Nat} (h : Sound s) : Sound (s.wakeTile i) := .ite h (.set (.of_mem h rfl))
theorem Sound.wakeCore (h : Sound s) : Sound s.wakeCore := .of_mem h rfl
theorem Sound.coreRest (h : Sound s) : Sound s.coreRest := .ite (.of_mem h rfl) h
theorem Sound.idle (h : Sound s) : Sound s.idle := .ite h.tick.coreRest h
theorem Sound.wakeReceiver {n r : Nat} (h : Sound s) : Sound (s.wakeReceiver n r) :=
  .ite h.raise (.ite h.wakeCore (.ite (.ite (.foldl h.set.inc.set (fun h => h.wakeTile)) h.set.inc.set) h))
theorem Sound.putMessage {m n word : Nat} (h : Sound s) : Sound (s.putMessage m n word) := h.setAll.traceRec.wakeReceiver
theorem Sound.mailboxSend {m n word : Nat} (h : Sound s) : Sound (s.mailboxSend m n word) :=
  .ite h.set.logSec (.ite h (.ite (.ite (.of_mem h rfl) h.set.logSec) h.putMessage))
theorem Sound.execMailboxWrite {m n word : Nat} (h : Sound s) : AnswerSound (execMailboxWrite m n word s) :=
  h.doIf (fun h => h.mailboxSend)
theorem Sound.execHeldMessageSend {n : Nat} (h : Sound s) : AnswerSound (execHeldMessageSend n s) := by
  unfold Machine.execHeldMessageSend
  split
  exacts [h, h.doIf (fun h => .mailboxSend (.of_mem h rfl))]
theorem Sound.emptyChannel {n : Nat} (h : Sound s) : Sound (s.emptyChannel n) := h.set.set
theorem Sound.controllerRest {r : Nat} (h : Sound s) : Sound (s.controllerRest r) := .ite (.ite h h.set) h
theorem Sound.execMailboxTake {m n : Nat} (h : Sound s) : AnswerSound (execMailboxTake m n s) :=
  h.doIf (fun h => .ite h.emptyChannel.controllerRest.emit h.emit)
theorem Sound.execMailboxClear {m n : Nat} (h : Sound s) : AnswerSound (execMailboxClear m n s) :=
  h.doIf (fun h => h.emptyChannel.set.controllerRest)
theorem Sound.execMailboxLockClaim {m n : Nat} (h : Sound s) : AnswerSound (execMailboxLockClaim m n s) :=
  h.doIf (fun h => .ite h.emit (.ite h.set.emit h.emit))
theorem Sound.execMailboxLockRelease {m n : Nat} (h : Sound s) : AnswerSound (execMailboxLockRelease m n s) :=
  h.doIf (fun h => .ite h.set h.logSec)
theorem Sound.holdChannel {n arg : Nat} (h : Sound s) : Sound (s.holdChannel n arg) := .ite h.unclaim h.unclaim.claim
theorem Sound.execMbxBindWrite {m n sender receiver : Nat} (h : Sound s) : AnswerSound (execMbxBindWrite m n sender receiver s) :=
  h.doIf (fun h => .ite h.report (.ite h h.emptyChannel.set.set.holdChannel.controllerRest))
theorem Sound.execMbxBindLock {m : Nat} (h : Sound s) : AnswerSound (execMbxBindLock m s) := h.doIf (fun h => .of_mem h rfl)
theorem Sound.resetReceiver {r : Nat} (h : Sound s) : Sound (s.resetReceiver r) :=
  .foldl h (fun h => .ite (.set (.ite h.emptyChannel h)) (.ite h.emptyChannel h))
theorem Sound.setFwSlot {slot : Nat} {l : List Byte} (h : Sound s) : Sound (s.setFwSlot slot l) := .ite (.of_mem h rfl) (.of_mem h rfl)
theorem Sound.secResult {code : Nat} (h : Sound s) : Sound (s.secResult code) :=
  .ite (.set (.set (.of_mem h rfl))) (.logSec (.set (.set (.of_mem h rfl))))
theorem Sound.mcReset (h : Sound s) : Sound s.mcReset := .setAll (.resetReceiver (.set (.wakeCore (.ite h.secResult h))))
theorem Sound.measOwners (h : Sound s) : Sound s.measOwners := h.extend
theorem Sound.measSvn (h : Sound s) : Sound s.measSvn := h.extend
theorem Sound.secCmd {m op : Nat} {k : State → State} (h : Sound s) (hk : ∀ {t}, Sound t → Sound (k t)) : AnswerSound (secCmd m op s k) :=
  h.act (fun h => .ite h.set.logSec (.ite (.of_mem h rfl) (.ite (hk h.wakeCore.set.set) h.wakeCore.set.set.secResult)))
theorem Sound.doFwWrite (h : Sound s) : Sound s.doFwWrite := .ite h.secResult (.readHost (.setFwSlot (.set (.of_mem h rfl))))
theorem Sound.doFwActivate (h : Sound s) : Sound s.doFwActivate := .ite h.secResult h.secResult.setAll.mcReset
theorem Sound.doFwConfirm (h : Sound s) : Sound s.doFwConfirm := .secResult (.measSvn (.foldl h.set.set.set (fun h => .ite h.setBit h)))
theorem Sound.doDevReset (h : Sound s) : Sound s.doDevReset := h.secResult.devReset
theorem Sound.execFwWrite {m : Nat} (h : Sound s) : AnswerSound (execFwWrite m s) := h.secCmd (fun h => h.doFwWrite)
theorem Sound.execFwActivate {m : Nat} (h : Sound s) : AnswerSound (execFwActivate m s) := h.secCmd (fun h => h.doFwActivate)
theorem Sound.execFwConfirm {m : Nat} (h : Sound s) : AnswerSound (execFwConfirm m s) := h.secCmd (fun h => h.doFwConfirm)
theorem Sound.execDevReset {m : Nat} (h : Sound s) : AnswerSound (execDevReset m s) := h.secCmd (fun h => h.doDevReset)
theorem Sound.execFwWriteDone {bytes : List Byte} (h : Sound s) : AnswerSound (execFwWriteDone bytes s) :=
  h.act (fun h => .secResult (.ite h.setFwSlot.set h.setFwSlot))
theorem Sound.setOwner {k : Nat} {v : Option KeyPair} (h : Sound s) : Sound (s.setOwner k v) := .setAll (.of_mem h rfl)
theorem Sound.ownerApply {r : List Byte} (h : Sound s) : Sound (s.ownerApply r) :=
  .ite h.inc.secResult.setOwner.set.measOwners (.ite h.inc.secResult.setOwner.measOwners (.devReset (.zeroMemory (.measOwners (.foldl
    h.inc.secResult (fun h => h.setOwner))))))
theorem Sound.doOwner {r : List Byte} (h : Sound s) : Sound (s.doOwner r) := by
  unfold State.doOwner
  dsimp only
  split
  exacts [h.readHost.ownerApply, h.readHost.secResult]
theorem Sound.execOwnerRequest {m : Nat} {request : List Byte} (h : Sound s) : AnswerSound (execOwnerRequest m request s) :=
  .ite (h.act (fun h => h.doOwner)) (h.secCmd (fun h => h.doOwner))
theorem Sound.execEnrolEnable {m : Nat} (h : Sound s) : AnswerSound (execEnrolEnable m s) := h.doIf (fun h => .set (.of_mem h rfl))
theorem Sound.execEnrolEnableExpiry (h : Sound s) : AnswerSound (execEnrolEnableExpiry s) := h.doIf (fun h => h.set)
theorem Sound.execSbDevReset {m : Nat} (h : Sound s) : AnswerSound (execSbDevReset m s) := h.act (fun h => h.devReset)
theorem Sound.execMcReset {m : Nat} (h : Sound s) : AnswerSound (execMcReset m s) := h.act (fun h => h.mcReset)
theorem Sound.execWatchdogExpiry (h : Sound s) : AnswerSound (execWatchdogExpiry s) := h.act (fun h => h.mcReset)
theorem Sound.trySlot {slot : Nat} (h : Sound s) : Sound (s.trySlot slot).1 := by
  unfold State.trySlot
  split
  exacts [h.set, h.set.logSec]
theorem Sound.boots {slot : Nat} (h : Sound s) : Sound (s.boots slot) := by
  unfold State.boots
  exact h.setAll.extend
theorem Sound.romBoot (h : Sound s) : Sound s.romBoot := by
  unfold State.romBoot
  dsimp only
  split
  next e => exact .boots (.of_fst e (.trySlot (.ite h.setAll.logSec (.ite h.set h))))
  next e =>
    have h1 := Sound.of_fst e (.trySlot (.ite h.setAll.logSec (.ite h.set h)))
    split
    next e => exact .boots (.setAll (.of_fst e h1.logSec.trySlot))
    next e => exact .logSec (.set (.of_fst e h1.logSec.trySlot))
theorem Sound.releaseCmd (h : Sound s) : Sound s.releaseCmd :=
  .ite h (.ite h.secResult (.ite h (.ite (.doFwWrite (.of_mem h rfl)) (.ite (.doFwActivate (.of_mem h rfl)) (.ite (.doFwConfirm (.of_mem
    h rfl)) (.ite (.doDevReset (.of_mem h rfl)) (.secResult (.of_mem h rfl))))))))
theorem Sound.doeRefuse (h : Sound s) : Sound s.doeRefuse := h.logSec.emit
theorem Sound.doeAnswer {a : DoeReq} (h : Sound s) : Sound (s.doeAnswer a) := by
  unfold State.doeAnswer
  split
  exacts [h.emit, .ite h.doeRefuse h.emit, .ite h.doeRefuse h.emit]
theorem Sound.doeRow {r : DoeReq} (h : Sound s) : AnswerSound (doeRow r s) := h.act (fun h => .ite (.of_mem h rfl) h.wakeCore.doeAnswer)
theorem Sound.execDoeDiscovery {index : Nat} (h : Sound s) : AnswerSound (execDoeDiscovery index s) := h.doeRow
theorem Sound.execGetCert {request : List Byte} (h : Sound s) : AnswerSound (execGetCert request s) := .ite h h.doeRow
theorem Sound.execAttest {request : List Byte} (h : Sound s) : AnswerSound (execAttest request s) := .ite h.doeRow h
theorem Sound.releaseDoe (h : Sound s) : Sound s.releaseDoe := .foldl (.of_mem h rfl) (fun h => h.doeAnswer)
theorem Sound.execJeoftStart (h : Sound s) : AnswerSound (execJeoftStart s) :=
  h.act (fun h => .releaseDoe (.releaseCmd (.reportTrip (.ite h.extend.romBoot.measOwners.measSvn.extend
    h.extend.romBoot.measOwners.measSvn))))
theorem Sound.execErrorReport {bad : Bool} (h : Sound s) : AnswerSound (execErrorReport bad s) := by
  unfold Machine.execErrorReport
  split
  · exact h
  · refine h.doIf fun {t} h => ?_
    extract_lets s1 l _ s2 s3
    have h1 : Sound s1 := Sound.traceRec (.inc (.wakeCore (.of_mem h rfl)))
    have h2 : Sound s2 := .of_mem h1 rfl
    have h3 : Sound s3 := .ite h2.raise h2
    exact .ite h3.logSec h3
theorem Sound.execHourlyWearRecord (h : Sound s) : AnswerSound (execHourlyWearRecord s) := h.doIf (fun h => .of_mem h rfl)

/-! Sys2Proof/Machine/TileMove.lean -/

theorem Sound.countMove {i kind sectors : Nat} (h : Sound s) : Sound (countMove i kind sectors s) := .ite h.count (.ite h.count h.count)
theorem Sound.moveIn {i kind dpa sram len : Nat} {rd wr : List Span} (h : Sound s) : VerdictSound (moveIn i kind dpa sram len rd wr s) :=
  .ite h.readPieces.setTile.countMove h.readPieces.setTile.countMove
theorem Sound.moveOut {i kind dpa sram len : Nat} {rd wr : List Span} (h : Sound s) : VerdictSound (moveOut i kind dpa sram len rd wr s)
    :=
  .ite h.writePieces.countMove (.ite h.writePieces.countMove h.writePieces.countMove)
theorem Sound.reserved {i n : Nat} {rd wr : List Span} {k : State → Verdict} (h : Sound s) (hk : ∀ {t}, Sound t → VerdictSound (k t)) :
    VerdictSound (reserved i n rd wr s k) := by
  unfold Machine.reserved
  split
  exacts [trivial, hk h]
theorem Sound.ruleLd {a a1 a2 : Nat} (h : Sound s) : VerdictSound (ruleLd a a1 a2 s) :=
  .ite trivial (.ite h (.ite trivial (h.reserved (fun h => h.moveIn))))
theorem Sound.ruleSt {a a1 a2 : Nat} (h : Sound s) : VerdictSound (ruleSt a a1 a2 s) :=
  .ite trivial (.ite h (.ite trivial (h.reserved (fun h => h.moveOut))))
theorem Sound.ruleGld {a a1 a2 : Nat} (h : Sound s) : VerdictSound (ruleGld a a1 a2 s) :=
  .ite trivial (.ite h (.ite trivial (h.reserved (fun h => h.moveIn))))
theorem Sound.ruleGst {a a1 a2 : Nat} (h : Sound s) : VerdictSound (ruleGst a a1 a2 s) :=
  .ite trivial (.ite h (.ite trivial (h.reserved (fun h => h.moveOut))))
theorem Sound.loadLines {i first sram : Nat} {l : List Nat} (h : Sound s) : Sound (loadLines i first sram l s).1 := by
  induction l generalizing s with
  | nil => exact h
  | cons k l ih =>
    rw [Machine.loadLines]
    split
    · next e => exact ih (.setTile (.of_fst e h.farRead))
    · next e => exact .of_fst e h.farRead
    · next e => exact ih (.of_fst e h.farRead)
theorem Sound.ruleHostld {a a1 a2 : Nat} (h : Sound s) : VerdictSound (ruleHostld a a1 a2 s) :=
  .ite trivial (.ite h (.ite trivial (h.reserved (fun h => .ite h.logHif (.ite h.loadLines.logHif h.loadLines)))))
theorem Sound.storeLines {i : Nat} {flight : Option (Nat × Nat)} {first k : Nat} {l : List Byte} (h : Sound s) :
    Sound (storeLines i flight first k l s) := by
  induction k generalizing first l s with
  | zero => exact h
  | succ k ih => exact ih h.farWrite
theorem Sound.ruleHostst {a a1 a2 : Nat} (h : Sound s) : VerdictSound (ruleHostst a a1 a2 s) :=
  .ite trivial (.ite h (.ite trivial (h.reserved (fun h => .ite h.logHif (.ite h.storeLines h.storeLines)))))
theorem Sound.rulePref {a a1 a2 : Nat} (h : Sound s) : VerdictSound (rulePref a a1 a2 s) :=
  .ite trivial (.ite h (.ite trivial (.ite h.logHif (Sound.foldl h (fun h => h.farPrefetch)))))
theorem Sound.setChan {i c : Nat} {f : Chan → Chan} (h : Sound s) : Sound (s.setChan i c f) := h.setTile
theorem Sound.mail {m : MeshMsg} (h : Sound s) : Sound (s.mail m) := .of_mem h rfl
theorem Sound.ruleSend {a a1 a2 : Nat} (h : Sound s) : VerdictSound (ruleSend a a1 a2 s) :=
  .ite trivial (.ite h (by split; exacts [trivial, .ite trivial (.ite trivial (h.reserved (fun h => .ite trivial (.ite h.setChan.mail
    h.setChan.mail))))]))
theorem Sound.ruleRecv {a a1 a2 : Nat} (h : Sound s) : VerdictSound (ruleRecv a a1 a2 s) :=
  .ite trivial (by split; exacts [trivial, .ite trivial (by split; exacts [trivial, h.setChan.setStream])])
theorem Sound.ruleFree {a a1 a2 : Nat} (h : Sound s) : VerdictSound (ruleFree a a1 a2 s) :=
  .ite trivial (by split; exacts [trivial, .ite trivial (by split; exacts [trivial, h.setStream.setChan])])
theorem Sound.execCreditReturn {i c : Nat} (h : Sound s) : AnswerSound (execCreditReturn i c s) := by
  unfold Machine.execCreditReturn
  split
  exacts [h.act (fun h => h.setChan), h]
theorem Sound.sent {m : MeshMsg} (h : Sound s) : Sound (s.sent m) := h.setTile
theorem Sound.execMeshDelivery {i c : Nat} (h : Sound s) : AnswerSound (execMeshDelivery i c s) := by
  unfold Machine.execMeshDelivery
  split
  · exact h.act (fun h => .ite (.armSettle (.setTile (.of_mem h.rouse rfl))) (.armSettle (.sent (.setChan (.setTile (.of_mem h.rouse
      rfl))))))
  · exact h
theorem Sound.bankTake {i n ou b : Nat} (h : Sound s) : GateSound (bankTake i n ou b s) :=
  .ite trivial (.ite trivial (.ite trivial trivial))
theorem Sound.bankFill {i ou b : Nat} (h : Sound s) : GateSound (bankFill i ou b s) := .ite trivial trivial
theorem Sound.ruleChainout {a a1 a2 : Nat} (h : Sound s) : VerdictSound (ruleChainout a a1 a2 s) := by
  refine .ite trivial ?_
  split
  · exact trivial
  · refine .ite trivial ?_
    split
    next e => exact .of_some e h.bankTake
    · exact .ite trivial h.mail.setBank
theorem Sound.ruleChainin {a a1 a2 : Nat} (h : Sound s) : VerdictSound (ruleChainin a a1 a2 s) := by
  refine .ite trivial ?_
  split
  · exact trivial
  · refine .ite trivial ?_
    split
    next e => exact .of_some e h.bankFill
    · exact h.setBank
theorem Sound.execChainPairArrival {i c : Nat} (h : Sound s) : AnswerSound (execChainPairArrival i c s) := by
  unfold Machine.execChainPairArrival
  dsimp only
  split
  exacts [h.act (fun h => .armSettle (.sent (.setTile (.setBank (.of_mem h.rouse rfl))))), h]
theorem Sound.ruleOusave {a a1 a2 : Nat} (h : Sound s) : VerdictSound (ruleOusave a a1 a2 s) := by
  refine .ite trivial (h.reserved (fun h => ?_))
  split
  next e => exact .of_some e h.bankTake
  · exact .ite (.ite h.setBank.writePieces.countMove h.setBank.writePieces.countMove) h.setBank.setTile
theorem Sound.ruleOurestore {i n w : Nat} (h : Sound s) : VerdictSound (ruleOurestore i n w s) := by
  unfold Machine.ruleOurestore
  refine .ite trivial (h.reserved fun {t} h => ?_)
  split
  · next e => exact .of_some e h.bankFill
  · generalize 2048 = sectors, 131072 = bytes
    split
    · split
      next e =>
        have hr := Sound.of_fst e h.readMem
        exact .ite hr.countMove hr.countMove.setBank
    · exact .ite trivial h.setBank

/-! Sys2Proof/Machine/TileArray.lean -/

theorem Sound.passGate {i n : Nat} {p : PassReq} {half : Option Nat} {a : Block} (h : Sound s) : GateSound (passGate i n s p half a) :=
  .ite trivial (.ite trivial (.ite trivial (.ite trivial (.ite trivial (.ite trivial (.ite trivial trivial))))))
theorem Sound.arrayPass {i n : Nat} {p : PassReq} {a : Block} (h : Sound s) : Sound (Machine.runPass i n p a s) := h.setBank.setAll
theorem Sound.halfGate {i n hd : Nat} (h : Sound s) : GateSound (halfGate i n hd s) := .ite trivial (.ite trivial (.ite trivial trivial))
theorem Sound.ruleMpass {a a1 a2 : Nat} (h : Sound s) : VerdictSound (ruleMpass a a1 a2 s) := by
  refine .ite trivial (.ite trivial (.ite trivial (h.reserved (fun h => ?_))))
  split
  next e => exact .of_some e (.ite trivial h.halfGate)
  · dsimp only
    split
    next e => exact .of_some e (.findSome h.passGate)
    · exact .ite trivial (Sound.ite (.foldl h (fun h => h.arrayPass)) (.set (.foldl h (fun h => h.arrayPass))))
theorem Sound.ruleSload {a a1 a2 : Nat} (h : Sound s) : VerdictSound (ruleSload a a1 a2 s) :=
  .ite trivial (.ite trivial (h.reserved (fun h => .ite trivial (.ite trivial h.setTile.set))))
theorem Sound.ruleGbload {a a1 a2 : Nat} (h : Sound s) : VerdictSound (ruleGbload a a1 a2 s) :=
  .ite trivial (.ite trivial (h.reserved (fun h => .ite (.ite trivial trivial) (.ite trivial h.setTile.set.set))))
theorem Sound.ruleOuset {a a1 a2 : Nat} (h : Sound s) : VerdictSound (ruleOuset a a1 a2 s) :=
  .ite trivial (.ite trivial (.ite trivial h.setStream))
theorem Sound.slotGate {i n i1 : Nat} (h : Sound s) : GateSound (slotGate i n i1 s) := .ite trivial (.ite trivial trivial)
theorem Sound.ruleOufin {a a1 a2 : Nat} (h : Sound s) : VerdictSound (ruleOufin a a1 a2 s) := by
  refine .ite trivial (.ite trivial (h.reserved (fun h => ?_)))
  split
  next e => exact .of_some e (.orElse h.bankTake (.ite trivial h.slotGate))
  · exact .ite trivial (Sound.set (.set (.counted (by split; exacts [.setTile (by split; exacts [h.setTile, h.setScoreFull.setTile]), (by
      split; exacts [h.setTile, h.setScoreFull.setTile])]))))
theorem Sound.nameSegments {segs : List Nat} (h : Sound s) : Sound (s.nameSegments segs) := .of_mem h rfl
theorem Sound.writeSegment {req seg : Nat} {vals : List Nat} (h : Sound s) : Sound (s.writeSegment req seg vals).1 := by
  unfold State.writeSegment
  split
  exacts [h, h.writeMem]
theorem Sound.ruleGradout {i n w : Nat} (h : Sound s) : VerdictSound (ruleGradout i n w s) := by
  refine .ite trivial (.ite trivial ?_)
  split
  · next e => exact .of_some e h.bankTake
  · extract_lets rows
    split
    extract_lets s1
    have h1 : Sound s1 := h.counted
    split
    next e =>
      have hw := Sound.of_fst e h1.nameSegments.writeSegment
      exact .ite hw hw.set.set

/-! Sys2Proof/Machine/TileVector.lean -/

theorem Sound.vecWrite {i n : Nat} {v : VecWrite} (h : Sound s) : Sound (State.vecWrite i n s v) := h.setTile.counted
theorem Sound.scoreGate {i n : Nat} {slots : List Nat} (h : Sound s) : GateSound (scoreGate i n slots s) := .ite trivial trivial
theorem Sound.vecIssue {i n : Nat} {rd wr : List (Nat × Nat)} {slots : List Nat} {gate : State → Option Verdict} {run : State → VecResult}
    (hk : ∀ {t}, Sound t → GateSound (gate t)) (hr : ∀ {t}, Sound t → Sound (run t).state) (h : Sound s) :
    VerdictSound (vecIssue i n rd wr slots gate run s) := by
  refine .ite trivial (h.reserved fun {t} h => .ite trivial ?_)
  split
  · next e => exact .of_some e (.orElse h.scoreGate (hk h))
  · exact .ite trivial (Sound.set (Sound.set (.foldl (hr h) fun h => h.vecWrite)))
theorem Sound.noGate (h : Sound s) : GateSound (noGate s) := trivial
theorem Sound.ruleVop {a a1 a2 : Nat} (h : Sound s) : VerdictSound (ruleVop a a1 a2 s) :=
  .ite trivial (.ite h (Sound.vecIssue (fun h => h.noGate) (fun h => h) h))

/-! Sys2Proof/Machine/TileKernels.lean -/

theorem Sound.setKslot {i k : Nat} {v : KSlot} (h : Sound s) : Sound (s.setKslot i k v) := h.setTile
theorem Sound.kslotGate {i n k : Nat} {opens : Bool} (h : Sound s) : GateSound (kslotGate i n k opens s) :=
  .ite (.ite trivial trivial) (.ite trivial trivial)
theorem Sound.openSlot {i n k : Nat} {v : KSlot} (h : Sound s) : Sound (s.openSlot i n k v) := h.setKslot.set.set
theorem Sound.closeSlot {i k : Nat} (h : Sound s) : Sound (s.closeSlot i k) := h.setKslot.set.set
theorem Sound.ruleNormFwd {a a1 a2 : Nat} (h : Sound s) : VerdictSound (ruleNormFwd a a1 a2 s) :=
  .ite trivial (Sound.vecIssue (fun h => h.noGate) (fun h => h) h)
theorem Sound.ruleNormBwdAcc {a a1 a2 : Nat} (h : Sound s) : VerdictSound (ruleNormBwdAcc a a1 a2 s) :=
  .ite trivial (Sound.vecIssue (fun h => h.kslotGate) (fun h => h.openSlot) h)
theorem Sound.ruleNormBwdFin {a a1 a2 : Nat} (h : Sound s) : VerdictSound (ruleNormBwdFin a a1 a2 s) :=
  .ite trivial (Sound.vecIssue (fun h => h.kslotGate) (fun h => .ite h.closeSlot h) h)
theorem Sound.ruleGainout {i n w : Nat} (h : Sound s) : VerdictSound (ruleGainout i n w s) := by
  refine .ite trivial (.ite trivial (.ite trivial (h.reserved fun {t} h => .ite trivial (.ite trivial ?_))))
  extract_lets vals v s1 all
  have h1 : Sound s1 := h.counted.nameSegments
  split
  next e =>
    have hw := Sound.of_fst e (.foldl_fst h1 fun h => by
      split
      exacts [h.writeSegment, h])
    exact .ite hw hw.set
theorem Sound.tookFree {k : Nat} (h : Sound s) : Sound (s.tookFree k) := .of_mem h rfl
theorem Sound.ruleAttnP {a a1 a2 : Nat} (h : Sound s) : VerdictSound (ruleAttnP a a1 a2 s) :=
  .ite trivial (Sound.vecIssue (fun h => h.kslotGate) (fun h => h.tookFree.openSlot) h)
theorem Sound.ruleAttnO {a a1 a2 : Nat} (h : Sound s) : VerdictSound (ruleAttnO a a1 a2 s) :=
  .ite trivial (Sound.vecIssue (fun h => h.kslotGate) (fun h => h.tookFree.setKslot) h)
theorem Sound.ruleAttnFin {a a1 a2 : Nat} (h : Sound s) : VerdictSound (ruleAttnFin a a1 a2 s) :=
  .ite trivial (Sound.vecIssue (fun h => h.kslotGate) (fun h => h.closeSlot) h)
theorem Sound.ruleAttnDterm {a a1 a2 : Nat} (h : Sound s) : VerdictSound (ruleAttnDterm a a1 a2 s) :=
  .ite trivial (Sound.vecIssue (fun h => h.noGate) (fun h => h) h)
theorem Sound.halfOwnGate {i n hd : Nat} (h : Sound s) : GateSound (halfOwnGate i n hd s) := .ite trivial trivial
theorem Sound.fillNow {i n : Nat} {y : Stream} {f : HalfFill} (h : Sound s) : Sound (s.fillNow i n y f) := .ite h.fillHalf h
theorem Sound.ruleAttnDs {a a1 a2 : Nat} (h : Sound s) : VerdictSound (ruleAttnDs a a1 a2 s) :=
  .ite trivial (Sound.vecIssue (fun h => .orElse h.halfOwnGate h.halfOwnGate) (fun h => h.tookFree.fillNow.fillNow) h)
theorem Sound.ruleXentBlk {a a1 a2 : Nat} (h : Sound s) : VerdictSound (ruleXentBlk a a1 a2 s) :=
  .ite trivial (Sound.vecIssue (fun h => h.kslotGate) (fun h => h.openSlot) h)
theorem Sound.ruleXentGrad {a a1 a2 : Nat} (h : Sound s) : VerdictSound (ruleXentGrad a a1 a2 s) :=
  .ite trivial (Sound.vecIssue (fun h => h.kslotGate) (fun h => h) h)
theorem Sound.ruleKstore {a a1 a2 : Nat} (h : Sound s) : VerdictSound (ruleKstore a a1 a2 s) :=
  .ite trivial (Sound.vecIssue (fun h => h.kslotGate) (fun h => h) h)
theorem Sound.ruleKload {a a1 a2 : Nat} (h : Sound s) : VerdictSound (ruleKload a a1 a2 s) :=
  .ite trivial (Sound.vecIssue (fun h => .ite trivial trivial) (fun h => h.openSlot) h)
theorem Sound.ruleXentLoss {a a1 a2 : Nat} (h : Sound s) : VerdictSound (ruleXentLoss a a1 a2 s) :=
  .ite trivial (Sound.vecIssue (fun h => h.kslotGate) (fun h => h.closeSlot.setStream) h)

/-! Sys2Proof/Machine/TileIssue.lean -/

/-- What holds of every entry of a table holds of the one looked up. -/
theorem lookup_of_forall {p : α → Prop} {k : Nat} {x : α} {l : List (Nat × α)} (h : l.Forall fun e => p e.2) (e : l.lookup k = some x) :
    p x := by
  induction l with
  | nil => cases e
  | cons y l ih =>
    obtain ⟨hy, hl⟩ := List.forall_cons _ y l |>.1 h
    rw [List.lookup_cons] at e
    split at e
    · exact Option.some.inj e ▸ hy
    · exact ih hl e

/-- An instruction's rule, whichever it is, answers a sound verdict. -/
theorem Sound.ruleOf {op i n w : Nat} {rule : Rule} (h : Sound s) (e : ruleOf op = some rule) : VerdictSound (rule i n w s) := by
  refine lookup_of_forall (p := fun rule => VerdictSound (rule i n w s)) ?_ e
  simp only [List.forall_cons, List.Forall, and_true]
  exact ⟨h.ruleNop, h.ruleTag, h.ruleWait, h.ruleSignal, h.ruleXadd, h.ruleXget, h.ruleBnz, h.ruleKset, h.ruleLd, h.ruleSt, h.ruleGld,
      h.ruleGst, h.ruleHostld, h.ruleHostst, h.rulePref, h.ruleSend, h.ruleRecv, h.ruleFree, h.ruleSload, h.ruleGbload, h.ruleMpass,
      h.ruleOuset, h.ruleOufin, h.ruleOusave, h.ruleOurestore, h.ruleChainout, h.ruleChainin, h.ruleGradout, h.ruleVop, h.ruleNormFwd,
      h.ruleNormBwdAcc, h.ruleNormBwdFin, h.ruleAttnP, h.ruleAttnO, h.ruleAttnFin, h.ruleAttnDterm, h.ruleAttnDs, h.ruleXentBlk,
      h.ruleXentGrad, h.ruleKstore, h.ruleKload, h.ruleGainout, h.ruleXentLoss⟩
theorem Sound.verdict {i n : Nat} (h : Sound s) : GateSound (s.verdict i n) := by
  unfold State.verdict
  cases e : Machine.ruleOf (opOf (s.nextWord i n)) with
  | none => trivial
  | some rule => exact h.ruleOf e
theorem Sound.grant {i n : Nat} {contested : Bool} (h : Sound s) : Sound (s.grant i n contested) := .ite h.setTile h
theorem Sound.carry {i n w : Nat} {v : Verdict} (h : Sound s) (hv : VerdictSound v) : Sound (s.carry i n w v) := by
  cases v with
  | fault c => exact h.tileFault
  | wait r => exact h.stall
  | done t => exact Sound.advance (.event (.grant hv))
  | jump t pc => exact Sound.setPc (.seqTo (.inc (.event (.grant hv))))
  | flies t j => exact Sound.advance (.launch (.grant hv))
  | broke t code => exact Sound.tileFault (.grant hv)
theorem Sound.attempt {rule : Rule} {i n : Nat} (h : Sound s) (hk : ∀ {x y z t}, Sound t → VerdictSound (rule x y z t)) : Sound
    (s.attempt rule i n) :=
  .ite h.stall (h.carry (hk h))
theorem Sound.issueOp {op : Nat} {rule : Rule} {i n : Nat} {bad : List Nat} (hk : ∀ {x y z t}, Sound t → VerdictSound (rule x y z t)) (h
    : Sound s) : AnswerSound (issueOp op rule i n bad s) :=
  h.act (fun h => .ite h.upset.tileFault (h.upset.attempt (fun h => hk h)))
theorem Sound.execNop {i n : Nat} {bad : List Nat} (h : Sound s) : AnswerSound (execNop i n bad s) := Sound.issueOp (fun h => h.ruleNop) h
theorem Sound.execTag {i n : Nat} {bad : List Nat} (h : Sound s) : AnswerSound (execTag i n bad s) := Sound.issueOp (fun h => h.ruleTag) h
theorem Sound.execWait {i n : Nat} {bad : List Nat} (h : Sound s) : AnswerSound (execWait i n bad s) :=
  Sound.issueOp (fun h => h.ruleWait) h
theorem Sound.execSignal {i n : Nat} {bad : List Nat} (h : Sound s) : AnswerSound (execSignal i n bad s) :=
  Sound.issueOp (fun h => h.ruleSignal) h
theorem Sound.execXadd {i n : Nat} {bad : List Nat} (h : Sound s) : AnswerSound (execXadd i n bad s) :=
  Sound.issueOp (fun h => h.ruleXadd) h
theorem Sound.execXget {i n : Nat} {bad : List Nat} (h : Sound s) : AnswerSound (execXget i n bad s) :=
  Sound.issueOp (fun h => h.ruleXget) h
theorem Sound.execBnz {i n : Nat} {bad : List Nat} (h : Sound s) : AnswerSound (execBnz i n bad s) := Sound.issueOp (fun h => h.ruleBnz) h
theorem Sound.execKset {i n : Nat} {bad : List Nat} (h : Sound s) : AnswerSound (execKset i n bad s) :=
  Sound.issueOp (fun h => h.ruleKset) h
theorem Sound.execLd {i n : Nat} {bad : List Nat} (h : Sound s) : AnswerSound (execLd i n bad s) := Sound.issueOp (fun h => h.ruleLd) h
theorem Sound.execSt {i n : Nat} {bad : List Nat} (h : Sound s) : AnswerSound (execSt i n bad s) := Sound.issueOp (fun h => h.ruleSt) h
theorem Sound.execGld {i n : Nat} {bad : List Nat} (h : Sound s) : AnswerSound (execGld i n bad s) := Sound.issueOp (fun h => h.ruleGld) h
theorem Sound.execGst {i n : Nat} {bad : List Nat} (h : Sound s) : AnswerSound (execGst i n bad s) := Sound.issueOp (fun h => h.ruleGst) h
theorem Sound.execHostld {i n : Nat} {bad : List Nat} (h : Sound s) : AnswerSound (execHostld i n bad s) :=
  Sound.issueOp (fun h => h.ruleHostld) h
theorem Sound.execHostst {i n : Nat} {bad : List Nat} (h : Sound s) : AnswerSound (execHostst i n bad s) :=
  Sound.issueOp (fun h => h.ruleHostst) h
theorem Sound.execPref {i n : Nat} {bad : List Nat} (h : Sound s) : AnswerSound (execPref i n bad s) :=
  Sound.issueOp (fun h => h.rulePref) h
theorem Sound.execSend {i n : Nat} {bad : List Nat} (h : Sound s) : AnswerSound (execSend i n bad s) :=
  Sound.issueOp (fun h => h.ruleSend) h
theorem Sound.execRecv {i n : Nat} {bad : List Nat} (h : Sound s) : AnswerSound (execRecv i n bad s) :=
  Sound.issueOp (fun h => h.ruleRecv) h
theorem Sound.execFree {i n : Nat} {bad : List Nat} (h : Sound s) : AnswerSound (execFree i n bad s) :=
  Sound.issueOp (fun h => h.ruleFree) h
theorem Sound.execOusave {i n : Nat} {bad : List Nat} (h : Sound s) : AnswerSound (execOusave i n bad s) :=
  Sound.issueOp (fun h => h.ruleOusave) h
theorem Sound.execOurestore {i n : Nat} {bad : List Nat} (h : Sound s) : AnswerSound (execOurestore i n bad s) :=
  Sound.issueOp (fun h => h.ruleOurestore) h
theorem Sound.execChainout {i n : Nat} {bad : List Nat} (h : Sound s) : AnswerSound (execChainout i n bad s) :=
  Sound.issueOp (fun h => h.ruleChainout) h
theorem Sound.execChainin {i n : Nat} {bad : List Nat} (h : Sound s) : AnswerSound (execChainin i n bad s) :=
  Sound.issueOp (fun h => h.ruleChainin) h
theorem Sound.execSload {i n : Nat} {bad : List Nat} (h : Sound s) : AnswerSound (execSload i n bad s) :=
  Sound.issueOp (fun h => h.ruleSload) h
theorem Sound.execGbload {i n : Nat} {bad : List Nat} (h : Sound s) : AnswerSound (execGbload i n bad s) :=
  Sound.issueOp (fun h => h.ruleGbload) h
theorem Sound.execMpass {i n : Nat} {bad : List Nat} (h : Sound s) : AnswerSound (execMpass i n bad s) :=
  Sound.issueOp (fun h => h.ruleMpass) h
theorem Sound.execOuset {i n : Nat} {bad : List Nat} (h : Sound s) : AnswerSound (execOuset i n bad s) :=
  Sound.issueOp (fun h => h.ruleOuset) h
theorem Sound.execOufin {i n : Nat} {bad : List Nat} (h : Sound s) : AnswerSound (execOufin i n bad s) :=
  Sound.issueOp (fun h => h.ruleOufin) h
theorem Sound.execGradout {i n : Nat} {bad : List Nat} (h : Sound s) : AnswerSound (execGradout i n bad s) :=
  Sound.issueOp (fun h => h.ruleGradout) h
theorem Sound.execVop {i n : Nat} {bad : List Nat} (h : Sound s) : AnswerSound (execVop i n bad s) := Sound.issueOp (fun h => h.ruleVop) h
theorem Sound.execNormFwd {i n : Nat} {bad : List Nat} (h : Sound s) : AnswerSound (execNormFwd i n bad s) :=
  Sound.issueOp (fun h => h.ruleNormFwd) h
theorem Sound.execNormBwdAcc {i n : Nat} {bad : List Nat} (h : Sound s) : AnswerSound (execNormBwdAcc i n bad s) :=
  Sound.issueOp (fun h => h.ruleNormBwdAcc) h
theorem Sound.execNormBwdFin {i n : Nat} {bad : List Nat} (h : Sound s) : AnswerSound (execNormBwdFin i n bad s) :=
  Sound.issueOp (fun h => h.ruleNormBwdFin) h
theorem Sound.execAttnP {i n : Nat} {bad : List Nat} (h : Sound s) : AnswerSound (execAttnP i n bad s) :=
  Sound.issueOp (fun h => h.ruleAttnP) h
theorem Sound.execAttnO {i n : Nat} {bad : List Nat} (h : Sound s) : AnswerSound (execAttnO i n bad s) :=
  Sound.issueOp (fun h => h.ruleAttnO) h
theorem Sound.execAttnFin {i n : Nat} {bad : List Nat} (h : Sound s) : AnswerSound (execAttnFin i n bad s) :=
  Sound.issueOp (fun h => h.ruleAttnFin) h
theorem Sound.execAttnDterm {i n : Nat} {bad : List Nat} (h : Sound s) : AnswerSound (execAttnDterm i n bad s) :=
  Sound.issueOp (fun h => h.ruleAttnDterm) h
theorem Sound.execAttnDs {i n : Nat} {bad : List Nat} (h : Sound s) : AnswerSound (execAttnDs i n bad s) :=
  Sound.issueOp (fun h => h.ruleAttnDs) h
theorem Sound.execXentBlk {i n : Nat} {bad : List Nat} (h : Sound s) : AnswerSound (execXentBlk i n bad s) :=
  Sound.issueOp (fun h => h.ruleXentBlk) h
theorem Sound.execXentGrad {i n : Nat} {bad : List Nat} (h : Sound s) : AnswerSound (execXentGrad i n bad s) :=
  Sound.issueOp (fun h => h.ruleXentGrad) h
theorem Sound.execKstore {i n : Nat} {bad : List Nat} (h : Sound s) : AnswerSound (execKstore i n bad s) :=
  Sound.issueOp (fun h => h.ruleKstore) h
theorem Sound.execKload {i n : Nat} {bad : List Nat} (h : Sound s) : AnswerSound (execKload i n bad s) :=
  Sound.issueOp (fun h => h.ruleKload) h
theorem Sound.execGainout {i n : Nat} {bad : List Nat} (h : Sound s) : AnswerSound (execGainout i n bad s) :=
  Sound.issueOp (fun h => h.ruleGainout) h
theorem Sound.execXentLoss {i n : Nat} {bad : List Nat} (h : Sound s) : AnswerSound (execXentLoss i n bad s) :=
  Sound.issueOp (fun h => h.ruleXentLoss) h
theorem Sound.execEndStream {i n : Nat} {bad : List Nat} (h : Sound s) : AnswerSound (execEndStream i n bad s) :=
  h.act (fun h => .ite h.upset.tileFault (.ite h.upset.tileFault h.upset.endIssue))
theorem Sound.execWaitRelease {i n : Nat} {bad : List Nat} (h : Sound s) : AnswerSound (execWaitRelease i n bad s) :=
  h.act (fun h => h.upset.event.advance)
theorem Sound.execStalledIssue {i n : Nat} {bad : List Nat} (h : Sound s) : AnswerSound (execStalledIssue i n bad s) := by
  refine h.act fun h => ?_
  dsimp only
  split
  · next rule e => exact h.upset.attempt fun h => h.ruleOf e
  · exact h.upset

/-! Sys2Proof/Machine/Power.lean -/

theorem Sound.setPower {f : PowerCtl → PowerCtl} (h : Sound s) : Sound (s.setPower f) := .of_mem h rfl
theorem Sound.clearTile {i : Nat} (h : Sound s) : Sound (s.clearTile i) := h.resetRange.setTile
theorem Sound.enterTile {i p : Nat} (h : Sound s) : Sound (s.enterTile i p) := h.setTilePower.setTile
theorem Sound.pllRest {k : Nat} (h : Sound s) : Sound (s.pllRest k) := .ite h.set h
theorem Sound.execTileIdle {i : Nat} (h : Sound s) : AnswerSound (execTileIdle i s) := h.doIf (fun h => h.enterTile)
theorem Sound.execTileSleep {i : Nat} (h : Sound s) : AnswerSound (execTileSleep i s) := h.doIf (fun h => h.enterTile.pllRest)
theorem Sound.execTileOff {i : Nat} (h : Sound s) : AnswerSound (execTileOff i s) := h.doIf (fun h => h.clearTile.setTilePower.pllRest)
theorem Sound.execPllOff {k : Nat} (h : Sound s) : AnswerSound (execPllOff k s) := h.doIf (fun h => h.set)
theorem Sound.execTileWake {i : Nat} (h : Sound s) : AnswerSound (execTileWake i s) := h.doIf (fun h => .ite h.setTilePower h.wakeTile)
theorem Sound.execWakeAdmission (h : Sound s) : AnswerSound (execWakeAdmission s) := h.doIf (fun h => h.setPower)
theorem Sound.execTileWakeDone {i : Nat} (h : Sound s) : AnswerSound (execTileWakeDone i s) := h.doIf (fun h => h.setPower.setTilePower)
theorem Sound.setStep {f : Nat} (h : Sound s) : Sound (s.setStep f) := .foldl h (fun h => .ite h.set h)
theorem Sound.applyGrants {demand grants : List Nat} (h : Sound s) : Sound (s.applyGrants demand grants) :=
  .setStep (.setPower (.foldl h (fun h => .ite h h.setBit.traceRec)))
theorem Sound.execPowerDivision {fixed : Nat} {power demand : List Nat} {inputW inputV : Nat} (h : Sound s) : AnswerSound
    (execPowerDivision fixed power demand inputW inputV s) :=
  h.doIf (fun h => h.setAll.setPower.applyGrants)
theorem Sound.cutDuty (h : Sound s) : Sound s.cutDuty := by
  unfold State.cutDuty
  split
  exacts [h, .of_mem h rfl]
theorem Sound.execFastLoop {p : Nat} (h : Sound s) : AnswerSound (execFastLoop p s) :=
  h.doIf (fun h => .ite (.cutDuty (.foldl h.setPower.set.set (fun h => .ite h.count h))) (.foldl h.setPower.set.set (fun h => .ite
    h.count h)))
theorem Sound.execPwrLimitWrite {m watts : Nat} (h : Sound s) : AnswerSound (execPwrLimitWrite m watts s) := h.doIf (fun h => h.set)
theorem Sound.holdFloors (h : Sound s) : Sound s.holdFloors := h.applyGrants
theorem Sound.execInputLow {v : Nat} (h : Sound s) : AnswerSound (execInputLow v s) := h.doIf (fun h => h.setAll.logPwr.holdFloors)
theorem Sound.execInputHigh {v : Nat} (h : Sound s) : AnswerSound (execInputHigh v s) := h.doIf (fun h => h.setAll.logPwr.holdFloors)
theorem Sound.execInputHoldEnd (h : Sound s) : AnswerSound (execInputHoldEnd s) := h.doIf (fun h => h.set.set)
theorem Sound.loseInput (h : Sound s) : Sound s.loseInput := .of_mem h.closeBypass.closeBypass rfl
theorem Sound.execInputLost (h : Sound s) : AnswerSound (execInputLost s) := h.doIf (fun h => h.loseInput)
theorem Sound.execMateOpen (h : Sound s) : AnswerSound (execMateOpen s) := h.doIf (fun h => .of_mem (.ite h.loseInput h) rfl)
theorem Sound.execSbVrefLow (h : Sound s) : AnswerSound (execSbVrefLow s) :=
  h.doIf (fun h => .ite (.assertPerst (.of_mem h rfl)) (.of_mem h rfl))
theorem Sound.execPowerOn {straps : Nat} {corrupt : Bool} (h : Sound s) : AnswerSound (execPowerOn straps corrupt s) := by
  refine h.doIf fun {t} h => ?_
  unfold Sound
  extract_lets kept stored fld _ _ _ n m
  have hn : Sound n := rfl
  have hm : Sound m := .ite hn.logPwr hn
  exact Sound.ite hm.logSec hm
theorem Sound.clusterLost {k : Nat} (h : Sound s) : Sound (s.clusterLost k) :=
  .setPower (.set (.foldl h (fun h => h.clearTile.setTilePower)))
theorem Sound.failHops {c l : Nat} (h : Sound s) : Sound (s.failHops c l) := .foldl h (fun h => .ite h.setBit h)
theorem Sound.layerFault {c l : Nat} (h : Sound s) : Sound (s.layerFault c l) := by
  unfold State.layerFault
  extract_lets k again s1 s2 s3 s4
  have h1 : Sound s1 := h.logPwr
  have h2 : Sound s2 := Memory.wf_dropLayer s1.mem _ _ h1
  have h4 : Sound s4 := h2.setPower.devReset
  exact .ite h4.failHops h4
theorem Sound.execRegulatorFault {kind a b : Nat} (h : Sound s) : AnswerSound (execRegulatorFault kind a b s) :=
  .ite (h.act (fun h => h.setPower.logPwr.clusterLost.recordFail)) (.ite (h.act (fun h => h.layerFault)) (h.act (fun h =>
    h.logPwr.devReset)))
theorem Sound.execLayerRegulatorRecovered {c l : Nat} (h : Sound s) : AnswerSound (execLayerRegulatorRecovered c l s) :=
  h.act (fun {t} h => .setPower (Memory.wf_dropLayer t.mem _ _ h))
theorem Sound.setColState {c v : Nat} (h : Sound s) : Sound (s.setColState c v) := .ite h h.set.traceRec
theorem Sound.setRate {c which v : Nat} (h : Sound s) : Sound (s.setRate c which v) := h.setPower
theorem Sound.setCap {k v : Nat} (h : Sound s) : Sound (s.setCap k v) := h.set.set
theorem Sound.minimumRates {c : Nat} (h : Sound s) : Sound (s.minimumRates c) := .setRate (.setRate (.foldl h (fun h => h.setCap)))
theorem Sound.trip (h : Sound s) : Sound s.trip := .devReset (.mcReset (.of_mem h rfl))
theorem Sound.judge {c : Nat} (h : Sound s) : Sound (s.judge c) :=
  .ite h.trip (.ite (.minimumRates (.ite h.setColState.logPwr h)) (.ite h.setColState.logPwr h))
theorem Sound.execCriticalEntry {c : Nat} (h : Sound s) : AnswerSound (execCriticalEntry c s) :=
  h.act (fun h => .recordFail (.foldl h.setColState.minimumRates.logPwr (fun h => .ite h.stopTile h)))
theorem Sound.execWarnStep {c : Nat} (h : Sound s) : AnswerSound (execWarnStep c s) :=
  h.doIf (fun h => .setRate (.setRate (.foldl h (fun h => h.setCap))))
theorem Sound.execColumnStateRelax {c : Nat} (h : Sound s) : AnswerSound (execColumnStateRelax c s) :=
  h.act (fun h => .setRate (.setRate (.foldl h.setColState (fun h => h.set))))
theorem Sound.stackTick {c r : Nat} {sensors powers : List ℤ} {coolant : ℤ} (h : Sound s) : Sound (s.stackTick c r sensors powers
    coolant) :=
  .foldl h (fun h => .of_mem h rfl)
theorem Sound.damaged {c a : Nat} (h : Sound s) : Sound (s.damaged c a) := by
  unfold State.damaged
  extract_lets old new s1 s2 store s3
  have h2 : Sound s2 := h.set.inc
  have hs {t : State} (h : Sound t) : Sound (store t) := .of_mem h rfl
  have h3 : Sound s3 := .ite (hs h2).logPwr h2
  exact .ite (hs h3).logPwr h3
theorem Sound.wearSample {c : Nat} {x : ℤ} (h : Sound s) : Sound (s.wearSample c x) :=
  .ite h.setPower (.ite h.setPower (.ite (.ite h.setPower.damaged h.setPower) h))
theorem Sound.execThermalTick {c : Nat} {sensors powers : List (List ℤ)} {inlet outlet : ℤ} (h : Sound s) : AnswerSound (execThermalTick
    c sensors powers inlet outlet s) :=
  h.act (fun h => .releaseTrip (.judge (.wearSample (.setAll (.foldl h (fun h => h.stackTick))))))
theorem Sound.setNode {c r j : Nat} {x : ThmNode} (h : Sound s) : Sound (s.setNode c r j x) := .of_mem h rfl
theorem Sound.execSensorSuspect {c r j : Nat} (h : Sound s) : AnswerSound (execSensorSuspect c r j s) :=
  h.act (fun h => h.setNode.inc.logPwr)
theorem Sound.execSuspectClear (h : Sound s) : AnswerSound (execSuspectClear s) := h.doIf (fun h => .set (.of_mem h rfl))
theorem Sound.execMarginStart {m c : Nat} (h : Sound s) : AnswerSound (execMarginStart m c s) :=
  h.act (fun h => .ite h.set.logPwr h.setAll.setPower)
theorem Sound.execMarginDone {eyes : List (Nat × Nat × Nat)} (h : Sound s) : AnswerSound (execMarginDone eyes s) := by
  unfold Machine.execMarginDone
  split
  exacts [h, h.act (fun h => .foldl h.set.setPower (fun h => .ite h.setAll.logPwr h.setAll))]

/-! Sys2Proof/Machine/Registers.lean -/

theorem Sound.cluRequest {m k : Nat} {f : State → State} (h : Sound s) (hk : ∀ {t}, Sound t → Sound (f t)) : AnswerSound (cluRequest m k
    s f) :=
  h.doIf (fun h => .ite (hk h.set) h.set)
theorem Sound.execTileReset {m k mask : Nat} (h : Sound s) : AnswerSound (execTileReset m k mask s) :=
  h.doIf (fun h => .ite (.orWait (.ite h.set.set h.set) h) h)
theorem Sound.execCluReset {m k : Nat} (h : Sound s) : AnswerSound (execCluReset m k s) := h.cluRequest (fun h => h.set.resetReceiver)
theorem Sound.execTileResetEnd {k j : Nat} (h : Sound s) : AnswerSound (execTileResetEnd k j s) :=
  h.doIf (fun h => h.clearTile.setBit.setBit)
theorem Sound.execCluResetEnd {k : Nat} (h : Sound s) : AnswerSound (execCluResetEnd k s) :=
  h.doIf (fun h => h.clusterLost.resetRange.setAll)
theorem Sound.afterCmd {r : Res} (h : Sound s) (hr : AnswerSound r) : Sound (afterCmd s r) := by
  cases r; exacts [hr, h, h]
/-- A command carried out in passing, where its bit is set. -/
theorem Sound.also {c : Prop} [Decidable c] {f : State → Res} (h : Sound s) (hf : ∀ {t}, Sound t → AnswerSound (f t)) :
    Sound (if c then Machine.afterCmd s (f s) else s) := .ite (h.afterCmd (hf h)) h
theorem Sound.writeField {f : Fld} {v : Nat} (h : Sound s) : Sound (s.writeField f v) := by
  unfold State.writeField
  split
  exacts [h, h.set, h.writeRwb, .ite h (.of_mem h rfl), h.set, h.set, h]
theorem Sound.writeFields {l : List Fld} {skip : List Nat} {v : Nat} (h : Sound s) : Sound (s.writeFields l skip v) :=
  .foldl h (fun h => .ite h h.writeField)
theorem Sound.oneBit {v : Nat} {f : Nat → State} (h : Sound s) (ht : Sound t) (hf : ∀ {k}, Sound (f k)) : Sound (oneBit v s t f) :=
  .ite h (.ite hf ht)
theorem Sound.writeRingCtrl {m v : Nat} {e : WriteEnv} (h : Sound s) : Sound (s.writeRingCtrl m v e) := by
  unfold State.writeRingCtrl
  extract_lets leave s1 s2 join
  have left {t : State} {r : Nat} (h : Sound t) : Sound (leave t r) := .ite (.ite h (h.afterCmd h.execLeave)) h.set
  have joined {t : State} {r : Nat} (h : Sound t) : Sound (join t r) := h.also fun h => h.execJoin
  have h2 : Sound s2 := (left (left h)).also fun h => h.execRosterReset
  exact joined (joined h2)
theorem Sound.writeCapCtrl {l : List Fld} {v : Nat} (h : Sound s) : Sound (s.writeCapCtrl l v) := by
  unfold State.writeCapCtrl
  extract_lets s1 off s2 s3 s4
  have h1 : Sound s1 := h.writeFields
  have hoff {t : State} {en : Fld} {owner : Nat} (h : Sound t) : Sound (off t en owner) := .ite h.set.unclaim h
  have h2 : Sound s2 := .ite h1 (hoff h1)
  have h3 : Sound s3 := .ite h2 (hoff h2)
  have h4 : Sound s4 := h3.also fun h => h.execDigestLogEnable
  exact h4.also fun h => h.execTraceEnable
theorem Sound.writePtpCtrl {m : Nat} {l : List Fld} {v : Nat} (h : Sound s) : Sound (s.writePtpCtrl m l v) := by
  unfold State.writePtpCtrl
  extract_lets port s1
  have hport {t : State} {p : Nat} (h : Sound t) : Sound (port t p) :=
    .ite (h.afterCmd h.execPtpEnable) (.ite h.set.unclaim.unclaim.setPtp h)
  have h1 : Sound s1 := hport (hport h.writeFields)
  exact .ite h1 h1.set
theorem Sound.writeSecCmd {m v : Nat} {e : WriteEnv} (h : Sound s) : Sound (s.writeSecCmd m v e) :=
  h.afterCmd (.ite h.execFwWrite (.ite h.execFwActivate (.ite h.execFwConfirm (.ite h.execOwnerRequest (.ite h.execDevReset (h.secCmd
    (fun h => h.secResult)))))))
theorem Sound.writeMbx {m off : Nat} {l : List Fld} {v : Nat} (h : Sound s) : Sound (s.writeMbx m off l v) :=
  .ite (h.afterCmd h.execMailboxWrite) (.ite (.ite (h.writeFields.afterCmd h.writeFields.execMailboxClear) h.writeFields) (.ite (.ite
    (h.afterCmd h.execMailboxLockRelease) h) (.ite (h.afterCmd h.execMbxBindWrite) h.writeFields)))
theorem Sound.writeQueue {m off : Nat} {l : List Fld} {v : Nat} (h : Sound s) : Sound (s.writeQueue m off l v) := by
  unfold State.writeQueue
  exact .ite (.ite (h.afterCmd h.execQueueEnable) (.set (.ite (h.afterCmd h.execQueueDisable) h))) (.ite (h.afterCmd
    h.execSqTailDoorbell) (.ite (h.afterCmd h.execCqHeadDoorbell) h.writeFields))
theorem Sound.writeEth {m off : Nat} {l : List Fld} {v : Nat} (h : Sound s) : Sound (s.writeEth m off l v) :=
  .ite (.ite (h.afterCmd h.execIngestEnable) h.writeFields) (.ite (.ite h h.writeFields) (.ite (h.afterCmd h.execPodSetWrite) (.ite
    h.writePtpCtrl h.writeFields)))
theorem Sound.writeDbg {m off : Nat} {l : List Fld} {v : Nat} (h : Sound s) : Sound (s.writeDbg m off l v) := by
  unfold State.writeDbg
  extract_lets s1 s2 s3
  have h2 : Sound s2 := h.writeFields.also fun h => h.execFreezeDisarm
  have h3 : Sound s3 := h.also fun h => h.execReplayCancel
  exact .ite (h2.also fun h => h.execFreezeArm) (.ite (h.afterCmd h.execResumeAtWrite) (.ite h.writeCapCtrl
    (.ite (h3.also fun h => h.execReplayStart) (.ite (h.afterCmd h.execCounterSelect) (.ite (h.afterCmd h.execCounterSelect)
    h.writeFields)))))
theorem Sound.writeRegion {m off : Nat} {l : List Fld} {v : Nat} (h : Sound s) : Sound (s.writeRegion m off l v) := by
  unfold State.writeRegion
  exact .ite (.ite (h.afterCmd h.execColReset) h) (.ite (.ite (h.writeFields.afterCmd h.writeFields.execLayReset) h.writeFields) (.ite
    h.writeFields h.writeFields))
theorem Sound.writePwrSec {m off : Nat} {l : List Fld} {v : Nat} {e : WriteEnv} (h : Sound s) : Sound (s.writePwrSec m off l v e) :=
  .ite (h.afterCmd h.execPwrLimitWrite) (.ite (.ite (h.afterCmd h.execSuspectClear) h) (.ite (.ite (h.afterCmd h.execMarginStart)
    h.writeFields) (.ite h.writeSecCmd (.ite (.ite (h.afterCmd h.execEnrolEnable) h) (.ite (.ite (.afterCmd (.ite (h.afterCmd
    h.execMcReset) h) (Sound.execSbDevReset (.ite (h.afterCmd h.execMcReset) h))) (.ite (h.afterCmd h.execMcReset) h)) h.writeFields)))))
theorem Sound.writeReg {m off : Nat} {r : Reg} {v : Nat} {e : WriteEnv} (h : Sound s) : Sound (s.writeReg m off r v e) := by
  have h1 : Sound (if bitOf v 63 then { s.writeFields (r.fieldsAt off) [] v with
      red := { (s.writeFields (r.fieldsAt off) [] v).red with digestLatched := false } } else s.writeFields (r.fieldsAt off) [] v) :=
    .ite (.of_mem h.writeFields rfl) h.writeFields
  have step (k : Nat) : Sound (Machine.afterCmd s (if k = 1 then Machine.execOpenStep m s else if k = 2 then Machine.execAbortReq m s
      else if k = 4 then Machine.execRegather m s else Machine.execRollback m s)) :=
    h.afterCmd (.ite h.execOpenStep (.ite h.execAbortReq (.ite h.execRegather h.execRollback)))
  have cfg (k : Nat) : Sound (Machine.afterCmd s (if k = 1 then Machine.execStage m s else if k = 2 then Machine.execCheck m s
      else if k = 4 then Machine.execArm m s else if k = 8 then Machine.execDisarm m s else Machine.execDiscard m s)) :=
    h.afterCmd (.ite h.execStage (.ite h.execCheck (.ite h.execArm (.ite h.execDisarm h.execDiscard))))
  exact .ite h (.ite (h.oneBit (h.afterCmd (h.stepCtl fun h => h.stepRefuse)) fun {k} => step k) (.ite (.ite h.writeFields h)
    (.ite (h.oneBit (h.afterCmd (h.cfgCmd fun h => h.cfgRefuse)) fun {k} => cfg k) (.ite h.writeMbx (.ite h.writeQueue
    (.ite h.writeRingCtrl (.ite h1 (.ite h.writeEth (.ite h.writePwrSec (.ite h.writeDbg (.ite h.writeFields
    (.ite (.ite (h.afterCmd h.execCluReset) (h.afterCmd h.execTileReset)) (.ite h.writeRegion h.writeFields)))))))))))))
theorem Sound.writeMsix {w v : Nat} (h : Sound s) : Sound (s.writeMsix w v) :=
  .ite (.of_mem h rfl) (.ite (.of_mem h rfl) (.ite h (.ite (.message (.of_mem h rfl)) (.of_mem h rfl))))
theorem Sound.writeWindow {m off v : Nat} (h : Sound s) : Sound (s.writeWindow m off v) :=
  .ite h.writeMsix (.ite (.ite h.writeRwb h) (.ite h (.ite (.pumpNvme (.of_mem h rfl)) (.ite (.of_mem h rfl) (.ite (.of_mem h rfl) h)))))
theorem Sound.write4 {m off v : Nat} {e : WriteEnv} (h : Sound s) : Sound (s.write4 m off v e) := by
  unfold State.write4
  split
  exacts [.ite h.writeReg h, h.writeWindow]
theorem Sound.writeBar0 {m off len v : Nat} {e : WriteEnv} (h : Sound s) : Sound (s.writeBar0 m off len v e) :=
  .ite h (.ite h.write4 (.ite (by split; exacts [.ite h.writeReg h.write4.write4, h.write4.write4]) h))
theorem Sound.execSmbusWrite {off : Nat} {data : List Byte} {ok : Bool} (h : Sound s) : AnswerSound (execSmbusWrite off data ok s) :=
  h.act (fun h => h.within (fun h => h.writeBar0))
theorem Sound.execSmbusRead {off len : Nat} {ok : Bool} (h : Sound s) : AnswerSound (execSmbusRead off len ok s) :=
  h.doIf (fun h => .ite h.emit (.ite (.emit (.ite (h.afterCmd h.execMailboxTake) h)) (.ite (.emit (h.afterCmd h.execMailboxLockClaim))
    h.emit)))

/-! Sys2Proof/Machine/HostLink.lean -/

theorem Sound.registerWrite {m off len value : Nat} {selftest : Bool} {request : List Byte} (h : Sound s) : AnswerSound
    (State.registerWrite m off len value selftest request s) :=
  h.act (fun h => h.within (fun h => h.writeBar0))
theorem Sound.execRegisterWrite {m off len value : Nat} {selftest : Bool} {request : List Byte} (h : Sound s) : AnswerSound
    (execRegisterWrite m off len value selftest request s) :=
  .ite (Sound.hostRow (fun h => h) h h.registerWrite) h.registerWrite
theorem Sound.serve' {a : HostReq} (h : Sound s) : Sound (s.serve' a) := by
  unfold State.serve'
  split
  · exact h.afterCmd h.barRead
  · exact h.afterCmd h.barWrite
  · exact h.afterCmd h.registerWrite
  · exact h.afterCmd h.badAccess
  · exact h.afterCmd h.cxlRead
  · exact h.afterCmd h.cxlWrite
  · exact h.afterCmd h.configure
theorem Sound.execHostLinkL0 {rate width : Nat} {cxl : Bool} (h : Sound s) : AnswerSound (execHostLinkL0 rate width cxl s) :=
  h.act (fun h => h.setAll.setHost.sendWaiting.within (fun h => .foldl h (fun h => h.serve')))

/-! Every command, and a step -/

theorem Sound.exec {i : Instr} (h : Sound s) : AnswerSound (exec i s) := by
  cases i
  exacts [h.execRegisterWrite, h.execNop, h.execEndStream, h.execTag, h.execWait, h.execWaitRelease, h.execSignal, h.execXadd, h.execXget,
    h.execBnz, h.execKset, h.execLd, h.execSt, h.execGld, h.execGst, h.execHostld, h.execHostst, h.execPref, h.execSend, h.execRecv,
    h.execFree, h.execSload, h.execGbload, h.execMpass, h.execOuset, h.execOufin, h.execOusave, h.execOurestore, h.execChainout,
    h.execChainin, h.execChainPairArrival, h.execGradout, h.execVop, h.execNormFwd, h.execNormBwdAcc, h.execNormBwdFin, h.execAttnP,
    h.execAttnO, h.execAttnFin, h.execAttnDterm, h.execAttnDs, h.execXentBlk, h.execXentGrad, h.execKstore, h.execKload, h.execGainout,
    h.execXentLoss, h.execStalledIssue, h.execInstructionComplete, h.execMeshDelivery, h.execCreditReturn, h.execTileOpenTimeout,
    h.execOpenStep, h.execDeferredOpen, h.execAbortReq, h.execRegather, h.execRollback, h.execSendReady, h.execReadyFrame,
    h.execFailFrame, h.execCommitFrame, h.execAbortFrame, h.execADone, h.execStepTimeout, h.execPoll, h.execPollReply, h.execPollResend,
    h.execPollClose, h.execStage, h.execStageComplete, h.execCheck, h.execCheckComplete, h.execArm, h.execDisarm, h.execDiscard,
    h.execInstallation, h.execResourceClaim, h.execMemRequest, h.execMemRequestAccept, h.execMemRequestDone, h.execCorrectedWriteback,
    h.execRefreshRow, h.execRefreshBandRelax, h.execScrubRead, h.execHopFrameResend, h.execLayReset, h.execLayResetEnd, h.execColReset,
    h.execColResetDrained, h.execColResetDrainTimeout, h.execColResetEnd, h.execReduceFlit, h.execOriginateSegment, h.execHeldSliceAdd,
    h.execGatherFlit, h.execSkipNotice, h.execSkipCopy, h.execSkipNoticeSend, h.execLowRankSequence, h.execLowRankRound1Done,
    h.execLowRankRound2Done, h.execDigestFlit, h.execDigestCompute, h.execNarrowingSend, h.execUpdateProgramSegment,
    h.execUpdateProgramPass, h.execUpdPass, h.execUpdEnd, h.execUpdWcf, h.execUpdAdd, h.execUpdSub, h.execUpdMul, h.execUpdFma,
    h.execUpdMax, h.execUpdMin, h.execUpdNeg, h.execUpdAbs, h.execUpdCmplt, h.execUpdSel, h.execUpdExp2, h.execUpdLog2, h.execUpdRcp,
    h.execUpdRsqrt, h.execUpdSqrt, h.execUpdAcc, h.execUpdStw, h.execUpdStm, h.execUpdStf, h.execWcDerive, h.execLatePendingCopy,
    h.execLateApplication, h.execPodExchangeSend, h.execPodCopyReceive, h.execPodTimeout, h.execBar0Unsupported, h.execBar2Read,
    h.execBar2Write, h.execCxlMemRead, h.execCxlMemWrite, h.execQueueEnable, h.execQueueDisable, h.execSqTailDoorbell,
    h.execCqHeadDoorbell, h.execDescriptorFetch, h.execCommandStart, h.execCmdNop, h.execCopy, h.execFill, h.execBias, h.execFcFlush,
    h.execCommandComplete, h.execBisnpResponse, h.execBiasSnoopTimeout, h.execFarCacheFillDone, h.execHostSnoop, h.execLinkRecovery,
    h.execLinkOutTimeout, h.execHotReset, h.execFunctionLevelReset, h.execDlDown, h.execPerst, h.execNvmeRead, h.execNvmeWrite,
    h.execCkptWrite, h.execCkptReadComplete, h.execCkptRestore, h.execIngestPrefill, h.execNvmeCompletion, h.execNvmeTimeout,
    h.execIngestComplete, h.execIngestEnable, h.execPodSetWrite, h.execPtpEnable, h.execPtpMessage, h.execPeerRdmaRequest, h.execQpError,
    h.execEthLinkDown, h.execLinkControlFlit, h.execAckTimer, h.execLinkRetrainDone, h.execLaneFailed, h.execLaneMapSwitch,
    h.execLaneRetest, h.execLaneRejoin, h.execJoin, h.execSwitchOpenReached, h.execLeave, h.execRosterReset, h.execBypassFault,
    h.execLinkUp, h.execLinkDownTimeout, h.execHold, h.execDiscover, h.execDiscoveryTimeout, h.execRingWrap, h.execSyncSend,
    h.execDelayExchange, h.execSync, h.execDelayReq, h.execDelayResp, h.execTimeHoldover, h.execMailboxWrite, h.execHeldMessageSend,
    h.execMailboxTake, h.execMailboxClear, h.execMailboxLockClaim, h.execMailboxLockRelease, h.execMbxBindWrite, h.execMbxBindLock,
    h.execFwWrite, h.execFwWriteDone, h.execFwActivate, h.execFwConfirm, h.execOwnerRequest, h.execDevReset, h.execSbDevReset,
    h.execMcReset, h.execWatchdogExpiry, h.execJeoftStart, h.execDoeDiscovery, h.execGetCert, h.execAttest, h.execEnrolEnable,
    h.execEnrolEnableExpiry, h.execErrorReport, h.execHourlyWearRecord, h.execSmbusWrite, h.execSmbusRead, h.execPowerOn, h.execInputLow,
    h.execInputHigh, h.execInputHoldEnd, h.execInputLost, h.execMateOpen, h.execSbVrefLow, h.execRegulatorFault,
    h.execLayerRegulatorRecovered, h.execPowerDivision, h.execFastLoop, h.execPwrLimitWrite, h.execThermalTick, h.execWarnStep,
    h.execCriticalEntry, h.execColumnStateRelax, h.execSensorSuspect, h.execSuspectClear, h.execMarginStart, h.execMarginDone,
    h.execTileIdle, h.execTileSleep, h.execTileOff, h.execPllOff, h.execTileWake, h.execWakeAdmission, h.execCounterSelect,
    h.execFreezeArm, h.execFreezeDisarm, h.execFreezeEdge, h.execResumeAtWrite, h.execResume, h.execDigestLogEnable, h.execTraceEnable,
    h.execReplayStart, h.execReplayGatherDone, h.execReplayRunDone, h.execReplayCompareDone, h.execReplayCancel, h.execTileReset,
    h.execCluReset, h.execTileResetEnd, h.execCluResetEnd, h.execHostLinkL0, h.execPerstDeassert, h.execEthLinkUp, h.execTileWakeDone,
    h.execConfigRequest, h.execArpRequest, h.execNamespaceReport, h.execReservedTypeFlit]

theorem sound_step {u : State} (h : Sound s) (e : step s = .next u) : Sound u := by
  have answers : AnswerSound (step s) := by
    unfold step
    split
    · exact h.idle
    · exact Sound.exec (s := { s with pending := _ }) h
  rwa [e] at answers
end

/-- Settles O58: every command answers a sound state from a sound one, and idling leaves memory alone. -/
theorem memoryStaysCanonical : Obligations.MemoryStaysCanonical := fun _ _ h e => sound_step h e

end Sys2Proof
end

section
/-!
Layers are kept (O26): the scrubber's clause fails where REG_LSCRUB.POSITION stands beyond its 14 bits. The address of the sector it reads is
then outside the region of its window, and the corrected read is counted in the window that the address names.
-/
namespace Sys2Proof.Machine

/-- The reset state with a POSITION of layer 1 in window 0 that carries into the region number of the address. -/
def scrubOverrun : State := { State.reset with fld := [((F.REG_LSCRUB_POSITION 0 0).key, 768 * 2 ^ 14)] }

/-- The sector that the scrubber of window 0 reads there lies in window 1. -/
theorem scrubOverrun_window : dpaWin (scrubAddr 0 0 (scrubOverrun.g (F.REG_LSCRUB_POSITION 0 0)) 0) = 1 := by decide

/-- Its corrected read is not counted in window 0. -/
theorem scrubOverrun_count :
    (afterCmd scrubOverrun (exec (.scrubRead 0 0 (some 0) false) scrubOverrun)).g (F.REG_LCE_COUNT_COUNT 0 0) = 0 := by decide +kernel

/-- Refutes O26: a state holds any number in a register, and the scrubber's clause bounds the sector of the row but not POSITION; from 768 * 2^14
on, the sector read lies in another window, and its correction is counted there. -/
theorem not_layersAreKept : ¬ Obligations.LayersAreKept := by
  unfold Obligations.LayersAreKept
  intro h
  obtain ⟨-, -, -, scrub, -⟩ := h 0 0 0 [] [] scrubOverrun rfl rfl
  obtain ⟨-, weak, -⟩ := scrub (by decide) (by decide) (by decide)
  obtain ⟨u, hu, -, -, hc, -⟩ := weak 0 (by decide) List.not_mem_nil (fun e he => absurd he List.not_mem_nil) (by decide)
  have h0 := scrubOverrun_count
  rw [hu] at h0
  have h1 : scrubOverrun.g (F.REG_LCE_COUNT_COUNT 0 0) = 0 := by decide
  rw [h1] at hc
  exact absurd (h0.symm.trans hc) (by decide)

end Sys2Proof.Machine
end

section
/-!
Requests to the region controllers (O25): arrival, acceptance and end. `Mends` says what corrected reads, error logs and reports leave: registers,
reports, and of the region controllers the hours' counts and the sectors to be written back.
-/
namespace Sys2Proof.Machine

/-! What a command answers whose effect is steady. -/

theorem act_steady {c : Bool} {s : State} {k : State → State} (hc : c = true) (hs : Settled s) (h : Steady s (k s)) :
    act c s k = .next (k s) := act_next hc s k (by rw [h.stp]; exact hs) h.waits

/-! What error handling leaves. -/

/-- Registers, reports, and of the region controllers the hours' counts and the sectors to be written back, differ; nothing else does. -/
def Mends (s t : State) : Prop :=
  t = { s with
    fld := t.fld, reports := t.reports, regions := { s.regions with hours := t.regions.hours, fixes := t.regions.fixes } }

section
variable {s t u : State}

theorem Mends.refl (s : State) : Mends s s := rfl

theorem Mends.trans (h : Mends s t) (k : Mends t u) : Mends s u := by
  unfold Mends at h k
  rw [h] at k
  exact k

theorem Mends.mem (h : Mends s t) : t.mem = s.mem := by rw [h]
theorem Mends.outbox (h : Mends s t) : t.outbox = s.outbox := by rw [h]
theorem Mends.held (h : Mends s t) : t.regions.held = s.regions.held := by rw [h]
theorem Mends.scrub (h : Mends s t) : t.regions.scrub = s.regions.scrub := by rw [h]
theorem Mends.steady (h : Mends s t) : Steady s t := by
  rw [h]
  exact ⟨rfl, rfl⟩

theorem Mends.set (s : State) (f : Fld) (v : Nat) : Mends s (s.set f v) := rfl

theorem Mends.sectors (s : State) (h : Sparse (Nat × Nat × Bool)) (f : List Nat) :
    Mends s { s with regions := { s.regions with hours := h, fixes := f } } := rfl

theorem Mends.ite {c : Prop} [Decidable c] (h : Mends s t) (k : Mends s u) : Mends s (if c then t else u) := by
  split
  exacts [h, k]

theorem Mends.report (s : State) (code unit detail : Nat) : Mends s (s.report code unit detail) := by
  obtain ⟨l, r, e, -⟩ := s.report_only code unit detail
  rw [e]
  rfl

theorem Mends.logMem (s : State) (kind req a symbol : Nat) : Mends s (s.logMem kind req a symbol) := by
  obtain ⟨l, e, -⟩ := s.logMem_only kind req a symbol
  rw [e]
  rfl

theorem Mends.count (s : State) (ev inst n : Nat) : Mends s (s.count ev inst n) := by
  obtain ⟨l, e⟩ := s.count_only ev inst n
  rw [e]
  rfl

theorem Mends.uncorrectable (s : State) (req a : Nat) : Mends s (s.uncorrectable req a) :=
  ((Mends.set s _ _).trans (.logMem _ _ _ _ _)).trans (.report _ _ _ _)

theorem Mends.corrected (s : State) (req a symbol : Nat) : Mends s (s.corrected req a symbol) := by
  have h : Mends s (((s.inc (F.REG_LCE_COUNT_COUNT (dpaWin a) (dpaLayer a - 1))).count 0x0031 (dpaWin a) 1).logMem 0 req a symbol) :=
    ((Mends.set s _ _).trans (.count _ _ _ _)).trans (.logMem _ _ _ _ _)
  exact .ite ((h.trans (.sectors _ _ _)).trans (.report _ _ _ _)) (h.trans (.sectors _ _ _))

theorem Mends.correctAll (s : State) (req a n : Nat) : Mends s (s.correctAll req a n) := by
  unfold State.correctAll
  generalize s.mem.weak.filter _ = l
  induction l generalizing s with
  | nil => exact .refl s
  | cons e l ih => exact (Mends.corrected s _ _ _).trans (ih _)
end

/-! Requests that arrive. -/

section
variable {s : State} {r : MemReq}

theorem snoop_only (l : List (Nat × Bool)) (s : State) : ∃ o h, s.snoop l = { s with outbox := o, host := h } := by
  induction l generalizing s with
  | nil => exact ⟨_, _, rfl⟩
  | cons e l ih =>
    rw [State.snoop]
    split
    · exact ih s
    · obtain ⟨o, h, e'⟩ := State.toHost_only { s with host := { s.host with snoops := s.host.snoops ++ [e] } } [.biSnoop e.1 e.2]
      rw [e']
      obtain ⟨o', h', e''⟩ := ih _
      rw [e'']
      exact ⟨_, _, rfl⟩

theorem toHost_snoops (s : State) (l : List Out) : (s.toHost l).host.snoops = s.host.snoops := by
  unfold State.toHost
  split <;> rfl

/-- Every line asked for is awaited, and those awaited before still are. -/
theorem mem_snoop {e : Nat × Bool} (l : List (Nat × Bool)) (s : State) (h : e ∈ l ∨ e ∈ s.host.snoops) : e ∈ (s.snoop l).host.snoops := by
  induction l generalizing s with
  | nil => exact h.resolve_left List.not_mem_nil
  | cons x l ih =>
    rw [State.snoop]
    split
    · next hx =>
      refine ih s ?_
      rcases h with h | h
      · rcases List.mem_cons.1 h with rfl | h
        · exact .inr (List.contains_iff_mem.1 hx)
        · exact .inl h
      · exact .inr h
    · refine ih _ ?_
      rw [toHost_snoops]
      rcases h with h | h
      · rcases List.mem_cons.1 h with rfl | h
        · exact .inr (List.mem_append_right _ List.mem_cons_self)
        · exact .inl h
      · exact .inr (List.mem_append_left _ h)

/-- A request that nothing of the host holds back asks the host for nothing. -/
theorem snoopsFor_of_free (h : s.biasHolds r = false) : s.snoopsFor r = [] := by
  by_cases hr : r.req = rqHOST
  · simp [State.snoopsFor, hr]
  · simp only [State.biasHolds, Bool.and_eq_false_iff, Bool.or_eq_false_iff, bne_eq_false_iff_eq, hr, false_or] at h
    simpa using h.1.2

/-- What taking a slot leaves: the request held, SLOTS_USED counted, and, for a write, earlier writebacks dropped. -/
theorem holdReq_eq (s : State) (r : MemReq) :
    ∃ f, s.holdReq r = ({ s with regions := { s.regions with held := s.regions.held ++ [r], fixes := f } } : State).countSlots r := by
  unfold State.holdReq
  split <;> exact ⟨_, rfl⟩

theorem newReq_refused (h : s.memGate r.req r.addr ≠ 0) :
    s.newReq r = (s.report (s.memGate r.req r.addr) r.req r.addr).endReq r (s.memGate r.req r.addr) [] := if_pos h

theorem newReq_accepted (h : s.memGate r.req r.addr = 0) (hf : s.slotFree r = true) (hb : behind s.regions.waiting r = false)
    (hh : s.biasHolds r = false) : s.newReq r = s.holdReq r := by
  simp only [State.newReq, h, ne_eq, not_true_eq_false, if_false, snoopsFor_of_free hh, State.snoop, hf, hb, hh, Bool.not_false,
    Bool.and_self, if_true]

theorem newReq_waiting (h : s.memGate r.req r.addr = 0)
    (hw : ¬(s.slotFree r = true ∧ behind s.regions.waiting r = false ∧ s.biasHolds r = false)) :
    s.newReq r = (s.snoop (s.snoopsFor r)).setRegions fun c => { c with waiting := c.waiting ++ [r] } := by
  obtain ⟨o, x, e⟩ := snoop_only (s.snoopsFor r) s
  simp only [State.newReq, h, ne_eq, not_true_eq_false, if_false]
  rw [if_neg]
  rw [e]
  simp only [Bool.and_eq_true, Bool.not_eq_true', not_and] at hw ⊢
  exact fun a b => hw a.1 a.2 b

theorem Steady.setRegions (s : State) (f : RegionCtl → RegionCtl) : Steady s (s.setRegions f) := ⟨rfl, rfl⟩

theorem Steady.emit (s : State) (o : Out) : Steady s (s.emit o) := ⟨rfl, rfl⟩

theorem Steady.holdReq (s : State) (r : MemReq) : Steady s (s.holdReq r) := by
  obtain ⟨f, e⟩ := holdReq_eq s r
  rw [e]
  exact ⟨rfl, rfl⟩

theorem Steady.newReq (s : State) (r : MemReq) : Steady s (s.newReq r) := by
  have hsnoop : Steady s (s.snoop (s.snoopsFor r)) := by
    obtain ⟨o, h, e⟩ := snoop_only (s.snoopsFor r) s
    rw [e]
    exact ⟨rfl, rfl⟩
  exact .ite ((Steady.report s _ _ _).trans (.emit _ _)) (hsnoop.trans (.ite (.holdReq _ _) ⟨rfl, rfl⟩))

theorem g_holdReq_ne (s : State) (r : MemReq) {f : Fld} (h : f.key ≠ (F.REG_LSTATUS_SLOTS_USED r.win r.layer).key) :
    (s.holdReq r).g f = s.g f := by
  obtain ⟨x, e⟩ := holdReq_eq s r
  rw [e]
  exact State.g_set_ne _ _ _ _ h

theorem holdReq_rest (s : State) (r : MemReq) : (s.holdReq r).regions.held = s.regions.held ++ [r]
    ∧ (s.holdReq r).regions.waiting = s.regions.waiting ∧ (s.holdReq r).regions.nextId = s.regions.nextId
    ∧ (s.holdReq r).mem = s.mem := by
  obtain ⟨x, e⟩ := holdReq_eq s r
  rw [e]
  exact ⟨rfl, rfl, rfl, rfl⟩

theorem holdReq_slots (s : State) (r : MemReq) : (s.holdReq r).g (F.REG_LSTATUS_SLOTS_USED r.win r.layer) =
    ((s.regions.held ++ [r]).filter (·.sameCtl r)).length % 2 ^ 7 := by
  obtain ⟨x, e⟩ := holdReq_eq s r
  rw [e]
  exact State.g_set_same _ _ _

/-- The state in which the next request's identifier is taken. -/
def State.nextReq (s : State) : State := s.setRegions fun c => { c with nextId := c.nextId + 1 }

theorem exec_memRequest {req a n : Nat} {data : Option (List Byte)} {mask : Option (List Bool)} (hp : s.powered = true) (hs : Settled s)
    (hr : r = ⟨s.regions.nextId, req, a, n, data, mask⟩) (hok : r.ok = true) :
    exec (.memRequest req a n data mask) s = .next (s.nextReq.newReq r) := by
  subst hr
  refine act_steady (k := fun s => s.nextReq.newReq _) (by rw [hp, hok]; rfl) hs ?_
  exact (Steady.setRegions s _).trans (.newReq s.nextReq _)

/-- A waiting request whose turn has come takes a slot, and the cycles it waited are counted (R180). -/
theorem memRequestAccept_holds {id cycles : Nat} {rest : List MemReq} (hp : s.powered = true) (hs : Settled s)
    (ht : takeFirst (·.id == id) s.regions.waiting = some (r, rest)) (hg : s.memGate r.req r.addr = 0) (hf : s.slotFree r = true)
    (hb : behind (s.regions.waiting.takeWhile (·.id != id)) r = false) (hh : s.biasHolds r = false) :
    exec (.memRequestAccept id cycles) s =
      .next (((s.setRegions fun x => { x with waiting := rest }).bankStall r cycles).holdReq r) := by
  have hst : Steady s (((s.setRegions fun x => { x with waiting := rest }).bankStall r cycles).holdReq r) :=
    (((Steady.setRegions s _).trans (.set _ _ _)).trans (Mends.count _ _ _ _).steady).trans (.holdReq _ _)
  show execMemRequestAccept id cycles s = _
  unfold execMemRequestAccept
  rw [ht]
  dsimp only
  rw [act_steady (by simp [hp, hf, hb, hh]) hs (by rw [if_neg (by simpa using hg)]; exact hst), if_neg (by simpa using hg)]

theorem bankStall_regions (s : State) (r : MemReq) (cycles : Nat) :
    (s.bankStall r cycles).regions = s.regions ∧ (s.bankStall r cycles).mem = s.mem := by
  obtain ⟨l, e⟩ := State.count_only (s.addTo (F.REG_LBANKSTALL_CYCLES r.win r.layer) cycles) 0x0030 r.win cycles
  unfold State.bankStall
  rw [e]
  exact ⟨rfl, rfl⟩

theorem g_bankStall (s : State) (r : MemReq) (cycles : Nat) : (s.bankStall r cycles).g (F.REG_LBANKSTALL_CYCLES r.win r.layer) =
    (s.g (F.REG_LBANKSTALL_CYCLES r.win r.layer) + cycles) % 2 ^ 48 := by
  unfold State.bankStall
  rw [State.g_count_ne, State.g_addTo_same]
  · rfl
  · intro x hx
    rcases List.mem_append.1 hx with hx | hx <;> obtain ⟨k, hk, rfl⟩ := List.mem_map.1 hx <;> have := List.mem_range.1 hk <;>
      refine Fld.key_ne_of_off (by simp [F.REG_LBANKSTALL_CYCLES]) (by simp [F.DBG_CTR_STEP_COUNT, F.DBG_CMD_LIVE_COUNT]) ?_ <;>
      simp only [F.REG_LBANKSTALL_CYCLES, F.DBG_CTR_STEP_COUNT, F.DBG_CMD_LIVE_COUNT] <;> omega
end

/-! Requests that end. -/

section
variable {s : State} {r : MemReq} {rest : List MemReq} {id : Nat} {bad : List Nat} {weak : List (Nat × Nat)}

/-- What the environment tells of a request's sectors: those that have become uncorrectable, and those that have lost a symbol. -/
def State.toldOf (s : State) (r : MemReq) (bad : List Nat) (weak : List (Nat × Nat)) : State :=
  (s.spoil ((bad.filter fun i => decide (i < r.sectors)).map fun i => r.addr / 64 + i)).weaken
    ((weak.filter fun e => decide (e.1 < r.sectors)).map fun e => (r.addr / 64 + e.1, e.2))

/-- The state in which a request that has left its slot is served. -/
def State.leaving (s : State) (r : MemReq) (rest : List MemReq) (bad : List Nat) (weak : List (Nat × Nat)) : State :=
  ((s.setRegions fun x => { x with held := rest }).countSlots r).toldOf r bad weak

theorem leaving_hopFailed : (s.leaving r rest bad weak).hopFailed r.addr = s.hopFailed r.addr := by
  have h : (s.leaving r rest bad weak).g (F.REG_COLSTATUS_HOP_FAILED (dpaCol r.addr)) = s.g (F.REG_COLSTATUS_HOP_FAILED (dpaCol r.addr)) := by
    refine State.g_set_ne (s.setRegions fun x => { x with held := rest }) _ _ _ ?_
    simp only [Fld.key, F.REG_COLSTATUS_HOP_FAILED, F.REG_LSTATUS_SLOTS_USED, Dom.code]
    omega
  unfold State.hopFailed
  rw [h]
  rfl

theorem Steady.serve (s : State) (r : MemReq) : Steady s (s.serve r) := by
  unfold State.serve
  split
  · exact ⟨rfl, rfl⟩
  · next d m _ _ =>
    have h : Steady s (s.mergeWrite r d m).1 := by
      unfold State.mergeWrite
      dsimp only
      split
      · exact (((Mends.set s _ _).trans (.logMem _ _ _ _ _)).trans (.report _ _ _ _)).steady
      · exact (Mends.correctAll s _ _ _).steady.trans ⟨rfl, rfl⟩
    exact h.trans (.emit _ _)
  · have h : Steady s (s.readOut r.req r.addr r.sectors).1 := by
      unfold State.readOut
      split
      · exact ((Mends.correctAll s _ _ _).trans (.uncorrectable _ _ _)).steady
      · exact (Mends.correctAll s _ _ _).steady
    split
    all_goals next e => rw [e] at h; exact h.trans (.emit _ _)

/-- How a request that leaves its slot in its turn ends. -/
theorem exec_memRequestDone (hp : s.powered = true) (hs : Settled s) (ht : takeFirst (·.id == id) s.regions.held = some (r, rest))
    (hc : ((s.regions.held.takeWhile (·.id != id)).any fun q => q.clashes r) = false) :
    exec (.memRequestDone id bad weak) s = .next (if s.hopFailed r.addr
      then ((s.leaving r rest bad weak).report 0x0308 r.req r.addr).endReq r 0x0308 [] else (s.leaving r rest bad weak).serve r) := by
  have hl : Steady s (s.leaving r rest bad weak) := ⟨rfl, rfl⟩
  have hst : Steady s (if (s.leaving r rest bad weak).hopFailed r.addr
      then ((s.leaving r rest bad weak).report 0x0308 r.req r.addr).endReq r 0x0308 [] else (s.leaving r rest bad weak).serve r) :=
    hl.trans (.ite ((Steady.report _ _ _ _).trans (.emit _ _)) (.serve _ _))
  rw [← leaving_hopFailed (rest := rest) (bad := bad) (weak := weak)]
  show execMemRequestDone id bad weak s = _
  unfold execMemRequestDone
  rw [ht]
  exact act_steady (by rw [hp, hc]; rfl) hs hst

theorem leaving_bad_nil : (s.leaving r rest [] weak).mem.bad = s.mem.bad := List.append_nil _

theorem mem_leaving_bad {i k : Nat} (hi : i < r.sectors) :
    k ∈ (s.leaving r rest [i] weak).mem.bad ↔ k ∈ s.mem.bad ∨ k = r.addr / 64 + i := by
  have h : (s.leaving r rest [i] weak).mem.bad =
      s.mem.bad ++ ((([i] : List Nat).filter fun i => decide (i < r.sectors)).map fun i => r.addr / 64 + i).filter (!s.mem.bad.contains ·) := rfl
  rw [h, List.mem_append]
  simp only [List.filter_cons, hi, decide_true, if_true, List.filter_nil, List.map_cons, List.map_nil, List.contains_eq_mem]
  by_cases hk : r.addr / 64 + i ∈ s.mem.bad
  · simpa [hk] using fun e => e ▸ hk
  · simp [hk]

theorem memRequestDone_serves (hp : s.powered = true) (hs : Settled s) (ht : takeFirst (·.id == id) s.regions.held = some (r, rest))
    (hc : ((s.regions.held.takeWhile (·.id != id)).any fun q => q.clashes r) = false) (hh : s.hopFailed r.addr = false) :
    exec (.memRequestDone id bad weak) s = .next ((s.leaving r rest bad weak).serve r) := by
  rw [exec_memRequestDone hp hs ht hc, if_neg (by simp [hh])]

theorem memRequestDone_hopFailed (hp : s.powered = true) (hs : Settled s) (ht : takeFirst (·.id == id) s.regions.held = some (r, rest))
    (hc : ((s.regions.held.takeWhile (·.id != id)).any fun q => q.clashes r) = false) (hh : s.hopFailed r.addr = true) :
    exec (.memRequestDone id bad weak) s =
      .next (((s.leaving r rest bad weak).report 0x0308 r.req r.addr).endReq r 0x0308 []) := by
  rw [exec_memRequestDone hp hs ht hc, if_pos hh]
end

section
variable {s : State} {r : MemReq} {d : List Byte}

theorem serve_write (hd : r.data = some d) (hm : r.mask = none) :
    s.serve r = ({ s with mem := s.mem.write r.addr d } : State).endReq r 0 [] := by
  simp only [State.serve, hd, hm]

/-- The bytes of a merged write: those the mask enables, and the old ones (R183). -/
def merged (m : List Bool) (d old : List Byte) : List Byte := List.zipWith (fun b e => if b then e.1 else e.2) m (d.zip old)

theorem merged_getD {m : List Bool} {d old : List Byte} {i : Nat} (hm : i < m.length) (hd : i < d.length) (ho : i < old.length) :
    (merged m d old).getD i 0 = if m.getD i false then d.getD i 0 else old.getD i 0 := by
  simp [merged, List.getD_eq_getElem?_getD, hm, hd, ho]

theorem serve_merge {m : List Bool} (hd : r.data = some d) (hm : r.mask = some m) (hb : r.addr / 64 ∉ s.mem.bad) :
    ∃ t, Mends s t ∧ s.serve r = ({ t with mem := s.mem.write r.addr (merged m d (s.mem.read r.addr 64)) } : State).endReq r 0 [] := by
  have h := Mends.correctAll s r.req r.addr 1
  refine ⟨_, h, ?_⟩
  simp only [State.serve, hd, hm, State.mergeWrite, List.contains_iff_mem, hb, if_false, h.mem]
  rfl

theorem firstBad_none {bad : List Nat} {start len : Nat} (h : ∀ k, start ≤ k → k < start + len → k ∉ bad) : firstBad bad start len = none := by
  simp only [firstBad, List.find?_eq_none, List.mem_range, List.contains_iff_mem]
  exact fun i hi => h _ (by omega) (by omega)

theorem firstBad_some {bad : List Nat} {start len i : Nat} (hi : i < len) (hb : start + i ∈ bad)
    (h : ∀ k, start ≤ k → k < start + i → k ∉ bad) : firstBad bad start len = some i := by
  simp only [firstBad, List.find?_range_eq_some, List.mem_range, Bool.not_eq_true', List.contains_eq_mem,
    decide_eq_true_eq, decide_eq_false_iff_not]
  exact ⟨hb, hi, fun j hj => h _ (by omega) (by omega)⟩

/-- A read whose sectors are all correctable brings their bytes. -/
theorem serve_read (hd : r.data = none) (h : ∀ k, r.addr / 64 ≤ k → k < r.addr / 64 + r.sectors → k ∉ s.mem.bad) :
    ∃ t, Mends s t ∧ s.serve r = t.endReq r 0 (s.mem.read r.addr (64 * r.sectors)) := by
  refine ⟨_, Mends.correctAll s r.req r.addr r.sectors, ?_⟩
  simp only [State.serve, hd, State.readOut, firstBad_none h]

/-- A read of an uncorrectable sector ends with MEM_UNCORRECTABLE. -/
theorem serve_bad {i : Nat} (hd : r.data = none) (hi : i < r.sectors) (hb : r.addr / 64 + i ∈ s.mem.bad)
    (h : ∀ k, r.addr / 64 ≤ k → k < r.addr / 64 + i → k ∉ s.mem.bad) : ∃ t, Mends s t ∧ s.serve r = t.endReq r 0x0301 [] := by
  refine ⟨_, (Mends.correctAll s r.req r.addr i).trans (.uncorrectable _ r.req (r.addr + 64 * i)), ?_⟩
  simp only [State.serve, hd, State.readOut, firstBad_some hi hb h]
end

/-! The clauses. -/

section
variable {s : State} {r : MemReq} {rest : List MemReq} {id : Nat} {bad : List Nat} {weak : List (Nat × Nat)}

/-- A request in its turn that the array serves. -/
structure Served (s : State) (r : MemReq) (rest : List MemReq) (id : Nat) : Prop where
  powered : s.powered = true
  settled : Settled s
  taken : takeFirst (·.id == id) s.regions.held = some (r, rest)
  turn : ((s.regions.held.takeWhile (·.id != id)).any fun q => q.clashes r) = false
  hop : s.hopFailed r.addr = false

theorem Served.serves (h : Served s r rest id) : exec (.memRequestDone id bad weak) s = .next ((s.leaving r rest bad weak).serve r) :=
  memRequestDone_serves h.powered h.settled h.taken h.turn h.hop

theorem Served.writes (h : Served s r rest id) {d : List Byte} (hd : r.data = some d) (hm : r.mask = none) (hl : d.length = 64 * r.sectors) :
    ∃ u, exec (.memRequestDone id bad weak) s = .next u ∧ u.regions.held = rest ∧ u.outbox = s.outbox ++ [.memDone r.id 0 []]
      ∧ (∀ i < 64 * r.sectors, u.mem.byte (r.addr + i) = d.getD i 0) ∧ KeepsMem s u r.addr (64 * r.sectors) := by
  refine ⟨_, h.serves.trans (congrArg _ (serve_write hd hm)), rfl, rfl, fun i hi => ?_, fun x hx => ?_⟩
  · refine (Memory.byte_write _ _ _ _).trans ?_
    rw [if_pos (by omega), Nat.add_sub_cancel_left]
  · exact (Memory.byte_write _ _ _ _).trans (if_neg (by rw [hl]; exact hx))

theorem Served.merges (h : Served s r rest id) {d : List Byte} {m : List Bool} (hd : r.data = some d) (hm : r.mask = some m)
    (hdl : d.length = 64) (hml : m.length = 64) (hb : r.addr / 64 ∉ s.mem.bad) :
    ∃ u, exec (.memRequestDone id [] weak) s = .next u ∧ u.regions.held = rest ∧ u.outbox = s.outbox ++ [.memDone r.id 0 []]
      ∧ (∀ i < 64, u.mem.byte (r.addr + i) = if m.getD i false then d.getD i 0 else s.mem.byte (r.addr + i))
      ∧ KeepsMem s u r.addr 64 := by
  obtain ⟨t, ht, e⟩ := serve_merge (s := s.leaving r rest [] weak) hd hm (by rwa [leaving_bad_nil])
  have hlen : (merged m d ((s.leaving r rest [] weak).mem.read r.addr 64)).length = 64 := by simp [merged, hdl, hml]
  refine ⟨_, h.serves.trans (congrArg _ e), ht.held, congrArg (· ++ _) ht.outbox, fun i hi => ?_, fun x hx => ?_⟩
  · refine (Memory.byte_write _ _ _ _).trans ?_
    rw [if_pos (by omega), Nat.add_sub_cancel_left, merged_getD (by omega) (by omega) (by simpa using hi), Memory.read_getD _ _ _ _ hi]
    rfl
  · exact (Memory.byte_write _ _ _ _).trans (if_neg (by rw [hlen]; exact hx))

theorem Served.reads (h : Served s r rest id) (hd : r.data = none)
    (hb : ∀ k, r.addr / 64 ≤ k → k < r.addr / 64 + r.sectors → k ∉ s.mem.bad) :
    ∃ u, exec (.memRequestDone id [] weak) s = .next u ∧ u.regions.held = rest ∧ SameMem s u
      ∧ u.outbox = s.outbox ++ [.memDone r.id 0 (s.mem.read r.addr (64 * r.sectors))] := by
  obtain ⟨t, ht, e⟩ := serve_read (s := s.leaving r rest [] weak) hd (by rwa [leaving_bad_nil])
  refine ⟨_, h.serves.trans (congrArg _ e), ht.held, fun x => ?_, congrArg (· ++ _) ht.outbox⟩
  show t.mem.byte x = _
  rw [ht.mem]
  rfl

theorem Served.fails (h : Served s r rest id) {i : Nat} (hd : r.data = none) (hi : i < r.sectors)
    (hb : ∀ k, r.addr / 64 ≤ k → k < r.addr / 64 + i → k ∉ s.mem.bad) :
    ∃ u, exec (.memRequestDone id [i] weak) s = .next u ∧ u.regions.held = rest ∧ SameMem s u ∧ r.addr / 64 + i ∈ u.mem.bad
      ∧ u.outbox = s.outbox ++ [.memDone r.id 0x0301 []] := by
  obtain ⟨t, ht, e⟩ := serve_bad (s := s.leaving r rest [i] weak) hd hi ((mem_leaving_bad hi).2 (.inr rfl))
    fun k hk hk' => (mem_leaving_bad hi).not.2 fun x => x.elim (hb k hk hk') (by omega)
  refine ⟨_, h.serves.trans (congrArg _ e), ht.held, fun x => ?_, ?_, congrArg (· ++ _) ht.outbox⟩
  · show t.mem.byte x = _
    rw [ht.mem]
    rfl
  · show _ ∈ t.mem.bad
    rw [ht.mem]
    exact (mem_leaving_bad hi).2 (.inr rfl)

theorem correctedWriteback_writes {a : Nat} (hp : s.powered = true) (hs : Settled s) (ha : a ∈ s.regions.fixes) :
    exec (.correctedWriteback a) s = .next { s with
      regions := { s.regions with fixes := s.regions.fixes.filter (· != a) },
      mem := { s.mem with weak := s.mem.weak.filter (·.1 != a / 64) } } := by
  show execCorrectedWriteback a s = _
  unfold execCorrectedWriteback
  exact act_steady (by simp [hp, ha]) hs ⟨rfl, rfl⟩
end

/-- Settles O25, a clause for each way a request arrives, is accepted or ends. -/
theorem memoryRequestsAct : Obligations.MemoryRequestsAct := by
  intro req a n id cycles data mask bad weak s hp hs
  refine ⟨?_, ?_, ?_, correctedWriteback_writes hp hs⟩
  · intro r hok
    have hex := exec_memRequest hp hs rfl hok
    refine ⟨fun hg => ?_, fun hg hf hb hh => ?_, fun hg hw => ?_⟩
    · rw [hex, newReq_refused (s := s.nextReq) (r := r) hg]
      have hm := Mends.report s.nextReq (s.memGate req a) req a
      refine ⟨_, rfl, congrArg (· ++ _) hm.outbox, ?_, fun x => congrArg (fun m : Memory => m.byte x) hm.mem⟩
      obtain ⟨l, q, e, -⟩ := s.nextReq.report_only (s.memGate req a) req a
      exact congrArg State.regions e
    · rw [hex, newReq_accepted (s := s.nextReq) (r := r) hg hf hb hh]
      obtain ⟨h1, h2, h3, h4⟩ := holdReq_rest s.nextReq r
      refine ⟨_, rfl, h1, h2, h3, holdReq_slots s.nextReq r, fun f hfs => ?_, fun x => congrArg (fun m : Memory => m.byte x) h4⟩
      exact g_holdReq_ne s.nextReq r (hfs _ List.mem_cons_self)
    · rw [hex, newReq_waiting (s := s.nextReq) (r := r) hg hw]
      have hsn : ∀ e ∈ s.snoopsFor r, e ∈ (s.nextReq.snoop (s.nextReq.snoopsFor r)).host.snoops := fun e he => mem_snoop _ _ (.inl he)
      obtain ⟨o, x, e⟩ := snoop_only (s.nextReq.snoopsFor r) s.nextReq
      rw [e] at hsn ⊢
      exact ⟨_, rfl, rfl, rfl, hsn, fun _ _ => rfl, fun _ => rfl⟩
  · intro r rest ht hg hf hb hh
    obtain ⟨h1, h2, -, h4⟩ := holdReq_rest ((s.setRegions fun x => { x with waiting := rest }).bankStall r cycles) r
    obtain ⟨b1, b2⟩ := bankStall_regions (s.setRegions fun x => { x with waiting := rest }) r cycles
    refine ⟨_, memRequestAccept_holds hp hs ht hg hf hb hh, h1.trans (by rw [b1]; rfl), h2.trans (by rw [b1]; rfl),
      fun x => congrArg (fun m : Memory => m.byte x) (h4.trans b2), ?_⟩
    rw [g_holdReq_ne _ _ (by simp only [Fld.key, F.REG_LBANKSTALL_CYCLES, F.REG_LSTATUS_SLOTS_USED, Dom.code]; omega), g_bankStall]
    rfl
  · intro r rest ht hc
    refine ⟨fun hh => ?_, fun hh => ?_⟩
    · have hm := Mends.report (s.leaving r rest bad weak) 0x0308 r.req r.addr
      refine ⟨_, memRequestDone_hopFailed hp hs ht hc hh, hm.held, fun x => ?_, congrArg (· ++ _) hm.outbox⟩
      show ((s.leaving r rest bad weak).report 0x0308 r.req r.addr).mem.byte x = _
      rw [hm.mem]
      rfl
    · have h : Served s r rest id := ⟨hp, hs, ht, hc, hh⟩
      refine ⟨fun d hd hm hl => h.writes hd hm hl, fun d m hd hm _ hdl hml _ hbad hb => ?_, fun hd hb => h.reads hd hb,
        fun i hd _ hi hb => h.fails hd hi hb⟩
      subst hbad
      exact h.merges hd hm hdl hml hb

end Sys2Proof.Machine
end

section
/-!
Layer-array and column resets (O27): registers, held requests and outbox after each of their commands.
-/
namespace Sys2Proof.Machine

/-! Steps in a row. -/

section
variable {s : State} {α : Type} {g : State → α → State} {f : Fld} {v : Nat} {I : State → Prop} {x : α}

/-- A field that every step leaves. -/
theorem g_foldl_ne (l : List α) (h : ∀ (s : State), ∀ x ∈ l, (g s x).g f = s.g f) (s : State) : (l.foldl g s).g f = s.g f := by
  induction l generalizing s with
  | nil => rfl
  | cons x l ih => exact (ih (fun s y hy => h s y (List.mem_cons_of_mem _ hy)) _).trans (h s x List.mem_cons_self)

/-- What every step keeps holds after them all. -/
theorem foldl_keeps (l : List α) (h : ∀ (s : State), ∀ x ∈ l, I s → I (g s x)) (hs : I s) : I (l.foldl g s) := by
  induction l generalizing s with
  | nil => exact hs
  | cons x l ih => exact ih (fun s y hy => h s y (List.mem_cons_of_mem _ hy)) (h s x List.mem_cons_self hs)

/-- A field that one of the steps sets to `v` reads so after them all, where the others keep that; `I` is what the steps keep besides. -/
theorem g_foldl_mem (l : List α) (hx : x ∈ l) (hI : ∀ (s : State), ∀ y ∈ l, I s → I (g s y))
    (hs : ∀ s, I s → (g s x).g f = v) (h : ∀ (s : State), ∀ y ∈ l, I s → s.g f = v → (g s y).g f = v) (h0 : I s) :
    (l.foldl g s).g f = v := by
  induction l generalizing s with
  | nil => exact absurd hx List.not_mem_nil
  | cons y l ih =>
    have hI' := fun s z hz => hI s z (List.mem_cons_of_mem _ hz)
    have h' := fun s z hz => h s z (List.mem_cons_of_mem _ hz)
    have h1 := hI s y List.mem_cons_self h0
    rcases List.mem_cons.1 hx with rfl | hx
    · exact (foldl_keeps (I := fun s => I s ∧ s.g f = v) l (fun s z hz k => ⟨hI' s z hz k.1, h' s z hz k.1 k.2⟩) ⟨h1, hs s h0⟩).2
    · exact ih hx hI' h' h1

/-- Fields set in a row change the register file alone. -/
theorem foldl_fld (l : List α) (h : ∀ (s : State), ∀ x ∈ l, { g s x with fld := s.fld } = s) (s : State) :
    { l.foldl g s with fld := s.fld } = s := by
  induction l generalizing s with
  | nil => rfl
  | cons x l ih =>
    have h1 := ih (fun s y hy => h s y (List.mem_cons_of_mem _ hy)) (g s x)
    have h2 := h s x List.mem_cons_self
    calc { (x :: l).foldl g s with fld := s.fld } = { ({ l.foldl g (g s x) with fld := (g s x).fld } : State) with fld := s.fld } := rfl
      _ = { g s x with fld := s.fld } := by rw [h1]
      _ = s := h2

/-- A step that changes the register file and its shadows alone. -/
def Refiles (s t : State) : Prop := { t with fld := s.fld, shadow := s.shadow } = s

theorem Refiles.refl (s : State) : Refiles s s := rfl

theorem Refiles.trans {t u : State} (h : Refiles s t) (k : Refiles t u) : Refiles s u :=
  calc { u with fld := s.fld, shadow := s.shadow }
      = { ({ u with fld := t.fld, shadow := t.shadow } : State) with fld := s.fld, shadow := s.shadow } := rfl
    _ = { t with fld := s.fld, shadow := s.shadow } := by rw [show { u with fld := t.fld, shadow := t.shadow } = t from k]
    _ = s := by
      have e : { t with fld := s.fld, shadow := s.shadow } = s := h
      exact e

theorem Refiles.steady {t : State} (h : Refiles s t) : Steady s t := by
  have e : { t with fld := s.fld, shadow := s.shadow } = s := h
  rw [← e]
  exact ⟨rfl, rfl⟩

theorem Refiles.mem {t : State} (h : Refiles s t) : t.mem = s.mem := by
  have e : { t with fld := s.fld, shadow := s.shadow } = s := h
  rw [← e]

theorem Refiles.plan {t : State} (h : Refiles s t) : t.plan = s.plan := by
  have e : { t with fld := s.fld, shadow := s.shadow } = s := h
  rw [← e]

theorem Refiles.regions {t : State} (h : Refiles s t) : t.regions = s.regions := by
  have e : { t with fld := s.fld, shadow := s.shadow } = s := h
  rw [← e]

theorem Refiles.outbox {t : State} (h : Refiles s t) : t.outbox = s.outbox := by
  have e : { t with fld := s.fld, shadow := s.shadow } = s := h
  rw [← e]

theorem Refiles.of_fld {t : State} (h : { t with fld := s.fld } = s) : Refiles s t := by
  show { ({ t with fld := s.fld } : State) with shadow := s.shadow } = s
  rw [h]

theorem Refiles.set (s : State) (f : Fld) (v : Nat) : Refiles s (s.set f v) := rfl

theorem Refiles.foldl (l : List α) (h : ∀ (s : State), ∀ x ∈ l, Refiles s (g s x)) (s : State) : Refiles s (l.foldl g s) :=
  foldl_keeps (I := Refiles s) l (fun t x hx k => k.trans (h t x hx)) (.refl s)
end

/-! Requests that end with a reset. -/

section
variable {s : State}

/-- The memory registers in which a reset and the requests it ends do not meet. -/
theorem g_dropHeld (s : State) (p : MemReq → Bool) (code : Nat) {f : Fld} (hd : f.key ≠ F.NVS_HIST_DROPPED_COUNT.key)
    (hs : ∀ w l, f.key ≠ (F.REG_LSTATUS_SLOTS_USED w l).key) : (s.dropHeld p code).g f = s.g f := by
  refine (g_foldl_ne (g := fun s r => ((s.countSlots r).report code r.req r.addr).endReq r code []) (s.regions.held.filter p)
    (fun t r _ => ?_) (s.setRegions fun c => { c with held := c.held.filter fun r => !p r })).trans rfl
  obtain ⟨l, q, -, k⟩ := (t.countSlots r).report_only code r.req r.addr
  exact (k f hd).trans (State.g_set_ne _ _ _ _ (hs _ _))

theorem dropHeld_eq (s : State) (p : MemReq → Bool) (code : Nat) : ∃ l q, s.dropHeld p code = { s with
    fld := l, reports := q, regions := { s.regions with held := s.regions.held.filter fun r => !p r }
    outbox := s.outbox ++ (s.regions.held.filter p).map fun r => .memDone r.id code [] } := by
  have key : ∀ (l : List MemReq) (t : State), ∃ f q,
      l.foldl (fun s r => ((s.countSlots r).report code r.req r.addr).endReq r code []) t =
        { t with fld := f, reports := q, outbox := t.outbox ++ l.map fun r => .memDone r.id code [] } := by
    intro l
    induction l with
    | nil => exact fun t => ⟨t.fld, t.reports, by simp⟩
    | cons r l ih =>
      intro t
      obtain ⟨f, q, e, -⟩ := (t.countSlots r).report_only code r.req r.addr
      obtain ⟨f', q', e'⟩ := ih (((t.countSlots r).report code r.req r.addr).endReq r code [])
      refine ⟨f', q', ?_⟩
      rw [List.foldl_cons, e', e]
      simp [State.endReq, State.emit, State.countSlots, State.set]
  obtain ⟨f, q, e⟩ := key (s.regions.held.filter p) (s.setRegions fun c => { c with held := c.held.filter fun r => !p r })
  exact ⟨f, q, e⟩

theorem dropHeld_steady (s : State) (p : MemReq → Bool) (code : Nat) : Steady s (s.dropHeld p code) := by
  obtain ⟨l, q, e⟩ := dropHeld_eq s p code
  exact e ▸ ⟨rfl, rfl⟩

theorem dropHeld_mem (s : State) (p : MemReq → Bool) (code : Nat) : (s.dropHeld p code).mem = s.mem := by
  obtain ⟨l, q, e⟩ := dropHeld_eq s p code
  rw [e]

theorem dropHeld_regions (s : State) (p : MemReq → Bool) (code : Nat) :
    (s.dropHeld p code).regions = { s.regions with held := s.regions.held.filter fun r => !p r } := by
  obtain ⟨l, q, e⟩ := dropHeld_eq s p code
  rw [e]

theorem dropHeld_outbox (s : State) (p : MemReq → Bool) (code : Nat) :
    (s.dropHeld p code).outbox = s.outbox ++ (s.regions.held.filter p).map fun r => .memDone r.id code [] := by
  obtain ⟨l, q, e⟩ := dropHeld_eq s p code
  rw [e]

/-! Registers reset. -/

/-- Whether a field is in the range and of a domain that are reset. -/
def inReset (doms : List Dom) (a b : Nat) (f : Fld) : Bool :=
  decide (a ≤ f.off) && decide (f.off < b) && doms.any fun x => x.code == f.dom.code

theorem inReset_of {doms : List Dom} {a b : Nat} {f : Fld} (ha : a ≤ f.off) (hb : f.off < b) (hd : f.dom ∈ doms) :
    inReset doms a b f = true := by
  simp only [inReset, ha, hb, decide_true, Bool.and_self, Bool.true_and]
  exact List.any_eq_true.2 ⟨_, hd, by simp⟩

theorem not_inReset_of {doms : List Dom} {a b : Nat} {f : Fld} (h : f.off < a ∨ b ≤ f.off) : inReset doms a b f = false := by
  rcases h with h | h
  · simp [inReset, Nat.not_le.2 h]
  · simp [inReset, Nat.not_lt.2 h]

theorem g_resetRange (s : State) (doms : List Dom) (a b : Nat) {f : Fld} (hf : f.lo < 64) :
    (s.resetRange doms a b).g f = if inReset doms a b f then f.rst else s.g f := by
  have hk : (!(decide (a ≤ keyOff f.key) && decide (keyOff f.key < b) && doms.any fun x => x.code == keyDom f.key)) =
      !inReset doms a b f := by
    rw [keyOff_key hf, keyDom_key]
    rfl
  split
  · next h =>
    exact get_filter_out f.rst f.key (fun k => !(decide (a ≤ keyOff k) && decide (keyOff k < b) && doms.any fun x => x.code == keyDom k))
      s.fld (hk.trans (by simp [h]))
  · next h =>
    exact Sparse.get_filter f.rst f.key
      (fun k => !(decide (a ≤ keyOff k) && decide (keyOff k < b) && doms.any fun x => x.code == keyDom k)) s.fld (hk.trans (by simp [h]))

theorem resetRange_refiles (s : State) (doms : List Dom) (a b : Nat) : Refiles s (s.resetRange doms a b) := rfl

/-- The quota that the configuration in effect gives a layer of a window, 0 standing for 8 (R179). -/
def planQuotaOf (p : Option Plan) (w l : Nat) : Nat := p.elim 0 fun p => p.mem.quotas.getD (w * 8 + l) 0

theorem g_planQuota_ne (s : State) (w l : Nat) {f : Fld} (hq : f.key ≠ (F.REG_LCTRL_BANK_QUOTA w l).key)
    (hm : f.key ≠ (F.REG_LSTATUS_MODE w 0).key) : (s.planQuota w l).g f = s.g f := by
  unfold State.planQuota
  dsimp only
  split
  · exact (State.g_set_ne _ _ _ _ hm).trans (State.g_set_ne _ _ _ _ hq)
  · exact State.g_set_ne _ _ _ _ hq

theorem g_planQuota_quota (s : State) (w l : Nat) : (s.planQuota w l).g (F.REG_LCTRL_BANK_QUOTA w l) =
    if planQuotaOf s.plan w l = 0 then 8 else planQuotaOf s.plan w l % 2 ^ 7 := by
  have h : (s.set (F.REG_LCTRL_BANK_QUOTA w l) (if planQuotaOf s.plan w l = 0 then 8 else planQuotaOf s.plan w l)).g
      (F.REG_LCTRL_BANK_QUOTA w l) = if planQuotaOf s.plan w l = 0 then 8 else planQuotaOf s.plan w l % 2 ^ 7 := by
    rw [State.g_set_same]
    split <;> rfl
  unfold State.planQuota
  dsimp only
  split
  · refine (State.g_set_ne _ _ _ _ ?_).trans h
    simp only [Fld.key, F.REG_LCTRL_BANK_QUOTA, F.REG_LSTATUS_MODE, Dom.code]
    omega
  · exact h

theorem planQuota_fld (s : State) (w l : Nat) : { s.planQuota w l with fld := s.fld } = s := by
  unfold State.planQuota
  dsimp only
  split <;> rfl

theorem g_resetLayer_quota (s : State) (w l : Nat) : (s.resetLayer w l).g (F.REG_LCTRL_BANK_QUOTA w l) =
    if planQuotaOf s.plan w l = 0 then 8 else planQuotaOf s.plan w l % 2 ^ 7 := g_planQuota_quota _ w l

/-- A layer's registers of a window that the configuration does not give. -/
theorem g_resetLayer (s : State) (w l : Nat) {f : Fld} (hf : f.lo < 64) (hq : f.key ≠ (F.REG_LCTRL_BANK_QUOTA w l).key)
    (hm : f.key ≠ (F.REG_LSTATUS_MODE w 0).key) :
    (s.resetLayer w l).g f = if inReset [.lay] (layerOff w l) (layerOff w l + 0x100) f then f.rst else s.g f :=
  (g_planQuota_ne _ w l hq hm).trans (g_resetRange s _ _ _ hf)

theorem resetLayer_refiles (s : State) (w l : Nat) : Refiles s (s.resetLayer w l) :=
  (resetRange_refiles s _ _ _).trans (.of_fld (planQuota_fld _ w l))

/-- A layer's registers of a window other than those that the configuration gives. -/
structure LayReg (f : Fld) (w l : Nat) : Prop where
  dom : f.dom = .lay
  lo : f.lo < 64
  base : layerOff w l ≤ f.off
  upto : f.off < layerOff w l + 0x100
  quota : f.off % 0x100 = 0 → f.lo ≠ 17
  mode : f.off % 0x100 = 8 → f.lo ≠ 30

theorem LayReg.key_ne_quota {f : Fld} {w l : Nat} (h : LayReg f w l) (y j : Nat) : f.key ≠ (F.REG_LCTRL_BANK_QUOTA y j).key := by
  have h1 := h.lo
  have h2 := h.quota
  simp only [Fld.key, F.REG_LCTRL_BANK_QUOTA, h.dom, Dom.code]
  omega

theorem LayReg.key_ne_mode {f : Fld} {w l : Nat} (h : LayReg f w l) (y : Nat) : f.key ≠ (F.REG_LSTATUS_MODE y 0).key := by
  have h1 := h.lo
  have h2 := h.mode
  simp only [Fld.key, F.REG_LSTATUS_MODE, h.dom, Dom.code]
  omega

theorem layReg_resetActive (w l : Nat) : LayReg (F.REG_LSTATUS_RESET_ACTIVE w l) w l := by
  constructor <;> simp only [layerOff, F.REG_LSTATUS_RESET_ACTIVE] <;> omega

theorem layReg_layReset (w l : Nat) : LayReg (F.REG_LCTRL_LAY_RESET w l) w l := by
  constructor <;> simp only [layerOff, F.REG_LCTRL_LAY_RESET] <;> omega

theorem layReg_intervalUs (w l : Nat) : LayReg (F.REG_LREFRESH_INTERVAL_US w l) w l := by
  constructor <;> simp only [layerOff, F.REG_LREFRESH_INTERVAL_US] <;> omega

theorem layReg_refreshBand (w l : Nat) : LayReg (F.REG_LSTATUS_REFRESH_BAND w l) w l := by
  constructor <;> simp only [layerOff, F.REG_LSTATUS_REFRESH_BAND] <;> omega

/-- They are at their reset values when the layer is reset in the windows. -/
theorem LayReg.resetLayers {ws : List Nat} {w l : Nat} {f : Fld} (h : LayReg f w l) (hw : w ∈ ws) (s : State) :
    (ws.foldl (fun s y => s.resetLayer y l) s).g f = f.rst := by
  have hr : inReset [.lay] (layerOff w l) (layerOff w l + 0x100) f = true := inReset_of h.base h.upto (by simp [h.dom])
  have hg := fun (t : State) y => g_resetLayer t y l h.lo (h.key_ne_quota y l) (h.key_ne_mode y)
  exact g_foldl_mem (I := fun _ => True) ws hw (fun _ _ _ _ => trivial) (fun t _ => by rw [hg, if_pos hr])
    (fun t y _ _ k => by rw [hg, k, ite_self]) trivial

/-- A register of no layer's range, as those kept over a power loss, stays. -/
theorem g_resetLayers_ne (ws : List Nat) (s : State) {l : Nat} {f : Fld} (hf : f.lo < 64)
    (hq : ∀ y, f.key ≠ (F.REG_LCTRL_BANK_QUOTA y l).key) (hm : ∀ y, f.key ≠ (F.REG_LSTATUS_MODE y 0).key)
    (hr : ∀ y, inReset [.lay] (layerOff y l) (layerOff y l + 0x100) f = false) :
    (ws.foldl (fun s y => s.resetLayer y l) s).g f = s.g f :=
  g_foldl_ne ws (fun s y _ => by rw [g_resetLayer s y l hf (hq y) (hm y), hr, if_neg Bool.false_ne_true]) s

/-- The quotas are as the configuration in effect gives them. -/
theorem g_resetLayers_quota (ws : List Nat) (s : State) {w l : Nat} (_ : l < 8) (hw : w ∈ ws) :
    (ws.foldl (fun s y => s.resetLayer y l) s).g (F.REG_LCTRL_BANK_QUOTA w l) =
      if planQuotaOf s.plan w l = 0 then 8 else planQuotaOf s.plan w l % 2 ^ 7 := by
  refine g_foldl_mem (I := fun t => t.plan = s.plan) ws hw (fun t y _ k => (resetLayer_refiles t y l).plan.trans k)
    (fun t k => by rw [g_resetLayer_quota, k]) (fun t y _ k h => ?_) rfl
  by_cases hy : y = w
  · rw [hy, g_resetLayer_quota, k]
  · have hr : inReset [.lay] (layerOff y l) (layerOff y l + 0x100) (F.REG_LCTRL_BANK_QUOTA w l) = false := by
      refine not_inReset_of ?_
      simp only [layerOff, F.REG_LCTRL_BANK_QUOTA]
      omega
    rw [g_resetLayer t y l (show 17 < 64 by decide) ?_ ?_, hr, if_neg Bool.false_ne_true, h]
    · simp only [Fld.key, F.REG_LCTRL_BANK_QUOTA, Dom.code]
      omega
    · simp only [Fld.key, F.REG_LCTRL_BANK_QUOTA, F.REG_LSTATUS_MODE, Dom.code]
      omega

end

/-! Layer-array resets. -/

section
variable {m w l c : Nat} {s : State}

theorem mem_winsOf {v : Nat} (h : v ∈ winsOf c) : v / 64 = c := by
  obtain ⟨i, hi, rfl⟩ := List.mem_map.1 h
  have := List.mem_range.1 hi
  omega

theorem layersOf_le (c : Nat) : layersOf c ≤ 8 := by
  unfold layersOf
  split <;> omega

/-- The state of a layer marked as resetting in each of the windows. -/
def markReset (s : State) (ws : List Nat) (l : Nat) : State := ws.foldl (fun s v => s.set (F.REG_LSTATUS_RESET_ACTIVE v l) 1) s

theorem markReset_refiles (s : State) (ws : List Nat) (l : Nat) : Refiles s (markReset s ws l) :=
  .foldl ws (fun t v _ => .set t (F.REG_LSTATUS_RESET_ACTIVE v l) 1) s

theorem g_markReset_ne (s : State) (ws : List Nat) (l : Nat) {f : Fld} (h : ∀ v, f.key ≠ (F.REG_LSTATUS_RESET_ACTIVE v l).key) :
    (markReset s ws l).g f = s.g f :=
  g_foldl_ne ws (fun s v _ => State.g_set_ne s _ _ _ (h v)) s

/-- A mark that stands stays through further ones. -/
theorem g_mark_keeps {t : State} {v j : Nat} (y l : Nat) (h : t.g (F.REG_LSTATUS_RESET_ACTIVE v j) = 1) :
    (t.set (F.REG_LSTATUS_RESET_ACTIVE y l) 1).g (F.REG_LSTATUS_RESET_ACTIVE v j) = 1 := by
  by_cases hk : (F.REG_LSTATUS_RESET_ACTIVE v j).key = (F.REG_LSTATUS_RESET_ACTIVE y l).key
  · have e : F.REG_LSTATUS_RESET_ACTIVE v j = F.REG_LSTATUS_RESET_ACTIVE y l := by
      simp only [Fld.key, F.REG_LSTATUS_RESET_ACTIVE, Dom.code, Fld.mk.injEq, and_true] at hk ⊢
      omega
    rw [e]
    exact State.g_set_same t _ 1
  · rw [State.g_set_ne _ _ _ _ hk, h]

theorem g_markReset (s : State) {ws : List Nat} {v : Nat} (l : Nat) (h : v ∈ ws) :
    (markReset s ws l).g (F.REG_LSTATUS_RESET_ACTIVE v l) = 1 :=
  g_foldl_mem (I := fun _ => True) ws h (fun _ _ _ _ => trivial) (fun t _ => State.g_set_same t _ 1)
    (fun _ y _ _ k => g_mark_keeps y l k) trivial

/-- A reset of a layer is marked in every window of its column, and the requests on it end. -/
theorem exec_layReset (hs : Settled s) (hm : m = 1 ∨ m = 2) (hf : s.fromMaster m = true) (hl : layerThere w l = true)
    (ha : s.g (F.REG_LSTATUS_RESET_ACTIVE w l) = 0) : exec (.layReset m w l) s = .next
      ((markReset (s.set (F.REG_LCTRL_LAY_RESET w l) 1) (winsOf (w / 64)) l).dropHeld
        (fun r => r.win / 64 == w / 64 && r.layer == l) 0x0305) := by
  show execLayReset m w l s = _
  unfold execLayReset
  refine act_steady ?_ hs ?_
  · simp [hf, hm, hl, State.on, ha]
  · exact ((Refiles.set s _ _).trans (markReset_refiles _ (winsOf (w / 64)) l)).steady.trans (dropHeld_steady _ _ _)

/-- What the layer's reset leaves: its marks, the requests of other layers, and memory. -/
theorem layReset_leaves (s : State) (w l : Nat) (u : State)
    (hu : u = (markReset (s.set (F.REG_LCTRL_LAY_RESET w l) 1) (winsOf (w / 64)) l).dropHeld
      (fun r => r.win / 64 == w / 64 && r.layer == l) 0x0305) :
    (∀ v ∈ winsOf (w / 64), u.g (F.REG_LSTATUS_RESET_ACTIVE v l) = 1)
    ∧ (u.regions.held = s.regions.held.filter (fun r => !(r.win / 64 == w / 64 && r.layer == l))
      ∧ u.outbox = s.outbox ++ (s.regions.held.filter fun r => r.win / 64 == w / 64 && r.layer == l).map fun r => .memDone r.id 0x0305 [])
    ∧ u.g (F.REG_LCTRL_LAY_RESET w l) = 1 ∧ SameMem s u := by
  have hr := (Refiles.set s (F.REG_LCTRL_LAY_RESET w l) 1).trans (markReset_refiles _ (winsOf (w / 64)) l)
  subst hu
  refine ⟨fun v hv => ?_, ⟨?_, ?_⟩, ?_, fun x => ?_⟩
  · refine (g_dropHeld _ _ _ ?_ fun y j => ?_).trans (g_markReset _ l hv) <;>
      simp only [Fld.key, F.REG_LSTATUS_RESET_ACTIVE, F.NVS_HIST_DROPPED_COUNT, F.REG_LSTATUS_SLOTS_USED, Dom.code] <;> omega
  · rw [dropHeld_regions, hr.regions]
  · rw [dropHeld_outbox, hr.regions, hr.outbox]
  · refine (g_dropHeld _ _ _ ?_ fun y j => ?_).trans ((g_markReset_ne _ _ _ fun y => ?_).trans (State.g_set_same _ _ _)) <;>
      simp only [Fld.key, F.REG_LCTRL_LAY_RESET, F.REG_LSTATUS_RESET_ACTIVE, F.NVS_HIST_DROPPED_COUNT, F.REG_LSTATUS_SLOTS_USED,
        Dom.code] <;> omega
  · rw [dropHeld_mem, hr.mem]

/-- Its end, 2 µs later. -/
theorem exec_layResetEnd (hs : Settled s) (hp : s.powered = true) (hl : layerThere (c * 64) l = true)
    (ha : s.g (F.REG_LSTATUS_RESET_ACTIVE (c * 64) l) ≠ 0) (hc : s.g (F.REG_COLSTATUS_IN_RESET c) = 0) :
    exec (.layResetEnd c l) s = .next ((winsOf c).foldl (fun s w => s.resetLayer w l) s) := by
  show execLayResetEnd c l s = _
  unfold execLayResetEnd
  refine act_steady ?_ hs (Refiles.foldl _ (fun t y _ => resetLayer_refiles t y l) s).steady
  simp [hp, hl, State.on, ha, hc]

theorem layResetEnd_leaves (s : State) {c l v : Nat} (hl : l < 8) (hv : v ∈ winsOf c) (u : State)
    (hu : u = (winsOf c).foldl (fun s w => s.resetLayer w l) s) :
    u.g (F.REG_LSTATUS_RESET_ACTIVE v l) = 0 ∧ u.g (F.REG_LCTRL_LAY_RESET v l) = 0 ∧ u.g (F.REG_LREFRESH_INTERVAL_US v l) = 32000
    ∧ u.g (F.REG_LCE_COUNT_COUNT v l) = s.g (F.REG_LCE_COUNT_COUNT v l)
    ∧ u.g (F.REG_LCTRL_BANK_QUOTA v l) = if planQuotaOf s.plan v l = 0 then 8 else planQuotaOf s.plan v l % 2 ^ 7 := by
  subst hu
  refine ⟨(layReg_resetActive v l).resetLayers hv s, (layReg_layReset v l).resetLayers hv s, (layReg_intervalUs v l).resetLayers hv s,
    g_resetLayers_ne _ s (show 0 < 64 by decide) (fun y => ?_) (fun y => ?_) (fun y => ?_), g_resetLayers_quota _ s hl hv⟩
  · simp only [Fld.key, F.REG_LCE_COUNT_COUNT, F.REG_LCTRL_BANK_QUOTA, Dom.code]
    omega
  · simp only [Fld.key, F.REG_LCE_COUNT_COUNT, F.REG_LSTATUS_MODE, Dom.code]
    omega
  · simp [inReset, F.REG_LCE_COUNT_COUNT, Dom.code]

/-! Column resets. -/

/-- The first `n` layers of a window marked as resetting. -/
def markLayers (n : Nat) (s : State) (w : Nat) : State := (List.range n).foldl (fun s l => s.set (F.REG_LSTATUS_RESET_ACTIVE w l) 1) s

/-- Every layer of a column marked as resetting. -/
def markColumn (s : State) (c : Nat) : State := (winsOf c).foldl (markLayers (layersOf c)) s

theorem markColumn_fld (s : State) (c : Nat) : { markColumn s c with fld := s.fld } = s :=
  foldl_fld (winsOf c) (fun t w _ =>
    foldl_fld (g := fun s l => s.set (F.REG_LSTATUS_RESET_ACTIVE w l) 1) (List.range (layersOf c)) (fun _ _ _ => rfl) t) s

theorem g_markColumn_ne (s : State) (c : Nat) {f : Fld} (h : ∀ w l, f.key ≠ (F.REG_LSTATUS_RESET_ACTIVE w l).key) :
    (markColumn s c).g f = s.g f :=
  g_foldl_ne (winsOf c) (fun t w _ => g_foldl_ne (List.range (layersOf c)) (fun u l _ => State.g_set_ne u _ _ _ (h w l)) t) s

theorem g_markLayers (s : State) {n w j : Nat} (hj : j < n) : (markLayers n s w).g (F.REG_LSTATUS_RESET_ACTIVE w j) = 1 :=
  g_foldl_mem (I := fun _ => True) (List.range n) (List.mem_range.2 hj) (fun _ _ _ _ => trivial) (fun u _ => State.g_set_same u _ 1)
    (fun _ l _ _ k => g_mark_keeps w l k) trivial

theorem g_markLayers_keeps {s : State} {v j : Nat} (n w : Nat) (h : s.g (F.REG_LSTATUS_RESET_ACTIVE v j) = 1) :
    (markLayers n s w).g (F.REG_LSTATUS_RESET_ACTIVE v j) = 1 :=
  foldl_keeps (I := fun s => s.g (F.REG_LSTATUS_RESET_ACTIVE v j) = 1) (List.range n) (fun _ l _ k => g_mark_keeps w l k) h

theorem g_markColumn (s : State) {c v j : Nat} (hv : v ∈ winsOf c) (hj : j < layersOf c) :
    (markColumn s c).g (F.REG_LSTATUS_RESET_ACTIVE v j) = 1 :=
  g_foldl_mem (I := fun _ => True) (winsOf c) hv (fun _ _ _ _ => trivial) (fun t _ => g_markLayers t hj)
    (fun _ w _ _ k => g_markLayers_keeps _ w k) trivial

/-- The column's own fields when its reset is accepted. -/
def colResetSets (c : Nat) : List (Fld × Nat) :=
  [(F.REG_COLRESULT_CODE c, 0), (F.REG_COLCTRL_COL_RESET c, 1), (F.REG_COLSTATUS_IN_RESET c, 1)]

theorem exec_colReset (hs : Settled s) (hm : m = 1 ∨ m = 2) (hf : s.fromMaster m = true) (hc : c ≤ 4)
    (ha : s.g (F.REG_COLSTATUS_IN_RESET c) = 0) (hk : s.colResetOk c = true) :
    exec (.colReset m c) s = .next (markColumn (s.setAll (colResetSets c)) c) := by
  have hr : Refiles s (markColumn (s.setAll (colResetSets c)) c) :=
    (Refiles.of_fld (t := s.setAll (colResetSets c)) rfl).trans (.of_fld (markColumn_fld _ c))
  show execColReset m c s = _
  unfold execColReset
  refine (act_steady ?_ hs ?_).trans (congrArg Host.Outcome.next (if_pos hk))
  · simp [hf, hm, hc, State.on, ha]
  · rw [if_pos hk]
    exact hr.steady

/-- A column reset that is refused. -/
theorem exec_colReset_refused (hs : Settled s) (hm : m = 1 ∨ m = 2) (hf : s.fromMaster m = true) (hc : c ≤ 4)
    (ha : s.g (F.REG_COLSTATUS_IN_RESET c) = 0) (hk : s.colResetOk c = false) :
    exec (.colReset m c) s = .next ((s.set (F.REG_COLRESULT_CODE c) 0x0307).report 0x0307 c 0) := by
  have hk : ¬s.colResetOk c = true := by simp [hk]
  show execColReset m c s = _
  unfold execColReset
  refine (act_steady ?_ hs ?_).trans (congrArg Host.Outcome.next (if_neg hk))
  · simp [hf, hm, hc, State.on, ha]
  · rw [if_neg hk]
    exact (Refiles.set s _ _).steady.trans (Steady.report _ 0x0307 c 0)

theorem colReset_leaves (s : State) (c : Nat) (u : State) (hu : u = markColumn (s.setAll (colResetSets c)) c) :
    u.g (F.REG_COLSTATUS_IN_RESET c) = 1 ∧ u.g (F.REG_COLCTRL_COL_RESET c) = 1 ∧ u.g (F.REG_COLRESULT_CODE c) = 0
    ∧ (∀ v ∈ winsOf c, ∀ j < layersOf c, u.g (F.REG_LSTATUS_RESET_ACTIVE v j) = 1) ∧ { u with fld := s.fld } = s := by
  have hd : ((colResetSets c).map fun e => e.1.key).Nodup := by
    simp [colResetSets, Fld.key, F.REG_COLRESULT_CODE, F.REG_COLCTRL_COL_RESET, F.REG_COLSTATUS_IN_RESET, Dom.code]
    omega
  have hg : ∀ e ∈ colResetSets c, u.g e.1 = lowBits e.1.w e.2 := fun e he => by
    rw [hu, g_markColumn_ne, g_setAll_of_mem hd he]
    intro w l
    simp only [colResetSets, List.mem_cons, List.not_mem_nil, or_false] at he
    rcases he with rfl | rfl | rfl <;>
      simp only [Fld.key, F.REG_COLRESULT_CODE, F.REG_COLCTRL_COL_RESET, F.REG_COLSTATUS_IN_RESET, F.REG_LSTATUS_RESET_ACTIVE, Dom.code] <;>
      omega
  refine ⟨hg (F.REG_COLSTATUS_IN_RESET c, 1) (by simp [colResetSets]), hg (F.REG_COLCTRL_COL_RESET c, 1) (by simp [colResetSets]),
    hg (F.REG_COLRESULT_CODE c, 0) (by simp [colResetSets]), fun v hv j hj => ?_, ?_⟩
  · rw [hu, g_markColumn _ hv hj]
  · rw [hu]
    exact congrArg (fun t : State => { t with fld := s.fld }) (markColumn_fld (s.setAll (colResetSets c)) c)

theorem exec_colResetDrained (hs : Settled s) (hd : s.draining c = true) (hh : s.colHeld c = false) :
    exec (.colResetDrained c) s = .next { s with regions := { s.regions with resetting := s.regions.resetting ++ [c] } } := by
  show execColResetDrained c s = _
  unfold execColResetDrained
  exact act_steady (by simp [hd, hh]) hs (Steady.setRegions s _)

theorem exec_colResetDrainTimeout (hs : Settled s) (hd : s.draining c = true) (hh : s.colHeld c = true) :
    exec (.colResetDrainTimeout c) s = .next ((s.dropHeld (fun r => r.win / 64 == c) 0x0306).setRegions fun x =>
      { x with resetting := x.resetting ++ [c] }) := by
  show execColResetDrainTimeout c s = _
  unfold execColResetDrainTimeout
  exact act_steady (by simp [hd, hh]) hs ((dropHeld_steady s _ _).trans (Steady.setRegions _ _))

theorem exec_colResetEnd (hs : Settled s) (hp : s.powered = true) (hc : c ∈ s.regions.resetting) :
    exec (.colResetEnd c) s = .next (s.resetColumn c) := by
  show execColResetEnd c s = _
  unfold execColResetEnd
  refine act_steady (by simp [hp, hc]) hs ?_
  exact ((resetRange_refiles s _ _ _).steady.trans (Steady.setRegions _ _)).trans
    (Refiles.foldl _ (fun t w _ => .foldl _ (fun u l _ => .of_fld (planQuota_fld u w l)) t) _).steady

/-- A column's own registers are at their reset values at its end. -/
theorem g_resetColumn (s : State) (c : Nat) {f : Fld} (hf : f.lo < 64) (hq : ∀ y j, f.key ≠ (F.REG_LCTRL_BANK_QUOTA y j).key)
    (hm : ∀ y, f.key ≠ (F.REG_LSTATUS_MODE y 0).key) (ha : 0x2400000 + c * 0x40000 ≤ f.off)
    (hb : f.off < 0x2400000 + c * 0x40000 + 0x40000) (hd : f.dom = .lay ∨ f.dom = .col) : (s.resetColumn c).g f = f.rst := by
  have hr : inReset [.lay, .col] (0x2400000 + c * 0x40000) (0x2400000 + c * 0x40000 + 0x40000) f = true :=
    inReset_of ha hb (by rcases hd with h | h <;> simp [h])
  refine (g_foldl_ne _ (fun t w _ => g_foldl_ne _ (fun u l _ => g_planQuota_ne u w l (hq w l) (hm w)) t) _).trans ?_
  exact (g_resetRange s _ _ _ hf).trans (if_pos hr)

theorem g_resetColumn_layReg (s : State) {c v j : Nat} {f : Fld} (h : LayReg f v j) (hv : v ∈ winsOf c) (hj : j < 8) :
    (s.resetColumn c).g f = f.rst := by
  have hw : c * 64 ≤ v ∧ v ≤ c * 64 + 63 := by
    have := mem_winsOf hv
    omega
  have h1 : 0x2400000 + v * 0x1000 + j * 0x100 ≤ f.off := h.base
  have h2 : f.off < 0x2400000 + v * 0x1000 + j * 0x100 + 0x100 := h.upto
  have ha : 0x2400000 + c * 0x40000 ≤ f.off := by omega
  have hb : f.off < 0x2400000 + c * 0x40000 + 0x40000 := by linarith
  exact g_resetColumn s c h.lo h.key_ne_quota h.key_ne_mode ha hb (.inl h.dom)

theorem resetColumn_regions (s : State) (c : Nat) : (s.resetColumn c).regions = { s.regions with
    resetting := s.regions.resetting.filter (· != c), hops := s.regions.hops.filter fun e => e.1 / 8 != c } :=
  (Refiles.foldl _ (fun t w _ => .foldl _ (fun u l _ => .of_fld (planQuota_fld u w l)) t) _).regions

theorem resetColumn_mem (s : State) (c : Nat) : (s.resetColumn c).mem = s.mem :=
  (Refiles.foldl _ (fun t w _ => .foldl _ (fun u l _ => .of_fld (planQuota_fld u w l)) t) _).mem

theorem colResetEnd_leaves (s : State) (c : Nat) (u : State) (hu : u = s.resetColumn c) :
    u.g (F.REG_COLSTATUS_IN_RESET c) = 0 ∧ u.g (F.REG_COLSTATUS_HOP_FAILED c) = 0
    ∧ u.g (F.REG_COLCTRL_COL_RESET c) = 0 ∧ c ∉ u.regions.resetting ∧ SameMem s u
    ∧ ∀ v ∈ winsOf c, ∀ j < layersOf c, u.g (F.REG_LSTATUS_RESET_ACTIVE v j) = 0 ∧ u.g (F.REG_LSTATUS_REFRESH_BAND v j) =
      (F.REG_LSTATUS_REFRESH_BAND v j).rst := by
  have hg {f : Fld} (hf : f.lo < 64) (hd : f.dom = .col) (hk : f.off = 0x2400800 + 0x40000 * c ∨ f.off = 0x2400808 + 0x40000 * c) :
      u.g f = f.rst := by
    rw [hu]
    refine g_resetColumn s c hf (fun y j => ?_) (fun y => ?_) (by omega) (by omega) (.inr hd) <;>
      simp only [Fld.key, F.REG_LCTRL_BANK_QUOTA, F.REG_LSTATUS_MODE, hd, Dom.code] <;> omega
  refine ⟨hg (show 31 < 64 by decide) rfl (.inr rfl), hg (show 0 < 64 by decide) rfl (.inr rfl),
    hg (show 0 < 64 by decide) rfl (.inl rfl), ?_, fun x => ?_, fun v hv j hj => ?_⟩
  · rw [hu, resetColumn_regions]
    simp
  · rw [hu, resetColumn_mem]
  · have hj : j < 8 := hj.trans_le (layersOf_le c)
    rw [hu]
    exact ⟨g_resetColumn_layReg s (layReg_resetActive v j) hv hj, g_resetColumn_layReg s (layReg_refreshBand v j) hv hj⟩
end

/-- Settles O27: each command's next state is written out once; the registers, held requests and memory are then read off it. -/
theorem memoryResetsAct : Obligations.MemoryResetsAct := by
  unfold Obligations.MemoryResetsAct
  intro m w l c s ends quota hp hs
  refine ⟨fun hm hf hl ha => ?_, fun hl ha hc => ?_, fun hm hf hc ha => ⟨fun hk => ?_, exec_colReset_refused hs hm hf hc ha⟩,
    exec_colResetDrained hs, fun hd hh => ?_, fun hr _ => ?_⟩
  · exact ⟨_, exec_layReset hs hm hf hl ha, layReset_leaves s w l _ rfl⟩
  · have hl' : l < 8 := by
      simp only [layerThere, Bool.and_eq_true, decide_eq_true_eq] at hl
      exact hl.2.trans_le (layersOf_le _)
    have hr : Refiles s ((winsOf c).foldl (fun s w => s.resetLayer w l) s) := .foldl _ (fun t y _ => resetLayer_refiles t y l) s
    exact ⟨_, exec_layResetEnd hs hp hl ha hc, fun x => by rw [hr.mem], fun v hv => layResetEnd_leaves s hl' hv _ rfl⟩
  · exact ⟨_, exec_colReset hs hm hf hc ha hk, colReset_leaves s c _ rfl⟩
  · refine ⟨_, exec_colResetDrainTimeout hs hd hh, ⟨?_, ?_⟩, ?_, fun x => ?_⟩
    · simp [State.setRegions, dropHeld_regions]
    · simp [State.setRegions, dropHeld_outbox]
    · simp [State.setRegions, dropHeld_regions]
    · simp [State.setRegions, dropHeld_mem]
  · exact ⟨_, exec_colResetEnd hs hp hr, colResetEnd_leaves s c _ rfl⟩

end Sys2Proof.Machine
end

section
/-!
Reports, DOE answers and the sideband (O48): the bytes of the attestation report by their places, the security error log, and BAR0 writes of
master 3.
-/
namespace Sys2Proof.Machine

/-! Pieces of a byte string by their places. -/

/-- The bytes `l` stand in `b` from byte `off`. -/
def At (b : List Byte) (off : Nat) (l : List Byte) : Prop := l <+: b.drop off

theorem length_sliceBytes (l : List Byte) (off len : Nat) : (sliceBytes l off len).length = len := by
  simp only [sliceBytes, List.length_append, List.length_take, List.length_replicate]
  omega

theorem leNat_leBytes (n v : Nat) : leNat (leBytes n v) = v % 2 ^ (8 * n) := by
  induction n generalizing v with
  | zero => simp [leBytes, leNat, Nat.mod_one]
  | succ n ih =>
    rw [leBytes, leNat, ih, show 2 ^ (8 * (n + 1)) = 256 * 2 ^ (8 * n) by ring, Nat.mod_mul]
    rfl

namespace At
variable {b m l x z : List Byte} {off o n k : Nat}

theorem sliceBytes (h : At b off l) : sliceBytes b off l.length = l := by
  rw [Machine.sliceBytes, ← List.prefix_iff_eq_take.1 h]
  simp

theorem leAt {v : Nat} (h : At b off (leBytes n v)) : leAt b off n = v % 2 ^ (8 * n) := by
  have e := h.sliceBytes
  rw [length_leBytes] at e
  rw [Machine.leAt, e, leNat_leBytes]

theorem append_right (x : List Byte) (h : At z off l) : At (x ++ z) (x.length + off) l := by
  rw [At, List.drop_length_add_append]
  exact h

theorem trans (h : At b off m) (k : At m o l) : At b (off + o) l := by
  obtain ⟨z, e⟩ := h
  rw [At, ← List.drop_drop, ← e, List.drop_append]
  exact List.IsPrefix.trans k (List.prefix_append _ _)

/-- A part of a string put together of parts stands where those before it end. -/
theorem part {ps : List (List Byte)} {ls : List Nat} (h : ps.map List.length = ls) (hk : ps[k]? = some l) :
    At ps.flatten (ls.take k).sum l := by
  induction ps generalizing k ls with
  | nil => simp at hk
  | cons p ps ih =>
    subst h
    cases k with
    | zero =>
      obtain rfl : p = l := by simpa using hk
      exact List.prefix_append _ _
    | succ k =>
      have := append_right p (ih rfl (by simpa using hk))
      simpa using this

/-- As many parts of one length each. -/
theorem flatMap {f : Nat → List Byte} {w : Nat} (hw : ∀ i, (f i).length = w) (hk : k < n) :
    At ((List.range n).flatMap f) (w * k) (f k) := by
  have h := part (ps := (List.range n).map f) (ls := List.replicate n w) (k := k) (l := f k)
    (by simp [Function.comp_def, hw, List.map_const']) (by simp [hk])
  rw [List.take_replicate, List.sum_replicate, smul_eq_mul, Nat.min_eq_left hk.le, Nat.mul_comm] at h
  exact h
end At

/-! The attestation report (R446). -/

/-- The fields of the report in their order. -/
def reportParts (s : State) (nonce : List Byte) : List (List Byte) :=
  [bytesOf [0x5A, 0x4B, 0x41, 0x52], leBytes 2 1, leBytes 2 0, leBytes 8 s.serial, nonce, leBytes 8 s.time,
    leBytes 8 (s.g F.STEP_COMMITTED_NUMBER), leBytes 8 (s.g (F.CFG_RUN_ID_RUN_ID 0)), leBytes 8 (s.g (F.CFG_RUN_ID_RUN_ID 1)),
    (List.range 4).flatMap fun k => leBytes 8 (s.g (F.CFG_ACTIVE_DIGEST_DIGEST k)),
    leBytes 4 (if s.boot == bootRUNNING then s.g F.SEC_SVN_FW_SVN else 0), leBytes 4 (s.g F.SEC_SVN_MIN_SVN),
    leBytes 4 (s.g F.SEC_STATUS_TRIAL + 2 * bit (s.boot == bootRECOVERY) + 16 * s.g F.SEC_STATUS_REVOKED),
    leBytes 4 ((s.sec.keys.zipIdx).foldl (fun n e => if e.1.isSome then n + 2 ^ e.2 else n) 0),
    (List.range 8).flatMap fun i => (List.range 4).flatMap fun k => leBytes 8 (s.g (F.SEC_MEAS_VALUE i k))]

theorem reportBody_eq (s : State) (nonce : List Byte) : s.reportBody nonce = (reportParts s nonce).flatten := by
  simp only [State.reportBody, reportParts, List.flatten_cons, List.flatten_nil, List.append_nil, List.append_assoc]

theorem length_flatMap_range {f : Nat → List Byte} {w : Nat} (hw : ∀ i, (f i).length = w) (n : Nat) :
    ((List.range n).flatMap f).length = n * w := by simp [List.length_flatMap, hw]

theorem length_reportParts (s : State) {nonce : List Byte} (h : nonce.length = 32) :
    (reportParts s nonce).map List.length = [4, 2, 2, 8, 32, 8, 8, 8, 8, 32, 4, 4, 4, 4, 256] := by
  have h8 : ∀ f : Nat → Nat, ∀ k, (leBytes 8 (f k)).length = 8 := fun f k => length_leBytes 8 _
  simp [reportParts, length_leBytes, length_flatMap_range (h8 _), length_flatMap_range (fun i => length_flatMap_range (h8 _) 4), h, bytesOf]

/-- Each field of the report stands at the place that R446 gives it. -/
theorem reportBody_at (s : State) {nonce l : List Byte} (h : nonce.length = 32) {k : Nat} (hk : (reportParts s nonce)[k]? = some l) :
    At (s.reportBody nonce) (([4, 2, 2, 8, 32, 8, 8, 8, 8, 32, 4, 4, 4, 4, 256].take k).sum) l := by
  rw [reportBody_eq]
  exact At.part (length_reportParts s h) hk

theorem length_reportBody (s : State) {nonce : List Byte} (h : nonce.length = 32) : (s.reportBody nonce).length = 384 := by
  rw [reportBody_eq, List.length_flatten, length_reportParts s h]
  rfl

theorem reportBody_reads (s : State) {nonce : List Byte} (h : nonce.length = 32) (b : List Byte) (hb : b = s.reportBody nonce) :
    b.take 4 = [0x5A, 0x4B, 0x41, 0x52] ∧ leAt b 4 2 = 1 ∧ leAt b 8 8 = s.serial % 2 ^ 64
    ∧ sliceBytes b 16 32 = nonce ∧ leAt b 48 8 = s.time % 2 ^ 64 ∧ leAt b 56 8 = s.g F.STEP_COMMITTED_NUMBER % 2 ^ 64
    ∧ (∀ k < 2, leAt b (64 + 8 * k) 8 = s.g (F.CFG_RUN_ID_RUN_ID k) % 2 ^ 64)
    ∧ (∀ k < 4, leAt b (80 + 8 * k) 8 = s.g (F.CFG_ACTIVE_DIGEST_DIGEST k) % 2 ^ 64)
    ∧ leAt b 116 4 = s.g F.SEC_SVN_MIN_SVN % 2 ^ 32
    ∧ ∀ i < 8, ∀ k < 4, leAt b (128 + 32 * i + 8 * k) 8 = s.g (F.SEC_MEAS_VALUE i k) % 2 ^ 64 := by
  subst hb
  have hm : At (s.reportBody nonce) 0 (bytesOf [0x5A, 0x4B, 0x41, 0x52]) := reportBody_at s h (k := 0) rfl
  have hn : At (s.reportBody nonce) 16 nonce := reportBody_at s h (k := 4) rfl
  have hd : At (s.reportBody nonce) 80 ((List.range 4).flatMap fun k => leBytes 8 (s.g (F.CFG_ACTIVE_DIGEST_DIGEST k))) :=
    reportBody_at s h (k := 9) rfl
  have hv : At (s.reportBody nonce) 128
      ((List.range 8).flatMap fun i => (List.range 4).flatMap fun k => leBytes 8 (s.g (F.SEC_MEAS_VALUE i k))) :=
    reportBody_at s h (k := 14) rfl
  refine ⟨(List.prefix_iff_eq_take.1 hm).symm, (reportBody_at s h (k := 1) rfl : At _ 4 (leBytes 2 1)).leAt,
    (reportBody_at s h (k := 3) rfl : At _ 8 (leBytes 8 s.serial)).leAt, ?_,
    (reportBody_at s h (k := 5) rfl : At _ 48 (leBytes 8 s.time)).leAt,
    (reportBody_at s h (k := 6) rfl : At _ 56 (leBytes 8 (s.g F.STEP_COMMITTED_NUMBER))).leAt, fun k hk => ?_, fun k hk => ?_,
    (reportBody_at s h (k := 11) rfl : At _ 116 (leBytes 4 (s.g F.SEC_SVN_MIN_SVN))).leAt, fun i hi k hk => ?_⟩
  · have e := hn.sliceBytes
    rwa [h] at e
  · obtain rfl | rfl : k = 0 ∨ k = 1 := by omega
    · exact (reportBody_at s h (k := 7) rfl : At _ 64 (leBytes 8 (s.g (F.CFG_RUN_ID_RUN_ID 0)))).leAt
    · exact (reportBody_at s h (k := 8) rfl : At _ 72 (leBytes 8 (s.g (F.CFG_RUN_ID_RUN_ID 1)))).leAt
  · exact (hd.trans (At.flatMap (fun _ => length_leBytes 8 _) hk)).leAt
  · exact ((hv.trans (At.flatMap (fun _ => length_flatMap_range (fun _ => length_leBytes 8 _) 4) hi)).trans
      (At.flatMap (fun _ => length_leBytes 8 _) hk)).leAt

/-! The security error log. -/

section
variable {s : State}

theorem raise_outbox (s : State) (v : Nat) : ∃ l, (s.raise v).outbox = s.outbox ++ l := by
  have nothing : s.outbox = s.outbox ++ [] := (List.append_nil _).symm
  unfold State.raise State.message State.toHost
  split
  · exact ⟨[], nothing⟩
  · split
    · exact ⟨[], nothing⟩
    · split
      · exact ⟨_, rfl⟩
      · exact ⟨[], nothing⟩

/-- Raising a vector leaves the bits below its own. -/
theorem raise_testBit (s : State) {v i : Nat} (hv : v < 48) (hi : i < v) :
    ((s.raise v).g F.HIF_IRQ_CAUSE_CAUSE).testBit i = (s.g F.HIF_IRQ_CAUSE_CAUSE).testBit i := by
  unfold State.raise
  split
  · rfl
  · next h =>
    obtain ⟨o, m, q, e⟩ := (s.setBit F.HIF_IRQ_CAUSE_CAUSE v true).message_only v
    have hb : (s.setBit F.HIF_IRQ_CAUSE_CAUSE v true).g F.HIF_IRQ_CAUSE_CAUSE = lowBits 48 (s.g F.HIF_IRQ_CAUSE_CAUSE + 2 ^ v) := by
      rw [State.setBit, State.g_set_same, if_neg h, if_pos rfl]
      rfl
    rw [e]
    refine (congrArg (Nat.testBit · i) hb).trans ?_
    rw [testBit_lowBits _ _ _ (hi.trans hv), Nat.add_comm, Nat.testBit_two_pow_add_gt hi]

theorem raise_sets (s : State) {v : Nat} (hv : v < 48) : ((s.raise v).g F.HIF_IRQ_CAUSE_CAUSE).testBit v = true := by
  unfold State.raise
  split
  · next h => exact h
  · obtain ⟨o, m, q, e⟩ := (s.setBit F.HIF_IRQ_CAUSE_CAUSE v true).message_only v
    rw [e]
    exact testBit_setBit_true s hv

/-- The log before its vector is raised: the register file and the reports. -/
def logged (s : State) (code master : Nat) : State :=
  (s.latch F.SEC_ERRLOG_VALID F.SEC_ERRLOG_OVERFLOW [(F.SEC_ERRLOG_MASTER, master), (F.SEC_ERRLOG_CODE, code)]).report code master 0

theorem logSec_eq_raise (s : State) (code master : Nat) : s.logSec code master = (logged s code master).raise 12 := rfl

theorem logged_eq (s : State) (code master : Nat) : ∃ l r, logged s code master = { s with fld := l, reports := r } := by
  obtain ⟨l, e, -⟩ := s.latch_only F.SEC_ERRLOG_VALID F.SEC_ERRLOG_OVERFLOW [(F.SEC_ERRLOG_MASTER, master), (F.SEC_ERRLOG_CODE, code)]
  obtain ⟨l', r, e', -⟩ := State.report_only (s.latch F.SEC_ERRLOG_VALID F.SEC_ERRLOG_OVERFLOW
    [(F.SEC_ERRLOG_MASTER, master), (F.SEC_ERRLOG_CODE, code)]) code master 0
  refine ⟨l', r, e'.trans ?_⟩
  rw [e]

theorem g_latchSec_ne (s : State) (code master : Nat) {f : Fld} (hf : f.lo < 64) (ho : f.off ≠ 0xA0218) :
    (s.latch F.SEC_ERRLOG_VALID F.SEC_ERRLOG_OVERFLOW [(F.SEC_ERRLOG_MASTER, master), (F.SEC_ERRLOG_CODE, code)]).g f = s.g f := by
  have hk {j : Fld} (hl : j.lo < 64) (he : j.off = 0xA0218) : f.key ≠ j.key := Fld.key_ne_of_off hf hl (by rw [he]; exact ho)
  obtain ⟨-, -, hg⟩ := s.latch_only F.SEC_ERRLOG_VALID F.SEC_ERRLOG_OVERFLOW [(F.SEC_ERRLOG_MASTER, master), (F.SEC_ERRLOG_CODE, code)]
  refine hg f (hk (by decide) rfl) (hk (by decide) rfl) fun e he => ?_
  simp only [List.mem_cons, List.not_mem_nil, or_false] at he
  rcases he with rfl | rfl
  · exact hk (show 16 < 64 by decide) rfl
  · exact hk (show 0 < 64 by decide) rfl

/-- A field of another register, but for the count of dropped reports. -/
theorem g_logged_ne (s : State) (code master : Nat) {f : Fld} (hf : f.lo < 64) (ho : f.off ≠ 0xA0218) (hd : f.off ≠ 0xA0210) :
    (logged s code master).g f = s.g f := by
  obtain ⟨-, -, -, hg⟩ := State.report_only (s.latch F.SEC_ERRLOG_VALID F.SEC_ERRLOG_OVERFLOW
    [(F.SEC_ERRLOG_MASTER, master), (F.SEC_ERRLOG_CODE, code)]) code master 0
  exact (hg f (Fld.key_ne_of_off hf (by decide) hd)).trans (g_latchSec_ne s code master hf ho)

theorem g_logSec_ne (s : State) (code master : Nat) {f : Fld} (hf : f.lo < 64) (ho : f.off ≠ 0xA0218) (hd : f.off ≠ 0xA0210)
    (hi : f.off ≠ 0x40010) : (s.logSec code master).g f = s.g f := by
  obtain ⟨-, -, -, -, -, hg⟩ := (logged s code master).raise_only 12
  exact (hg f (Fld.key_ne_of_off hf (by decide) hi)).trans (g_logged_ne s code master hf ho hd)

/-- The first error logged gives its code. -/
theorem g_logSec_code (s : State) (code master : Nat) (h : s.g F.SEC_ERRLOG_VALID = 0) :
    (s.logSec code master).g F.SEC_ERRLOG_CODE = code % 2 ^ 16 := by
  obtain ⟨-, -, -, -, -, hg⟩ := (logged s code master).raise_only 12
  obtain ⟨-, -, -, hg'⟩ := State.report_only (s.latch F.SEC_ERRLOG_VALID F.SEC_ERRLOG_OVERFLOW
    [(F.SEC_ERRLOG_MASTER, master), (F.SEC_ERRLOG_CODE, code)]) code master 0
  refine (hg _ (by decide)).trans ((hg' _ (by decide)).trans ?_)
  rw [State.latch, if_neg (by simp [State.on, h])]
  exact State.g_set_same _ F.SEC_ERRLOG_CODE code

theorem logSec_testBit (s : State) (code master : Nat) {i : Nat} (hi : i < 12) :
    ((s.logSec code master).g F.HIF_IRQ_CAUSE_CAUSE).testBit i = (s.g F.HIF_IRQ_CAUSE_CAUSE).testBit i := by
  rw [logSec_eq_raise, raise_testBit _ (by decide) hi, g_logged_ne s code master (by decide) (by decide) (by decide)]

theorem logSec_outbox (s : State) (code master : Nat) : ∃ l, (s.logSec code master).outbox = s.outbox ++ l := by
  obtain ⟨l, e⟩ := raise_outbox (logged s code master) 12
  obtain ⟨f, r, e'⟩ := logged_eq s code master
  exact ⟨l, e.trans (by rw [e'])⟩

theorem logSec_sec (s : State) (code master : Nat) : (s.logSec code master).sec = s.sec := by
  obtain ⟨l, o, m, q, e, -⟩ := (logged s code master).raise_only 12
  obtain ⟨f, r, e'⟩ := logged_eq s code master
  rw [logSec_eq_raise, e, e']

theorem raise_reports (s : State) (v : Nat) : (s.raise v).reports = s.reports := by
  obtain ⟨l, o, m, q, e, -⟩ := s.raise_only v
  rw [e]

theorem raise_sec (s : State) (v : Nat) : (s.raise v).sec = s.sec := by
  obtain ⟨l, o, m, q, e, -⟩ := s.raise_only v
  rw [e]

/-- While the core runs, every error is reported. -/
theorem report_reports {s : State} (h : s.g F.SEC_STATUS_BOOT ≠ 0) (code unit detail : Nat) :
    (s.report code unit detail).reports.length = s.reports.length + 1 := by
  rw [State.report, if_neg (by simp [h])]
  simp

theorem logSec_reports (s : State) (code master : Nat) (h : s.boot ≠ bootROM) :
    (s.logSec code master).reports.length = s.reports.length + 1 := by
  obtain ⟨l, e, -⟩ := s.latch_only F.SEC_ERRLOG_VALID F.SEC_ERRLOG_OVERFLOW [(F.SEC_ERRLOG_MASTER, master), (F.SEC_ERRLOG_CODE, code)]
  have hb := g_latchSec_ne s code master (f := F.SEC_STATUS_BOOT) (by decide) (by decide)
  rw [logSec_eq_raise, raise_reports, logged, report_reports (fun k => h (hb.symm.trans k)), e]
end

/-! DOE (R445, R446). -/

section
variable {s : State} {r : DoeReq}

theorem doeRow_rom (hs : Settled s) (hl : s.hostLive = true) (hb : s.boot = bootROM) :
    doeRow r s = .next { s with sec := { s.sec with asked := s.sec.asked ++ [r] } } := by
  unfold doeRow
  refine (act_steady hl hs ?_).trans (congrArg Host.Outcome.next (if_pos hb))
  rw [if_pos hb]
  exact ⟨rfl, rfl⟩

theorem Steady.doeRefuse (s : State) : Steady s s.doeRefuse := (Steady.logSec s _ _).trans (.emit _ _)

theorem Steady.doeAnswer (s : State) (r : DoeReq) : Steady s (s.doeAnswer r) := by
  cases r with
  | discovery => exact .emit s _
  | cert => exact .ite (.doeRefuse s) (.emit s _)
  | attest => exact .ite (.doeRefuse s) (.emit s _)

theorem doeRow_running (hs : Settled s) (hl : s.hostLive = true) (hb : s.boot ≠ bootROM) :
    doeRow r s = .next (s.wakeCore.doeAnswer r) := by
  have hw : Steady s s.wakeCore := ⟨rfl, rfl⟩
  unfold doeRow
  refine (act_steady hl hs ?_).trans (congrArg Host.Outcome.next (if_neg hb))
  rw [if_neg hb]
  exact hw.trans (.doeAnswer _ _)

/-- A malformed request's answer, and what the log shows of it. -/
theorem doeRefuse_leaves (s : State) : Sends s s.wakeCore.doeRefuse (.doe [0x0E, 0x0A, 0, 0])
    ∧ (s.g F.SEC_ERRLOG_VALID = 0 → s.wakeCore.doeRefuse.g F.SEC_ERRLOG_CODE = 0x0A0E) := by
  obtain ⟨l, e⟩ := logSec_outbox s.wakeCore 0x0A0E 1
  refine ⟨⟨l ++ [.doe [0x0E, 0x0A, 0, 0]], ?_, by simp⟩, fun h => g_logSec_code s.wakeCore 0x0A0E 1 h⟩
  rw [← List.append_assoc]
  exact congrArg (· ++ [Out.doe [0x0E, 0x0A, 0, 0]]) e

theorem op_of_doeForm {op : Nat} {request : List Byte} (h : doeForm op request = true) : request.length = 40 ∧ leAt request 0 1 = op := by
  simp only [doeForm, Bool.and_eq_true, beq_iff_eq] at h
  exact ⟨h.1.1.1, h.1.1.2⟩

theorem exec_getCert {request : List Byte} (h : leAt request 0 1 ≠ 2) (s : State) :
    exec (.getCert request) s = doeRow (.cert request) s := by
  show execGetCert request s = _
  exact if_neg h

theorem exec_attest {request : List Byte} (h : leAt request 0 1 = 2) (s : State) :
    exec (.attest request) s = doeRow (.attest request) s := by
  show execAttest request s = _
  exact if_pos h
end

/-- What the attestation answers to a well-formed request. -/
theorem exec_attest_answers {request : List Byte} {s : State} (hs : Settled s) (hl : s.hostLive = true) (hb : s.boot ≠ bootROM)
    (hf : doeForm 2 request = true) :
    exec (.attest request) s = .next (s.wakeCore.emit (.doe (s.reportBody (sliceBytes request 4 32)
      ++ sliceBytes (Config.edSign (s.reportBody (sliceBytes request 4 32))) 0 64
      ++ sliceBytes (Config.mlSign (s.reportBody (sliceBytes request 4 32))) 0 3309 ++ [0, 0, 0]))) := by
  rw [exec_attest (op_of_doeForm hf).2, doeRow_running hs hl hb]
  exact congrArg Host.Outcome.next (if_neg (by simp [hf]))

theorem exec_attest_refused {request : List Byte} {s : State} (hs : Settled s) (hl : s.hostLive = true) (hb : s.boot ≠ bootROM)
    (ho : leAt request 0 1 = 2) (hf : doeForm 2 request = false) : exec (.attest request) s = .next s.wakeCore.doeRefuse := by
  rw [exec_attest ho, doeRow_running hs hl hb]
  exact congrArg Host.Outcome.next (if_pos (by simp [hf]))

theorem exec_getCert_answers {request : List Byte} {k : Nat} {s : State} (hs : Settled s) (hl : s.hostLive = true) (hb : s.boot ≠ bootROM)
    (hk : leAt request 1 1 = k) (h1 : k ≤ 1) (hf : doeForm 1 request = true) :
    exec (.getCert request) s = .next (s.wakeCore.emit (.doe (padDwords ([0, 0, 0, 0] ++ Config.certificate s.serial k)))) := by
  have ho := (op_of_doeForm hf).2
  subst hk
  rw [exec_getCert (by omega), doeRow_running hs hl hb]
  exact congrArg Host.Outcome.next (if_neg (by simp [hf, h1]))

theorem exec_getCert_refused {request : List Byte} {s : State} (hs : Settled s) (hl : s.hostLive = true) (hb : s.boot ≠ bootROM)
    (ho : leAt request 0 1 ≠ 2) (hf : doeForm 1 request = false ∨ 1 < leAt request 1 1) :
    exec (.getCert request) s = .next s.wakeCore.doeRefuse := by
  rw [exec_getCert ho, doeRow_running hs hl hb]
  exact congrArg Host.Outcome.next (if_pos (by rcases hf with h | h <;> simp [h]))

theorem exec_doeDiscovery_running {index : Nat} {s : State} (hs : Settled s) (hl : s.hostLive = true) (hb : s.boot ≠ bootROM) :
    exec (.doeDiscovery index) s = .next (s.wakeCore.doeAnswer (.discovery index)) := doeRow_running hs hl hb

/-! The error history (R194, R451) and the hourly record (R450). -/

/-- The state once the record of a report stands in the history. -/
def recorded (s : State) (r : Report) (rest : List Report) : State :=
  let s := ({ s with reports := rest }.wakeCore.inc F.NVS_HIST_SEQ_COUNT).traceRec 1 r.unit r.code
  let l : List HistRecord := s.sec.history ++ [⟨s.g F.NVS_HIST_SEQ_COUNT, r⟩]
  { s with sec := { s.sec with history := l.drop (l.length - historyMax) } }

/-- What follows: the interrupt of a memory error, and a failed read-back. -/
def reportEnd (s : State) (code : Nat) (bad : Bool) : State :=
  let s := if code / 256 = 3 then s.raise 6 else s
  if bad then s.logSec 0x0A0C 2 else s

theorem recorded_eq (s : State) (r : Report) (rest : List Report) : ∃ c, recorded s r rest = { s with
    fld := (s.inc F.NVS_HIST_SEQ_COUNT).fld, reports := rest, cap := c, sec := { s.sec with
      rested := false
      history := (s.sec.history ++ [(⟨(s.g F.NVS_HIST_SEQ_COUNT + 1) % 2 ^ 64, r⟩ : HistRecord)]).drop
        (s.sec.history.length + 1 - historyMax) } } := by
  obtain ⟨c, e⟩ := (({ s with reports := rest } : State).wakeCore.inc F.NVS_HIST_SEQ_COUNT).traceRec_only 1 r.unit r.code
  have hg : (({ s with reports := rest } : State).wakeCore.inc F.NVS_HIST_SEQ_COUNT).g F.NVS_HIST_SEQ_COUNT =
      (s.g F.NVS_HIST_SEQ_COUNT + 1) % 2 ^ 64 := State.g_set_same _ _ _
  refine ⟨c, ?_⟩
  unfold recorded
  dsimp only
  rw [e]
  simp only [List.length_append, List.length_singleton]
  rw [← hg]
  rfl

theorem reportEnd_steady (s : State) (code : Nat) (bad : Bool) : Steady s (reportEnd s code bad) := by
  unfold reportEnd
  exact (Steady.ite (.raise s 6) (.refl s)).trans (.ite (.logSec _ _ _) (.refl _))

section
variable (s : State) (code : Nat)

/-- The interrupt of a memory error alone. -/
def memoryRaised (s : State) (code : Nat) : State := if code / 256 = 3 then s.raise 6 else s

theorem reportEnd_bad : reportEnd s code true = (memoryRaised s code).logSec 0x0A0C 2 := rfl
theorem reportEnd_good : reportEnd s code false = memoryRaised s code := rfl

theorem memoryRaised_reports : (memoryRaised s code).reports = s.reports := by
  unfold memoryRaised
  split
  · exact raise_reports s 6
  · rfl

theorem memoryRaised_sec : (memoryRaised s code).sec = s.sec := by
  unfold memoryRaised
  split
  · exact raise_sec s 6
  · rfl

theorem g_memoryRaised_ne {f : Fld} (hi : f.key ≠ F.HIF_IRQ_CAUSE_CAUSE.key) : (memoryRaised s code).g f = s.g f := by
  unfold memoryRaised
  split
  · obtain ⟨-, -, -, -, -, hg⟩ := s.raise_only 6
    exact hg f hi
  · rfl

theorem reportEnd_history (bad : Bool) : (reportEnd s code bad).sec.history = s.sec.history := by
  cases bad with
  | false => rw [reportEnd_good, memoryRaised_sec]
  | true => rw [reportEnd_bad, logSec_sec, memoryRaised_sec]

theorem g_reportEnd_ne (bad : Bool) {f : Fld} (hf : f.lo < 64) (ho : f.off ≠ 0xA0218) (hd : f.off ≠ 0xA0210) (hi : f.off ≠ 0x40010) :
    (reportEnd s code bad).g f = s.g f := by
  have hm := g_memoryRaised_ne s code (Fld.key_ne_of_off (j := F.HIF_IRQ_CAUSE_CAUSE) hf (by decide) hi)
  cases bad with
  | false => exact hm
  | true => exact (g_logSec_ne _ _ _ hf ho hd hi).trans hm

theorem reportEnd_raises {code : Nat} (h : code / 256 = 3) (bad : Bool) :
    ((reportEnd s code bad).g F.HIF_IRQ_CAUSE_CAUSE).testBit 6 = true := by
  have hm : ((memoryRaised s code).g F.HIF_IRQ_CAUSE_CAUSE).testBit 6 = true := by
    rw [memoryRaised, if_pos h]
    exact raise_sets s (by decide)
  cases bad with
  | false => exact hm
  | true => rwa [reportEnd_bad, logSec_testBit _ _ _ (by decide)]

theorem reportEnd_good_reports : (reportEnd s code false).reports = s.reports := memoryRaised_reports s code

theorem reportEnd_bad_reports (hb : s.boot ≠ bootROM) : (reportEnd s code true).reports.length = s.reports.length + 1 := by
  rw [reportEnd_bad, logSec_reports, memoryRaised_reports]
  exact fun h => hb ((g_memoryRaised_ne s code (f := F.SEC_STATUS_BOOT) (by decide)).symm.trans h)

theorem reportEnd_bad_code (h : s.g F.SEC_ERRLOG_VALID = 0) : (reportEnd s code true).g F.SEC_ERRLOG_CODE = 0x0A0C :=
  g_logSec_code _ _ _ ((g_memoryRaised_ne s code (by decide)).trans h)
end

theorem exec_errorReport {s : State} {r : Report} {rest : List Report} (h : s.reports = r :: rest) (hp : s.powered = true)
    (hb : s.boot ≠ bootROM) (bad : Bool) : exec (.errorReport bad) s = .next (reportEnd (recorded s r rest) r.code bad) := by
  have hw : (reportEnd (recorded s r rest) r.code bad).waits = s.waits := by
    obtain ⟨c, e⟩ := recorded_eq s r rest
    rw [(reportEnd_steady _ _ _).waits, e]
  show execErrorReport bad s = _
  unfold execErrorReport
  simp only [h]
  exact doIf_true (by simp [hp, hb]) s _ hw

/-- What the record leaves: its number, its place at the end of the history, the interrupt, and what is left to report. -/
theorem reportEnd_leaves {s : State} {r : Report} {rest : List Report} {bad : Bool} (hb : s.boot ≠ bootROM) {u : State}
    (hu : u = reportEnd (recorded s r rest) r.code bad) :
    u.g F.NVS_HIST_SEQ_COUNT = (s.g F.NVS_HIST_SEQ_COUNT + 1) % 2 ^ 64
    ∧ u.sec.history.getLast? = some ⟨(s.g F.NVS_HIST_SEQ_COUNT + 1) % 2 ^ 64, r⟩
    ∧ u.sec.history.length = min historyMax (s.sec.history.length + 1)
    ∧ (r.code / 256 = 3 → (u.g F.HIF_IRQ_CAUSE_CAUSE).testBit 6 = true)
    ∧ (bad = false → u.reports = rest)
    ∧ (bad = true → u.reports.length = rest.length + 1 ∧ (s.g F.SEC_ERRLOG_VALID = 0 → u.g F.SEC_ERRLOG_CODE = 0x0A0C)) := by
  subst hu
  obtain ⟨c, e⟩ := recorded_eq s r rest
  have hg {f : Fld} (hf : f.key ≠ F.NVS_HIST_SEQ_COUNT.key) : (recorded s r rest).g f = s.g f := by
    rw [e]
    exact State.g_inc_ne s _ f hf
  have hq : (recorded s r rest).g F.NVS_HIST_SEQ_COUNT = (s.g F.NVS_HIST_SEQ_COUNT + 1) % 2 ^ 64 := by
    rw [e]
    exact State.g_set_same s _ _
  have hr : (recorded s r rest).reports = rest := by rw [e]
  have hh := reportEnd_history (recorded s r rest) r.code bad
  refine ⟨(g_reportEnd_ne _ _ _ (by decide) (by decide) (by decide) (by decide)).trans hq, ?_, ?_, fun h3 => reportEnd_raises _ h3 bad,
    fun h => ?_, fun h => ⟨?_, fun hv => ?_⟩⟩
  · rw [hh, e]
    have hl : s.sec.history.length + 1 - historyMax ≤ s.sec.history.length := by
      unfold historyMax
      omega
    simp [List.drop_append_of_le_length hl]
  · rw [hh, e]
    simp only [List.length_drop, List.length_append, List.length_singleton]
    omega
  · rw [h, reportEnd_good_reports, hr]
  · rw [h, reportEnd_bad_reports _ _ ((hg (by decide)).trans_ne hb), hr]
  · rw [h]
    exact reportEnd_bad_code _ _ ((hg (by decide)).trans hv)


/-- The hourly record keeps a register of the store as it reads. -/
theorem exec_hourlyWearRecord {s : State} (hp : s.powered = true) : exec .hourlyWearRecord s = .next { s with
    sec := { s.sec with stored := Sparse.keep storedKey s.fld, rested := false } } := by
  show execHourlyWearRecord s = _
  unfold execHourlyWearRecord
  exact doIf_true hp s _ rfl

theorem get_keep_storedKey {s : State} {f : Fld} (hr : f.rst = 0) (h : storedKey f.key = true) :
    Sparse.get 0 f.key (Sparse.keep storedKey s.fld) = s.g f := by
  rw [State.g, hr]
  exact Sparse.get_filter 0 f.key storedKey s.fld h

theorem storedKey_rosterSerial {k : Nat} (hk : k < 64) : storedKey (F.RING_A_ROSTER_SERIAL k).key = true := by
  have h : keyOff (F.RING_A_ROSTER_SERIAL k).key = 0x50400 + 0x8 * k := keyOff_key (show 0 < 64 by decide)
  simp only [storedKey, h, Bool.or_eq_true, Bool.and_eq_true, decide_eq_true_eq]
  omega

theorem storedKey_damageIndex {c : Nat} (hc : c < 5) : storedKey (F.THM_WEAR_DAMAGE_INDEX c).key = true := by
  have h : keyOff (F.THM_WEAR_DAMAGE_INDEX c).key = 0x91100 + 0x20 * c := keyOff_key (show 0 < 64 by decide)
  simp only [storedKey, h, Bool.or_eq_true, Bool.and_eq_true, decide_eq_true_eq]
  omega

/-! The sideband (R452). -/

section
variable {s : State} {off len : Nat} {data : List Byte}

theorem exec_smbusWrite (hs : Settled s) (hu : s.sidebandUp = true) (hl : data.length = 4 ∨ data.length = 8)
    (h : Steady s.nested (s.nested.writeBar0 3 off data.length (leNat data) ⟨true, []⟩)) :
    exec (.smbusWrite off data true) s = .next (s.within fun s => s.writeBar0 3 off data.length (leNat data) ⟨true, []⟩) := by
  show execSmbusWrite off data true s = _
  unfold execSmbusWrite
  exact act_steady (by simp [hu, hl]) hs (.within h)

/-- A block write whose effect is that of a command does as that command. -/
theorem exec_smbusWrite_cmd (hs : Settled s) (hu : s.sidebandUp = true) (hl : data.length = 4 ∨ data.length = 8) {c : Instr}
    (h : s.nested.writeBar0 3 off data.length (leNat data) ⟨true, []⟩ = afterCmd s.nested (exec c s.nested))
    (hc : Steady s.nested (afterCmd s.nested (exec c s.nested))) :
    exec (.smbusWrite off data true) s = .next (s.within fun w => afterCmd w (exec c w)) := by
  rw [exec_smbusWrite hs hu hl (by rw [h]; exact hc), within_of_steady (by rw [h]; exact hc), within_of_steady hc, h]

/-- One that reaches no register changes nothing. -/
theorem exec_smbusWrite_refused (hs : Settled s) (hu : s.sidebandUp = true) (hl : data.length = 4 ∨ data.length = 8)
    (h : s.reaches 3 off = false ∨ off % data.length ≠ 0) : exec (.smbusWrite off data true) s = .next s := by
  have e : s.nested.writeBar0 3 off data.length (leNat data) ⟨true, []⟩ = s.nested :=
    writeBar0_refused (by rcases h with h | h; exacts [.inl h, .inr (.inl h)]) _ _
  rw [exec_smbusWrite hs hu hl (by rw [e]; exact .refl _), within_of_steady (by rw [e]; exact .refl _), e]
  rfl

theorem exec_smbusWrite_bad (off : Nat) (data : List Byte) (s : State) : exec (.smbusWrite off data false) s = .next s := by
  show execSmbusWrite off data false s = _
  unfold execSmbusWrite act
  exact doIf_false (by simp) s _

theorem exec_smbusRead_bad (off len : Nat) (s : State) : exec (.smbusRead off len false) s = .next s := by
  show execSmbusRead off len false s = _
  unfold execSmbusRead
  exact doIf_false (by simp) s _

theorem exec_smbusRead_refused (hu : s.sidebandUp = true) (hl : len = 4 ∨ len = 8) (h : s.reaches 3 off = false ∨ off % len ≠ 0) :
    exec (.smbusRead off len true) s = .next (s.emit (.smbus (List.replicate len 0))) := by
  have hc : (!s.reaches 3 off || off % len != 0) = true := by rcases h with h | h <;> simp [h]
  have hz : leBytes len 0 = List.replicate len 0 := by rcases hl with rfl | rfl <;> rfl
  show execSmbusRead off len true s = _
  unfold execSmbusRead
  refine (doIf_true (by simp [hu, hl]) s _ ?_).trans (congrArg Host.Outcome.next ?_)
  · rw [if_pos hc]
    rfl
  · rw [if_pos hc, hz]

theorem exec_smbusRead (hu : s.sidebandUp = true) (hl : len = 4 ∨ len = 8) (hr : s.reaches 3 off = true) (ha : off % len = 0)
    (h1 : inFamily 0x30008 32 0x40 off = false) (h2 : inFamily 0x30018 32 0x40 off = false) :
    exec (.smbusRead off len true) s = .next (s.emit (.smbus (leBytes len (s.readBar0 off len)))) := by
  have hc : ¬(!s.reaches 3 off || off % len != 0) = true := by simp [hr, ha]
  show execSmbusRead off len true s = _
  unfold execSmbusRead
  refine (doIf_true (by simp [hu, hl]) s _ ?_).trans (congrArg Host.Outcome.next ?_)
  · rw [if_neg hc]
    simp only [h1, h2, Bool.false_eq_true, if_false]
    rfl
  · rw [if_neg hc]
    simp only [h1, h2, Bool.false_eq_true, if_false]

/-! What the sideband writes of the mailboxes and of the power limit do. -/

theorem reaches_sideband {k : Nat} (hk : k < 32) (s : State) : s.reaches 3 (0x30000 + 0x40 * k) = true := by
  unfold State.reaches
  rw [if_neg (by omega), if_pos rfl]
  simp only [Bool.and_eq_true, beq_iff_eq, Bool.or_eq_true, Bool.not_eq_true', Bool.and_eq_false_iff, decide_eq_false_iff_not]
  omega

/-- A write of a channel's DATA by the board controller is a send on it. -/
theorem writeBar0_channelData_sideband {k : Nat} (hk : k < 32) (s : State) (v : Nat) (e : WriteEnv) :
    s.writeBar0 3 (0x30000 + 0x40 * k) 8 v e = afterCmd s (exec (.mailboxWrite 3 k v) s) := by
  obtain ⟨r, hr, hw, hms, -⟩ := (registerAt_channelData k hk).found
  have hf : inFamily 0x30000 32 0x40 (0x30000 + 0x40 * k) = true := by
    simp only [inFamily, Bool.and_eq_true, decide_eq_true_eq, beq_iff_eq]
    omega
  have hn : (0x30000 + 0x40 * k - 0x30000) / 0x40 = k := by omega
  have hv : execMailboxWrite 3 k (lowBits 64 v) = execMailboxWrite 3 k v := by
    unfold execMailboxWrite
    rw [show lowBits 64 v % 2 ^ 64 = v % 2 ^ 64 from lowBits_lowBits 64 v]
  rw [writeBar0_double (reaches_sideband hk s) (by omega) hr hw]
  unfold State.writeReg
  rw [if_neg (by simp [hms]), if_neg (by omega), if_neg (by omega), if_neg (by omega), if_pos (by omega)]
  simp only [State.writeMbx, hf, hn, hv, if_true]
  rfl

theorem exec_mailboxWrite_mod (m k w : Nat) (s : State) : exec (.mailboxWrite m k (w % 2 ^ 64)) s = exec (.mailboxWrite m k w) s := by
  show execMailboxWrite m k (w % 2 ^ 64) s = execMailboxWrite m k w s
  unfold execMailboxWrite
  rw [Nat.mod_mod]

theorem registerAt_pwrLimit : RegisterAt 0x90000 32 [1, 2, 3] [F.PWR_LIMIT_WATTS] := rfl

theorem writeBar0_pwrLimit {w : Nat} (hw : w < 2 ^ 13) (s : State) (e : WriteEnv) :
    s.writeBar0 3 0x90000 4 w e = afterCmd s (exec (.pwrLimitWrite 3 w) s) := by
  obtain ⟨r, hr, hw32, hms, -⟩ := registerAt_pwrLimit.found
  have hl : lowBits 13 (lowBits 32 w) = w := by
    unfold lowBits
    omega
  rw [writeBar0_word (by rfl) (by rfl) hr, if_pos hw32]
  simp [State.writeReg, hms, State.writePwrSec, hl]
  rfl

theorem Steady.pwrLimitWrite (m w : Nat) (s : State) : Steady s (afterCmd s (exec (.pwrLimitWrite m w) s)) := by
  show Steady s (afterCmd s (execPwrLimitWrite m w s))
  unfold execPwrLimitWrite
  rw [afterCmd_doIf _ ⟨rfl, rfl⟩]
  exact .ite ⟨rfl, rfl⟩ (.refl s)
end

/-- Settles O48: every DOE answer, record and sideband access is written out as its command's next state, and read off there. -/
theorem reportsAndSidebandAnswer : Obligations.ReportsAndSidebandAnswer := by
  unfold Obligations.ReportsAndSidebandAnswer
  intro index off len w k bad request data s t asks
  refine ⟨fun hl hb hs => ?_, fun hl hb hs => ?_, fun r rest h hp hb => ?_, fun hp => ?_, fun hu hs hlen => ?_⟩
  · exact ⟨doeRow_rom hs hl hb, fun ho => (exec_getCert ho s).trans (doeRow_rom hs hl hb),
      fun ho => (exec_attest ho s).trans (doeRow_rom hs hl hb)⟩
  · refine ⟨exec_doeDiscovery_running hs hl hb, exec_doeDiscovery_running hs hl hb, fun hi => ?_,
      exec_getCert_answers hs hl hb, fun ho hf => ⟨_, exec_getCert_refused hs hl hb ho hf, doeRefuse_leaves s⟩, fun hf => ?_,
      fun ho hf => ⟨_, exec_attest_refused hs hl hb ho hf, doeRefuse_leaves s⟩⟩
    · rw [exec_doeDiscovery_running hs hl hb, State.doeAnswer, if_neg (by omega), if_neg (by omega)]
      rfl
    · have hn := length_sliceBytes request 4 32
      exact ⟨_, length_reportBody s hn, exec_attest_answers hs hl hb hf, reportBody_reads s hn _ rfl⟩
  · exact ⟨_, exec_errorReport h hp hb bad, reportEnd_leaves hb rfl⟩
  · exact ⟨_, exec_hourlyWearRecord hp, rfl, rfl, fun k hk => get_keep_storedKey rfl (storedKey_rosterSerial hk),
      fun c hc => get_keep_storedKey rfl (storedKey_damageIndex hc)⟩
  · refine ⟨fun h => ⟨exec_smbusRead_refused hu hlen h, fun hd => ?_⟩, exec_smbusRead hu hlen, fun hk hd => ?_, fun h1 h2 hd => ?_,
      exec_smbusRead_bad off len s, exec_smbusWrite_bad off data s⟩
    · subst hd
      exact exec_smbusWrite_refused hs hu hlen h
    · have hl : data.length = 8 := by rw [hd, length_leBytes]
      refine exec_smbusWrite_cmd hs hu (.inr hl) ?_ (.mailboxWrite 3 k w _)
      rw [hl, writeBar0_channelData_sideband hk, hd, leNat_leBytes]
      rw [show 2 ^ (8 * 8) = 2 ^ 64 from rfl, exec_mailboxWrite_mod]
    · have hl : data.length = 4 := by rw [hd, length_leBytes]
      have hw : leNat data = w := by
        rw [hd, leNat_leBytes]
        omega
      refine exec_smbusWrite_cmd hs hu (.inl hl) ?_ (.pwrLimitWrite 3 w _)
      rw [hl, hw, writeBar0_pwrLimit (by omega)]

end Sys2Proof.Machine
end
